-- ==== Sys2Proof/Word.lean ====
section
/-!
DEFINITION. The word types of the Strelad S8 (spec/00_scope.md R3): byte, half, word and double; an
instruction word has 64 bits.
-/
namespace Sys2Proof

/-- 8 bits (R3). -/
abbrev Byte := BitVec 8
/-- 16 bits (R3). -/
abbrev Half := BitVec 16
/-- 32 bits (R3). -/
abbrev Word := BitVec 32
/-- 64 bits (R3): registers of a set, doubles of memory, instruction words. -/
abbrev Double := BitVec 64

end Sys2Proof
end

