-- ==== Sys2Proof/Syntax.lean ====
section
/-!
DEFINITION. The instructions and events of the Strelad S8: one constructor of `Instr` for each row of
spec/opcode_table.json. The first 171 are the instructions of spec/16_encoding_and_assembly.md R287; the
others are the events in which the part, its firmware, its host and its environment act
(spec/95_what_each_step_holds.md). Field types name what a field means; raw encodings stay in Decode.
-/
namespace Sys2Proof

/-- The specials of R155, operand numbers 80 to 87. -/
inductive Special where
  | tid | gtid | lane | setid | tileid | sweep | ff | zero
  deriving DecidableEq, Repr

/-- An operand (R154, R285): thread register, shared register, thread predicate (q7 included), channel,
predicate channel, set predicate bit, special, loop count. -/
inductive Opd where
  | x (n : BitVec 5)
  | s (n : BitVec 4)
  | q (n : BitVec 3)
  | ch (n : BitVec 3)
  | pc (n : BitVec 3)
  | k (n : BitVec 3)
  | spec (r : Special)
  | lc (n : BitVec 2)
  deriving DecidableEq, Repr

/-- A thread register or a shared register, where an entry admits no other operand. -/
inductive Reg where
  | x (n : BitVec 5)
  | s (n : BitVec 4)
  deriving DecidableEq, Repr

/-- The guard of R277: it holds when q[`q`] differs from `inv`. -/
structure Guard where
  inv : Bool
  q : BitVec 3
  deriving DecidableEq, Repr

/-- The integer types of TY 000 to 011 (R279). -/
inductive ITy where
  | i32 | n32 | i64 | n64
  deriving DecidableEq, Repr

/-- A binary8 format (R137): precision P (1 to 7), unsigned, finite. -/
structure B8 where
  p : BitVec 3
  uns : Bool
  fin : Bool
  deriving DecidableEq, Repr

/-- The types of TY with their modifier bits (R279): a binary8 quad names its format, an 8-bit integer
quad its signedness. -/
inductive Ty where
  | i32 | n32 | i64 | n64 | f32 | bf16
  | b8 (f : B8)
  | q8 (uns : Bool)
  deriving DecidableEq, Repr

/-- Rounding modes (R137). -/
inductive RM where
  | rne | rz | rd | ru
  deriving DecidableEq, Repr

/-- Saturation modes (R137). -/
inductive Sat where
  | max | inf | nan
  deriving DecidableEq, Repr

/-- The packed types of OPC 0x11 (R335). -/
inductive PTy where
  | bf16
  | b8 (f : B8)
  deriving DecidableEq, Repr

/-- The conditions of R340. -/
inductive Cond where
  | eq | ne | lt | le | gt | ge | unord
  deriving DecidableEq, Repr

/-- The ten functions of R341: six signed conditions and four unsigned ones. -/
inductive CondImm where
  | eq | ne | lt | le | gt | ge | ltu | leu | gtu | geu
  deriving DecidableEq, Repr

/-- What pk4 makes (R338): a binary8 quad or an 8-bit integer quad. -/
inductive QuadTy where
  | b8 (f : B8)
  | q8 (uns : Bool)
  deriving DecidableEq, Repr

/-- The source form of pk4 (R338): two f32 values into the low or the high half of C, or two BF16 pairs. -/
inductive Pk4Src where
  | f32 (hi : Bool)
  | bf16
  deriving DecidableEq, Repr

/-- The source types of upk (R338). -/
inductive UpkTy where
  | bf16
  | b8 (f : B8)
  | q8 (uns : Bool)
  deriving DecidableEq, Repr

/-- The source types of pk2 (R338). -/
inductive Pk2Ty where
  | i32 | n32 | f32
  deriving DecidableEq, Repr

/-- SIZE of loads and stores (R281, R296). -/
inductive LdSize where
  | i8 | n8 | i16 | n16 | w32 | d64
  deriving DecidableEq, Repr

/-- SIZE of atomics and reductions (R281). -/
inductive ATy where
  | i32 | n32 | i64 | n64 | f32
  deriving DecidableEq, Repr

/-- The atomic operations of R301. -/
inductive AtomOp where
  | add | min | max | and | or | xor | xchg | cas
  deriving DecidableEq, Repr

/-- The address fields of format M (R281). -/
structure MemRef where
  base : BitVec 4
  ofs : Option (BitVec 5)
  sc : BitVec 2
  ac : BitVec 4
  off : BitVec 20
  deriving DecidableEq, Repr

/-- The common fields of format S (R282): guard, wait queue, post queue, alias class, and, in the
non-blocking form, the predicate that receives success. -/
structure SCom where
  g : Guard
  wq : Option (BitVec 4)
  pq : Option (BitVec 4)
  ac : BitVec 4
  tq : Option (BitVec 3)
  deriving DecidableEq, Repr

/-- Fence scopes (R304). -/
inductive Scope where
  | set | tile | region | device | domain
  deriving DecidableEq, Repr

/-- Control-token subtypes that ch.ctl may push (R351). -/
inductive CtlSub where
  | eoi | eos | drn | probe | sync
  deriving DecidableEq, Repr

/-- A data or predicate channel name (R123). -/
inductive ChName where
  | ch (n : BitVec 3)
  | pc (n : BitVec 3)
  deriving DecidableEq, Repr

/-- The actions of trap.act (R395). -/
inductive TrapOp where
  | resume | skip | retire | cmdResume | cmdAbandon
  deriving DecidableEq, Repr

/-- What cfg.sel selects (R397). -/
inductive PlaneSel where
  | s0 | s1 | none
  deriving DecidableEq, Repr

/-- The supervisor registers of R387. -/
inductive SReg where
  | xctx | xinvcmd | xinvaddr | xfsvc | rfqbase | spmap | setstat
  | eqcnt0 | eqcnt1 | fltcmd | cubegrp | straycmd
  | bkpt (n : BitVec 3)
  | dbgcmd | dbgdata | trgstart | trgstop | trcbase | trcctl | rplbase | rplctl | perturb
  deriving DecidableEq, Repr

/-- The on-die storage units a scrubber visits (R35 UNIT, R240). -/
inductive Unit5 where
  | memoryTile | lvs | acs | operand | pool
  deriving DecidableEq, Repr

/-- Where a single fault takes effect (the rows of R239). -/
inductive FaultSite where
  /-- a 64-byte line of device memory: a correctable error, or one that is not -/
  | device (line : Nat) (correctable : Bool)
  /-- a word or double of on-die storage of a tile, by byte offset -/
  | storage (tile : Nat) (unit : Unit5) (offset : Nat) (correctable : Bool)
  /-- a cube's cells or its operand delivery: the next comparison fails -/
  | cube (tile : Nat)
  /-- a lane datapath, at the instruction that thread `tid` executes -/
  | lane (tile set tid : Nat)
  /-- sequencer state, vectors and thread tables of a set -/
  | sequencer (tile set : Nat)
  /-- a channel buffer, track or free-slot count: reported to the consumer's unit -/
  | channel (chan : Nat)
  /-- a cached translation of a die -/
  | translation (die index : Nat)
  /-- a link: CRC with retry -/
  | link
  /-- a base-die controller or bank-side unit -/
  | base (channel : Nat)
  deriving DecidableEq, Repr

/-- An access that arrives from another node of the domain (R262). -/
inductive Inbound where
  | read (pa size : Nat)
  | write (pa size : Nat) (data : BitVec 64)
  | writeLine (line : Nat) (data : BitVec 512)
  deriving DecidableEq, Repr

/-- The register that a write without a behaviour row of its own names (R6): a double of configuration
space, or a supervisor register of a set reached by system software. -/
inductive RegName where
  | config (offset : Nat)
  | sreg (tile set : Nat) (r : SReg)
  deriving DecidableEq, Repr

/-- One constructor for each row of spec/opcode_table.json. -/
inductive Instr where
  | addInt (g : Guard) (ty : ITy) (d a b : Opd)
  | subInt (g : Guard) (ty : ITy) (d a b : Opd)
  | mulInt (g : Guard) (ty : ITy) (d a b : Opd)
  | mulhi (g : Guard) (ty : ITy) (d a b : Opd)
  | mad (g : Guard) (ty : ITy) (d a b c : Opd)
  | divInt (g : Guard) (ty : ITy) (d a b : Opd)
  | remInt (g : Guard) (ty : ITy) (d a b : Opd)
  | minInt (g : Guard) (ty : ITy) (d a b : Opd)
  | maxInt (g : Guard) (ty : ITy) (d a b : Opd)
  | absInt (g : Guard) (ty : ITy) (d a : Opd)
  | negInt (g : Guard) (ty : ITy) (d a : Opd)
  | adds (g : Guard) (ty : ITy) (d a b : Opd)
  | subs (g : Guard) (ty : ITy) (d a b : Opd)
  | dot4Int (g : Guard) (uns : Bool) (d a b c : Opd)
  | andB (g : Guard) (ty : ITy) (d a b : Opd)
  | orB (g : Guard) (ty : ITy) (d a b : Opd)
  | xorB (g : Guard) (ty : ITy) (d a b : Opd)
  | notB (g : Guard) (ty : ITy) (d a : Opd)
  | andn (g : Guard) (ty : ITy) (d a b : Opd)
  | shl (g : Guard) (ty : ITy) (d a b : Opd)
  | shr (g : Guard) (ty : ITy) (d a b : Opd)
  | sra (g : Guard) (ty : ITy) (d a b : Opd)
  | rotl (g : Guard) (ty : ITy) (d a b : Opd)
  | popc (g : Guard) (ty : ITy) (d a : Opd)
  | clz (g : Guard) (ty : ITy) (d a : Opd)
  | ctz (g : Guard) (ty : ITy) (d a : Opd)
  | brev (g : Guard) (ty : ITy) (d a : Opd)
  | bfe (g : Guard) (ty : ITy) (d a b : Opd)
  | bfi (g : Guard) (ty : ITy) (d a b c : Opd)
  | addImm (g : Guard) (d a : Opd) (imm : BitVec 33)
  | mulImm (g : Guard) (d a : Opd) (imm : BitVec 33)
  | andImm (g : Guard) (d a : Opd) (imm : BitVec 33)
  | orImm (g : Guard) (d a : Opd) (imm : BitVec 33)
  | xorImm (g : Guard) (d a : Opd) (imm : BitVec 33)
  | shlImm (g : Guard) (d a : Opd) (imm : BitVec 33)
  | shrImm (g : Guard) (d a : Opd) (imm : BitVec 33)
  | sraImm (g : Guard) (d a : Opd) (imm : BitVec 33)
  | minImm (g : Guard) (d a : Opd) (imm : BitVec 33)
  | maxImm (g : Guard) (d a : Opd) (imm : BitVec 33)
  | movImm (g : Guard) (d : Opd) (imm : BitVec 33)
  | movhi (g : Guard) (d : Reg) (a : Opd) (imm : BitVec 33)
  | lea (g : Guard) (uns : Bool) (sc : BitVec 2) (d : Reg) (a b : Opd)
  | extLo (g : Guard) (d a : Opd)
  | extHi (g : Guard) (d a : Opd)
  | pack64 (g : Guard) (d : Reg) (a b : Opd)
  | nop (g : Guard)
  | mov (g : Guard) (ty : Ty) (d a : Opd)
  | sel (g : Guard) (ty : Ty) (d a b c : Opd)
  | ffclr (g : Guard) (mask : BitVec 5)
  | addF32 (g : Guard) (sf : Bool) (rm : RM) (d a b : Opd)
  | subF32 (g : Guard) (sf : Bool) (rm : RM) (d a b : Opd)
  | mulF32 (g : Guard) (sf : Bool) (rm : RM) (d a b : Opd)
  | fmaF32 (g : Guard) (sf : Bool) (rm : RM) (d a b c : Opd)
  | fmsF32 (g : Guard) (sf : Bool) (rm : RM) (d a b c : Opd)
  | fnmaF32 (g : Guard) (sf : Bool) (rm : RM) (d a b c : Opd)
  | minF32 (g : Guard) (sf : Bool) (d a b : Opd)
  | maxF32 (g : Guard) (sf : Bool) (d a b : Opd)
  | absF32 (g : Guard) (d a : Opd)
  | negF32 (g : Guard) (d a : Opd)
  | divF32 (g : Guard) (sf : Bool) (rm : RM) (d a b : Opd)
  | sqrtF32 (g : Guard) (sf : Bool) (rm : RM) (d a : Opd)
  | rcpF32 (g : Guard) (sf : Bool) (d a : Opd)
  | rsqrtF32 (g : Guard) (sf : Bool) (d a : Opd)
  | exp2F32 (g : Guard) (sf : Bool) (d a : Opd)
  | log2F32 (g : Guard) (sf : Bool) (d a : Opd)
  | copysignF32 (g : Guard) (d a b : Opd)
  | classF32 (g : Guard) (d a : Opd)
  | rintF32 (g : Guard) (sf : Bool) (rm : RM) (d a : Opd)
  | addPacked (g : Guard) (sf : Bool) (rm : RM) (sat : Sat) (ty : PTy) (d a b : Opd)
  | subPacked (g : Guard) (sf : Bool) (rm : RM) (sat : Sat) (ty : PTy) (d a b : Opd)
  | mulPacked (g : Guard) (sf : Bool) (rm : RM) (sat : Sat) (ty : PTy) (d a b : Opd)
  | fmaPacked (g : Guard) (sf : Bool) (rm : RM) (sat : Sat) (ty : PTy) (d a b c : Opd)
  | minPacked (g : Guard) (sf : Bool) (rm : RM) (sat : Sat) (ty : PTy) (d a b : Opd)
  | maxPacked (g : Guard) (sf : Bool) (rm : RM) (sat : Sat) (ty : PTy) (d a b : Opd)
  | absPacked (g : Guard) (sf : Bool) (rm : RM) (sat : Sat) (ty : PTy) (d a : Opd)
  | negPacked (g : Guard) (sf : Bool) (rm : RM) (sat : Sat) (ty : PTy) (d a : Opd)
  | dot2 (g : Guard) (sf : Bool) (rm : RM) (d a b c : Opd)
  | dot4B8 (g : Guard) (sf : Bool) (rm : RM) (f : B8) (d a b c : Opd)
  | cvt (g : Guard) (sf : Bool) (rm : RM) (sat : Sat) (dty sty : Ty) (d a : Opd)
  | pk2 (g : Guard) (sf : Bool) (rm : RM) (sty : Pk2Ty) (d a b : Opd)
  | pk4 (g : Guard) (sf : Bool) (rm : RM) (sat : Sat) (dty : QuadTy) (src : Pk4Src) (d a b c : Opd)
  | upk (g : Guard) (ty : UpkTy) (e : BitVec 2) (d a : Opd)
  | scl (g : Guard) (sf : Bool) (rm : RM) (d a b : Opd)
  | bscale (g : Guard) (f : B8) (d a : Opd)
  | cmp (g : Guard) (sf : Bool) (cond : Cond) (ty : Ty) (d a b : Opd)
  | cmpImm (g : Guard) (cond : CondImm) (d a : Opd) (imm : BitVec 33)
  | pAnd (g : Guard) (d a b : Opd)
  | pOr (g : Guard) (d a b : Opd)
  | pXor (g : Guard) (d a b : Opd)
  | pNot (g : Guard) (d a : Opd)
  | pAndn (g : Guard) (d a b : Opd)
  | pMov (g : Guard) (d a : Opd)
  | ldDev (g : Guard) (size : LdSize) (data : Reg) (m : MemRef)
  | ldAcqDev (g : Guard) (size : LdSize) (data : Reg) (m : MemRef)
  | ldLoc (g : Guard) (size : LdSize) (data : Reg) (m : MemRef)
  | ldAcqLoc (g : Guard) (size : LdSize) (data : Reg) (m : MemRef)
  | stDev (g : Guard) (size : LdSize) (data : Reg) (m : MemRef)
  | stRelDev (g : Guard) (size : LdSize) (data : Reg) (m : MemRef)
  | stLoc (g : Guard) (size : LdSize) (data : Reg) (m : MemRef)
  | stRelLoc (g : Guard) (size : LdSize) (data : Reg) (m : MemRef)
  | atom (g : Guard) (sf : Bool) (op : AtomOp) (ty : ATy) (data : Reg) (m : MemRef)
  | red (g : Guard) (sf : Bool) (op : AtomOp) (ty : ATy) (data : Reg) (m : MemRef)
  | fence (g : Guard) (scope : Scope) (mask : BitVec 16)
  | eqWait (g : Guard) (n : BitVec 4)
  | spill (g : Guard) (a : BitVec 5) (n : BitVec 6)
  | fill (g : Guard) (d : BitVec 5) (n : BitVec 6)
  | strmRd (c : SCom) (port : BitVec 3) (desc : BitVec 4)
  | strmWr (c : SCom) (port : BitVec 3) (desc : BitVec 4)
  | engBar (c : SCom)
  | cpIn (c : SCom) (desc : BitVec 4)
  | cpOut (c : SCom) (desc : BitVec 4)
  | cpLocal (c : SCom) (desc : BitVec 4)
  | cpPush (c : SCom) (port : BitVec 3) (desc : BitVec 4)
  | cpPushz (c : SCom) (port : BitVec 3) (desc : BitVec 4)
  | cpPop (c : SCom) (port : BitVec 3) (desc : BitVec 4)
  | cpPopd (c : SCom) (port : BitVec 3) (desc : BitVec 4)
  | chPush (g : Guard) (tag : BitVec 3) (rel : Bool) (n : BitVec 3) (a : Opd)
  | chPop (g : Guard) (tag : Option (BitVec 3)) (acq : Bool) (d : Opd) (n : BitVec 3)
  | chPeek (g : Guard) (tag : Option (BitVec 3)) (d : Opd) (n : BitVec 3)
  | chTag (g : Guard) (d : Opd) (n : BitVec 3)
  | chCtl (g : Guard) (sub : CtlSub) (dst : ChName) (a : Opd)
  | steer (g : Guard) (inv : Bool) (ty : Ty) (d a p f : Opd)
  | merge (g : Guard) (inv : Bool) (ty : Ty) (d a b p : Opd)
  | amerge (g : Guard) (ty : Ty) (d : Opd) (a b : BitVec 3) (c : Option (BitVec 3))
  | lgen (g : Guard) (d : Option (BitVec 3)) (a : BitVec 3) (st : BitVec 4) (c : Option (BitVec 3))
  | br (g : Guard) (tgt : BitVec 12)
  | brC (g : Guard) (cond : Opd) (tgt other : BitVec 12)
  | exit (g : Guard)
  | exitAbandon (g : Guard)
  | loop (n : BitVec 2) (count : BitVec 19) (last : BitVec 6)
  | loopR (n : BitVec 2) (st : BitVec 4) (last : BitVec 6)
  | thrNew (g : Guard) (d a : Opd) (blk : BitVec 12)
  | grpJoin (g : Guard) (a : Opd)
  | grpLeave (g : Guard) (a : Opd)
  | barSet (g : Guard) (region : Bool) (n : BitVec 5) (a : Opd)
  | barBind (g : Guard) (region : Bool) (n : BitVec 5) (a : Opd)
  | barArrive (g : Guard) (region : Bool) (n : BitVec 5)
  | slotClaim (c : SCom) (first countM1 : BitVec 4)
  | slotFill (c : SCom) (first countM1 : BitVec 4) (chan : Option (BitVec 3)) (desc : BitVec 4)
  | slotRel (c : SCom) (first countM1 : BitVec 4)
  | cubeMm (c : SCom) (desc : BitVec 4)
  | cubeGate (c : SCom) (desc : BitVec 4)
  | cubeSpread (c : SCom) (desc : BitVec 4)
  | cubeFold (c : SCom) (desc : BitVec 4)
  | cubeBind (c : SCom) (gate : Bool) (chI chO : BitVec 3) (desc : BitVec 4)
  | cubeUnbind (c : SCom)
  | acsLd (g : Guard) (d a : Opd) (off : BitVec 16)
  | acsSt (g : Guard) (a b : Opd) (off : BitVec 16)
  | cirConvert (c : SCom) (arr : BitVec 5) (pmask : BitVec 8)
  | cirSched (c : SCom) (arr : BitVec 5) (desc : BitVec 4)
  | cirRun (c : SCom) (arr : BitVec 5)
  | cirRunf (c : SCom) (arr : BitVec 5)
  | cirHalt (c : SCom) (arr : BitVec 5)
  | cirRevert (c : SCom) (arr : BitVec 5)
  | cirPageout (c : SCom) (arr : BitVec 5) (page : BitVec 3) (desc : BitVec 4)
  | cirPagein (c : SCom) (arr : BitVec 5) (page : BitVec 3) (desc : BitVec 4)
  | sregRd (g : Guard) (d : Reg) (a : Opd) (r : SReg)
  | sregWr (g : Guard) (d a b : Opd) (r : SReg)
  | capRd (g : Guard) (d : Reg) (a : Opd) (off : BitVec 16)
  | capWr (g : Guard) (d a b : Opd) (off : BitVec 16)
  | trapRd (g : Guard) (n : BitVec 4)
  | trapAct (g : Guard) (op : TrapOp) (d a : Opd)
  | trapFwd (g : Guard) (d : Opd)
  | cfgSel (g : Guard) (sel : PlaneSel) (other : Bool) (a : Opd)
  | cfgLd (c : SCom) (s1 arm start : Bool) (desc : BitVec 4)
  | preempt (c : SCom) (desc : BitVec 4)
  | restore (c : SCom) (desc : BitVec 4)
  | nmqSub (c : SCom) (desc : BitVec 4)
  | nmqPoll (g : Guard) (d a : Opd)
  | mark (g : Guard) (a : Opd)
  | perfRd (g : Guard) (d : Reg) (n : BitVec 6)
  -- events in which the part acts
  | engineQueueIssue (tile set : Nat)
  | commandRetire (tile set seq : Nat)
  | returnDatum (tile set grp tid : Nat)
  | returnGroupComplete (tile set grp : Nat)
  | translationWalk (walk : Nat)
  | atomicPipelineCycle (tile : Nat)
  | selection (tile set : Nat)
  | eoiForward (tile set : Nat)
  | eosForward (tile set : Nat)
  | drnForward (tile set : Nat)
  | probeArrival (tile set endNo : Nat)
  | syncArrival (tile set endNo : Nat)
  | setCompletion (tile set : Nat)
  | planeSwap (tile : Nat)
  | regionComplete (region : Nat)
  | regionPlacement (launch : Nat)
  | preemptiveLaunch (launch : Nat)
  | preemptionComplete (region : Nat)
  | strayToken (chan : Nat)
  | lullSweep (region : Nat)
  | borderDelivery (chan : Nat)
  | circuitStep (tile arr : Nat)
  | circuitControlForward (tile arr : Nat)
  | conversionComplete (tile arr : Nat)
  | slotClearDone (tile slot : Nat)
  | cubeDigestsComplete (die gid : Nat)
  | cubeStreamFiring (tile : Nat)
  | cubeControlForward (tile : Nat)
  | portNodeInvocation (tile port : Nat)
  | bsuLaunch
  | bsuResume
  | bsuAbort
  | bsuQuery
  | nmqCommandDone
  | bsuNodeFire (channel node : Nat)
  | bsuLoadReturn (channel node : Nat)
  | bsuLinkArrival (channel link : Nat)
  | mitigationEnd (channel bank : Nat)
  | mailboxDelivery (n : BitVec 2)
  | faultDoorbell
  | keyCommandComplete
  | invalidationComplete (tile set : Nat)
  | checkpointDone
  | haltComplete (region : Nat)
  | driftDrain (tile : Nat)
  | gustWalkHop (tile : Nat)
  | treeSync (region : Nat)
  | engineProgress (tile set seq : Nat)
  | tokenArrival (chan : Nat)
  | slotReturn (chan : Nat)
  | bsuStorePerformed (channel node : Nat)
  -- events in which the firmware, the host and the environment act
  | strayDiscardEnd (tile endNo : Nat)
  | strayDiscardAll (tile : Nat)
  | nmqTailWrite (tail : BitVec 6)
  | activationAlert (channel bank : Nat) (bsu : Bool)
  | patrolScrub (line : Nat) (correctable : Option Bool)
  | storageScrub (tile : Nat) (unit : Unit5) (offset : Nat) (correctable : Option Bool)
  | channelNarrow (channel : Nat)
  | channelRetire (channel : Nat)
  | tileHealthClear (tile : Nat)
  | cxlLinkDown (port : Nat)
  | clockSupplyFault
  | peerTimeout (tile set party : Nat)
  | inboundAccess (node : Nat) (acc : Inbound)
  | mailboxWrite (node : Nat) (n : BitVec 2) (data : BitVec 64)
  | powerOnReset
  | recoveryLoad (addr : BitVec 58)
  | keyLoad (keyid : BitVec 12)
  | keyInvalidate (keyid : BitVec 12)
  | xinvAll (tile set : Nat)
  | xinvAsid (tile set : Nat) (asid : BitVec 16)
  | xinvPage (tile set : Nat) (asid : BitVec 16)
  | xinvKeyid (tile set : Nat) (keyid : BitVec 12)
  | xfsvcWrite (tile set : Nat) (v : BitVec 64)
  | checkpointSave
  | checkpointRestore
  | fltResume (tile set tid : Nat)
  | fltSkip (tile set tid : Nat)
  | fltRetire (tile set tid : Nat)
  | fltResumeCommand (tile set seq : Nat)
  | fltAbandonCommand (tile set seq : Nat)
  | fltResumeSet (tile set : Nat)
  | dbgHalt (region : Nat)
  | dbgResume (region : Nat)
  | dbgStep (region : Nat)
  | dbgRead (region : Nat) (space : BitVec 3) (tile : Nat) (adr : BitVec 21)
  | dbgWrite (region : Nat) (space : BitVec 3) (tile : Nat) (adr : BitVec 21)
  | replayDiverge (tile kind elem : Nat)
  | perturbRead (tile set : Nat)
  | enrol (node : Nat)
  | attest
  | setDebug (level : BitVec 2)
  | release
  | powerRequest (st : BitVec 2)
  | boardPowerOff
  | i3cCapWrite (cap : BitVec 16)
  | i3cWake
  | registerWrite (r : RegName) (v : BitVec 64)
  | singleFault (site : FaultSite)
  | regionEnd (region : Nat)
  deriving DecidableEq, Repr

end Sys2Proof
end

