-- ==== Sys2Proof/WellFormed.lean ====
section
/-!
DEFINITION. Which instructions are well formed: the limits that the reference entries put on an
instruction by itself (spec/16 R278 check 3, R285; each clause names its entry). What depends on the set or
the block (a channel end left unbound, a branch target, a loop's end, privilege, set type) is checked when the
instruction executes.
-/
namespace Sys2Proof

/-- Destinations admit neither specials nor loop counts (R285). -/
def Opd.dst : Opd → Bool
  | .spec _ => false
  | .lc _ => false
  | _ => true

/-- The operands of a 64-bit form: an even x register, an s register, zero (R285). -/
def Opd.wide : Opd → Bool
  | .x n => n.toNat % 2 == 0
  | .s _ => true
  | .spec .zero => true
  | _ => false

/-- A 64-bit destination register (R285). -/
def Reg.wide : Reg → Bool
  | .x n => n.toNat % 2 == 0
  | .s _ => true

/-- q0 to q7 or k0 to k7 (R330, R346). -/
def Opd.qk : Opd → Bool
  | .q _ => true
  | .k _ => true
  | _ => false

/-- q, k or pc (R342, R356). -/
def Opd.pred : Opd → Bool
  | .q _ => true
  | .k _ => true
  | .pc _ => true
  | _ => false

/-- A status destination: x, s, q or k (R389). -/
def Opd.status : Opd → Bool
  | .x _ => true
  | .s _ => true
  | .q _ => true
  | .k _ => true
  | _ => false

/-- x, s or zero: targets, offsets and indices (R379, R389, R391). -/
def Opd.xsz : Opd → Bool
  | .x _ => true
  | .s _ => true
  | .spec .zero => true
  | _ => false

/-- x, s or ch: the data operands of the accumulator-store moves (R379). -/
def Opd.xsch : Opd → Bool
  | .x _ => true
  | .s _ => true
  | .ch _ => true
  | _ => false

/-- 64-bit integer types (R320). -/
def ITy.wide : ITy → Bool
  | .i64 => true
  | .n64 => true
  | _ => false

/-- Signed integer types. -/
def ITy.signed : ITy → Bool
  | .i32 => true
  | .i64 => true
  | _ => false

/-- 64-bit type codes (R320). -/
def Ty.wide : Ty → Bool
  | .i64 => true
  | .n64 => true
  | _ => false

/-- A binary8 format code is reserved when P = 0 (R137). -/
def B8.ok (f : B8) : Bool := f.p != 0

def Ty.ok : Ty → Bool
  | .b8 f => f.ok
  | _ => true

def PTy.ok (t : PTy) (sat : Sat) : Bool :=
  match t with
  | .bf16 => sat == .max
  | .b8 f => f.ok

/-- An operand read at the width that a type selects (R320). -/
def Opd.fits (o : Opd) (wide : Bool) : Bool := !wide || o.wide

/-- The shape of an integer or bit operation (R320, R323, R326). -/
def wfInt (ty : ITy) (d : Opd) (srcs : List Opd) : Bool :=
  d.dst && d.fits ty.wide && srcs.all (fun o => o.fits ty.wide)

/-- The width of an immediate form follows D (R280). -/
def wfImm (d a : Opd) : Bool :=
  d.dst && match d with
    | .s _ => a.wide
    | _ => true

/-- The conversions of R337. -/
def cvtPair (dty sty : Ty) : Bool :=
  match sty, dty with
  | .i32, .n32 | .i32, .i64 | .i32, .n64 | .i32, .f32 => true
  | .n32, .i32 | .n32, .i64 | .n32, .n64 | .n32, .f32 => true
  | .i64, .i32 | .i64, .n32 | .i64, .n64 | .i64, .f32 => true
  | .n64, .i32 | .n64, .n32 | .n64, .i64 | .n64, .f32 => true
  | .f32, .i32 | .f32, .n32 | .f32, .i64 | .f32, .n64 => true
  | .b8 f, .b8 h => f.ok && h.ok && f != h
  | .b8 f, .q8 _ => f.ok
  | .q8 _, .b8 h => h.ok
  | .q8 u, .q8 v => u != v
  | _, _ => false

def Ty.isB8 : Ty → Bool
  | .b8 _ => true
  | _ => false

/-- Atomic types by operation (R301). -/
def atomTyOk (op : AtomOp) (ty : ATy) : Bool :=
  match op with
  | .add | .xchg | .cas => true
  | .min | .max => ty == .i32 || ty == .n32 || ty == .f32
  | .and | .or | .xor => ty != .f32

def ATy.wide : ATy → Bool
  | .i64 => true
  | .n64 => true
  | _ => false

/-- DATA of an atomic (R301). -/
def atomDataOk (op : AtomOp) (ty : ATy) (data : Reg) : Bool :=
  match data with
  | .x n =>
    if op == .cas then n.toNat % 2 == 0 && (!ty.wide || n.toNat ≤ 28)
    else !ty.wide || n.toNat % 2 == 0
  | .s n => op != .cas || n.toNat ≤ 14

/-- SC is 00 without an offset register (R297). -/
def MemRef.ok (m : MemRef) : Bool := m.ofs.isSome || m.sc == 0

/-- Commands that make no memory access carry AC = 0 (R316, R365). -/
def SCom.noAc (c : SCom) : Bool := c.ac == 0

/-- Performance counter numbers of R409. -/
def perfOk (n : BitVec 6) : Bool := n.toNat ≤ 0x0C || (0x10 ≤ n.toNat && n.toNat ≤ 0x15)

/-- Format M loads and stores (R297). -/
def wfLdSt (size : LdSize) (data : Reg) (m : MemRef) : Bool :=
  m.ok && (size != .d64 || data.wide)

/-- Data types of steer, merge and amerge: not 64 bits (R356). -/
def wfTok (ty : Ty) : Bool := !ty.wide && ty.ok

/-- G = 1111 is reserved (R277, R278 check 2). -/
def Guard.ok (g : Guard) : Bool := !(g.inv && g.q == 7)

/-- The guard an instruction carries; loops and events carry none and act as under q7 (R277, R348). -/
def Instr.guard : Instr → Guard
  | .addInt g _ _ _ _ | .subInt g _ _ _ _ | .mulInt g _ _ _ _ | .mulhi g _ _ _ _ | .mad g _ _ _ _ _
  | .divInt g _ _ _ _ | .remInt g _ _ _ _ | .minInt g _ _ _ _ | .maxInt g _ _ _ _ | .absInt g _ _ _
  | .negInt g _ _ _ | .adds g _ _ _ _ | .subs g _ _ _ _ | .dot4Int g _ _ _ _ _ | .andB g _ _ _ _
  | .orB g _ _ _ _ | .xorB g _ _ _ _ | .notB g _ _ _ | .andn g _ _ _ _ | .shl g _ _ _ _ | .shr g _ _ _ _
  | .sra g _ _ _ _ | .rotl g _ _ _ _ | .popc g _ _ _ | .clz g _ _ _ | .ctz g _ _ _ | .brev g _ _ _
  | .bfe g _ _ _ _ | .bfi g _ _ _ _ _ | .addImm g _ _ _ | .mulImm g _ _ _ | .andImm g _ _ _ | .orImm g _ _ _
  | .xorImm g _ _ _ | .shlImm g _ _ _ | .shrImm g _ _ _ | .sraImm g _ _ _ | .minImm g _ _ _ | .maxImm g _ _ _
  | .movImm g _ _ | .movhi g _ _ _ | .lea g _ _ _ _ _ | .extLo g _ _ | .extHi g _ _ | .pack64 g _ _ _ | .nop g
  | .mov g _ _ _ | .sel g _ _ _ _ _ | .ffclr g _ | .addF32 g _ _ _ _ _ | .subF32 g _ _ _ _ _
  | .mulF32 g _ _ _ _ _ | .fmaF32 g _ _ _ _ _ _ | .fmsF32 g _ _ _ _ _ _ | .fnmaF32 g _ _ _ _ _ _
  | .minF32 g _ _ _ _ | .maxF32 g _ _ _ _ | .absF32 g _ _ | .negF32 g _ _ | .divF32 g _ _ _ _ _
  | .sqrtF32 g _ _ _ _ | .rcpF32 g _ _ _ | .rsqrtF32 g _ _ _ | .exp2F32 g _ _ _ | .log2F32 g _ _ _
  | .copysignF32 g _ _ _ | .classF32 g _ _ | .rintF32 g _ _ _ _ | .addPacked g _ _ _ _ _ _ _
  | .subPacked g _ _ _ _ _ _ _ | .mulPacked g _ _ _ _ _ _ _ | .fmaPacked g _ _ _ _ _ _ _ _
  | .minPacked g _ _ _ _ _ _ _ | .maxPacked g _ _ _ _ _ _ _ | .absPacked g _ _ _ _ _ _
  | .negPacked g _ _ _ _ _ _ | .dot2 g _ _ _ _ _ _ | .dot4B8 g _ _ _ _ _ _ _ | .cvt g _ _ _ _ _ _ _
  | .pk2 g _ _ _ _ _ _ | .pk4 g _ _ _ _ _ _ _ _ _ | .upk g _ _ _ _ | .scl g _ _ _ _ _ | .bscale g _ _ _
  | .cmp g _ _ _ _ _ _ | .cmpImm g _ _ _ _ | .pAnd g _ _ _ | .pOr g _ _ _ | .pXor g _ _ _ | .pNot g _ _
  | .pAndn g _ _ _ | .pMov g _ _ | .ldDev g _ _ _ | .ldAcqDev g _ _ _ | .ldLoc g _ _ _ | .ldAcqLoc g _ _ _
  | .stDev g _ _ _ | .stRelDev g _ _ _ | .stLoc g _ _ _ | .stRelLoc g _ _ _ | .atom g _ _ _ _ _
  | .red g _ _ _ _ _ | .fence g _ _ | .eqWait g _ | .spill g _ _ | .fill g _ _ | .chPush g _ _ _ _
  | .chPop g _ _ _ _ | .chPeek g _ _ _ | .chTag g _ _ | .chCtl g _ _ _ | .steer g _ _ _ _ _ _
  | .merge g _ _ _ _ _ _ | .amerge g _ _ _ _ _ | .lgen g _ _ _ _ | .br g _ | .brC g _ _ _ | .exit g
  | .exitAbandon g | .thrNew g _ _ _ | .grpJoin g _ | .grpLeave g _ | .barSet g _ _ _ | .barBind g _ _ _
  | .barArrive g _ _ | .acsLd g _ _ _ | .acsSt g _ _ _ | .sregRd g _ _ _ | .sregWr g _ _ _ _ | .capRd g _ _ _
  | .capWr g _ _ _ _ | .trapRd g _ | .trapAct g _ _ _ | .trapFwd g _ | .cfgSel g _ _ _ | .nmqPoll g _ _
  | .mark g _ | .perfRd g _ _ => g
  | .strmRd c _ _ | .strmWr c _ _ | .engBar c | .cpIn c _ | .cpOut c _ | .cpLocal c _ | .cpPush c _ _
  | .cpPushz c _ _ | .cpPop c _ _ | .cpPopd c _ _ | .slotClaim c _ _ | .slotFill c _ _ _ _ | .slotRel c _ _
  | .cubeMm c _ | .cubeGate c _ | .cubeSpread c _ | .cubeFold c _ | .cubeBind c _ _ _ _ | .cubeUnbind c
  | .cirConvert c _ _ | .cirSched c _ _ | .cirRun c _ | .cirRunf c _ | .cirHalt c _ | .cirRevert c _
  | .cirPageout c _ _ _ | .cirPagein c _ _ _ | .cfgLd c _ _ _ _ | .preempt c _ | .restore c _ | .nmqSub c _ => c.g
  | .loop .. | .loopR .. | .engineQueueIssue .. | .commandRetire .. | .returnDatum ..
  | .returnGroupComplete .. | .translationWalk .. | .atomicPipelineCycle .. | .selection .. | .eoiForward ..
  | .eosForward .. | .drnForward .. | .probeArrival .. | .syncArrival .. | .setCompletion .. | .planeSwap ..
  | .regionComplete .. | .regionPlacement .. | .preemptiveLaunch .. | .preemptionComplete .. | .strayToken ..
  | .strayDiscardEnd .. | .strayDiscardAll .. | .lullSweep .. | .borderDelivery .. | .circuitStep ..
  | .circuitControlForward .. | .conversionComplete .. | .slotClearDone .. | .cubeDigestsComplete ..
  | .cubeStreamFiring .. | .cubeControlForward .. | .portNodeInvocation .. | .bsuLaunch | .bsuResume
  | .bsuAbort | .bsuQuery | .nmqCommandDone | .bsuNodeFire .. | .bsuLoadReturn .. | .bsuLinkArrival ..
  | .nmqTailWrite .. | .activationAlert .. | .mitigationEnd .. | .patrolScrub .. | .storageScrub ..
  | .channelNarrow .. | .channelRetire .. | .tileHealthClear .. | .cxlLinkDown .. | .clockSupplyFault
  | .peerTimeout .. | .inboundAccess .. | .mailboxWrite .. | .mailboxDelivery .. | .faultDoorbell
  | .powerOnReset | .recoveryLoad .. | .keyLoad .. | .keyInvalidate .. | .keyCommandComplete | .xinvAll ..
  | .xinvAsid .. | .xinvPage .. | .xinvKeyid .. | .invalidationComplete .. | .xfsvcWrite .. | .checkpointSave
  | .checkpointRestore | .checkpointDone | .fltResume .. | .fltSkip .. | .fltRetire .. | .fltResumeCommand ..
  | .fltAbandonCommand .. | .fltResumeSet .. | .dbgHalt .. | .dbgResume .. | .dbgStep .. | .dbgRead ..
  | .dbgWrite .. | .haltComplete .. | .driftDrain .. | .gustWalkHop .. | .treeSync .. | .replayDiverge ..
  | .perturbRead .. | .enrol .. | .attest | .setDebug .. | .release | .powerRequest .. | .boardPowerOff
  | .i3cCapWrite .. | .i3cWake | .registerWrite .. | .engineProgress .. | .tokenArrival .. | .slotReturn ..
  | .bsuStorePerformed .. | .singleFault .. | .regionEnd .. => ⟨false, 7⟩

/-- The limits of each entry, the guard apart. -/
def Instr.fieldsOk : Instr → Bool
  -- R323: abs and neg take i32 and i64 only
  | .addInt _ ty d a b | .subInt _ ty d a b | .mulInt _ ty d a b | .mulhi _ ty d a b
  | .divInt _ ty d a b | .remInt _ ty d a b | .minInt _ ty d a b | .maxInt _ ty d a b
  | .adds _ ty d a b | .subs _ ty d a b => wfInt ty d [a, b]
  | .mad _ ty d a b c => wfInt ty d [a, b, c]
  | .absInt _ ty d a | .negInt _ ty d a => ty.signed && wfInt ty d [a]
  | .dot4Int _ _ d _ _ _ => d.dst
  -- R326, R327
  | .andB _ ty d a b | .orB _ ty d a b | .xorB _ ty d a b | .andn _ ty d a b
  | .shl _ ty d a b | .shr _ ty d a b | .sra _ ty d a b | .rotl _ ty d a b => wfInt ty d [a, b]
  | .notB _ ty d a | .popc _ ty d a | .clz _ ty d a | .ctz _ ty d a | .brev _ ty d a => wfInt ty d [a]
  | .bfe _ ty d a _ => wfInt ty d [a]
  | .bfi _ ty d a _ c => wfInt ty d [a, c]
  -- R328
  | .addImm _ d a _ | .mulImm _ d a _ | .andImm _ d a _ | .orImm _ d a _ | .xorImm _ d a _
  | .shlImm _ d a _ | .shrImm _ d a _ | .sraImm _ d a _ | .minImm _ d a _ | .maxImm _ d a _ => wfImm d a
  | .movImm _ d _ => d.dst
  | .movhi _ d _ _ => d.wide
  -- R329
  | .lea _ _ _ d a _ => d.wide && a.wide
  | .extLo _ d a | .extHi _ d a => d.dst && a.wide
  | .pack64 _ d _ _ => d.wide
  -- R330, R331
  | .nop _ => true
  | .mov _ ty d a => ty.ok && d.dst && d.fits ty.wide && a.fits ty.wide
  | .sel _ ty d a b c => ty.ok && d.dst && d.fits ty.wide && a.fits ty.wide && b.fits ty.wide && c.qk
  | .ffclr _ mask => mask != 0
  -- R332
  | .addF32 _ _ _ d _ _ | .subF32 _ _ _ d _ _ | .mulF32 _ _ _ d _ _ | .divF32 _ _ _ d _ _ => d.dst
  | .fmaF32 _ _ _ d _ _ _ | .fmsF32 _ _ _ d _ _ _ | .fnmaF32 _ _ _ d _ _ _ => d.dst
  | .minF32 _ _ d _ _ | .maxF32 _ _ d _ _ => d.dst
  | .absF32 _ d _ | .negF32 _ d _ | .classF32 _ d _ => d.dst
  | .sqrtF32 _ _ _ d _ | .rintF32 _ _ _ d _ => d.dst
  | .rcpF32 _ _ d _ | .rsqrtF32 _ _ d _ | .exp2F32 _ _ d _ | .log2F32 _ _ d _ => d.dst
  | .copysignF32 _ d _ _ => d.dst
  -- R335, R336
  | .addPacked _ _ _ sat ty d _ _ | .subPacked _ _ _ sat ty d _ _ | .mulPacked _ _ _ sat ty d _ _
  | .minPacked _ _ _ sat ty d _ _ | .maxPacked _ _ _ sat ty d _ _ => ty.ok sat && d.dst
  | .fmaPacked _ _ _ sat ty d _ _ _ => ty.ok sat && d.dst
  | .absPacked _ _ _ sat ty d _ | .negPacked _ _ _ sat ty d _ => ty.ok sat && d.dst
  | .dot2 _ _ _ d _ _ _ => d.dst
  | .dot4B8 _ _ _ f d _ _ _ => f.ok && d.dst
  -- R337 to R339
  | .cvt _ _ _ sat dty sty d a =>
      cvtPair dty sty && (dty.isB8 || sat == .max) && d.dst && d.fits dty.wide && a.fits sty.wide
  | .pk2 _ _ _ _ d _ _ => d.dst
  | .pk4 _ _ _ sat dty src d _ _ c =>
      d.dst && (match dty with
        | .b8 f => f.ok
        | .q8 _ => sat == .max) && (match src with
        | .f32 _ => true
        | .bf16 => c == .x 0)
  | .upk _ ty e d _ =>
      d.dst && (match ty with
        | .bf16 => e.toNat < 2
        | .b8 f => f.ok
        | .q8 _ => true)
  | .scl _ _ _ d _ _ => d.dst
  | .bscale _ f d _ => f.ok && d.dst
  -- R340 to R342
  | .cmp _ sf _ ty d a b =>
      (match ty with
        | .i32 | .n32 | .i64 | .n64 => !sf
        | .f32 => true
        | _ => false) && d.dst && a.fits ty.wide && b.fits ty.wide
  | .cmpImm _ _ d _ _ => d.dst
  | .pAnd _ d a b | .pOr _ d a b | .pXor _ d a b | .pAndn _ d a b => d.pred && a.pred && b.pred
  | .pNot _ d a | .pMov _ d a => d.pred && a.pred
  -- R297, R301, R303
  | .ldDev _ size data m | .ldAcqDev _ size data m | .ldLoc _ size data m | .ldAcqLoc _ size data m
  | .stDev _ size data m | .stRelDev _ size data m | .stLoc _ size data m | .stRelLoc _ size data m =>
      wfLdSt size data m
  | .atom _ sf op ty data m =>
      m.ok && atomTyOk op ty && atomDataOk op ty data &&
      (!sf || (ty == .f32 && (op == .add || op == .min || op == .max)))
  | .red _ sf op ty data m =>
      m.ok && op != .xchg && op != .cas && atomTyOk op ty && (!ty.wide || data.wide) &&
      (!sf || (ty == .f32 && (op == .add || op == .min || op == .max)))
  -- R304, R306, R164
  | .fence _ _ mask => mask != 0
  | .eqWait _ _ | .spill _ _ _ | .fill _ _ _ => true
  -- R312, R316, R318
  | .strmRd _ _ _ | .strmWr _ _ _ => true
  | .engBar c => c.noAc
  | .cpIn _ _ | .cpOut _ _ | .cpLocal _ _ | .cpPush _ _ _ | .cpPushz _ _ _ | .cpPop _ _ _ | .cpPopd _ _ _ => true
  -- R351
  | .chPush _ tag _ _ _ => tag != 7
  | .chPop _ _ _ d _ | .chPeek _ _ d _ | .chTag _ d _ => d.dst
  | .chCtl _ sub dst a =>
      (match dst with
        | .ch _ => true
        | .pc _ => sub == .eoi || sub == .drn) &&
      (match sub with
        | .eos | .drn => a == .x 0
        | _ => true)
  -- R356, R360
  | .steer _ _ ty d _ p f => wfTok ty && d.dst && p.pred && f.dst
  | .merge _ _ ty d _ _ p => wfTok ty && d.dst && p.pred
  | .amerge _ ty d _ _ _ => wfTok ty && d.dst
  | .lgen _ _ _ _ _ => true
  -- R346 to R348
  | .br _ _ | .exit _ | .exitAbandon _ | .loop _ _ _ | .loopR _ _ _ => true
  | .brC _ cond _ _ => cond.qk
  -- R361 to R363
  | .thrNew _ d _ _ => d.dst
  | .grpJoin _ _ | .grpLeave _ _ => true
  | .barSet _ region n _ | .barBind _ region n _ => !region || n.toNat < 16
  | .barArrive _ region n => !region || n.toNat < 16
  -- R366, R369, R373, R376, R379, R382
  | .slotClaim c first m | .slotRel c first m => c.noAc && first.toNat + m.toNat ≤ 15
  | .slotFill _ first m _ _ => first.toNat + m.toNat ≤ 15
  | .cubeMm _ _ | .cubeGate _ _ | .cubeSpread _ _ | .cubeFold _ _ | .cubeBind _ _ _ _ _ => true
  | .cubeUnbind c => c.noAc
  | .acsLd _ d a _ => d.xsch && a.xsz
  | .acsSt _ a b _ => a.xsz && b.xsch
  | .cirConvert c _ _ => c.noAc
  | .cirSched _ _ _ | .cirPageout _ _ _ _ | .cirPagein _ _ _ _ => true
  | .cirRun c _ | .cirRunf c _ | .cirHalt c _ | .cirRevert c _ => c.noAc
  -- R389, R391, R392, R394 to R398, R401, R404, R405, R407, R409
  | .sregRd _ d a _ => d.wide && a.xsz
  | .sregWr _ d a b _ => d.status && a.xsz && b.wide
  | .capRd _ d a _ => d.wide && a.xsz
  | .capWr _ d a b _ => d.status && a.xsz && b.wide
  | .trapRd _ n => n.toNat ≤ 12
  | .trapAct _ _ d _ => d.status
  | .trapFwd _ d => d.status
  | .cfgSel _ _ other a => other || a == .x 0
  | .cfgLd _ _ _ _ _ | .preempt _ _ | .restore _ _ => true
  | .nmqSub c _ => c.noAc
  | .nmqPoll _ d _ => d.dst
  | .mark _ _ => true
  | .perfRd _ d n => d.wide && perfOk n
  -- events
  | .engineQueueIssue .. | .commandRetire .. | .returnDatum .. | .returnGroupComplete ..
  | .translationWalk .. | .atomicPipelineCycle .. | .selection .. | .eoiForward .. | .eosForward ..
  | .drnForward .. | .probeArrival .. | .syncArrival .. | .setCompletion .. | .planeSwap ..
  | .regionComplete .. | .regionPlacement .. | .preemptiveLaunch .. | .preemptionComplete ..
  | .strayToken .. | .strayDiscardEnd .. | .strayDiscardAll .. | .lullSweep .. | .borderDelivery ..
  | .circuitStep .. | .circuitControlForward .. | .conversionComplete .. | .slotClearDone ..
  | .cubeDigestsComplete .. | .cubeStreamFiring .. | .cubeControlForward .. | .portNodeInvocation ..
  | .bsuLaunch | .bsuResume | .bsuAbort | .bsuQuery | .nmqCommandDone | .bsuNodeFire ..
  | .bsuLoadReturn .. | .bsuLinkArrival .. | .nmqTailWrite .. | .activationAlert .. | .mitigationEnd ..
  | .patrolScrub .. | .storageScrub .. | .channelNarrow .. | .channelRetire .. | .tileHealthClear ..
  | .cxlLinkDown .. | .clockSupplyFault | .peerTimeout .. | .inboundAccess .. | .mailboxWrite ..
  | .mailboxDelivery .. | .faultDoorbell | .powerOnReset | .recoveryLoad .. | .keyLoad ..
  | .keyInvalidate .. | .keyCommandComplete | .xinvAll .. | .xinvAsid .. | .xinvPage .. | .xinvKeyid ..
  | .invalidationComplete .. | .xfsvcWrite .. | .checkpointSave | .checkpointRestore | .checkpointDone
  | .fltResume .. | .fltSkip .. | .fltRetire .. | .fltResumeCommand .. | .fltAbandonCommand ..
  | .fltResumeSet .. | .dbgHalt .. | .dbgResume .. | .dbgStep .. | .dbgRead .. | .dbgWrite ..
  | .haltComplete .. | .driftDrain .. | .gustWalkHop .. | .treeSync .. | .replayDiverge ..
  | .perturbRead .. | .enrol .. | .attest | .setDebug .. | .release | .powerRequest .. | .boardPowerOff
  | .i3cCapWrite .. | .i3cWake | .registerWrite .. | .engineProgress .. | .tokenArrival .. | .slotReturn ..
  | .bsuStorePerformed .. | .singleFault .. | .regionEnd .. => true

/-- An instruction that its own reference entry admits. Events carry no encoding and are always well formed. -/
def Instr.wf (i : Instr) : Bool := i.guard.ok && i.fieldsOk

end Sys2Proof
end

