-- ==== Sys2Proof/Decode.lean ====
section
/-!
DEFINITION. Decoding an instruction word, and the encoder written from the same tables: spec/16
(R277 to R288) and the encoding table of each entry in spec/09 and spec/17 to spec/21. Decoding is total on any
bytes: it gives an instruction or names the check of R278 that refuses the word.
-/
namespace Sys2Proof

/-- Why a word gives no instruction (R278): check 1, checks 2 and 3, or too few bytes for a word. -/
inductive BadWord where
  | illegalOp | reservedField | short
  deriving DecidableEq, Repr

/-- Format A (R279). -/
structure WA where
  opc : BitVec 6
  fn : BitVec 6
  sf : BitVec 1
  g : BitVec 4
  d : BitVec 7
  a : BitVec 7
  b : BitVec 7
  c : BitVec 7
  ty : BitVec 3
  mod : BitVec 16
  deriving DecidableEq, Repr

/-- Format I (R280). -/
structure WI where
  opc : BitVec 6
  fn : BitVec 6
  sf : BitVec 1
  g : BitVec 4
  d : BitVec 7
  a : BitVec 7
  imm : BitVec 33
  deriving DecidableEq, Repr

/-- Format M (R281). -/
structure WM where
  opc : BitVec 6
  fn : BitVec 6
  sf : BitVec 1
  g : BitVec 4
  data : BitVec 7
  base : BitVec 4
  ofs : BitVec 7
  sc : BitVec 2
  ac : BitVec 4
  size : BitVec 3
  off : BitVec 20
  deriving DecidableEq, Repr

/-- Format S (R282). -/
structure WS where
  opc : BitVec 6
  fn : BitVec 6
  sf : BitVec 1
  g : BitVec 4
  port : BitVec 4
  desc : BitVec 4
  wq : BitVec 4
  pq : BitVec 4
  wt : BitVec 1
  pt : BitVec 1
  ac : BitVec 4
  try' : BitVec 1
  tq : BitVec 3
  low : BitVec 21
  deriving DecidableEq, Repr

/-- Format J (R283). -/
structure WJ where
  opc : BitVec 6
  fn : BitVec 6
  sf : BitVec 1
  g : BitVec 4
  tgt : BitVec 12
  tgt2 : BitVec 12
  mode : BitVec 4
  cnt : BitVec 19
  deriving DecidableEq, Repr

/-- The modifier of format A (R279). -/
structure WMod where
  rm : BitVec 2
  sat : BitVec 2
  b8d : BitVec 5
  m6 : BitVec 1
  u : BitVec 1
  b8s : BitVec 5
  deriving DecidableEq, Repr

def WMod.pack (m : WMod) : BitVec 16 := m.rm ++ m.sat ++ m.b8d ++ m.m6 ++ m.u ++ m.b8s

def WMod.of (w : BitVec 16) : WMod :=
  ⟨w.extractLsb' 14 2, w.extractLsb' 12 2, w.extractLsb' 7 5, w.extractLsb' 6 1, w.extractLsb' 5 1,
   w.extractLsb' 0 5⟩

def WA.pack (f : WA) : Double :=
  f.opc ++ f.fn ++ f.sf ++ f.g ++ f.d ++ f.a ++ f.b ++ f.c ++ f.ty ++ f.mod

def WA.of (w : Double) : WA :=
  ⟨w.extractLsb' 58 6, w.extractLsb' 52 6, w.extractLsb' 51 1, w.extractLsb' 47 4, w.extractLsb' 40 7,
   w.extractLsb' 33 7, w.extractLsb' 26 7, w.extractLsb' 19 7, w.extractLsb' 16 3, w.extractLsb' 0 16⟩

def WI.pack (f : WI) : Double := f.opc ++ f.fn ++ f.sf ++ f.g ++ f.d ++ f.a ++ f.imm

def WI.of (w : Double) : WI :=
  ⟨w.extractLsb' 58 6, w.extractLsb' 52 6, w.extractLsb' 51 1, w.extractLsb' 47 4, w.extractLsb' 40 7,
   w.extractLsb' 33 7, w.extractLsb' 0 33⟩

def WM.pack (f : WM) : Double :=
  f.opc ++ f.fn ++ f.sf ++ f.g ++ f.data ++ f.base ++ f.ofs ++ f.sc ++ f.ac ++ f.size ++ f.off

def WM.of (w : Double) : WM :=
  ⟨w.extractLsb' 58 6, w.extractLsb' 52 6, w.extractLsb' 51 1, w.extractLsb' 47 4, w.extractLsb' 40 7,
   w.extractLsb' 36 4, w.extractLsb' 29 7, w.extractLsb' 27 2, w.extractLsb' 23 4, w.extractLsb' 20 3,
   w.extractLsb' 0 20⟩

def WS.pack (f : WS) : Double :=
  f.opc ++ f.fn ++ f.sf ++ f.g ++ f.port ++ f.desc ++ f.wq ++ f.pq ++ f.wt ++ f.pt ++ f.ac ++ f.try' ++
    f.tq ++ f.low

def WS.of (w : Double) : WS :=
  ⟨w.extractLsb' 58 6, w.extractLsb' 52 6, w.extractLsb' 51 1, w.extractLsb' 47 4, w.extractLsb' 43 4,
   w.extractLsb' 39 4, w.extractLsb' 35 4, w.extractLsb' 31 4, w.extractLsb' 30 1, w.extractLsb' 29 1,
   w.extractLsb' 25 4, w.extractLsb' 24 1, w.extractLsb' 21 3, w.extractLsb' 0 21⟩

def WJ.pack (f : WJ) : Double :=
  f.opc ++ f.fn ++ f.sf ++ f.g ++ f.tgt ++ f.tgt2 ++ f.mode ++ f.cnt

def WJ.of (w : Double) : WJ :=
  ⟨w.extractLsb' 58 6, w.extractLsb' 52 6, w.extractLsb' 51 1, w.extractLsb' 47 4, w.extractLsb' 35 12,
   w.extractLsb' 23 12, w.extractLsb' 19 4, w.extractLsb' 0 19⟩

/-! ### Fields -/

def guardDec (g : BitVec 4) : Guard := ⟨g.extractLsb' 3 1 == 1, g.extractLsb' 0 3⟩

def guardEnc (g : Guard) : BitVec 4 := (BitVec.ofBool g.inv) ++ g.q

def specialDec (n : BitVec 3) : Special :=
  match n.toNat with
  | 0 => .tid
  | 1 => .gtid
  | 2 => .lane
  | 3 => .setid
  | 4 => .tileid
  | 5 => .sweep
  | 6 => .ff
  | _ => .zero

def specialEnc : Special → BitVec 3
  | .tid => 0
  | .gtid => 1
  | .lane => 2
  | .setid => 3
  | .tileid => 4
  | .sweep => 5
  | .ff => 6
  | .zero => 7

/-- The operand numbers of R285; 92 to 127 name nothing. -/
def opdDec (n : BitVec 7) : Option Opd :=
  let k := n.toNat
  let low := n.extractLsb' 0 3
  if k < 32 then some (.x (n.extractLsb' 0 5))
  else if k < 48 then some (.s (n.extractLsb' 0 4))
  else if k < 56 then some (.q low)
  else if k < 64 then some (.ch low)
  else if k < 72 then some (.pc low)
  else if k < 80 then some (.k low)
  else if k < 88 then some (.spec (specialDec low))
  else if k < 92 then some (.lc (n.extractLsb' 0 2))
  else none

def opdEnc : Opd → BitVec 7
  | .x n => 0#2 ++ n
  | .s n => 2#3 ++ n
  | .q n => 6#4 ++ n
  | .ch n => 7#4 ++ n
  | .pc n => 8#4 ++ n
  | .k n => 9#4 ++ n
  | .spec r => 10#4 ++ specialEnc r
  | .lc n => 22#5 ++ n

/-- An x or s register (operands 0 to 47). -/
def regDec (n : BitVec 7) : Option Reg :=
  if n.toNat < 32 then some (.x (n.extractLsb' 0 5))
  else if n.toNat < 48 then some (.s (n.extractLsb' 0 4))
  else none

def regEnc : Reg → BitVec 7
  | .x n => 0#2 ++ n
  | .s n => 2#3 ++ n

/-- Operands 0 to 31 (R164). -/
def xDec (n : BitVec 7) : Option (BitVec 5) :=
  if n.toNat < 32 then some (n.extractLsb' 0 5) else none

/-- Operands 56 to 63. -/
def chDec (n : BitVec 7) : Option (BitVec 3) :=
  if 56 ≤ n.toNat ∧ n.toNat < 64 then some (n.extractLsb' 0 3) else none

def chEnc (n : BitVec 3) : BitVec 7 := 7#4 ++ n

/-- Operands 56 to 71: a channel or a predicate channel. -/
def chNameDec (n : BitVec 7) : Option ChName :=
  if n.toNat < 56 then none
  else if n.toNat < 64 then some (.ch (n.extractLsb' 0 3))
  else if n.toNat < 72 then some (.pc (n.extractLsb' 0 3))
  else none

def chNameEnc : ChName → BitVec 7
  | .ch n => 7#4 ++ n
  | .pc n => 8#4 ++ n

/-- Operands 32 to 47. -/
def sDec (n : BitVec 7) : Option (BitVec 4) :=
  if 32 ≤ n.toNat ∧ n.toNat < 48 then some (n.extractLsb' 0 4) else none

def sEnc (n : BitVec 4) : BitVec 7 := 2#3 ++ n

def ityDec (t : BitVec 3) : Option ITy :=
  match t.toNat with
  | 0 => some .i32
  | 1 => some .n32
  | 2 => some .i64
  | 3 => some .n64
  | _ => none

def ityEnc : ITy → BitVec 3
  | .i32 => 0
  | .n32 => 1
  | .i64 => 2
  | .n64 => 3

def b8Dec (f : BitVec 5) : B8 := ⟨f.extractLsb' 2 3, f.extractLsb' 1 1 == 1, f.extractLsb' 0 1 == 1⟩

def b8Enc (f : B8) : BitVec 5 := f.p ++ BitVec.ofBool f.uns ++ BitVec.ofBool f.fin

def rmDec (m : BitVec 2) : RM :=
  match m.toNat with
  | 0 => .rne
  | 1 => .rz
  | 2 => .rd
  | _ => .ru

def rmEnc : RM → BitVec 2
  | .rne => 0
  | .rz => 1
  | .rd => 2
  | .ru => 3

/-- Saturation code 11 is reserved (R137). -/
def satDec (m : BitVec 2) : Option Sat :=
  match m.toNat with
  | 0 => some .max
  | 1 => some .inf
  | 2 => some .nan
  | _ => none

def satEnc : Sat → BitVec 2
  | .max => 0
  | .inf => 1
  | .nan => 2

/-- A type from its code and the modifier bits that qualify it (R279); a bit the type does not name is 0. -/
def tyDec (t : BitVec 3) (u : BitVec 1) (f : BitVec 5) : Option Ty :=
  match t.toNat with
  | 0 => if u = 0 ∧ f = 0 then some .i32 else none
  | 1 => if u = 0 ∧ f = 0 then some .n32 else none
  | 2 => if u = 0 ∧ f = 0 then some .i64 else none
  | 3 => if u = 0 ∧ f = 0 then some .n64 else none
  | 4 => if u = 0 ∧ f = 0 then some .f32 else none
  | 5 => if u = 0 ∧ f = 0 then some .bf16 else none
  | 6 => if u = 0 then some (.b8 (b8Dec f)) else none
  | _ => if f = 0 then some (.q8 (u == 1)) else none

def Ty.code : Ty → BitVec 3
  | .i32 => 0
  | .n32 => 1
  | .i64 => 2
  | .n64 => 3
  | .f32 => 4
  | .bf16 => 5
  | .b8 _ => 6
  | .q8 _ => 7

/-- The signedness bit and the format bits of a type. -/
def Ty.uBit : Ty → BitVec 1
  | .q8 u => BitVec.ofBool u
  | _ => 0

def Ty.fBits : Ty → BitVec 5
  | .b8 f => b8Enc f
  | _ => 0

def sizeDec (s : BitVec 3) : Option LdSize :=
  match s.toNat with
  | 0 => some .i8
  | 1 => some .n8
  | 2 => some .i16
  | 3 => some .n16
  | 4 => some .w32
  | 5 => some .d64
  | _ => none

def sizeEnc : LdSize → BitVec 3
  | .i8 => 0
  | .n8 => 1
  | .i16 => 2
  | .n16 => 3
  | .w32 => 4
  | .d64 => 5

def atyDec (s : BitVec 3) : Option ATy :=
  match s.toNat with
  | 0 => some .i32
  | 1 => some .n32
  | 2 => some .i64
  | 3 => some .n64
  | 4 => some .f32
  | _ => none

def atyEnc : ATy → BitVec 3
  | .i32 => 0
  | .n32 => 1
  | .i64 => 2
  | .n64 => 3
  | .f32 => 4

/-- Supervisor register numbers (R387). -/
def sregDec (n : BitVec 16) : Option SReg :=
  match n.toNat with
  | 0x010 => some .xctx
  | 0x011 => some .xinvcmd
  | 0x012 => some .xinvaddr
  | 0x013 => some .xfsvc
  | 0x014 => some .rfqbase
  | 0x018 => some .spmap
  | 0x019 => some .setstat
  | 0x01A => some .eqcnt0
  | 0x01B => some .eqcnt1
  | 0x01C => some .fltcmd
  | 0x020 => some .cubegrp
  | 0x021 => some .straycmd
  | 0x038 => some .dbgcmd
  | 0x039 => some .dbgdata
  | 0x03A => some .trgstart
  | 0x03B => some .trgstop
  | 0x03C => some .trcbase
  | 0x03D => some .trcctl
  | 0x03E => some .rplbase
  | 0x03F => some .rplctl
  | 0x040 => some .perturb
  | k => if 0x030 ≤ k ∧ k ≤ 0x037 then some (.bkpt (n.extractLsb' 0 3)) else none

def sregEnc : SReg → BitVec 16
  | .xctx => 0x010
  | .xinvcmd => 0x011
  | .xinvaddr => 0x012
  | .xfsvc => 0x013
  | .rfqbase => 0x014
  | .spmap => 0x018
  | .setstat => 0x019
  | .eqcnt0 => 0x01A
  | .eqcnt1 => 0x01B
  | .fltcmd => 0x01C
  | .cubegrp => 0x020
  | .straycmd => 0x021
  | .bkpt n => 6#13 ++ n
  | .dbgcmd => 0x038
  | .dbgdata => 0x039
  | .trgstart => 0x03A
  | .trgstop => 0x03B
  | .trcbase => 0x03C
  | .trcctl => 0x03D
  | .rplbase => 0x03E
  | .rplctl => 0x03F
  | .perturb => 0x040

/-- The address fields of format M; OFS is 0 to 31, or 127 for none (R281). -/
def memDec (f : WM) : Option MemRef :=
  if f.ofs = 127 then some ⟨f.base, none, f.sc, f.ac, f.off⟩
  else (xDec f.ofs).map (fun o => ⟨f.base, some o, f.sc, f.ac, f.off⟩)

def ofsEnc : Option (BitVec 5) → BitVec 7
  | none => 127
  | some n => 0#2 ++ n

/-- The common fields of format S; WQ, PQ and TQ are 0 without their mark (R282). -/
def scomDec (f : WS) : Option SCom :=
  if f.sf = 0 ∧ (f.wt = 1 ∨ f.wq = 0) ∧ (f.pt = 1 ∨ f.pq = 0) ∧ (f.try' = 1 ∨ f.tq = 0) then
    some ⟨guardDec f.g, if f.wt = 1 then some f.wq else none, if f.pt = 1 then some f.pq else none, f.ac,
      if f.try' = 1 then some f.tq else none⟩
  else none

/-! ### The decoder, one function for each OPC -/

/-- `x` when the fields that the entry does not use are 0. -/
def when' (ok : Bool) (x : α) : Option α := if ok then some x else none

def decInt3 (f : WA) (k : Guard → ITy → Opd → Opd → Opd → Instr) : Option Instr := do
  let ty ← ityDec f.ty
  let d ← opdDec f.d
  let a ← opdDec f.a
  let b ← opdDec f.b
  when' (f.sf == 0 && f.c == 0 && f.mod == 0) (k (guardDec f.g) ty d a b)

def decInt2 (f : WA) (k : Guard → ITy → Opd → Opd → Instr) : Option Instr := do
  let ty ← ityDec f.ty
  let d ← opdDec f.d
  let a ← opdDec f.a
  when' (f.sf == 0 && f.b == 0 && f.c == 0 && f.mod == 0) (k (guardDec f.g) ty d a)

def decInt4 (f : WA) (k : Guard → ITy → Opd → Opd → Opd → Opd → Instr) : Option Instr := do
  let ty ← ityDec f.ty
  let d ← opdDec f.d
  let a ← opdDec f.a
  let b ← opdDec f.b
  let c ← opdDec f.c
  when' (f.sf == 0 && f.mod == 0) (k (guardDec f.g) ty d a b c)

/-- OPC 0x01 (R323, R325). -/
def dec01 (f : WA) : Option (Option Instr) :=
  match f.fn.toNat with
  | 0x00 => some (decInt3 f .addInt)
  | 0x01 => some (decInt3 f .subInt)
  | 0x02 => some (decInt3 f .mulInt)
  | 0x03 => some (decInt3 f .mulhi)
  | 0x04 => some (decInt4 f .mad)
  | 0x05 => some (decInt3 f .divInt)
  | 0x06 => some (decInt3 f .remInt)
  | 0x07 => some (decInt3 f .minInt)
  | 0x08 => some (decInt3 f .maxInt)
  | 0x09 => some (decInt2 f .absInt)
  | 0x0A => some (decInt2 f .negInt)
  | 0x0B => some (decInt3 f .adds)
  | 0x0C => some (decInt3 f .subs)
  | 0x0D => some (do
      let d ← opdDec f.d
      let a ← opdDec f.a
      let b ← opdDec f.b
      let c ← opdDec f.c
      let m := WMod.of f.mod
      when' (f.sf == 0 && f.ty == 7 && m == { m with rm := 0, sat := 0, b8d := 0, m6 := 0, b8s := 0 })
        (.dot4Int (guardDec f.g) (m.u == 1) d a b c))
  | _ => none

/-- OPC 0x02 (R326). -/
def dec02 (f : WA) : Option (Option Instr) :=
  match f.fn.toNat with
  | 0x00 => some (decInt3 f .andB)
  | 0x01 => some (decInt3 f .orB)
  | 0x02 => some (decInt3 f .xorB)
  | 0x03 => some (decInt2 f .notB)
  | 0x04 => some (decInt3 f .andn)
  | 0x05 => some (decInt3 f .shl)
  | 0x06 => some (decInt3 f .shr)
  | 0x07 => some (decInt3 f .sra)
  | 0x08 => some (decInt3 f .rotl)
  | 0x09 => some (decInt2 f .popc)
  | 0x0A => some (decInt2 f .clz)
  | 0x0B => some (decInt2 f .ctz)
  | 0x0C => some (decInt2 f .brev)
  | 0x0D => some (decInt3 f .bfe)
  | 0x0E => some (decInt4 f .bfi)
  | _ => none

def decImm (f : WI) (k : Guard → Opd → Opd → BitVec 33 → Instr) : Option Instr := do
  let d ← opdDec f.d
  let a ← opdDec f.a
  when' (f.sf == 0) (k (guardDec f.g) d a f.imm)

/-- OPC 0x03 (R328). -/
def dec03 (f : WI) : Option (Option Instr) :=
  match f.fn.toNat with
  | 0x00 => some (decImm f .addImm)
  | 0x01 => some (decImm f .mulImm)
  | 0x02 => some (decImm f .andImm)
  | 0x03 => some (decImm f .orImm)
  | 0x04 => some (decImm f .xorImm)
  | 0x05 => some (decImm f .shlImm)
  | 0x06 => some (decImm f .shrImm)
  | 0x07 => some (decImm f .sraImm)
  | 0x08 => some (decImm f .minImm)
  | 0x09 => some (decImm f .maxImm)
  | 0x0A => some (do
      let d ← opdDec f.d
      when' (f.sf == 0 && f.a == 0) (.movImm (guardDec f.g) d f.imm))
  | 0x0B => some (do
      let d ← regDec f.d
      let a ← opdDec f.a
      when' (f.sf == 0) (.movhi (guardDec f.g) d a f.imm))
  | _ => none

/-- OPC 0x04 (R329). -/
def dec04 (f : WA) : Option (Option Instr) :=
  match f.fn.toNat with
  | 0x00 => some (do
      let d ← regDec f.d
      let a ← opdDec f.a
      let b ← opdDec f.b
      when' (f.sf == 0 && (f.ty == 0 || f.ty == 1) && f.c == 0 && f.mod == 0#9 ++ f.mod.extractLsb' 5 2 ++ 0#5)
        (.lea (guardDec f.g) (f.ty == 1) (f.mod.extractLsb' 5 2) d a b))
  | 0x01 => some (do
      let d ← opdDec f.d
      let a ← opdDec f.a
      when' (f.sf == 0 && f.ty == 0 && f.b == 0 && f.c == 0 && f.mod == 0) (.extLo (guardDec f.g) d a))
  | 0x02 => some (do
      let d ← opdDec f.d
      let a ← opdDec f.a
      when' (f.sf == 0 && f.ty == 0 && f.b == 0 && f.c == 0 && f.mod == 0) (.extHi (guardDec f.g) d a))
  | 0x03 => some (do
      let d ← regDec f.d
      let a ← opdDec f.a
      let b ← opdDec f.b
      when' (f.sf == 0 && f.ty == 0 && f.c == 0 && f.mod == 0) (.pack64 (guardDec f.g) d a b))
  | _ => none

/-- OPC 0x05 (R330, R331). -/
def dec05 (f : WA) : Option (Option Instr) :=
  let m := WMod.of f.mod
  let plain := m.rm == 0 && m.sat == 0 && m.b8d == 0 && m.m6 == 0
  match f.fn.toNat with
  | 0x00 => some (when' (f.sf == 0 && f.d == 0 && f.a == 0 && f.b == 0 && f.c == 0 && f.ty == 0 && f.mod == 0)
      (.nop (guardDec f.g)))
  | 0x01 => some (do
      let ty ← tyDec f.ty m.u m.b8s
      let d ← opdDec f.d
      let a ← opdDec f.a
      when' (f.sf == 0 && f.b == 0 && f.c == 0 && plain) (.mov (guardDec f.g) ty d a))
  | 0x02 => some (do
      let ty ← tyDec f.ty m.u m.b8s
      let d ← opdDec f.d
      let a ← opdDec f.a
      let b ← opdDec f.b
      let c ← opdDec f.c
      when' (f.sf == 0 && plain) (.sel (guardDec f.g) ty d a b c))
  | 0x03 => some (when' (f.sf == 0 && f.d == 0 && f.a == 0 && f.b == 0 && f.c == 0 && f.ty == 0 && plain &&
      m.u == 0) (.ffclr (guardDec f.g) m.b8s))
  | _ => none

/-- An FP32 form whose rounding mode is free (`anyRm`) or fixed (R332). -/
def fpMod (m : WMod) (anyRm : Bool) : Bool := m == { rm := if anyRm then m.rm else 0, sat := 0, b8d := 0, m6 := 0, u := 0, b8s := 0 }

/-- OPC 0x10 (R332). -/
def dec10 (f : WA) : Option (Option Instr) :=
  let m := WMod.of f.mod
  let g := guardDec f.g
  let sf := f.sf == 1
  let rm := rmDec m.rm
  let three (k : Opd → Opd → Opd → Opd → Instr) : Option Instr := do
    let d ← opdDec f.d
    let a ← opdDec f.a
    let b ← opdDec f.b
    let c ← opdDec f.c
    when' (f.ty == 4 && fpMod m true) (k d a b c)
  let two (any flags : Bool) (k : Opd → Opd → Opd → Instr) : Option Instr := do
    let d ← opdDec f.d
    let a ← opdDec f.a
    let b ← opdDec f.b
    when' (f.ty == 4 && f.c == 0 && fpMod m any && (flags || f.sf == 0)) (k d a b)
  let one (any flags : Bool) (k : Opd → Opd → Instr) : Option Instr := do
    let d ← opdDec f.d
    let a ← opdDec f.a
    when' (f.ty == 4 && f.b == 0 && f.c == 0 && fpMod m any && (flags || f.sf == 0)) (k d a)
  match f.fn.toNat with
  | 0x00 => some (two true true (.addF32 g sf rm))
  | 0x01 => some (two true true (.subF32 g sf rm))
  | 0x02 => some (two true true (.mulF32 g sf rm))
  | 0x03 => some (three (.fmaF32 g sf rm))
  | 0x04 => some (three (.fmsF32 g sf rm))
  | 0x05 => some (three (.fnmaF32 g sf rm))
  | 0x06 => some (two false true (.minF32 g sf))
  | 0x07 => some (two false true (.maxF32 g sf))
  | 0x08 => some (one false false (.absF32 g))
  | 0x09 => some (one false false (.negF32 g))
  | 0x0A => some (two true true (.divF32 g sf rm))
  | 0x0B => some (one true true (.sqrtF32 g sf rm))
  | 0x0C => some (one false true (.rcpF32 g sf))
  | 0x0D => some (one false true (.rsqrtF32 g sf))
  | 0x0E => some (one false true (.exp2F32 g sf))
  | 0x0F => some (one false true (.log2F32 g sf))
  | 0x10 => some (two false false (.copysignF32 g))
  | 0x11 => some (one false false (.classF32 g))
  | 0x12 => some (one true true (.rintF32 g sf rm))
  | _ => none

/-- The packed type of OPC 0x11 (R335). -/
def ptyDec (t : BitVec 3) (f : BitVec 5) : Option PTy :=
  if t = 5 ∧ f = 0 then some .bf16 else if t = 6 then some (.b8 (b8Dec f)) else none

/-- OPC 0x11 (R335, R336). -/
def dec11 (f : WA) : Option (Option Instr) :=
  let m := WMod.of f.mod
  let g := guardDec f.g
  let sf := f.sf == 1
  let rm := rmDec m.rm
  let plain := m.b8d == 0 && m.m6 == 0 && m.u == 0
  let three (k : Sat → PTy → Opd → Opd → Opd → Opd → Instr) : Option Instr := do
    let ty ← ptyDec f.ty m.b8s
    let sat ← satDec m.sat
    let d ← opdDec f.d
    let a ← opdDec f.a
    let b ← opdDec f.b
    let c ← opdDec f.c
    when' plain (k sat ty d a b c)
  let two (k : Sat → PTy → Opd → Opd → Opd → Instr) : Option Instr := do
    let ty ← ptyDec f.ty m.b8s
    let sat ← satDec m.sat
    let d ← opdDec f.d
    let a ← opdDec f.a
    let b ← opdDec f.b
    when' (plain && f.c == 0) (k sat ty d a b)
  let one (k : Sat → PTy → Opd → Opd → Instr) : Option Instr := do
    let ty ← ptyDec f.ty m.b8s
    let sat ← satDec m.sat
    let d ← opdDec f.d
    let a ← opdDec f.a
    when' (plain && f.b == 0 && f.c == 0) (k sat ty d a)
  match f.fn.toNat with
  | 0x00 => some (two (.addPacked g sf rm))
  | 0x01 => some (two (.subPacked g sf rm))
  | 0x02 => some (two (.mulPacked g sf rm))
  | 0x03 => some (three (.fmaPacked g sf rm))
  | 0x04 => some (two (.minPacked g sf rm))
  | 0x05 => some (two (.maxPacked g sf rm))
  | 0x06 => some (one (.absPacked g sf rm))
  | 0x07 => some (one (.negPacked g sf rm))
  | 0x08 => some (do
      let d ← opdDec f.d
      let a ← opdDec f.a
      let b ← opdDec f.b
      let c ← opdDec f.c
      when' (f.ty == 5 && plain && m.sat == 0 && m.b8s == 0) (.dot2 g sf rm d a b c))
  | 0x09 => some (do
      let d ← opdDec f.d
      let a ← opdDec f.a
      let b ← opdDec f.b
      let c ← opdDec f.c
      when' (f.ty == 6 && plain && m.sat == 0) (.dot4B8 g sf rm (b8Dec m.b8s) d a b c))
  | _ => none

/-- OPC 0x18 (R337). -/
def dec18 (f : WA) : Option (Option Instr) :=
  if 7 < f.fn.toNat then none
  else some (do
    let m := WMod.of f.mod
    let sty ← tyDec f.ty m.u m.b8s
    let dty ← tyDec (f.fn.extractLsb' 0 3) m.m6 m.b8d
    let sat ← satDec m.sat
    let d ← opdDec f.d
    let a ← opdDec f.a
    when' (f.b == 0 && f.c == 0) (.cvt (guardDec f.g) (f.sf == 1) (rmDec m.rm) sat dty sty d a))

/-- The destination of pk4 (R338): P = 0 makes it an integer quad, unsigned by bit 1. -/
def quadDec (f : BitVec 5) : Option QuadTy :=
  if f.extractLsb' 2 3 = 0 then
    if f.extractLsb' 0 1 = 0 then some (.q8 (f.extractLsb' 1 1 == 1)) else none
  else some (.b8 (b8Dec f))

def quadEnc : QuadTy → BitVec 5
  | .b8 f => b8Enc f
  | .q8 u => 0#3 ++ BitVec.ofBool u ++ 0#1

/-- OPC 0x19 (R338, R339). -/
def dec19 (f : WA) : Option (Option Instr) :=
  let m := WMod.of f.mod
  let g := guardDec f.g
  match f.fn.toNat with
  | 0x00 => some (do
      let ty ← (match f.ty.toNat with
        | 0 => some Pk2Ty.i32
        | 1 => some Pk2Ty.n32
        | 4 => some Pk2Ty.f32
        | _ => none)
      let d ← opdDec f.d
      let a ← opdDec f.a
      let b ← opdDec f.b
      when' (f.c == 0 && fpMod m true) (.pk2 g (f.sf == 1) (rmDec m.rm) ty d a b))
  | 0x01 => some (do
      let dty ← quadDec m.b8d
      let src ← (match f.ty.toNat with
        | 4 => some (Pk4Src.f32 (m.m6 == 1))
        | 5 => if m.m6 = 0 then some Pk4Src.bf16 else none
        | _ => none)
      let sat ← satDec m.sat
      let d ← opdDec f.d
      let a ← opdDec f.a
      let b ← opdDec f.b
      let c ← opdDec f.c
      when' (m.u == 0 && m.b8s == 0) (.pk4 g (f.sf == 1) (rmDec m.rm) sat dty src d a b c))
  | 0x02 => some (do
      let ty ← (match f.ty.toNat with
        | 5 => if m.u = 0 ∧ m.b8s = 0 then some UpkTy.bf16 else none
        | 6 => if m.u = 0 then some (UpkTy.b8 (b8Dec m.b8s)) else none
        | 7 => if m.b8s = 0 then some (UpkTy.q8 (m.u == 1)) else none
        | _ => none)
      let d ← opdDec f.d
      let a ← opdDec f.a
      when' (f.sf == 0 && f.b == 0 && f.c == 0 && m.rm == 0 && m.b8d == 0 && m.m6 == 0) (.upk g ty m.sat d a))
  | 0x03 => some (do
      let d ← opdDec f.d
      let a ← opdDec f.a
      let b ← opdDec f.b
      when' (f.ty == 4 && f.c == 0 && fpMod m true) (.scl g (f.sf == 1) (rmDec m.rm) d a b))
  | 0x04 => some (do
      let d ← opdDec f.d
      let a ← opdDec f.a
      when' (f.sf == 0 && f.ty == 4 && f.b == 0 && f.c == 0 && m.rm == 0 && m.sat == 0 && m.m6 == 0 &&
        m.u == 0 && m.b8s == 0) (.bscale g (b8Dec m.b8d) d a))
  | _ => none

def condDec : Nat → Option Cond
  | 0 => some .eq
  | 1 => some .ne
  | 2 => some .lt
  | 3 => some .le
  | 4 => some .gt
  | 5 => some .ge
  | 6 => some .unord
  | _ => none

def condEnc : Cond → BitVec 6
  | .eq => 0
  | .ne => 1
  | .lt => 2
  | .le => 3
  | .gt => 4
  | .ge => 5
  | .unord => 6

def condImmDec : Nat → Option CondImm
  | 0 => some .eq
  | 1 => some .ne
  | 2 => some .lt
  | 3 => some .le
  | 4 => some .gt
  | 5 => some .ge
  | 6 => some .ltu
  | 7 => some .leu
  | 8 => some .gtu
  | 9 => some .geu
  | _ => none

def condImmEnc : CondImm → BitVec 6
  | .eq => 0
  | .ne => 1
  | .lt => 2
  | .le => 3
  | .gt => 4
  | .ge => 5
  | .ltu => 6
  | .leu => 7
  | .gtu => 8
  | .geu => 9

/-- OPC 0x1C (R340). -/
def dec1C (f : WA) : Option (Option Instr) :=
  (condDec f.fn.toNat).map (fun cond => do
    let ty ← tyDec f.ty 0 0
    let d ← opdDec f.d
    let a ← opdDec f.a
    let b ← opdDec f.b
    when' (f.c == 0 && f.mod == 0) (.cmp (guardDec f.g) (f.sf == 1) cond ty d a b))

/-- OPC 0x1D (R341). -/
def dec1D (f : WI) : Option (Option Instr) :=
  (condImmDec f.fn.toNat).map (fun cond => decImm f (fun g d a imm => .cmpImm g cond d a imm))

/-- OPC 0x1E (R342). -/
def dec1E (f : WA) : Option (Option Instr) :=
  let plain := f.sf == 0 && f.c == 0 && f.ty == 0 && f.mod == 0
  let g := guardDec f.g
  let two (k : Opd → Opd → Opd → Instr) : Option Instr := do
    let d ← opdDec f.d
    let a ← opdDec f.a
    let b ← opdDec f.b
    when' plain (k d a b)
  let one (k : Opd → Opd → Instr) : Option Instr := do
    let d ← opdDec f.d
    let a ← opdDec f.a
    when' (plain && f.b == 0) (k d a)
  match f.fn.toNat with
  | 0x00 => some (two (.pAnd g))
  | 0x01 => some (two (.pOr g))
  | 0x02 => some (two (.pXor g))
  | 0x03 => some (one (.pNot g))
  | 0x04 => some (two (.pAndn g))
  | 0x05 => some (one (.pMov g))
  | _ => none

def decLdSt (f : WM) (k : Guard → LdSize → Reg → MemRef → Instr) : Option Instr := do
  let size ← sizeDec f.size
  let data ← regDec f.data
  let m ← memDec f
  when' (f.sf == 0) (k (guardDec f.g) size data m)

/-- OPC 0x20 (R297). -/
def dec20 (f : WM) : Option (Option Instr) :=
  match f.fn.toNat with
  | 0x00 => some (decLdSt f .ldDev)
  | 0x01 => some (decLdSt f .ldAcqDev)
  | 0x02 => some (decLdSt f .ldLoc)
  | 0x03 => some (decLdSt f .ldAcqLoc)
  | _ => none

/-- OPC 0x21 (R297). -/
def dec21 (f : WM) : Option (Option Instr) :=
  match f.fn.toNat with
  | 0x00 => some (decLdSt f .stDev)
  | 0x01 => some (decLdSt f .stRelDev)
  | 0x02 => some (decLdSt f .stLoc)
  | 0x03 => some (decLdSt f .stRelLoc)
  | _ => none

def atomOpEnc : AtomOp → BitVec 6
  | .add => 0
  | .min => 1
  | .max => 2
  | .and => 3
  | .or => 4
  | .xor => 5
  | .xchg => 6
  | .cas => 7

def atomOpDec : Nat → Option AtomOp
  | 0 => some .add
  | 1 => some .min
  | 2 => some .max
  | 3 => some .and
  | 4 => some .or
  | 5 => some .xor
  | 6 => some .xchg
  | 7 => some .cas
  | _ => none

/-- OPC 0x22 (R301, R303): FN 0x00 to 0x07 atom, 0x08 to 0x0D red. -/
def dec22 (f : WM) : Option (Option Instr) :=
  let n := f.fn.toNat
  if n < 8 then
    (atomOpDec n).map (fun op => do
      let ty ← atyDec f.size
      let data ← regDec f.data
      let m ← memDec f
      some (.atom (guardDec f.g) (f.sf == 1) op ty data m))
  else if n < 14 then
    (atomOpDec (n - 8)).map (fun op => do
      let ty ← atyDec f.size
      let data ← regDec f.data
      let m ← memDec f
      some (.red (guardDec f.g) (f.sf == 1) op ty data m))
  else none

def scopeDec : Nat → Option Scope
  | 0 => some .set
  | 1 => some .tile
  | 2 => some .region
  | 3 => some .device
  | 4 => some .domain
  | _ => none

def scopeEnc : Scope → BitVec 6
  | .set => 0
  | .tile => 1
  | .region => 2
  | .device => 3
  | .domain => 4

/-- OPC 0x23 (R304). -/
def dec23 (f : WA) : Option (Option Instr) :=
  (scopeDec f.fn.toNat).map (fun sc =>
    when' (f.sf == 0 && f.d == 0 && f.a == 0 && f.b == 0 && f.c == 0 && f.ty == 0) (.fence (guardDec f.g) sc f.mod))

/-- OPC 0x24 (R306). -/
def dec24 (f : WA) : Option (Option Instr) :=
  if f.fn = 0 then
    some (when' (f.sf == 0 && f.d == 0 && f.a == 0 && f.b == 0 && f.c == 0 && f.ty == 0 && f.mod.extractLsb' 4 12 == 0)
      (.eqWait (guardDec f.g) (f.mod.extractLsb' 0 4)))
  else none

/-- OPC 0x27 (R164). -/
def dec27 (f : WI) : Option (Option Instr) :=
  match f.fn.toNat with
  | 0x38 => some (do
      let a ← xDec f.a
      when' (f.sf == 0 && f.d == 0 && f.imm.extractLsb' 6 27 == 0) (.spill (guardDec f.g) a (f.imm.extractLsb' 0 6)))
  | 0x39 => some (do
      let d ← xDec f.d
      when' (f.sf == 0 && f.a == 0 && f.imm.extractLsb' 6 27 == 0) (.fill (guardDec f.g) d (f.imm.extractLsb' 0 6)))
  | _ => none

/-- A command with a port 0 to 7 and a descriptor; bits [20:0] are 0 (R307). -/
def decPort (f : WS) (k : SCom → BitVec 3 → BitVec 4 → Instr) : Option Instr := do
  let c ← scomDec f
  when' (f.port.extractLsb' 3 1 == 0 && f.low == 0) (k c (f.port.extractLsb' 0 3) f.desc)

/-- A command with a descriptor and no port; bits [20:0] are 0. -/
def decDesc (f : WS) (k : SCom → BitVec 4 → Instr) : Option Instr := do
  let c ← scomDec f
  when' (f.port == 0 && f.low == 0) (k c f.desc)

/-- OPC 0x28 (R312, R316). -/
def dec28 (f : WS) : Option (Option Instr) :=
  match f.fn.toNat with
  | 0x00 => some (decPort f .strmRd)
  | 0x01 => some (decPort f .strmWr)
  | 0x02 => some (do
      let c ← scomDec f
      when' (f.port == 0 && f.desc == 0 && f.low == 0) (.engBar c))
  | _ => none

/-- OPC 0x29 (R318). -/
def dec29 (f : WS) : Option (Option Instr) :=
  match f.fn.toNat with
  | 0x00 => some (decDesc f .cpIn)
  | 0x01 => some (decDesc f .cpOut)
  | 0x02 => some (decDesc f .cpLocal)
  | 0x03 => some (decPort f .cpPush)
  | 0x04 => some (decPort f .cpPushz)
  | 0x05 => some (decPort f .cpPop)
  | 0x06 => some (decPort f .cpPopd)
  | _ => none

def subDec : Nat → Option CtlSub
  | 1 => some .eoi
  | 2 => some .eos
  | 3 => some .drn
  | 4 => some .probe
  | 5 => some .sync
  | _ => none

def subEnc : CtlSub → BitVec 16
  | .eoi => 1
  | .eos => 2
  | .drn => 3
  | .probe => 4
  | .sync => 5

/-- A tag field with ANY in bit 4 (R351). -/
def tagDec (m : BitVec 16) : Option (Option (BitVec 3)) :=
  if m.extractLsb' 4 1 = 1 then (if m.extractLsb' 0 3 = 0 then some none else none)
  else some (some (m.extractLsb' 0 3))

def tagEnc : Option (BitVec 3) → BitVec 5
  | none => 16
  | some t => 0#2 ++ t

/-- OPC 0x2C (R351). -/
def dec2C (f : WA) : Option (Option Instr) :=
  let plain := f.sf == 0 && f.c == 0 && f.ty == 0
  let g := guardDec f.g
  match f.fn.toNat with
  | 0x00 => some (do
      let n ← chDec f.d
      let a ← opdDec f.a
      when' (plain && f.b == 0 && f.mod.extractLsb' 4 12 == 0)
        (.chPush g (f.mod.extractLsb' 0 3) (f.mod.extractLsb' 3 1 == 1) n a))
  | 0x01 => some (do
      let d ← opdDec f.d
      let n ← chDec f.a
      let tag ← tagDec f.mod
      when' (plain && f.b == 0 && f.mod.extractLsb' 5 11 == 0)
        (.chPop g tag (f.mod.extractLsb' 3 1 == 1) d n))
  | 0x02 => some (do
      let d ← opdDec f.d
      let n ← chDec f.a
      let tag ← tagDec f.mod
      when' (plain && f.b == 0 && f.mod.extractLsb' 5 11 == 0 && f.mod.extractLsb' 3 1 == 0)
        (.chPeek g tag d n))
  | 0x03 => some (do
      let d ← opdDec f.d
      let n ← chDec f.a
      when' (plain && f.b == 0 && f.mod == 0) (.chTag g d n))
  | 0x04 => some (do
      let d ← chNameDec f.d
      let a ← opdDec f.a
      let sub ← subDec f.mod.toNat
      when' (plain && f.b == 0) (.chCtl g sub d a))
  | _ => none

/-- OPC 0x2D (R356). -/
def dec2D (f : WA) : Option (Option Instr) :=
  let m := WMod.of f.mod
  let g := guardDec f.g
  let plain := f.sf == 0 && m.rm == 0 && m.sat == 0 && m.b8d == 0
  match f.fn.toNat with
  | 0x00 => some (do
      let ty ← tyDec f.ty m.u m.b8s
      let d ← opdDec f.d
      let a ← opdDec f.a
      let p ← opdDec f.b
      let e ← opdDec f.c
      when' plain (.steer g (m.m6 == 1) ty d a p e))
  | 0x01 => some (do
      let ty ← tyDec f.ty m.u m.b8s
      let d ← opdDec f.d
      let a ← opdDec f.a
      let b ← opdDec f.b
      let p ← opdDec f.c
      when' plain (.merge g (m.m6 == 1) ty d a b p))
  | 0x02 => some (do
      let ty ← tyDec f.ty m.u m.b8s
      let d ← opdDec f.d
      let a ← chDec f.a
      let b ← chDec f.b
      let c ← (if f.c = 87 then some none else (chDec f.c).map some)
      when' (plain && m.m6 == 0) (.amerge g ty d a b c))
  | _ => none

/-- A channel of lgen: q7 (55) for none (R360). -/
def lgenDec (base : Nat) (n : BitVec 7) : Option (Option (BitVec 3)) :=
  if n = 55 then some none
  else if base ≤ n.toNat ∧ n.toNat < base + 8 then some (some (n.extractLsb' 0 3)) else none

/-- OPC 0x2E (R360). -/
def dec2E (f : WA) : Option (Option Instr) :=
  if f.fn = 0 then some (do
    let d ← lgenDec 56 f.d
    let a ← chDec f.a
    let st ← sDec f.b
    let c ← lgenDec 64 f.c
    when' (f.sf == 0 && f.ty == 0 && f.mod == 0) (.lgen (guardDec f.g) d a st c))
  else none

/-- OPC 0x30 (R346, R347). -/
def dec30 (f : WJ) : Option (Option Instr) :=
  let g := guardDec f.g
  let zero := f.sf == 0 && f.tgt == 0 && f.tgt2 == 0 && f.mode == 0 && f.cnt == 0
  match f.fn.toNat with
  | 0x00 => some (when' (f.sf == 0 && f.tgt2 == 0 && f.mode == 0 && f.cnt == 0) (.br g f.tgt))
  | 0x01 => some (do
      let c ← opdDec (f.cnt.extractLsb' 0 7)
      when' (f.sf == 0 && f.mode == 0 && f.cnt.extractLsb' 7 12 == 0) (.brC g c f.tgt f.tgt2))
  | 0x02 => some (when' zero (.exit g))
  | 0x03 => some (when' zero (.exitAbandon g))
  | _ => none

/-- OPC 0x31 (R348): the guard is 0111. -/
def dec31 (f : WJ) : Option (Option Instr) :=
  let plain := f.sf == 0 && f.g == 7 && f.tgt.extractLsb' 6 6 == 0 && f.tgt2 == 0 && f.mode.extractLsb' 2 2 == 0
  match f.fn.toNat with
  | 0x00 => some (when' plain (.loop (f.mode.extractLsb' 0 2) f.cnt (f.tgt.extractLsb' 0 6)))
  | 0x01 => some (do
      let st ← sDec (f.cnt.extractLsb' 0 7)
      when' (plain && f.cnt.extractLsb' 7 12 == 0) (.loopR (f.mode.extractLsb' 0 2) st (f.tgt.extractLsb' 0 6)))
  | _ => none

/-- OPC 0x34 (R361, R362): FN 0x00 is format I, the others format A. -/
def dec34 (w : Double) : Option (Option Instr) :=
  let i := WI.of w
  let f := WA.of w
  let plain := f.sf == 0 && f.d == 0 && f.b == 0 && f.c == 0 && f.ty == 0 && f.mod == 0
  match f.fn.toNat with
  | 0x00 => some (do
      let d ← opdDec i.d
      let a ← opdDec i.a
      when' (i.sf == 0 && i.imm.extractLsb' 12 21 == 0) (.thrNew (guardDec i.g) d a (i.imm.extractLsb' 0 12)))
  | 0x01 => some (do
      let a ← opdDec f.a
      when' plain (.grpJoin (guardDec f.g) a))
  | 0x02 => some (do
      let a ← opdDec f.a
      when' plain (.grpLeave (guardDec f.g) a))
  | _ => none

/-- OPC 0x35 (R363). -/
def dec35 (f : WA) : Option (Option Instr) :=
  let plain := f.sf == 0 && f.d == 0 && f.b == 0 && f.c == 0 && f.ty == 0 && f.mod.extractLsb' 6 10 == 0
  let g := guardDec f.g
  let region := f.mod.extractLsb' 5 1 == 1
  let n := f.mod.extractLsb' 0 5
  match f.fn.toNat with
  | 0x00 => some (do
      let a ← opdDec f.a
      when' plain (.barSet g region n a))
  | 0x01 => some (do
      let a ← opdDec f.a
      when' plain (.barBind g region n a))
  | 0x02 => some (when' (plain && f.a == 0) (.barArrive g region n))
  | _ => none

/-- OPC 0x36 (R366, R369). -/
def dec36 (f : WS) : Option (Option Instr) :=
  let cnt := f.low.extractLsb' 0 4
  match f.fn.toNat with
  | 0x00 => some (do
      let c ← scomDec f
      when' (f.desc == 0 && f.low.extractLsb' 4 17 == 0) (.slotClaim c f.port cnt))
  | 0x01 => some (do
      let c ← scomDec f
      let ch ← (if f.low.extractLsb' 7 1 = 1 then some (some (f.low.extractLsb' 4 3))
        else if f.low.extractLsb' 4 3 = 0 then some none else none)
      when' (f.low.extractLsb' 8 13 == 0) (.slotFill c f.port cnt ch f.desc))
  | 0x02 => some (do
      let c ← scomDec f
      when' (f.desc == 0 && f.low.extractLsb' 4 17 == 0) (.slotRel c f.port cnt))
  | _ => none

/-- OPC 0x37 (R373, R376). -/
def dec37 (f : WS) : Option (Option Instr) :=
  match f.fn.toNat with
  | 0x00 => some (decDesc f .cubeMm)
  | 0x01 => some (decDesc f .cubeGate)
  | 0x02 => some (decDesc f .cubeSpread)
  | 0x03 => some (decDesc f .cubeFold)
  | 0x04 => some (do
      let c ← scomDec f
      when' (f.port.extractLsb' 3 1 == 0 && f.low.extractLsb' 4 17 == 0)
        (.cubeBind c (f.low.extractLsb' 3 1 == 1) (f.port.extractLsb' 0 3) (f.low.extractLsb' 0 3) f.desc))
  | 0x05 => some (do
      let c ← scomDec f
      when' (f.port == 0 && f.desc == 0 && f.low == 0) (.cubeUnbind c))
  | _ => none

/-- OPC 0x38 (R379). -/
def dec38 (f : WA) : Option (Option Instr) :=
  let g := guardDec f.g
  match f.fn.toNat with
  | 0x00 => some (do
      let d ← opdDec f.d
      let a ← opdDec f.a
      when' (f.sf == 0 && f.b == 0 && f.c == 0 && f.ty == 4) (.acsLd g d a f.mod))
  | 0x01 => some (do
      let a ← opdDec f.a
      let b ← opdDec f.b
      when' (f.sf == 0 && f.d == 0 && f.c == 0 && f.ty == 4) (.acsSt g a b f.mod))
  | _ => none

/-- OPC 0x3A (R382). -/
def dec3A (f : WS) : Option (Option Instr) :=
  let arr := f.low.extractLsb' 0 5
  let bare (k : SCom → BitVec 5 → Instr) : Option Instr := do
    let c ← scomDec f
    when' (f.port == 0 && f.desc == 0 && f.low.extractLsb' 5 16 == 0) (k c arr)
  let page (k : SCom → BitVec 5 → BitVec 3 → BitVec 4 → Instr) : Option Instr := do
    let c ← scomDec f
    when' (f.port == 0 && f.low.extractLsb' 8 13 == 0) (k c arr (f.low.extractLsb' 5 3) f.desc)
  match f.fn.toNat with
  | 0x00 => some (do
      let c ← scomDec f
      when' (f.port == 0 && f.desc == 0 && f.low.extractLsb' 13 8 == 0) (.cirConvert c arr (f.low.extractLsb' 5 8)))
  | 0x01 => some (do
      let c ← scomDec f
      when' (f.port == 0 && f.low.extractLsb' 5 16 == 0) (.cirSched c arr f.desc))
  | 0x02 => some (bare .cirRun)
  | 0x03 => some (bare .cirRunf)
  | 0x04 => some (bare .cirHalt)
  | 0x05 => some (bare .cirRevert)
  | 0x06 => some (page .cirPageout)
  | 0x07 => some (page .cirPagein)
  | _ => none

def trapOpDec : Nat → Option TrapOp
  | 1 => some .resume
  | 2 => some .skip
  | 3 => some .retire
  | 4 => some .cmdResume
  | 5 => some .cmdAbandon
  | _ => none

def trapOpEnc : TrapOp → BitVec 16
  | .resume => 1
  | .skip => 2
  | .retire => 3
  | .cmdResume => 4
  | .cmdAbandon => 5

def selDec : Nat → Option PlaneSel
  | 0 => some .s0
  | 1 => some .s1
  | 2 => some .none
  | _ => none

def selEnc : PlaneSel → BitVec 2
  | .s0 => 0
  | .s1 => 1
  | .none => 2

/-- OPC 0x3C (R386): format A and, for cfg.ld, preempt, restore and nmq.sub, format S. -/
def dec3C (w : Double) : Option (Option Instr) :=
  let f := WA.of w
  let s := WS.of w
  let g := guardDec f.g
  let plain := f.sf == 0 && f.c == 0 && f.ty == 0
  match f.fn.toNat with
  | 0x00 => some (do
      let d ← regDec f.d
      let a ← opdDec f.a
      let r ← sregDec f.mod
      when' (plain && f.b == 0) (.sregRd g d a r))
  | 0x01 => some (do
      let d ← opdDec f.d
      let a ← opdDec f.a
      let b ← opdDec f.b
      let r ← sregDec f.mod
      when' plain (.sregWr g d a b r))
  | 0x02 => some (do
      let d ← regDec f.d
      let a ← opdDec f.a
      when' (plain && f.b == 0) (.capRd g d a f.mod))
  | 0x03 => some (do
      let n ← sDec f.d
      when' (plain && f.a == 0 && f.b == 0 && f.mod == 0) (.trapRd g n))
  | 0x04 => some (do
      let d ← opdDec f.d
      let a ← opdDec f.a
      let op ← trapOpDec f.mod.toNat
      when' (plain && f.b == 0) (.trapAct g op d a))
  | 0x05 => some (do
      let d ← opdDec f.d
      when' (plain && f.a == 0 && f.b == 0 && f.mod == 0) (.trapFwd g d))
  | 0x06 => some (do
      let c ← scomDec s
      when' (s.port.extractLsb' 3 1 == 0 && s.low == 0)
        (.cfgLd c (s.port.extractLsb' 0 1 == 1) (s.port.extractLsb' 1 1 == 1) (s.port.extractLsb' 2 1 == 1) s.desc))
  | 0x07 => some (do
      let a ← opdDec f.a
      let sel ← selDec (f.mod.extractLsb' 0 2).toNat
      when' (plain && f.d == 0 && f.b == 0 && f.mod.extractLsb' 3 13 == 0)
        (.cfgSel g sel (f.mod.extractLsb' 2 1 == 1) a))
  | 0x08 => some (decDesc s .preempt)
  | 0x09 => some (decDesc s .restore)
  | 0x0A => some (decDesc s .nmqSub)
  | 0x0B => some (do
      let d ← opdDec f.d
      let a ← opdDec f.a
      when' (plain && f.b == 0 && f.mod == 0) (.nmqPoll g d a))
  | 0x0C => some (do
      let d ← opdDec f.d
      let a ← opdDec f.a
      let b ← opdDec f.b
      when' plain (.capWr g d a b f.mod))
  | _ => none

/-- OPC 0x3D (R407, R409). -/
def dec3D (f : WA) : Option (Option Instr) :=
  let g := guardDec f.g
  let plain := f.sf == 0 && f.b == 0 && f.c == 0 && f.ty == 0
  match f.fn.toNat with
  | 0x00 => some (do
      let a ← opdDec f.a
      when' (plain && f.d == 0 && f.mod == 0) (.mark g a))
  | 0x01 => some (do
      let d ← regDec f.d
      when' (plain && f.a == 0 && f.mod.extractLsb' 6 10 == 0) (.perfRd g d (f.mod.extractLsb' 0 6)))
  | _ => none

/-- The opcode map of R287: `none` for an unassigned OPC or FN, `some none` for a refused field. -/
def decMap (w : Double) : Option (Option Instr) :=
  match (w.extractLsb' 58 6).toNat with
  | 0x01 => dec01 (WA.of w)
  | 0x02 => dec02 (WA.of w)
  | 0x03 => dec03 (WI.of w)
  | 0x04 => dec04 (WA.of w)
  | 0x05 => dec05 (WA.of w)
  | 0x10 => dec10 (WA.of w)
  | 0x11 => dec11 (WA.of w)
  | 0x18 => dec18 (WA.of w)
  | 0x19 => dec19 (WA.of w)
  | 0x1C => dec1C (WA.of w)
  | 0x1D => dec1D (WI.of w)
  | 0x1E => dec1E (WA.of w)
  | 0x20 => dec20 (WM.of w)
  | 0x21 => dec21 (WM.of w)
  | 0x22 => dec22 (WM.of w)
  | 0x23 => dec23 (WA.of w)
  | 0x24 => dec24 (WA.of w)
  | 0x27 => dec27 (WI.of w)
  | 0x28 => dec28 (WS.of w)
  | 0x29 => dec29 (WS.of w)
  | 0x2C => dec2C (WA.of w)
  | 0x2D => dec2D (WA.of w)
  | 0x2E => dec2E (WA.of w)
  | 0x30 => dec30 (WJ.of w)
  | 0x31 => dec31 (WJ.of w)
  | 0x34 => dec34 w
  | 0x35 => dec35 (WA.of w)
  | 0x36 => dec36 (WS.of w)
  | 0x37 => dec37 (WS.of w)
  | 0x38 => dec38 (WA.of w)
  | 0x3A => dec3A (WS.of w)
  | 0x3C => dec3C w
  | 0x3D => dec3D (WA.of w)
  | _ => none

/-- The first three checks of R278: an assigned OPC and FN, then a legal guard and legal fields. -/
def decodeWord (w : Double) : Except BadWord Instr :=
  match decMap w with
  | none => .error .illegalOp
  | some none => .error .reservedField
  | some (some i) => if i.wf then .ok i else .error .reservedField

/-- Bytes to a number, the first byte lowest (R3). -/
def leNat : List Byte → Nat
  | [] => 0
  | b :: bs => b.toNat + 256 * leNat bs

/-- The low `n` bytes of a number, the lowest first (R3). -/
def leBytes : Nat → Nat → List Byte
  | 0, _ => []
  | n + 1, v => BitVec.ofNat 8 v :: leBytes n (v / 256)

/-- Decode from bytes as memory holds them: one word of eight bytes, and the rest (R276, R277). -/
def decode (bs : List Byte) : Except BadWord (Instr × List Byte) :=
  if bs.length < 8 then .error .short
  else match decodeWord (BitVec.ofNat 64 (leNat (bs.take 8))) with
    | .ok i => .ok (i, bs.drop 8)
    | .error e => .error e

/-- What the decoder reads from the table's `nbits` bits `w`, laid out as eight little-endian bytes. -/
def decodeTableWord (nbits w : Nat) : Option Instr :=
  match decode (leBytes 8 (w % 2 ^ nbits)) with
  | .ok (i, _) => some i
  | .error _ => none

/-! ### The encoder -/

/-- Format A. -/
def wordA (opc fn : BitVec 6) (sf : Bool) (g : Guard) (d a b c : BitVec 7) (ty : BitVec 3) (mod : BitVec 16) : Double :=
  WA.pack ⟨opc, fn, BitVec.ofBool sf, guardEnc g, d, a, b, c, ty, mod⟩

/-- Format I. -/
def wordI (opc fn : BitVec 6) (g : Guard) (d a : BitVec 7) (imm : BitVec 33) : Double :=
  WI.pack ⟨opc, fn, 0, guardEnc g, d, a, imm⟩

/-- Format M. -/
def wordM (opc fn : BitVec 6) (sf : Bool) (g : Guard) (data : Reg) (m : MemRef) (size : BitVec 3) : Double :=
  WM.pack ⟨opc, fn, BitVec.ofBool sf, guardEnc g, regEnc data, m.base, ofsEnc m.ofs, m.sc, m.ac, size, m.off⟩

/-- Format S. -/
def wordS (opc fn : BitVec 6) (c : SCom) (port desc : BitVec 4) (low : BitVec 21) : Double :=
  WS.pack ⟨opc, fn, 0, guardEnc c.g, port, desc, c.wq.getD 0, c.pq.getD 0, BitVec.ofBool c.wq.isSome,
    BitVec.ofBool c.pq.isSome, c.ac, BitVec.ofBool c.tq.isSome, c.tq.getD 0, low⟩

/-- Format J. -/
def wordJ (opc fn : BitVec 6) (g : Guard) (tgt tgt2 : BitVec 12) (mode : BitVec 4) (cnt : BitVec 19) : Double :=
  WJ.pack ⟨opc, fn, 0, guardEnc g, tgt, tgt2, mode, cnt⟩

/-- The modifier of a form that only rounds. -/
def modRm (rm : RM) : BitVec 16 := WMod.pack ⟨rmEnc rm, 0, 0, 0, 0, 0⟩

/-- The modifier of a packed form (R335). -/
def modP (rm : RM) (sat : Sat) : PTy → BitVec 16
  | .bf16 => WMod.pack ⟨rmEnc rm, satEnc sat, 0, 0, 0, 0⟩
  | .b8 f => WMod.pack ⟨rmEnc rm, satEnc sat, 0, 0, 0, b8Enc f⟩

def PTy.code : PTy → BitVec 3
  | .bf16 => 5
  | .b8 _ => 6

/-- The modifier that only qualifies a type, with bit 6 (R330, R356). -/
def modTy (ty : Ty) (m6 : Bool) : BitVec 16 := WMod.pack ⟨0, 0, 0, BitVec.ofBool m6, ty.uBit, ty.fBits⟩

def encInt3 (opc fn : BitVec 6) (g : Guard) (ty : ITy) (d a b : Opd) : Double :=
  wordA opc fn false g (opdEnc d) (opdEnc a) (opdEnc b) 0 (ityEnc ty) 0

def encInt2 (opc fn : BitVec 6) (g : Guard) (ty : ITy) (d a : Opd) : Double :=
  wordA opc fn false g (opdEnc d) (opdEnc a) 0 0 (ityEnc ty) 0

def encInt4 (opc fn : BitVec 6) (g : Guard) (ty : ITy) (d a b c : Opd) : Double :=
  wordA opc fn false g (opdEnc d) (opdEnc a) (opdEnc b) (opdEnc c) (ityEnc ty) 0

def encImm (opc fn : BitVec 6) (g : Guard) (d a : Opd) (imm : BitVec 33) : Double :=
  wordI opc fn g (opdEnc d) (opdEnc a) imm

def encF2 (fn : BitVec 6) (g : Guard) (sf : Bool) (mod : BitVec 16) (d a b : Opd) : Double :=
  wordA 0x10 fn sf g (opdEnc d) (opdEnc a) (opdEnc b) 0 4 mod

def encF1 (fn : BitVec 6) (g : Guard) (sf : Bool) (mod : BitVec 16) (d a : Opd) : Double :=
  wordA 0x10 fn sf g (opdEnc d) (opdEnc a) 0 0 4 mod

def encF3 (fn : BitVec 6) (g : Guard) (sf : Bool) (mod : BitVec 16) (d a b c : Opd) : Double :=
  wordA 0x10 fn sf g (opdEnc d) (opdEnc a) (opdEnc b) (opdEnc c) 4 mod

def encP2 (fn : BitVec 6) (g : Guard) (sf : Bool) (rm : RM) (sat : Sat) (ty : PTy) (d a b : Opd) : Double :=
  wordA 0x11 fn sf g (opdEnc d) (opdEnc a) (opdEnc b) 0 ty.code (modP rm sat ty)

def encP1 (fn : BitVec 6) (g : Guard) (sf : Bool) (rm : RM) (sat : Sat) (ty : PTy) (d a : Opd) : Double :=
  wordA 0x11 fn sf g (opdEnc d) (opdEnc a) 0 0 ty.code (modP rm sat ty)

/-- Signedness and format bits of what upk reads. -/
def UpkTy.ty : UpkTy → Ty
  | .bf16 => .bf16
  | .b8 f => .b8 f
  | .q8 u => .q8 u

def Pk2Ty.ty : Pk2Ty → Ty
  | .i32 => .i32
  | .n32 => .n32
  | .f32 => .f32

def Pk4Src.ty : Pk4Src → Ty
  | .f32 _ => .f32
  | .bf16 => .bf16

def Pk4Src.hi : Pk4Src → Bool
  | .f32 hi => hi
  | .bf16 => false

/-- The word of an instruction; an event has none. -/
def encode : Instr → Option Double
  | .addInt g ty d a b => some (encInt3 0x01 0x00 g ty d a b)
  | .subInt g ty d a b => some (encInt3 0x01 0x01 g ty d a b)
  | .mulInt g ty d a b => some (encInt3 0x01 0x02 g ty d a b)
  | .mulhi g ty d a b => some (encInt3 0x01 0x03 g ty d a b)
  | .mad g ty d a b c => some (encInt4 0x01 0x04 g ty d a b c)
  | .divInt g ty d a b => some (encInt3 0x01 0x05 g ty d a b)
  | .remInt g ty d a b => some (encInt3 0x01 0x06 g ty d a b)
  | .minInt g ty d a b => some (encInt3 0x01 0x07 g ty d a b)
  | .maxInt g ty d a b => some (encInt3 0x01 0x08 g ty d a b)
  | .absInt g ty d a => some (encInt2 0x01 0x09 g ty d a)
  | .negInt g ty d a => some (encInt2 0x01 0x0A g ty d a)
  | .adds g ty d a b => some (encInt3 0x01 0x0B g ty d a b)
  | .subs g ty d a b => some (encInt3 0x01 0x0C g ty d a b)
  | .dot4Int g u d a b c => some (wordA 0x01 0x0D false g (opdEnc d) (opdEnc a) (opdEnc b) (opdEnc c) 7
      (WMod.pack ⟨0, 0, 0, 0, BitVec.ofBool u, 0⟩))
  | .andB g ty d a b => some (encInt3 0x02 0x00 g ty d a b)
  | .orB g ty d a b => some (encInt3 0x02 0x01 g ty d a b)
  | .xorB g ty d a b => some (encInt3 0x02 0x02 g ty d a b)
  | .notB g ty d a => some (encInt2 0x02 0x03 g ty d a)
  | .andn g ty d a b => some (encInt3 0x02 0x04 g ty d a b)
  | .shl g ty d a b => some (encInt3 0x02 0x05 g ty d a b)
  | .shr g ty d a b => some (encInt3 0x02 0x06 g ty d a b)
  | .sra g ty d a b => some (encInt3 0x02 0x07 g ty d a b)
  | .rotl g ty d a b => some (encInt3 0x02 0x08 g ty d a b)
  | .popc g ty d a => some (encInt2 0x02 0x09 g ty d a)
  | .clz g ty d a => some (encInt2 0x02 0x0A g ty d a)
  | .ctz g ty d a => some (encInt2 0x02 0x0B g ty d a)
  | .brev g ty d a => some (encInt2 0x02 0x0C g ty d a)
  | .bfe g ty d a b => some (encInt3 0x02 0x0D g ty d a b)
  | .bfi g ty d a b c => some (encInt4 0x02 0x0E g ty d a b c)
  | .addImm g d a imm => some (encImm 0x03 0x00 g d a imm)
  | .mulImm g d a imm => some (encImm 0x03 0x01 g d a imm)
  | .andImm g d a imm => some (encImm 0x03 0x02 g d a imm)
  | .orImm g d a imm => some (encImm 0x03 0x03 g d a imm)
  | .xorImm g d a imm => some (encImm 0x03 0x04 g d a imm)
  | .shlImm g d a imm => some (encImm 0x03 0x05 g d a imm)
  | .shrImm g d a imm => some (encImm 0x03 0x06 g d a imm)
  | .sraImm g d a imm => some (encImm 0x03 0x07 g d a imm)
  | .minImm g d a imm => some (encImm 0x03 0x08 g d a imm)
  | .maxImm g d a imm => some (encImm 0x03 0x09 g d a imm)
  | .movImm g d imm => some (wordI 0x03 0x0A g (opdEnc d) 0 imm)
  | .movhi g d a imm => some (wordI 0x03 0x0B g (regEnc d) (opdEnc a) imm)
  | .lea g u sc d a b => some (wordA 0x04 0x00 false g (regEnc d) (opdEnc a) (opdEnc b) 0
      (if u then 1 else 0) (0#9 ++ sc ++ 0#5))
  | .extLo g d a => some (wordA 0x04 0x01 false g (opdEnc d) (opdEnc a) 0 0 0 0)
  | .extHi g d a => some (wordA 0x04 0x02 false g (opdEnc d) (opdEnc a) 0 0 0 0)
  | .pack64 g d a b => some (wordA 0x04 0x03 false g (regEnc d) (opdEnc a) (opdEnc b) 0 0 0)
  | .nop g => some (wordA 0x05 0x00 false g 0 0 0 0 0 0)
  | .mov g ty d a => some (wordA 0x05 0x01 false g (opdEnc d) (opdEnc a) 0 0 ty.code (modTy ty false))
  | .sel g ty d a b c => some (wordA 0x05 0x02 false g (opdEnc d) (opdEnc a) (opdEnc b) (opdEnc c) ty.code
      (modTy ty false))
  | .ffclr g mask => some (wordA 0x05 0x03 false g 0 0 0 0 0 (WMod.pack ⟨0, 0, 0, 0, 0, mask⟩))
  | .addF32 g sf rm d a b => some (encF2 0x00 g sf (modRm rm) d a b)
  | .subF32 g sf rm d a b => some (encF2 0x01 g sf (modRm rm) d a b)
  | .mulF32 g sf rm d a b => some (encF2 0x02 g sf (modRm rm) d a b)
  | .fmaF32 g sf rm d a b c => some (encF3 0x03 g sf (modRm rm) d a b c)
  | .fmsF32 g sf rm d a b c => some (encF3 0x04 g sf (modRm rm) d a b c)
  | .fnmaF32 g sf rm d a b c => some (encF3 0x05 g sf (modRm rm) d a b c)
  | .minF32 g sf d a b => some (encF2 0x06 g sf 0 d a b)
  | .maxF32 g sf d a b => some (encF2 0x07 g sf 0 d a b)
  | .absF32 g d a => some (encF1 0x08 g false 0 d a)
  | .negF32 g d a => some (encF1 0x09 g false 0 d a)
  | .divF32 g sf rm d a b => some (encF2 0x0A g sf (modRm rm) d a b)
  | .sqrtF32 g sf rm d a => some (encF1 0x0B g sf (modRm rm) d a)
  | .rcpF32 g sf d a => some (encF1 0x0C g sf 0 d a)
  | .rsqrtF32 g sf d a => some (encF1 0x0D g sf 0 d a)
  | .exp2F32 g sf d a => some (encF1 0x0E g sf 0 d a)
  | .log2F32 g sf d a => some (encF1 0x0F g sf 0 d a)
  | .copysignF32 g d a b => some (encF2 0x10 g false 0 d a b)
  | .classF32 g d a => some (encF1 0x11 g false 0 d a)
  | .rintF32 g sf rm d a => some (encF1 0x12 g sf (modRm rm) d a)
  | .addPacked g sf rm sat ty d a b => some (encP2 0x00 g sf rm sat ty d a b)
  | .subPacked g sf rm sat ty d a b => some (encP2 0x01 g sf rm sat ty d a b)
  | .mulPacked g sf rm sat ty d a b => some (encP2 0x02 g sf rm sat ty d a b)
  | .fmaPacked g sf rm sat ty d a b c => some (wordA 0x11 0x03 sf g (opdEnc d) (opdEnc a) (opdEnc b) (opdEnc c)
      ty.code (modP rm sat ty))
  | .minPacked g sf rm sat ty d a b => some (encP2 0x04 g sf rm sat ty d a b)
  | .maxPacked g sf rm sat ty d a b => some (encP2 0x05 g sf rm sat ty d a b)
  | .absPacked g sf rm sat ty d a => some (encP1 0x06 g sf rm sat ty d a)
  | .negPacked g sf rm sat ty d a => some (encP1 0x07 g sf rm sat ty d a)
  | .dot2 g sf rm d a b c => some (wordA 0x11 0x08 sf g (opdEnc d) (opdEnc a) (opdEnc b) (opdEnc c) 5 (modRm rm))
  | .dot4B8 g sf rm f d a b c => some (wordA 0x11 0x09 sf g (opdEnc d) (opdEnc a) (opdEnc b) (opdEnc c) 6
      (modP rm .max (.b8 f)))
  | .cvt g sf rm sat dty sty d a => some (wordA 0x18 (0#3 ++ dty.code) sf g (opdEnc d) (opdEnc a) 0 0 sty.code
      (WMod.pack ⟨rmEnc rm, satEnc sat, dty.fBits, dty.uBit, sty.uBit, sty.fBits⟩))
  | .pk2 g sf rm sty d a b => some (wordA 0x19 0x00 sf g (opdEnc d) (opdEnc a) (opdEnc b) 0 sty.ty.code (modRm rm))
  | .pk4 g sf rm sat dty src d a b c => some (wordA 0x19 0x01 sf g (opdEnc d) (opdEnc a) (opdEnc b) (opdEnc c)
      src.ty.code (WMod.pack ⟨rmEnc rm, satEnc sat, quadEnc dty, BitVec.ofBool src.hi, 0, 0⟩))
  | .upk g ty e d a => some (wordA 0x19 0x02 false g (opdEnc d) (opdEnc a) 0 0 ty.ty.code
      (WMod.pack ⟨0, e, 0, 0, ty.ty.uBit, ty.ty.fBits⟩))
  | .scl g sf rm d a b => some (wordA 0x19 0x03 sf g (opdEnc d) (opdEnc a) (opdEnc b) 0 4 (modRm rm))
  | .bscale g f d a => some (wordA 0x19 0x04 false g (opdEnc d) (opdEnc a) 0 0 4
      (WMod.pack ⟨0, 0, b8Enc f, 0, 0, 0⟩))
  | .cmp g sf cond ty d a b => some (wordA 0x1C (condEnc cond) sf g (opdEnc d) (opdEnc a) (opdEnc b) 0 ty.code 0)
  | .cmpImm g cond d a imm => some (encImm 0x1D (condImmEnc cond) g d a imm)
  | .pAnd g d a b => some (wordA 0x1E 0x00 false g (opdEnc d) (opdEnc a) (opdEnc b) 0 0 0)
  | .pOr g d a b => some (wordA 0x1E 0x01 false g (opdEnc d) (opdEnc a) (opdEnc b) 0 0 0)
  | .pXor g d a b => some (wordA 0x1E 0x02 false g (opdEnc d) (opdEnc a) (opdEnc b) 0 0 0)
  | .pNot g d a => some (wordA 0x1E 0x03 false g (opdEnc d) (opdEnc a) 0 0 0 0)
  | .pAndn g d a b => some (wordA 0x1E 0x04 false g (opdEnc d) (opdEnc a) (opdEnc b) 0 0 0)
  | .pMov g d a => some (wordA 0x1E 0x05 false g (opdEnc d) (opdEnc a) 0 0 0 0)
  | .ldDev g size data m => some (wordM 0x20 0x00 false g data m (sizeEnc size))
  | .ldAcqDev g size data m => some (wordM 0x20 0x01 false g data m (sizeEnc size))
  | .ldLoc g size data m => some (wordM 0x20 0x02 false g data m (sizeEnc size))
  | .ldAcqLoc g size data m => some (wordM 0x20 0x03 false g data m (sizeEnc size))
  | .stDev g size data m => some (wordM 0x21 0x00 false g data m (sizeEnc size))
  | .stRelDev g size data m => some (wordM 0x21 0x01 false g data m (sizeEnc size))
  | .stLoc g size data m => some (wordM 0x21 0x02 false g data m (sizeEnc size))
  | .stRelLoc g size data m => some (wordM 0x21 0x03 false g data m (sizeEnc size))
  | .atom g sf op ty data m => some (wordM 0x22 (atomOpEnc op) sf g data m (atyEnc ty))
  | .red g sf op ty data m => some (wordM 0x22 (8 + atomOpEnc op) sf g data m (atyEnc ty))
  | .fence g scope mask => some (wordA 0x23 (scopeEnc scope) false g 0 0 0 0 0 mask)
  | .eqWait g n => some (wordA 0x24 0x00 false g 0 0 0 0 0 (0#12 ++ n))
  | .spill g a n => some (wordI 0x27 0x38 g 0 (0#2 ++ a) (0#27 ++ n))
  | .fill g d n => some (wordI 0x27 0x39 g (0#2 ++ d) 0 (0#27 ++ n))
  | .strmRd c port desc => some (wordS 0x28 0x00 c (0#1 ++ port) desc 0)
  | .strmWr c port desc => some (wordS 0x28 0x01 c (0#1 ++ port) desc 0)
  | .engBar c => some (wordS 0x28 0x02 c 0 0 0)
  | .cpIn c desc => some (wordS 0x29 0x00 c 0 desc 0)
  | .cpOut c desc => some (wordS 0x29 0x01 c 0 desc 0)
  | .cpLocal c desc => some (wordS 0x29 0x02 c 0 desc 0)
  | .cpPush c port desc => some (wordS 0x29 0x03 c (0#1 ++ port) desc 0)
  | .cpPushz c port desc => some (wordS 0x29 0x04 c (0#1 ++ port) desc 0)
  | .cpPop c port desc => some (wordS 0x29 0x05 c (0#1 ++ port) desc 0)
  | .cpPopd c port desc => some (wordS 0x29 0x06 c (0#1 ++ port) desc 0)
  | .chPush g tag rel n a => some (wordA 0x2C 0x00 false g (chEnc n) (opdEnc a) 0 0 0
      (0#12 ++ BitVec.ofBool rel ++ tag))
  | .chPop g tag acq d n => some (wordA 0x2C 0x01 false g (opdEnc d) (chEnc n) 0 0 0
      (0#11 ++ BitVec.ofBool tag.isNone ++ BitVec.ofBool acq ++ tag.getD 0))
  | .chPeek g tag d n => some (wordA 0x2C 0x02 false g (opdEnc d) (chEnc n) 0 0 0
      (0#11 ++ BitVec.ofBool tag.isNone ++ 0#1 ++ tag.getD 0))
  | .chTag g d n => some (wordA 0x2C 0x03 false g (opdEnc d) (chEnc n) 0 0 0 0)
  | .chCtl g sub dst a => some (wordA 0x2C 0x04 false g (chNameEnc dst) (opdEnc a) 0 0 0 (subEnc sub))
  | .steer g inv ty d a p f => some (wordA 0x2D 0x00 false g (opdEnc d) (opdEnc a) (opdEnc p) (opdEnc f) ty.code
      (modTy ty inv))
  | .merge g inv ty d a b p => some (wordA 0x2D 0x01 false g (opdEnc d) (opdEnc a) (opdEnc b) (opdEnc p) ty.code
      (modTy ty inv))
  | .amerge g ty d a b c => some (wordA 0x2D 0x02 false g (opdEnc d) (chEnc a) (chEnc b)
      ((c.map chEnc).getD 87) ty.code (modTy ty false))
  | .lgen g d a st c => some (wordA 0x2E 0x00 false g ((d.map chEnc).getD 55) (chEnc a) (sEnc st)
      ((c.map (fun n => (8#4 ++ n : BitVec 7))).getD 55) 0 0)
  | .br g tgt => some (wordJ 0x30 0x00 g tgt 0 0 0)
  | .brC g cond tgt other => some (wordJ 0x30 0x01 g tgt other 0 (0#12 ++ opdEnc cond))
  | .exit g => some (wordJ 0x30 0x02 g 0 0 0 0)
  | .exitAbandon g => some (wordJ 0x30 0x03 g 0 0 0 0)
  | .loop n count last => some (wordJ 0x31 0x00 ⟨false, 7⟩ (0#6 ++ last) 0 (0#2 ++ n) count)
  | .loopR n st last => some (wordJ 0x31 0x01 ⟨false, 7⟩ (0#6 ++ last) 0 (0#2 ++ n) (0#12 ++ sEnc st))
  | .thrNew g d a blk => some (wordI 0x34 0x00 g (opdEnc d) (opdEnc a) (0#21 ++ blk))
  | .grpJoin g a => some (wordA 0x34 0x01 false g 0 (opdEnc a) 0 0 0 0)
  | .grpLeave g a => some (wordA 0x34 0x02 false g 0 (opdEnc a) 0 0 0 0)
  | .barSet g region n a => some (wordA 0x35 0x00 false g 0 (opdEnc a) 0 0 0 (0#10 ++ BitVec.ofBool region ++ n))
  | .barBind g region n a => some (wordA 0x35 0x01 false g 0 (opdEnc a) 0 0 0 (0#10 ++ BitVec.ofBool region ++ n))
  | .barArrive g region n => some (wordA 0x35 0x02 false g 0 0 0 0 0 (0#10 ++ BitVec.ofBool region ++ n))
  | .slotClaim c first m => some (wordS 0x36 0x00 c first 0 (0#17 ++ m))
  | .slotFill c first m ch desc => some (wordS 0x36 0x01 c first desc
      (0#13 ++ BitVec.ofBool ch.isSome ++ ch.getD 0 ++ m))
  | .slotRel c first m => some (wordS 0x36 0x02 c first 0 (0#17 ++ m))
  | .cubeMm c desc => some (wordS 0x37 0x00 c 0 desc 0)
  | .cubeGate c desc => some (wordS 0x37 0x01 c 0 desc 0)
  | .cubeSpread c desc => some (wordS 0x37 0x02 c 0 desc 0)
  | .cubeFold c desc => some (wordS 0x37 0x03 c 0 desc 0)
  | .cubeBind c gate chI chO desc => some (wordS 0x37 0x04 c (0#1 ++ chI) desc (0#17 ++ BitVec.ofBool gate ++ chO))
  | .cubeUnbind c => some (wordS 0x37 0x05 c 0 0 0)
  | .acsLd g d a off => some (wordA 0x38 0x00 false g (opdEnc d) (opdEnc a) 0 0 4 off)
  | .acsSt g a b off => some (wordA 0x38 0x01 false g 0 (opdEnc a) (opdEnc b) 0 4 off)
  | .cirConvert c arr pmask => some (wordS 0x3A 0x00 c 0 0 (0#8 ++ pmask ++ arr))
  | .cirSched c arr desc => some (wordS 0x3A 0x01 c 0 desc (0#16 ++ arr))
  | .cirRun c arr => some (wordS 0x3A 0x02 c 0 0 (0#16 ++ arr))
  | .cirRunf c arr => some (wordS 0x3A 0x03 c 0 0 (0#16 ++ arr))
  | .cirHalt c arr => some (wordS 0x3A 0x04 c 0 0 (0#16 ++ arr))
  | .cirRevert c arr => some (wordS 0x3A 0x05 c 0 0 (0#16 ++ arr))
  | .cirPageout c arr page desc => some (wordS 0x3A 0x06 c 0 desc (0#13 ++ page ++ arr))
  | .cirPagein c arr page desc => some (wordS 0x3A 0x07 c 0 desc (0#13 ++ page ++ arr))
  | .sregRd g d a r => some (wordA 0x3C 0x00 false g (regEnc d) (opdEnc a) 0 0 0 (sregEnc r))
  | .sregWr g d a b r => some (wordA 0x3C 0x01 false g (opdEnc d) (opdEnc a) (opdEnc b) 0 0 (sregEnc r))
  | .capRd g d a off => some (wordA 0x3C 0x02 false g (regEnc d) (opdEnc a) 0 0 0 off)
  | .capWr g d a b off => some (wordA 0x3C 0x0C false g (opdEnc d) (opdEnc a) (opdEnc b) 0 0 off)
  | .trapRd g n => some (wordA 0x3C 0x03 false g (sEnc n) 0 0 0 0 0)
  | .trapAct g op d a => some (wordA 0x3C 0x04 false g (opdEnc d) (opdEnc a) 0 0 0 (trapOpEnc op))
  | .trapFwd g d => some (wordA 0x3C 0x05 false g (opdEnc d) 0 0 0 0 0)
  | .cfgSel g sel other a => some (wordA 0x3C 0x07 false g 0 (opdEnc a) 0 0 0
      (0#13 ++ BitVec.ofBool other ++ selEnc sel))
  | .cfgLd c s1 arm start desc => some (wordS 0x3C 0x06 c
      (0#1 ++ BitVec.ofBool start ++ BitVec.ofBool arm ++ BitVec.ofBool s1) desc 0)
  | .preempt c desc => some (wordS 0x3C 0x08 c 0 desc 0)
  | .restore c desc => some (wordS 0x3C 0x09 c 0 desc 0)
  | .nmqSub c desc => some (wordS 0x3C 0x0A c 0 desc 0)
  | .nmqPoll g d a => some (wordA 0x3C 0x0B false g (opdEnc d) (opdEnc a) 0 0 0 0)
  | .mark g a => some (wordA 0x3D 0x00 false g 0 (opdEnc a) 0 0 0 0)
  | .perfRd g d n => some (wordA 0x3D 0x01 false g (regEnc d) 0 0 0 0 (0#10 ++ n))
  | .engineQueueIssue .. | .commandRetire .. | .returnDatum .. | .returnGroupComplete ..
  | .translationWalk .. | .atomicPipelineCycle .. | .selection .. | .eoiForward .. | .eosForward ..
  | .drnForward .. | .probeArrival .. | .syncArrival .. | .setCompletion .. | .planeSwap ..
  | .regionComplete .. | .regionPlacement .. | .preemptiveLaunch .. | .preemptionComplete ..
  | .strayToken .. | .strayDiscardEnd .. | .strayDiscardAll .. | .lullSweep .. | .borderDelivery ..
  | .circuitStep .. | .circuitControlForward .. | .conversionComplete .. | .slotClearDone ..
  | .cubeDigestsComplete .. | .cubeStreamFiring .. | .cubeControlForward .. | .portNodeInvocation ..
  | .bsuLaunch | .bsuResume | .bsuAbort | .bsuQuery | .nmqCommandDone | .bsuNodeFire ..
  | .bsuLoadReturn .. | .bsuLinkArrival .. | .nmqTailWrite .. | .activationAlert .. | .mitigationEnd ..
  | .patrolScrub .. | .storageScrub .. | .channelNarrow .. | .channelRetire .. | .tileHealthClear ..
  | .cxlLinkDown .. | .clockSupplyFault | .peerTimeout .. | .inboundAccess .. | .mailboxWrite ..
  | .mailboxDelivery .. | .faultDoorbell | .powerOnReset | .recoveryLoad .. | .keyLoad ..
  | .keyInvalidate .. | .keyCommandComplete | .xinvAll .. | .xinvAsid .. | .xinvPage .. | .xinvKeyid ..
  | .invalidationComplete .. | .xfsvcWrite .. | .checkpointSave | .checkpointRestore | .checkpointDone
  | .fltResume .. | .fltSkip .. | .fltRetire .. | .fltResumeCommand .. | .fltAbandonCommand ..
  | .fltResumeSet .. | .dbgHalt .. | .dbgResume .. | .dbgStep .. | .dbgRead .. | .dbgWrite ..
  | .haltComplete .. | .driftDrain .. | .gustWalkHop .. | .treeSync .. | .replayDiverge ..
  | .perturbRead .. | .enrol .. | .attest | .setDebug .. | .release | .powerRequest .. | .boardPowerOff
  | .i3cCapWrite .. | .i3cWake | .registerWrite .. | .engineProgress .. | .tokenArrival .. | .slotReturn ..
  | .bsuStorePerformed .. | .singleFault .. | .regionEnd .. => none

end Sys2Proof
end

