-- ==== Sys2Proof/Config.lean ====
section
/-!
DEFINITION. What one part fixes and the spec does not state, and the free values: opaque constants without a body, so
that no proof can learn a value of them (log entries 2 and 4). A free value that may differ each time it is asked for is
applied to `State.tick`, a plain counter that every step advances.
-/
namespace Sys2Proof.Config

/-- A fresh choice among moves, candidates or orders that no rule fixes (log entry 6). -/
opaque freeChoice : Nat → Nat → Nat
/-- A 64-bit value that no rule states: times, cycle counts, measurements, nonces (log entry 4). -/
opaque freeWord : Nat → Nat → BitVec 64
/-- A bit that no rule states: whether a check over keys not given passes, whether a peer answers (log entry 4). -/
opaque freeBit : Nat → Nat → Bool
/-- The bank (0 to 31) that holds an address: the spec gives banks for diagnosis only (R33, R35; log entry 4). -/
opaque bankOf : Nat → Nat
/-- The Nukan port (0 to 17) that the fabric's routing assigns to a device id (R262, R452; log entry 4). -/
opaque remotePort : Nat → Nat
/-- The fused secret from which the identity key is derived (R268; log entry 3). -/
opaque identitySecret : Nat
/-- The secret numbers that the part's signatures use, by step and attempt (R271; log entry 3). -/
opaque signSecret : Nat → Nat → Nat
/-- The manufacturer's signature over the public identity key (R268; log entry 2). -/
opaque mfgSignature : BitVec 768
/-- The firmware key whose digest is fused, as its 96 bytes (R266; log entry 3). -/
opaque firmwareKey : List (BitVec 8)
/-- The firmware image in the module's flash, as a boot at a step finds it (R267; log entry 3). -/
opaque flashImage : Nat → List (BitVec 8)

end Sys2Proof.Config
end

