-- ==== Sys2Proof/Machine/Sparse.lean ====
section
/-!
DEFINITION. Sparse maps in one canonical form: pairs with strictly rising keys. With a default value, no pair holds
the default, so that equal maps are equal lists. Memories are such maps from byte address to byte (Host.Cell).
-/
namespace Sys2Proof.Machine

/-- A map from numbers, its keys strictly rising. -/
abbrev SMap (α : Type) := List (Nat × α)

/-- The value at a key, if listed. -/
def SMap.look {α : Type} : SMap α → Nat → Option α
  | [], _ => none
  | (k, v) :: m, n => if n = k then some v else if n < k then none else SMap.look m n

/-- The value at a key, or the default that an unlisted key reads as. -/
def SMap.get {α : Type} (d : α) (m : SMap α) (n : Nat) : α := (m.look n).getD d

/-- List a value at a key. -/
def SMap.insert {α : Type} : SMap α → Nat → α → SMap α
  | [], n, v => [(n, v)]
  | (k, w) :: m, n, v =>
    if n = k then (n, v) :: m else if n < k then (n, v) :: (k, w) :: m else (k, w) :: SMap.insert m n v

/-- List nothing at a key. -/
def SMap.erase {α : Type} : SMap α → Nat → SMap α
  | [], _ => []
  | (k, w) :: m, n => if n = k then m else if n < k then (k, w) :: m else (k, w) :: SMap.erase m n

/-- Write a value; writing the default lists nothing. -/
def SMap.put {α : Type} [DecidableEq α] (d : α) (m : SMap α) (n : Nat) (v : α) : SMap α :=
  if v = d then m.erase n else m.insert n v

/-- Keys strictly rise from `lo`, and no listed value is the default. -/
def SMap.wfFrom {α : Type} [DecidableEq α] (d : α) : Nat → SMap α → Bool
  | _, [] => true
  | lo, (k, v) :: m => decide (lo ≤ k) && decide (v ≠ d) && SMap.wfFrom d (k + 1) m

/-- The canonical form. -/
def SMap.wf {α : Type} [DecidableEq α] (d : α) (m : SMap α) : Bool := SMap.wfFrom d 0 m

/-- The keys that are listed. -/
def SMap.keys {α : Type} (m : SMap α) : List Nat := m.map Prod.fst

/-- A byte memory: cells with rising addresses; an unlisted byte reads as zero (R27, R80: the boot ROM writes zeros). -/
abbrev Memory := List Host.Cell

/-- The canonical form of a memory: addresses strictly rise and no listed byte is zero. -/
def Memory.wf (m : Memory) : Bool := SMap.wf (0 : Byte) m

/-- One byte. -/
def Memory.read (m : Memory) (a : Nat) : Byte := SMap.get 0 m a

/-- Write one byte. -/
def Memory.write (m : Memory) (a : Nat) (b : Byte) : Memory := SMap.put 0 m a b

/-- `n` bytes from `a` upward, the lowest address in the lowest bits (R3). -/
def Memory.readLE (m : Memory) (a : Nat) : Nat → Nat
  | 0 => 0
  | n + 1 => (Memory.read m a).toNat + 256 * Memory.readLE m (a + 1) n

/-- Write the low `n` bytes of a value from `a` upward. -/
def Memory.writeLE (m : Memory) (a : Nat) : Nat → Nat → Memory
  | 0, _ => m
  | n + 1, v => Memory.writeLE (Memory.write m a (BitVec.ofNat 8 v)) (a + 1) n (v / 256)

/-- The bytes from `a` upward. -/
def Memory.bytes (m : Memory) (a : Nat) : Nat → List Byte
  | 0 => []
  | n + 1 => Memory.read m a :: Memory.bytes m (a + 1) n

/-- Write bytes from `a` upward. -/
def Memory.writeBytes (m : Memory) (a : Nat) : List Byte → Memory
  | [] => m
  | b :: bs => Memory.writeBytes (Memory.write m a b) (a + 1) bs

/-- A set of numbers: a rising list. -/
abbrev NSet := List Nat

def NSet.has (s : NSet) (n : Nat) : Bool := s.contains n

def NSet.add : NSet → Nat → NSet
  | [], n => [n]
  | k :: s, n => if n = k then k :: s else if n < k then n :: k :: s else k :: NSet.add s n

def NSet.drop (s : NSet) (n : Nat) : NSet := s.filter (· != n)

end Sys2Proof.Machine
end

