-- ==== Sys2Proof/Machine/Parts.lean ====
section
/-!
DEFINITION. The plain data that State is made of: tokens and channels (spec/07), set entries, blocks, threads, sweeps
and engine commands (spec/09, 11, 12, 13), accesses not yet performed (spec/17, 28), translations (spec/03),
arrays, slots and the cube (spec/05, 06, 10), bank-side units (spec/04), regions and launches (spec/11, 12, 14).
-/
namespace Sys2Proof.Machine

/-! ### Tokens and channels -/

/-- What something waits for (R10, R305, R448): access `acc` performed at the level of a scope of R305 (1 set, 2 tile, 3 region, 4 the whole
part), and, when `deep`, everything that the access is itself ordered after at that level too. -/
structure Need where
  acc : Nat
  lvl : Nat
  deep : Bool
  deriving DecidableEq, Repr

/-- A token (R119, R120). A predicate token (R129) carries its VALUE under tag 0; its marker is the control token
of its subtype. `rel` names what a .rel push releases: the token enters its channel once that has been performed (R352). -/
structure Token where
  tag : BitVec 3
  val : Word
  rel : List Need := []
  deriving DecidableEq, Repr

/-- One end of a channel: a tile's numbered end (R123), a link of a bank-side unit (R126), or an end of another
part of the domain (device id, tile, end). -/
inductive ChEnd where
  | tile (tile endNo : Nat)
  | link (channel link : Nat)
  | remote (dev tile endNo : Nat)
  | none
  deriving DecidableEq, Repr

/-- A channel of a loaded plane (R124 to R131). Tokens stand in `buf` at the consumer, in `fly` on the carrier,
and, past a border, in the receiving converter's `win`; heads first. `strays` counts the tokens of `buf` recorded as stray (R199), `late` those that reached a source end after it had closed, `tracks` the tile and move of each hop of a
static route (R127). `pushed`
and `popped` count tokens, `made` notes which firing made each of the last 64 pushes, newest first, and `headSince` and `freeSince` are the steps
since which the present head has stood at its end and the producer has had a free slot (R253). -/
structure Chan where
  pid : Nat
  prod : ChEnd
  cons : ChEnd
  cap : Nat
  free : Nat
  pred : Bool
  b8 : Option B8
  dyn : Bool
  xc : Nat
  cross : Bool
  buf : List Token
  fly : List Token
  win : List Token
  rets : Nat
  sent : Nat
  delivered : Nat
  strays : Nat
  late : Nat
  tracks : List (Nat × Nat)
  pushed : Nat
  popped : Nat
  made : List (Option (Nat × Nat))
  headSince : Nat := 0
  freeSince : Nat := 0
  deriving DecidableEq, Repr

/-! ### Sets -/

inductive SetType where
  | ag | cp | rd
  deriving DecidableEq, Repr

/-- A set entry of an image (R202). Ends are 255 for none. -/
structure SetEntry where
  tile : Nat
  oct : Nat
  wl : Nat
  typ : SetType
  sup : Bool
  entry : Nat
  nthr : Nat
  nblk : Nat
  pool : Nat
  grp : BitVec 22
  kinit : BitVec 8
  spmap : Double
  sinit : List Double
  chin : List Nat
  chout : List Nat
  pcin : List Nat
  pcout : List Nat
  deriving DecidableEq, Repr

inductive BlockMode where
  | thread | token | trap
  deriving DecidableEq, Repr

/-- A channel condition of a trigger header: `tag = none` for any tag (R184). -/
structure TrigIn where
  ch : Nat
  tag : Option (BitVec 3)
  deriving DecidableEq, Repr

/-- A block: its header's fields (R184) and the pool word, within the set's own pool, that holds the header. -/
structure Block where
  len : Nat
  pri : Nat
  kmask : BitVec 8
  kval : BitVec 8
  in1 : Option TrigIn
  in2 : Option TrigIn
  out : Option Nat
  mode : BlockMode
  qroom : Bool
  pool : Nat
  deriving DecidableEq, Repr

/-- One hardware loop: count, first and last instruction (R349). -/
structure LoopReg where
  c : Nat
  s : Nat
  e : Nat
  deriving DecidableEq, Repr

/-- The four loop levels. -/
structure Loops where
  l0 : LoopReg
  l1 : LoopReg
  l2 : LoopReg
  l3 : LoopReg
  deriving DecidableEq, Repr

def LoopReg.zero : LoopReg := ⟨0, 0, 0⟩
def Loops.zero : Loops := ⟨.zero, .zero, .zero, .zero⟩

/-- What a parked thread waits for at a channel (R213, R358): a token, or a data token, behind `n` others, a data head at one of several
ends, or a free slot. Ends are tile end numbers. -/
inductive ChNeed where
  | head (e : Nat) (n : Nat := 0)
  | data (e : Nat) (n : Nat := 0)
  | anyData (es : List Nat)
  | room (e : Nat)
  deriving DecidableEq, Repr

/-- Why a thread is parked (R213), with what clears it; `clear` when nothing holds it. -/
inductive Cause where
  | groups (ids : List Nat)
  | chan (needs : List ChNeed)
  | barrier (region : Bool) (n : Nat)
  | held (region : Bool) (n : Nat) (at' : Nat)
  | exitQueue
  | queueFull
  | event (n : Nat)
  | command (seq : Nat)
  | clear
  deriving DecidableEq, Repr

/-- Where a live thread stands: idle (the anchor), in a block's waiting vector, in the running sweep, parked in a
block's resume vector, or in the faulted vector. -/
inductive Place where
  | idle
  | waiting (blk : Nat)
  | sweep
  | parked (blk idx : Nat) (why : Cause)
  | faulted (blk idx : Nat)
  deriving DecidableEq, Repr

/-- A live thread (R154, R157). Its x registers stand in the LVS. `trap` holds where the anchor is parked within a trap
block, which runs whatever the anchor's own place (R185). `leaving` names the barrier that a released thread leaves when it
next issues, `trapLeaving` the one that its trap block does (R190). `after` holds, for classes of a mask, what
its later accesses of those classes are ordered after (fences, barriers, creation); `fenced` what its
fences order before later engine commands (R305); `since` the step from which its loads may see memory, that of the last event that orders
them after others; `seen` the latest step at which a load of it has seen memory (R449, R450). `retiring` marks a thread that a fault action has retired and that still waits
for its return groups or its queue (R187, R229). `home` is the waiting vector that the last firing took the anchor from (R185): a store of that firing may still fault once it has ended, and the
anchor then resumes in it (R453). -/
structure Thread where
  q : BitVec 7
  ff : BitVec 5
  next : Option Nat
  place : Place
  loops : Loops
  solo : Bool
  after : List (BitVec 16 × List Need)
  fenced : List Need
  since : Nat
  seen : Nat
  trap : Option (Nat × Nat × Cause)
  trapLoops : Loops
  leaving : Option (Bool × Nat)
  trapLeaving : Option (Bool × Nat)
  retiring : Bool
  home : Option Nat
  deriving DecidableEq, Repr

def Thread.fresh (p : Place) : Thread := ⟨0, 0, none, p, .zero, false, [], [], 0, 0, none, .zero, none, none, false, none⟩

/-- A pass of a sweep: the position it took (R155), and its threads in lane order. -/
structure Pass where
  pos : Nat
  tids : List Nat
  deriving DecidableEq, Repr

/-- The running sweep (R208, R212): the block, the instruction being issued, its remaining passes, how many of them
it has issued to, where a loop of count 0 continues, the loop registers, the threads of the current pass that a
set fault found already served (R224), and the index whose one thread came with a solo mark (R230). -/
structure Sweep where
  blk : Nat
  mode : BlockMode
  idx : Nat
  passes : List Pass
  cur : Nat
  jump : Option Nat
  loops : Loops
  done : List Nat
  alone : Option Nat
  deriving DecidableEq, Repr

/-- A destination that a return group marks pending (R160, R322). -/
inductive Mark where
  | opd (o : Opd)
  | ff
  deriving DecidableEq, Repr

/-- What a return delivers for one thread: a value computed at issue; a store's check; an atomic's old value, once its request is accepted
(`reply`); the value of an access of `State.accs`, which its thread does not pass while the access is still to be translated (`place`), or when it goes to
another node (`peer`, R262); or the read and write of a register, made when the return is (that of an event-queue snapshot is no access, R451). `wide` marks a 64-bit destination. -/
inductive Late where
  | value (v : Double)
  | load (acc : Nat) (size : LdSize)
  | place (acc : Nat) (size : LdSize)
  | peer (acc : Nat) (size : LdSize)
  | check (acc : Nat)
  | atom (acc : Nat)
  | reply (v : Double)
  | acs (idx : Nat) (acc : Nat)
  | sregRd (target : Word) (r : SReg) (acc : Option Nat)
  | sregWr (target : Word) (r : SReg) (v : Double) (acc : Nat)
  | capRd (o : Nat)
  | capWr (o : Nat) (v : Double) (acc : Nat)
  | nmq (slot : Nat)
  deriving DecidableEq, Repr

/-- One thread of a return group: its destination and the tag it pushes with, the flags that arrive with it, and
whether its datum has returned. -/
structure Member where
  tid : Nat
  dst : Option Opd
  wide : Bool
  tag : BitVec 3
  flags : BitVec 5
  late : Late
  done : Bool
  deriving DecidableEq, Repr

/-- A return group (R160, R453): the block and instruction that made it, the marks it sets for each of its threads,
its members, the loop registers and block mode a late fault resumes with, and the firing that a late push belongs to (R253). -/
structure Group where
  blk : Nat
  idx : Nat
  marks : List Mark
  members : List Member
  loops : Loops
  inTrap : Bool
  firing : Option (Nat × Nat) := none
  deriving DecidableEq, Repr

/-- An entry of the faulted vector (R223, R225, R393): a record, whose it is, and whether it has been forwarded. -/
structure FaultEntry where
  w0 : Double
  w1 : Double
  w2 : Double
  w3 : Double
  eng : Bool
  who : Nat
  forwarded : Bool
  deriving DecidableEq, Repr

/-! ### Engine commands -/

/-- Where a command stands (R215, R225): queued; issued; stopped at a fault; resumed and waiting until its engine can accept it again (R87);
or finished and waiting for room in its post queue (R218). -/
inductive CmdAt where
  | queued | issued | stopped | resuming | posting
  deriving DecidableEq, Repr

/-- An engine command (R307): its instruction, the descriptor address captured on entry, the block and instruction that
issued it, the accesses its issue and its accesses are ordered after, its sequence number (R225), INVOC at issue, and its
progress: the stage, the descriptor, the next element or byte or panel, bytes read ahead of a copy, values that the
command holds by index, and numbers that its kind uses. -/
structure Cmd where
  i : Instr
  addr : Double
  blk : Nat
  idx : Nat
  gate : List Need
  after : List Need
  at' : CmdAt
  seq : Nat
  invoc : BitVec 24
  stage : Nat
  ds : List Double
  pos : Nat
  buf : List Byte
  held : SMap Nat
  aux : List Nat
  deriving DecidableEq, Repr

/-! ### Accesses not yet performed -/

/-- Where an access goes: an address that is still to be translated and checked (`virt`), the issuing tile's memory tile, a physical address of this part with its key id, another node of the domain, a whole
line that another node writes (R28, R262), a register or configuration access of R390 and R392, or a word of the accumulator store. -/
inductive Place2 where
  | virt
  | tile (a : Nat)
  | dev (pa : Nat) (key : BitVec 12)
  | peer (dev : Nat) (pa : Nat)
  | line (n : Nat) (w : BitVec 512)
  | reg
  | acs (idx : Nat)
  deriving DecidableEq, Repr

inductive AccKind where
  | load | store
  | atom (op : AtomOp) (ty : ATy) (cmp : Double) (ret : Bool)
  | reg
  deriving DecidableEq, Repr

/-- An access that has been issued (R299, R300, R305, R381, R390): what `after` names is performed before it. `lvl` is the level at which it
has been performed: 0 not at all, 1 to 3 a store for the parties of its set, tile or region only, 4 for all; one that is performed stays here
while something that it is ordered after is not, or its write is not durable (R41, R448). `va` holds the virtual address for a fault record,
`base` the number of the first access of its pass (R59), `xctx` the translation context it was issued in,
`dur` what a device-scope fence that covers a store waits for (R41), `early` the step from which on a load may have seen memory (R449), `ended`
that its region is complete (R196). -/
structure Access where
  tile : Nat
  set : Nat
  tid : Nat
  kind : AccKind
  loc : Place2
  va : Double
  bytes : Nat
  data : Double
  cls : BitVec 16
  ac : BitVec 4
  acq : Bool
  rel : Bool
  checked : Bool
  after : List Need
  blk : Nat
  idx : Nat
  lvl : Nat := 0
  base : Nat := 0
  xctx : Double := 0
  dur : Option (List Need) := none
  early : Option Nat := none
  ended : Bool := false
  deriving DecidableEq, Repr

/-- A write that a double has had (R449): the step of the write, what the double held before it, and whether a load that is not ordered after the
write may still see that. -/
structure Past where
  tick : Nat
  old : Double
  ok : Bool
  deriving DecidableEq, Repr

/-- A write to physical memory (R41, R56, R77): what the double held before it, which the walker and the near-memory queue may still see, and
a loss of power may bring back; the access, its writer and its classes; and what a device-scope fence that covers the write waits for. -/
structure Fresh where
  was : Past
  acc : Nat
  tile : Nat
  set : Nat
  tid : Nat
  cls : BitVec 16
  waits : Option (List Need)
  deriving DecidableEq, Repr

/-- A record that waits for the bank of its ring (R33): of the memory event log, or of a region's fault queue. -/
structure RingWrite where
  log : Bool
  region : Nat
  w0 : Double
  w1 : Double
  w2 : Double
  w3 : Double
  deriving DecidableEq, Repr

/-! ### Translation -/

/-- A translation cache (R52): that of an AG set, of a tile, or of a die. -/
inductive XlAt where
  | set (tile set : Nat)
  | tile (tile : Nat)
  | die (die : Nat)
  deriving DecidableEq, Repr

/-- A cached leaf (R52): the cache that holds it, virtual page base, level and leaf entry. -/
structure Xlat where
  at' : XlAt
  asid : BitVec 16
  base : Nat
  level : Nat
  leaf : Double
  deriving DecidableEq, Repr

/-- A cached table entry of a die (R52): the index bits that reach it. -/
structure WalkEnt where
  die : Nat
  asid : BitVec 16
  level : Nat
  key : Nat
  entry : Double
  deriving DecidableEq, Repr

/-- Who waits for a walk: an access of a thread (by its number) or an engine command (by sequence number) of a set. -/
structure Waiter where
  tile : Nat
  set : Nat
  eng : Bool
  who : Nat
  deriving DecidableEq, Repr

/-- How a walk failed (R50, R51, R53): the code, whether the record carries the access kind of a walk, the leaf's key id. -/
structure WalkFail where
  code : BitVec 8
  walkKind : Bool
  key : BitVec 12
  deriving DecidableEq, Repr

/-- A missing page being walked (R52), until `res` holds how the walk failed. -/
structure Walk where
  die : Nat
  asid : BitVec 16
  xctx : Double
  va : Nat
  waiters : List Waiter
  res : Option WalkFail
  deriving DecidableEq, Repr

/-- An entry of a die's coalescing table (R54). -/
structure Coal where
  die : Nat
  asid : BitVec 16
  vpn : Nat
  wr : Bool
  deriving DecidableEq, Repr

/-! ### Set state -/

/-- The supervisor registers of set scope that hold bits of their own (R387); `bkptOn` holds the breakpoints as the set's last selection took
them (R244). -/
structure SetRegs where
  xctx : Double
  xinvBusy : Bool
  xinvErr : Bool
  xinvKeyid : BitVec 12
  xinvAsid : BitVec 16
  xinvAddr : Double
  xinvWait : List Nat
  rfqbase : Double
  spmap : Double
  fltErr : Bool
  fltId : BitVec 12
  bkpt : SMap Double
  bkptOn : SMap Double
  trcbase : Double
  trcctl : Double
  rplbase : Double
  rplctl : Double
  perturb : Double
  deriving DecidableEq, Repr

/-- Log entry 2, design choice. -/
def SetRegs.zero : SetRegs :=
  ⟨0, false, false, 0, 0, 0, [], 0, 0, false, 0, [], [], 0, 0, 0, 0, 0⟩

/-- The selector's memory of a block (R210): consecutive passings, the selection at which it became ready, and the
selection at which it qualified under rule 1. -/
structure Ready where
  passings : Nat
  since : Nat
  qual : Option Nat
  deriving DecidableEq, Repr

/-- A set of a plane (R183): its entry, blocks, registers, threads, sweep, queue and vectors; `fwd` are the control tokens that the
sequencer still has to push, with their ends, in order (R194); `knew` what the DRN tokens that it has popped have
ordered before what follows (R446); `probes` holds the PROBEs popped at its ends whose elements have still to fire (R255); `driftHeld` says that an event
of the set waits for room in Drift (R251); `kSince` and `roomSince` are the steps of the last change of each k bit and of the queue's last gain of
room (R253). -/
structure SetState where
  ent : SetEntry
  blocks : List Block
  sreg : SMap Double
  k : BitVec 8
  threads : SMap Thread
  sweep : Option Sweep
  groups : SMap Group
  queue : List Cmd
  cmdSeq : BitVec 12
  faulted : List FaultEntry
  stopped : Bool
  setFault : Bool
  selections : Nat
  ready : SMap Ready
  eoiInvoc : BitVec 24
  abandoned : BitVec 5
  completed : Bool
  eosOut : NSet
  drnOut : NSet
  eosSeen : Bool
  drnPassed : Bool
  knew : List Need
  fwd : List (Nat × Token)
  regs : SetRegs
  amLast : SMap Nat
  perf : SMap Nat
  probes : SMap (BitVec 16)
  syncs : NSet
  atomCount : BitVec 26
  driftHeld : Bool
  kSince : SMap Nat := []
  roomSince : Nat := 0
  deriving DecidableEq, Repr

/-- A piece of a Hokuo image as its load read it: physical address, length, key id, and whether it lies in another node's memory. -/
structure ImgPiece where
  pa : Nat
  n : Nat
  key : BitVec 12
  peer : Bool
  deriving DecidableEq, Repr

/-- A loaded plane: its load's number, its sets by first octet, CUBEGRP, the memory-tile bytes of its DATA section that are still to be
written (R203), the region that the tile joins when it swaps to the plane of a START load (R399), what every access of that region is
ordered after (R400), and where its image stands, which a restore reads again (R233, R237). -/
structure Plane where
  pid : Nat
  sets : SMap SetState
  cubegrp : Double
  data : List (Nat × List Byte)
  joins : Option Nat
  knew : List Need
  src : List ImgPiece
  deriving DecidableEq, Repr

/-! ### Tile units -/

/-- Storage and circuit modes of an array (R99, R101). -/
inductive ArrMode where
  | storage | converting | halted | running
  deriving DecidableEq, Repr

/-- A circuit array (R99 to R117): its mode, present pages, held values, held step, input latch and its validity, port read data,
circuit cycles since RUN.FRESH and whether the next step is the first since then, header and step doubles (empty for the values that
a conversion sets), tokens taken, EOIs forwarded, the set of its last RUN, the commands that have reached it in order, as (set,
sequence number), whether the present stall on an absent page has its notice, whether it holds the ends of its header (R106), what its
port accesses are ordered after, and the step from which on its port reads may see memory (R113, R449). Context words stand in the memory
tile's bytes. -/
structure Arr where
  mode : ArrMode
  present : BitVec 8
  vals : BitVec 32
  step : BitVec 7
  latch : Word
  valid : Bool
  pdata : Word
  cycles : BitVec 40
  first : Bool
  hdr : List Double
  sched : List Double
  taken : BitVec 48
  eoi : Word
  lastSet : Option Nat
  cmds : List (Nat × Nat)
  absent : Bool
  holds : Bool
  knew : List Need
  since : Nat
  deriving DecidableEq, Repr

def Arr.reset : Arr := ⟨.storage, 0, 0, 0, 0, false, 0, 0, false, [], [], 0, 0, none, [], false, false, [], 0⟩

/-- A slot of operand memory (R167). -/
inductive SlotSt where
  | free | clearing | claimed | filling | ready | inUse
  deriving DecidableEq, Repr

structure Slot where
  st : SlotSt
  owner : Nat
  readers : Nat
  deriving DecidableEq, Repr

def Slot.reset : Slot := ⟨.free, 0, 0⟩

/-- A cube binding in force (R175, R377): the set and block that made it, its sequence number, GATE, the channels, the descriptor,
the panel count n, the elements that stand in the two buffers, which buffer holds the oldest panel, whether the header of the block being
filled has been taken, whether it is stopped at a fault, and, for each panel that is whole, the number of its last token among those popped at its end and the
step at which it was taken (R253). -/
structure Binding where
  set : Nat
  seq : Nat
  blk : Nat
  gate : Bool
  chI : BitVec 3
  chO : BitVec 3
  ds : List Double
  panel : Nat
  fill : Nat
  odd : Bool
  headed : Bool
  fault : Bool
  whole : List (Nat × Nat) := []
  deriving DecidableEq, Repr

/-- The cube of a tile (R165 to R182): the commands that have reached it in order, as (set, sequence number), its
binding, the count of cooperative commands, the digests it has broadcast, and whether a fault has made its next comparison fail
(R179, R239). -/
structure Cube where
  cmds : List (Nat × Nat)
  binding : Option Binding
  coop : Nat
  digest : SMap Nat
  bad : Bool
  deriving DecidableEq, Repr

def Cube.reset : Cube := ⟨[], none, 0, [], false⟩

/-- A barrier (R190): its state, count, RELOAD, the group it is bound to, its waiters, and the arrivals
it holds, in order, with the accesses that the release is ordered after. -/
inductive BarSt where
  | unset | armed | releasing
  deriving DecidableEq, Repr

/-- Who arrives at a barrier: a thread, or the trap block that runs for an anchor. -/
structure Party where
  tile : Nat
  set : Nat
  tid : Nat
  trap : Bool
  deriving DecidableEq, Repr

structure Barrier where
  st : BarSt
  n : Nat
  reload : Nat
  key : Option (BitVec 16)
  waiters : List Party
  held : List Party
  accs : List Need
  deriving DecidableEq, Repr

def Barrier.reset : Barrier := ⟨.unset, 0, 0, none, [], [], []⟩

/-- A request of the atomic pipeline (R95): the access it belongs to and the cycle of its acceptance, if accepted, with
the new value. -/
structure AtomReq where
  acc : Nat
  age : Option Nat
  new : Double
  deriving DecidableEq, Repr

/-- A port node (R97, R98): its tile and number, the set whose TRCCTL its records follow (R250), window, direction (0 read, 1 read with zeros removed, 2 write, 3 write densified, 4 add),
end, pattern, class, event queue, next element, whether the scale header of its block has been moved and the invocation's wait made, values of
a densified row, invocation, atomics accepted, and whether it is stopped at a fault.
No section of an image encodes one, so none is ever placed (log entry 12). -/
structure PortNode where
  tile : Nat
  port : Nat
  set : Nat
  window : Nat
  len : Nat
  dir : Nat
  endNo : Nat
  ds : List Double
  ac : BitVec 4
  eq : Option Nat
  pos : Nat
  headed : Bool
  waited : Bool
  row : SMap Nat
  invoc : BitVec 24
  atoms : BitVec 26
  fault : Bool
  deriving DecidableEq, Repr

/-- A trace record of 32 bytes (R249). -/
structure TraceRec where
  w0 : Double
  w1 : Double
  w2 : Double
  w3 : Double
  deriving DecidableEq, Repr

/-- A firing's note (R253): its number among its element's firings, its last condition with the input end of that condition, the tokens that
had been popped there before, and the times of the condition and of the firing. -/
structure Note where
  num : Nat
  last : Nat
  inEnd : Option Nat
  pops : Nat
  arrival : Double
  time : BitVec 40
  set : Nat
  blk : Nat
  node : Word
  invoc : BitVec 24
  deriving DecidableEq, Repr

/-- A Gust walk (R254): probe id, hop, hops left, whose TRCCTL its records follow, and the firing of its next hop. -/
structure Gust where
  probe : BitVec 16
  hop : Nat
  left : Nat
  set : Nat
  note : Note
  deriving DecidableEq, Repr

/-- A latched selection of planes (R197). -/
inductive Latch where
  | s0 | s1
  deriving DecidableEq, Repr

/-- A tile (R11, R12). Byte memories read 0 where unlisted; words likewise. `past` holds the writes that doubles of the memory tile have had,
newest first (R449); `cirTurn` the circuits that have still to step in the present circuit cycle, and `cirWas` what every array exported at
its start (R105, R108). `strayRets` holds, for each channel that a discard has emptied, how
many slot returns the producer has still to receive until those of the discarded tokens are among them (R200). -/
structure Tile where
  mem : Memory
  memPoison : NSet
  past : SMap (List Past)
  cirTurn : NSet
  cirWas : SMap (List Bool)
  arrs : SMap Arr
  lvs : SMap Word
  lvsPoison : NSet
  pool : SMap Double
  poolPoison : NSet
  opmem : Memory
  opPoison : NSet
  slots : SMap Slot
  acs : SMap Word
  acsPoison : NSet
  eq : SMap Nat
  bars : SMap Barrier
  groups : SMap (List (Nat × Nat))
  active : Option Plane
  s0 : Option Plane
  s1 : Option Plane
  latch : Option Latch
  cube : Cube
  atomQ : List AtomReq
  ports : List PortNode
  passed : NSet
  strayRets : SMap Nat
  strayErr : Bool
  strayEnd : BitVec 8
  heldFor : Option Nat
  trgStart : Double
  trgStop : Double
  trgOpen : Option Nat
  drift : List TraceRec
  driftLost : Nat
  lastSync : BitVec 24
  gusts : List Gust
  firings : SMap Nat
  notes : SMap (List Note)
  perf : SMap Nat
  hind : SMap Nat
  deriving DecidableEq, Repr

/-- Log entry 1, design choice. -/
def Tile.reset : Tile where
  mem := []
  memPoison := []
  past := []
  cirTurn := []
  cirWas := []
  arrs := []
  lvs := []
  lvsPoison := []
  pool := []
  poolPoison := []
  opmem := []
  opPoison := []
  slots := []
  acs := []
  acsPoison := []
  eq := []
  bars := []
  groups := []
  active := none
  s0 := none
  s1 := none
  latch := none
  cube := .reset
  atomQ := []
  ports := []
  passed := []
  strayRets := []
  strayErr := false
  strayEnd := 0
  heldFor := none
  trgStart := 0
  trgStop := 0
  trgOpen := none
  drift := []
  driftLost := 0
  lastSync := 0
  gusts := []
  firings := []
  notes := []
  perf := []
  hind := []

/-! ### Bank-side units -/

/-- The states of a bank-side unit (R72, R34, R74): `aborting` until its accepted stores have completed. -/
inductive UnitSt where
  | idle | running | paused | faulted | aborting
  deriving DecidableEq, Repr

/-- A load of an LDP node (R63): its channel offset, the value once it has been performed, and the step at which it was issued. -/
structure BsuLoad where
  off : Nat
  val : Option Word
  at' : Nat
  deriving DecidableEq, Repr

/-- A store of an STP node: its channel offset, datum and the step at which it was issued. -/
structure BsuStore where
  off : Nat
  data : Word
  at' : Nat
  deriving DecidableEq, Repr

/-- A write that a unit's channel has performed and other parties do not see yet (R77): its key id, physical address and bytes. -/
structure BsuWrite where
  key : BitVec 12
  pa : Nat
  bytes : List Byte
  deriving DecidableEq, Repr

/-- A bank-side unit (R60 to R79): its state, graph entry, tokens by arc (4 × consumer + input) and those that a fault put back behind them
(R66), sums of ACC nodes with the tokens since the last emission and whether the sum of the EOI at the head has been emitted, runs of CNT nodes
in progress (next value and count), firings and EOIs by node, loads and stores by node, writes that only the unit sees yet, windows of arriving
packets and packets sent and not acknowledged by link, the alert history, the fault record, the last status, and the links whose arriving packets are
dropped. -/
structure BankUnit where
  st : UnitSt
  ent : List Double
  arcs : SMap Token
  back : SMap (List Token)
  acc : SMap (Word × Nat × Bool)
  runs : SMap (Nat × Nat)
  firings : SMap Nat
  eois : SMap Nat
  loads : SMap (List BsuLoad)
  stores : SMap (List BsuStore)
  wbuf : List BsuWrite
  links : SMap (List Token)
  linkOut : SMap (List Token)
  alerts : List Nat
  fault : List Double
  status : BitVec 8
  dropping : NSet
  deriving DecidableEq, Repr

/-- A unit that has never held a graph: a query of it answers 0x00 (log entry 24, DESIGN CHOICE). -/
def BankUnit.reset : BankUnit where
  st := .idle
  ent := []
  arcs := []
  back := []
  acc := []
  runs := []
  firings := []
  eois := []
  loads := []
  stores := []
  wbuf := []
  links := []
  linkOut := []
  alerts := []
  fault := []
  status := 0
  dropping := []

end Sys2Proof.Machine
end

