-- ==== Sys2Proof/Machine/State.lean ====
section
/-!
DEFINITION. The state of the part as plain data, holding every piece of state that the spec names (INVENTORY.md lists
them with their rules), the reasons a step can stop, and the state after power-on reset.
-/
namespace Sys2Proof.Machine

/-- Node-map entries (R241) of a loaded plane: element kind, element, SAMPLE, node, loop ids. -/
structure NodeEnt where
  pid : Nat
  tile : Nat
  ek : BitVec 3
  elem : Nat
  sample : Bool
  node : Word
  loops : BitVec 32
  deriving DecidableEq, Repr

/-- Configuration space (spec/01 R19 to R22 and the capability records of the owning chapters). -/
structure Regs where
  step : BitVec 8
  capOff : List Nat
  gridGen : BitVec 16
  health : SMap Bool
  memGen : BitVec 16
  cmapver : BitVec 16
  retired : NSet
  narrowed : NSet
  logBase : BitVec 36
  logLost : Bool
  logWr : BitVec 8
  logRd : BitVec 8
  ckptDst : BitVec 32
  ckptBusy : Bool
  ckptDone : Bool
  ckptErr : Bool
  ckptEcode : BitVec 8
  ckptProgress : BitVec 16
  ckptRestore : Bool
  keyBusy : Bool
  keyErr : Bool
  keyId : BitVec 12
  keyAct : BitVec 12
  keyData1 : BitVec 256
  keyData2 : BitVec 256
  keyPend : Option (BitVec 256 × BitVec 256)
  tierGen : BitVec 16
  tierMode : Bool
  tierCap : SMap Nat
  tierPersist : BitVec 8
  tierUp : BitVec 8
  tierPop : BitVec 8
  nmqBase : BitVec 36
  nmqHead : BitVec 6
  nmqTail : BitVec 6
  portUp : BitVec 18
  devid : BitVec 10
  mbxTile : BitVec 10
  mbxEnd : BitVec 32
  mbxEn : Bool
  peerSize : BitVec 16
  peerBase : BitVec 18
  powerCap : BitVec 16
  bootst : BitVec 8
  svn : BitVec 8
  sec : BitVec 2
  dbg : BitVec 2
  pwr : BitVec 2
  secBusy : Bool
  secErr : Bool
  secEcode : BitVec 6
  secArg : BitVec 4
  secBuf : BitVec 42
  recovAddr : BitVec 58
  nonce : Double
  sealKey : Option (List Byte)
  enrolledHost : Option Nat
  fwHash : Option (BitVec 384)
  deriving DecidableEq, Repr

/-- Where a region stands (R196, R207, R232): running, being pre-empted, pre-empted, complete, or ended by system
software. -/
inductive RegionSt where
  | running
  | preempting (full : Bool)
  | preempted (full : Bool)
  | complete
  deriving DecidableEq, Repr

/-- Halt state (R245): running, stopping, halted, and the one step that is being made. -/
inductive HaltSt where
  | none | halting | halted | stepping
  deriving DecidableEq, Repr

/-- The element that the last DEBUG_STOP names: a set's block, an array, the cube of a tile, or a port node. -/
inductive Elem where
  | none
  | block (tile set blk : Nat)
  | array (tile arr : Nat)
  | cube (tile : Nat)
  | port (tile k : Nat)
  deriving DecidableEq, Repr

/-- A region (R183, R207): its priority, STILL, tiles, the tiles that are still to swap to its first plane (R399), barriers, Lull's memory
and whether its last sweep reported quiescence (R205),
what its present or last halt names, in order, with each reason, and the elements that go on from one (R245), debug registers, tree SYNC id,
replay freedom and whether a strict divergence holds its element (R259), and, when pre-empted, its save areas. -/
structure Region where
  prio : BitVec 4
  still : BitVec 16
  tiles : NSet
  joining : NSet
  st : RegionSt
  bars : SMap Barrier
  nbars : Nat
  lullLast : List Nat
  lullStill : Nat
  lullQuiet : Nat
  quiescent : Bool
  lullSaid : Bool
  halt : HaltSt
  hits : List (Elem × BitVec 8)
  passing : List Elem
  dbgErr : Bool
  dbgSpace : BitVec 3
  dbgTile : BitVec 10
  dbgAddr : BitVec 21
  dbgData : Double
  syncId : BitVec 24
  free : Bool
  rplOff : Bool
  rplHeld : Bool
  saves : SMap Nat
  byCmd : Option (Nat × Nat × Nat)
  deriving DecidableEq, Repr

/-- A launch that the dispatcher has taken and not yet placed (R207): the physical address of its image, its priority,
its pre-emptive mark, and the save areas by tile that a pre-emption for it uses. -/
structure Launch where
  img : Nat
  prio : BitVec 4
  preempt : Bool
  saves : SMap Nat
  deriving DecidableEq, Repr

/-- The saved state of one tile (R233 to R235), with its region and whether the tile is held for it. The state block's layout is not
architectural: the model holds what it records here, by save-area address, beside the header and the memories that it writes to the area. -/
structure Saved where
  tile : Nat
  region : Nat
  held : Bool
  full : Bool
  tileState : Tile
  chans : List (Nat × Chan)
  deriving DecidableEq, Repr

/-- A near-memory command that has been taken and whose DONE is not yet written (R71 to R74): its slot, the status and channel it ends with if
that is settled, and the status of each unit that it waits for. -/
structure NmqCmd where
  slot : Nat
  fin : Option (BitVec 8 × Nat)
  chans : SMap (BitVec 8)
  deriving DecidableEq, Repr

/-- A mailbox write held unacknowledged in a port's receiving window (R264), with the writes of its node that it releases (R265). -/
structure MboxHeld where
  n : BitVec 2
  node : Nat
  tag : BitVec 3
  val : Word
  rel : List Need
  deriving DecidableEq, Repr

/-- A move: what acts next. `issue` lets a set's sequencer issue one instruction to one pass; `happen` is an event
of Instr; `perform` performs a store that its order allows, and `narrow` performs it at the level of a narrower scope (R305); `spread` and `evict` change what the translation caches hold
(R52); `drain` lets every party see a write of a bank-side unit (R77); `arrive` brings a launch to the dispatcher; `secDone` ends a command of SECCMD (R269). -/
inductive Move where
  | issue (tile set : Nat)
  | happen (i : Instr)
  | perform (acc : Nat)
  | narrow (acc lvl : Nat)
  | spread (index tile set : Nat)
  | drain (unit : Nat)
  | evict (index : Nat)
  | evictWalk (index : Nat)
  | arrive (l : Launch)
  | secDone
  deriving DecidableEq, Repr

structure State where
  mem : Memory
  poison : NSet
  fresh : SMap (List Fresh)
  keys : SMap (BitVec 512)
  oldKeys : SMap (BitVec 512)
  cfg : Regs
  units : SMap BankUnit
  nmq : List NmqCmd
  holds : NSet
  corr : SMap Nat
  xlat : List Xlat
  wcache : List WalkEnt
  walks : SMap Walk
  coal : List Coal
  chans : SMap Chan
  nodes : List NodeEnt
  regions : SMap Region
  waiting : List (Nat × Launch)
  refused : SMap (BitVec 8)
  saves : SMap Saved
  bells : List Nat
  ringHeld : List RingWrite
  mboxHeld : List MboxHeld
  tiles : SMap Tile
  accs : SMap Access
  nextId : Nat
  agenda : List Move
  focusTile : Nat
  focusSet : Nat
  tick : Nat
  stopped : Bool
  deriving DecidableEq, Repr

/-- Why a step stops with a fault. -/
inductive Fault where
  /-- Raised by every instruction's meaning when the set in focus runs no sweep: an instruction of a set executes only
  in a pass of a sweep (R208). `step` never executes an instruction there. Safe: no successor state is claimed. -/
  | noSweep
  deriving DecidableEq, Repr

/-- Why the model refuses to give a step. -/
inductive Refusal where
  /-- Raised by an arm of `exec` whose instruction has no meaning yet; safe, nothing is claimed about it. -/
  | notModelled (mnemonic : String)
  deriving DecidableEq, Repr

/-- Configuration space after power-on reset; the fields to which the spec gives a dash or no value are chosen (log entry 2,
DESIGN CHOICE). -/
def Regs.reset : Regs where
  step := 1
  capOff := [0x0040, 0x00B0, 0x0140, 0x0190, 0x01E0, 0x0220, 0x0240, 0x0250, 0x0260, 0x0270, 0x0280, 0x0290]
  gridGen := 0
  health := []
  memGen := 0
  cmapver := 0
  retired := []
  narrowed := []
  logBase := 0
  logLost := false
  logWr := 0
  logRd := 0
  ckptDst := 0
  ckptBusy := false
  ckptDone := false
  ckptErr := false
  ckptEcode := 0
  ckptProgress := 0
  ckptRestore := false
  keyBusy := false
  keyErr := false
  keyId := 0
  keyAct := 0
  keyData1 := 0
  keyData2 := 0
  keyPend := none
  tierGen := 0
  tierMode := false
  tierCap := []
  tierPersist := 0
  tierUp := 0
  tierPop := 0
  nmqBase := 0
  nmqHead := 0
  nmqTail := 0
  portUp := 0x3FFFF
  devid := 0
  mbxTile := 0
  mbxEnd := 0
  mbxEn := false
  peerSize := 0
  peerBase := 0
  powerCap := 3200
  bootst := 0
  svn := 0
  sec := 0
  dbg := 0
  pwr := 0
  secBusy := false
  secErr := false
  secEcode := 0
  secArg := 0
  secBuf := 0
  recovAddr := 0
  nonce := 0
  sealKey := none
  enrolledHost := none
  fwHash := none

/-- The part right after power-on reset, with the firmware of its flash running (R267): no region is placed, memory
is zero, and no key is valid. -/
def State.reset : State where
  mem := []
  poison := []
  fresh := []
  keys := []
  oldKeys := []
  cfg := .reset
  units := []
  nmq := []
  holds := []
  corr := []
  xlat := []
  wcache := []
  walks := []
  coal := []
  chans := []
  nodes := []
  regions := []
  waiting := []
  refused := []
  saves := []
  bells := []
  ringHeld := []
  mboxHeld := []
  tiles := []
  accs := []
  nextId := 0
  agenda := []
  focusTile := 0
  focusSet := 0
  tick := 0
  stopped := false

end Sys2Proof.Machine
end

