-- ==== Sys2Proof/Machine/Order.lean ====
section
/-!
DEFINITION. The order of memory (spec/28 R445 to R450, spec/17 R299, R300 and R305): when an access has been performed at a scope, what waits
for it, what a party knows to be before it, and when a performed access is forgotten.
-/
namespace Sys2Proof.Machine

/-! ### Levels (R305) -/

/-- The access is still to be performed for the whole part. -/
def Access.pending (a : Access) : Bool := a.lvl < 4

/-- The level at which an access has been performed. -/
def State.lvlOf (s : State) (i : Nat) : Nat := ((SMap.look s.accs i).map Access.lvl).getD 4

/-- The accesses that are still to be performed. -/
def State.toCome (s : State) : SMap Access := s.accs.filter (fun a => a.2.pending)

/-- The access has been performed for the whole part. -/
def State.done (s : State) (i : Nat) : Bool := decide (4 ≤ s.lvlOf i)

/-! ### What is ordered before what (R448) -/

/-- The accesses that a list of needs names, and what they are ordered after where a need is deep: `below` holds those whose own needs have
been followed. -/
def State.chain (s : State) : Nat → List Need → List Nat → List Nat
  | 0, _, _ => []
  | _, [], _ => []
  | fuel + 1, n :: rest, below =>
    n.acc :: (if !n.deep || below.contains n.acc then s.chain fuel rest below
      else
        match SMap.look s.accs n.acc with
        | none => s.chain fuel rest below
        | some a => s.chain fuel (a.after ++ rest) (n.acc :: below))

/-- The accesses of some needs with everything before them, as far as they are not forgotten. -/
def State.upTo (s : State) (ns : List Need) : List Nat := s.chain (ns.length + (s.accs.map (fun a => a.2.after.length)).sum) ns []

/-- What a need names has been performed. -/
def State.met (s : State) (n : Need) : Bool := (s.upTo [n]).all (fun i => decide (n.lvl ≤ s.lvlOf i))

/-- The accesses that satisfy a condition, performed or not. -/
def State.idsOf (s : State) (p : Access → Bool) : List Nat := (s.accs.filter (fun a => p a.2)).map Prod.fst

/-- Something that some needs name, or that comes before it, is still to be performed. -/
def State.unperformed (s : State) (ns : List Need) : Bool := (s.upTo ns).any (fun i => !s.done i)

/-- What a need names has been performed, as far as the parties of a level can tell. -/
def State.metFor (s : State) (l : Nat) (n : Need) : Bool := s.met { n with lvl := min n.lvl l }

/-- The needs whose accesses are not forgotten. -/
def State.live (s : State) (ns : List Need) : List Need := ns.filter (fun n => (SMap.look s.accs n.acc).isSome)

/-- Accesses with everything before them, at a level. -/
def deepNeeds (lvl : Nat) (ids : List Nat) : List Need := ids.map (fun i => ⟨i, lvl, true⟩)

/-- The accesses of a tile, with everything before them, for the whole part (R196). -/
def State.tileNeeds (s : State) (t : Nat) : List Need := deepNeeds 4 (s.idsOf (fun a => a.tile == t))

/-- The accesses of a set's threads and commands, and what the DRN tokens that it has popped release, likewise (R446). -/
def State.setNeeds (s : State) (t o : Nat) (v : SetState) : List Need :=
  deepNeeds 4 (s.idsOf (fun a => a.tile == t && a.set == o)) ++ s.live v.knew

/-- The writes of tiles whose region has ended are before everything that follows (R196, R232). -/
def State.endWrites (s : State) (tiles : NSet) : State :=
  { s with accs := s.accs.map (fun a => if NSet.has tiles a.2.tile then (a.1, { a.2 with ended := true }) else a) }

end Sys2Proof.Machine
end

