-- ==== Sys2Proof/Machine/Ops.lean ====
section
/-!
DEFINITION. The named operations over the state: tiles, sets, threads and registers, the channels of a tile's ends,
physical memory as stored, the region fault queue, and TAKING A FAULT (spec/13 R222 to R231) with the returns
from one beside it.
-/
namespace Sys2Proof.Machine

/-! ### Tiles, sets, threads -/

def State.tile (s : State) (t : Nat) : Tile := SMap.get Tile.reset s.tiles t

def State.putTile (s : State) (t : Nat) (v : Tile) : State := { s with tiles := SMap.put Tile.reset s.tiles t v }

/-- A set of the tile's active plane. -/
def State.set? (s : State) (t o : Nat) : Option SetState := (s.tile t).active.bind (fun p => p.sets.look o)

def Plane.putSet (p : Plane) (o : Nat) (v : SetState) : Plane := { p with sets := p.sets.insert o v }

/-- Write a set of the tile's active plane; without an active plane there is none. -/
def State.putSet (s : State) (t o : Nat) (v : SetState) : State :=
  match (s.tile t).active with
  | some p => s.putTile t { s.tile t with active := some (p.putSet o v) }
  | none => s

/-- Change a set of the active plane, if it is there. -/
def State.modSet (s : State) (t o : Nat) (f : SetState → SetState) : State :=
  match s.set? t o with
  | some v => s.putSet t o (f v)
  | none => s

def State.thread? (s : State) (t o tid : Nat) : Option Thread := (s.set? t o).bind (fun v => v.threads.look tid)

def SetState.putThread (v : SetState) (tid : Nat) (th : Thread) : SetState :=
  { v with threads := v.threads.insert tid th }

def State.modThread (s : State) (t o tid : Nat) (f : Thread → Thread) : State :=
  s.modSet t o (fun v => match v.threads.look tid with
    | some th => v.putThread tid (f th)
    | none => v)

/-- The set's width in lanes (R183, R202). -/
def SetEntry.width (e : SetEntry) : Nat := 8 * 2 ^ e.wl

/-- The tile lane of a thread (R158). -/
def SetEntry.lane (e : SetEntry) (tid : Nat) : Nat := e.oct * 8 + tid % e.width

/-- The LVS word that holds xn of a thread (R158). -/
def SetEntry.xWord (e : SetEntry) (tid n : Nat) : Nat :=
  e.lane tid * 1024 + (tid / e.width) * 32 + n

/-- A word of the LVS. -/
def State.lvs (s : State) (t w : Nat) : Word := SMap.get 0 (s.tile t).lvs w

/-- Write a word of the LVS whole, which clears its poison (R159). -/
def State.putLvs (s : State) (t w : Nat) (v : Word) : State :=
  s.putTile t { s.tile t with lvs := SMap.put 0 (s.tile t).lvs w v, lvsPoison := NSet.drop (s.tile t).lvsPoison w }

def State.xReg (s : State) (t : Nat) (e : SetEntry) (tid n : Nat) : Word := s.lvs t (e.xWord tid n)

def State.putX (s : State) (t : Nat) (e : SetEntry) (tid n : Nat) (v : Word) : State := s.putLvs t (e.xWord tid n) v

def SetState.s (v : SetState) (n : Nat) : Double := SMap.get 0 v.sreg n

def SetState.putS (v : SetState) (n : Nat) (d : Double) : SetState := { v with sreg := SMap.put 0 v.sreg n d }

/-- One bit of a bit vector set to a value. -/
def setBit {w : Nat} (x : BitVec w) (n : Nat) (b : Bool) : BitVec w :=
  if b then x ||| BitVec.ofNat w (2 ^ n) else x &&& ~~~(BitVec.ofNat w (2 ^ n))

/-- A counter of the set (R409), modulo 2^48. -/
def SetState.count (v : SetState) (n k : Nat) : SetState :=
  { v with perf := SMap.put 0 v.perf n ((SMap.get 0 v.perf n + k) % 2 ^ 48) }

/-- A counter of the tile (R409), modulo 2^48. -/
def State.countTile (s : State) (t n k : Nat) : State :=
  s.putTile t { s.tile t with perf := SMap.put 0 (s.tile t).perf n ((SMap.get 0 (s.tile t).perf n + k) % 2 ^ 48) }

def SetState.supervisor (v : SetState) : Bool := v.ent.sup

/-- A set handles its own records when it has a trap block (R228). -/
def SetState.hasTrap (v : SetState) : Bool := v.blocks.any (fun b => b.mode == .trap)

/-- The tile's die (R11). -/
def dieOf (t : Nat) : Nat := t / 384

/-! ### Regions -/

/-- A region that has its tiles: not one that is complete or pre-empted. -/
def RegionSt.holds : RegionSt → Bool
  | .running => true
  | .preempting _ => true
  | .preempted _ => false
  | .complete => false

/-- The region that holds a tile: at most one (R196, R207). -/
def State.regionOf (s : State) (t : Nat) : Option Nat :=
  (s.regions.find? (fun r => r.2.tiles.contains t && r.2.st.holds)).map Prod.fst

/-- The region whose sets a tile holds: the one that holds it, else the one that has completed on it (R428). -/
def State.regionAt (s : State) (t : Nat) : Option Nat :=
  (s.regionOf t).or ((s.regions.find? (fun r => r.2.tiles.contains t && r.2.st == .complete)).map Prod.fst)

def State.modRegion (s : State) (r : Nat) (f : Region → Region) : State :=
  match s.regions.find? (fun x => x.1 == r) with
  | some x => { s with regions := s.regions.insert r (f x.2) }
  | none => s

def State.region? (s : State) (r : Nat) : Option Region := SMap.look s.regions r

/-- The sets of a tile's active plane, with their numbers. -/
def State.setsOf (s : State) (t : Nat) : List (Nat × SetState) :=
  match (s.tile t).active with
  | some p => p.sets
  | none => []

/-- The set of a tile that binds an input end. -/
def State.endSet? (s : State) (t e : Nat) : Option Nat :=
  ((s.setsOf t).find? (fun v => v.2.ent.chin.contains e || v.2.ent.pcin.contains e)).map Prod.fst

def State.endSet (s : State) (t e : Nat) : Nat := (s.endSet? t e).getD 0

/-- The sets of a region, with tile and number. -/
def State.regionSets (s : State) (r : Nat) : List (Nat × Nat × SetState) :=
  match s.region? r with
  | some x => x.tiles.flatMap (fun t => (s.setsOf t).map (fun p => (t, p.1, p.2)))
  | none => []

/-- The node number of an element of a tile's active plane (R241, R242). -/
def State.node (s : State) (t : Nat) (ek : BitVec 3) (elem : Nat) : Word :=
  match (s.tile t).active with
  | some p =>
    match s.nodes.find? (fun n => n.pid == p.pid && n.tile == t && n.ek == ek && n.elem == elem) with
    | some n => n.node
    | none => 0xFFFFFFFF
  | none => 0xFFFFFFFF

/-! ### Control tokens (R120) -/

/-- A control token (R120). -/
def ctlToken (sub : Nat) (arg : BitVec 24) : Token := ⟨7, arg ++ (0 : BitVec 4) ++ BitVec.ofNat 4 sub, []⟩

def Token.isCtl (k : Token) : Bool := k.tag == 7

/-- The subtype of a control token. -/
def Token.sub (k : Token) : Nat := (k.val.extractLsb' 0 4).toNat

def Token.arg (k : Token) : BitVec 24 := k.val.extractLsb' 8 24

/-- A control token with a reserved subtype or reserved bits is refused by every consumer (R120). -/
def Token.badCtl (k : Token) : Bool := k.isCtl && (5 < k.sub || k.val.extractLsb' 4 4 != 0)

def Token.isDrn (k : Token) : Bool := k.isCtl && k.sub == 3

/-! ### Channels of a tile's ends -/

/-- The channel whose consumer is input end `e` of the tile's active plane. -/
def State.inChan (s : State) (t e : Nat) : Option (Nat × Chan) :=
  match (s.tile t).active with
  | some p => s.chans.find? (fun c => c.2.pid == p.pid && c.2.cons == .tile t e)
  | none => none

/-- The channel whose producer is output end `e` of the tile's active plane. -/
def State.outChan (s : State) (t e : Nat) : Option (Nat × Chan) :=
  match (s.tile t).active with
  | some p => s.chans.find? (fun c => c.2.pid == p.pid && c.2.prod == .tile t e)
  | none => none

/-- A channel after a change at a step: since when its head stands there, and since when its producer has a free slot (R253). -/
def Chan.stamped (c : Chan) (old : Option Chan) (now : Nat) : Chan :=
  match old with
  | none => c
  | some d =>
    { c with headSince := if d.popped != c.popped || (d.buf.isEmpty && !c.buf.isEmpty) then now else c.headSince,
             freeSince := if d.free == 0 && c.free != 0 then now else c.freeSince }

def State.putChan (s : State) (n : Nat) (c : Chan) : State := { s with chans := s.chans.insert n (c.stamped (s.chans.look n) s.tick) }

/-- The head of an input end (R10). -/
def State.headAt (s : State) (t e : Nat) : Option Token := (s.inChan t e).bind (fun c => c.2.buf.head?)

/-- The token behind `n` others at an input end. -/
def State.tokenAt (s : State) (t e n : Nat) : Option Token := (s.inChan t e).bind (fun c => c.2.buf[n]?)

/-- Everything that a token's push releases has been performed (R132, R352). -/
def State.released (s : State) (k : Token) : Bool := k.rel.all s.met

/-- An input end of the active plane is passed once DRN has been popped from it (R196). -/
def State.pass (s : State) (t e : Nat) : State :=
  s.putTile t { s.tile t with passed := NSet.add (s.tile t).passed e }

/-- Pop the head: the slot's return starts on its way to the producer (R10, R125). -/
def State.popAt (s : State) (t e : Nat) : State :=
  match s.inChan t e with
  | some (n, c) =>
    let s1 := s.putChan n { c with buf := c.buf.tail, rets := c.rets + 1, popped := c.popped + 1 }
    if (c.buf.head?).any Token.isDrn then s1.pass t e else s1
  | none => s

/-- A free slot at an output end (R125). -/
def State.roomAt (s : State) (t e : Nat) : Nat :=
  match s.outChan t e with
  | some (_, c) => c.free
  | none => 0

/-- A token has been pushed: the end notes the firing that made it, by element and number, or that none keeps notes (R253). -/
def Chan.note (c : Chan) (src : Option (Nat × Nat)) : Chan := { c with pushed := c.pushed + 1, made := (src :: c.made).take 64 }

/-- Push a token, which takes one free slot (R10, R125). -/
def State.pushFrom (s : State) (src : Option (Nat × Nat)) (t e : Nat) (k : Token) : State :=
  match s.outChan t e with
  | some (n, c) => s.putChan n ({ c with free := c.free - 1, fly := c.fly ++ [k] }.note src)
  | none => s

/-- Push a token for a unit that keeps no notes. -/
def State.pushAt (s : State) (t e : Nat) (k : Token) : State := s.pushFrom none t e k

/-- The mark of the GO of a source end among the firings that make pushes: no element has this number (R254). -/
def goKey : Nat := 200000

/-- The number that a block's notes stand under (R241, R253). -/
def blockKey (o blk : Nat) : Nat := o * 4096 + blk

/-- The firing of a token block that pushes, if it is one (R253). -/
def State.firingOf (s : State) (t o blk : Nat) : Option (Nat × Nat) :=
  if ((s.set? t o).bind (fun v => v.blocks[blk]?)).any (fun b => b.mode == .token) then
    some (blockKey o blk, SMap.get 0 (s.tile t).firings (blockKey o blk))
  else none

/-- The binary8 format of an input or output end's channel (R126). -/
def State.fmtIn (s : State) (t e : Nat) : Option B8 := (s.inChan t e).bind (fun c => c.2.b8)

def State.fmtOut (s : State) (t e : Nat) : Option B8 := (s.outChan t e).bind (fun c => c.2.b8)

/-- Accesses of a tile, or what comes before them, are still to be performed. -/
def State.tileAccs (s : State) (t : Nat) : Bool := s.unperformed (s.tileNeeds t)

/-! ### Physical memory as stored -/

/-- The device channel of a physical address of device memory (R26). -/
def chanOf (pa : Nat) : Nat := (pa / 65536 + pa / 65536 / 384) % 384

/-- Device memory ends here (R24). -/
def devEnd : Nat := 0x018000000000

/-- A poisoned line (R28): marked, or in a frame of a retired channel (R36). -/
def State.linePoison (s : State) (line : Nat) : Bool :=
  NSet.has s.poison line || (line * 64 < devEnd && NSet.has s.cfg.retired (chanOf (line * 64)))

/-- Some line of a range of bytes is poisoned. -/
def State.rangePoison (s : State) (pa n : Nat) : Bool :=
  (List.range ((pa + n + 63) / 64 - pa / 64)).any (fun i => s.linePoison (pa / 64 + i))

/-- The bank of a physical address is held for mitigation (R33). -/
def State.bankHeld (s : State) (pa : Nat) : Bool :=
  decide (pa < devEnd) && NSet.has s.holds (chanOf pa * 32 + Config.bankOf pa % 32)

/-- Some bank of a range of bytes is held. -/
def State.rangeHeld (s : State) (pa n : Nat) : Bool :=
  !s.holds.isEmpty && (List.range ((pa + n + 63) / 64 - pa / 64)).any (fun i => s.bankHeld (64 * (pa / 64 + i)))

/-- A double of device memory in plaintext (key id 0). -/
def State.readPlain (s : State) (pa : Nat) : Double := BitVec.ofNat 64 (Memory.readLE s.mem pa 8)

def State.writePlain (s : State) (pa : Nat) (v : Double) : State :=
  { s with mem := Memory.writeLE s.mem pa 8 v.toNat }

/-! ### The region fault queue (R231) -/

/-- Records a ring holds: 2^(LOG + 6). -/
def ringSize (base : Double) : Nat := 2 ^ ((base.extractLsb' 48 4).toNat + 6)

/-- The ring's physical address. -/
def ringAddr (base : Double) : Nat := (base.extractLsb' 12 36).toNat * 4096

/-- What an append to a ring did. -/
inductive RingRes where
  | off
  | poisoned
  | full (s : State)
  | wrote (s : State) (wasEmpty : Bool)

/-- Append a record of 32 bytes to a ring laid out as in R231. -/
def State.ringPut (s : State) (base : Double) (w0 w1 w2 w3 : Double) : RingRes :=
  if base.extractLsb' 0 1 = 0 then .off
  else
    let a := ringAddr base
    let wr := s.readPlain a
    let rd := s.readPlain (a + 8)
    let slot := a + 64 + 32 * (wr.toNat % ringSize base)
    if s.linePoison (a / 64) then .poisoned
    else if (wr - rd).toNat = ringSize base then .full (s.writePlain (a + 16) (s.readPlain (a + 16) + 1))
    else if s.linePoison (slot / 64) then .poisoned
    else
      let s1 := ((((s.writePlain slot w0).writePlain (slot + 8) w1).writePlain (slot + 16) w2).writePlain (slot + 24) w3)
      .wrote (s1.writePlain a (wr + 1)) (wr = rd)

/-- Hold the doorbell of a ring; one that is already held merges (R264). -/
def State.ringBell (s : State) (addr : Nat) : State :=
  if s.bells.contains addr then s else { s with bells := s.bells ++ [addr] }

/-- Change the registers of every set of a region. -/
def State.modRegionRegs (s : State) (r : Nat) (f : SetRegs → SetRegs) : State :=
  (s.regionSets r).foldl (fun s x => s.modSet x.1 x.2.1 (fun v => { v with regs := f v.regs })) s

/-- The bank of a ring's control area, or of its next record, is held (R33). -/
def State.ringBankHeld (s : State) (base : Double) : Bool :=
  let a := ringAddr base
  base.getLsbD 0 && (s.bankHeld a || s.bankHeld (a + 64 + 32 * ((s.readPlain a).toNat % ringSize base)))

/-- Send a record to the fault queue of a region (R231); a held bank holds it, and those that follow it, and loses nothing (R33). -/
def State.regionRecord (s : State) (r : Nat) (w0 w1 w2 w3 : Double) : State :=
  match s.regionSets r with
  | [] => s
  | (_, _, v) :: _ =>
    if s.ringBankHeld v.regs.rfqbase || s.ringHeld.any (fun h => !h.log && h.region == r) then
      { s with ringHeld := s.ringHeld ++ [⟨false, r, w0, w1, w2, w3⟩] }
    else
    match s.ringPut v.regs.rfqbase w0 w1 w2 w3 with
    | .off => s
    | .poisoned => s.modRegionRegs r (fun g => { g with rfqbase := g.rfqbase ||| 2 })
    | .full s1 => s1
    | .wrote s1 empty => if empty then s1.ringBell (ringAddr v.regs.rfqbase) else s1

/-- Send a record to the fault queue of the region that holds a tile. -/
def State.tileRecord (s : State) (t : Nat) (w0 w1 w2 w3 : Double) : State :=
  match s.regionOf t with
  | some r => s.regionRecord r w0 w1 w2 w3
  | none => s

/-- Commands leave a set's queue at a step, of which its last gain of room is noted (R253). -/
def SetState.unqueue (v : SetState) (keep : Cmd → Bool) (now : Nat) : SetState :=
  let q := v.queue.filter keep
  { v with queue := q, roomSince := if 16 ≤ v.queue.length ∧ q.length < 16 then now else v.roomSince }

/-! ### Taking a fault -/

/-- The fault codes of R227. -/
def Code.illegalOp : BitVec 8 := 0x01
def Code.reservedField : BitVec 8 := 0x02
def Code.privilege : BitVec 8 := 0x03
def Code.typeViolation : BitVec 8 := 0x04
def Code.xlateMiss : BitVec 8 := 0x10
def Code.xlatePerm : BitVec 8 := 0x11
def Code.xlateKey : BitVec 8 := 0x12
def Code.align : BitVec 8 := 0x13
def Code.memPoison : BitVec 8 := 0x14
def Code.tileRange : BitVec 8 := 0x15
def Code.chTag : BitVec 8 := 0x20
def Code.strayToken : BitVec 8 := 0x21
def Code.issueCycle : BitVec 8 := 0x22
def Code.cubeShape : BitVec 8 := 0x30
def Code.slotState : BitVec 8 := 0x31
def Code.cubeCheck : BitVec 8 := 0x32
def Code.arrayMode : BitVec 8 := 0x40
def Code.ctxAbsent : BitVec 8 := 0x41
def Code.barMisuse : BitVec 8 := 0x50
def Code.groupFull : BitVec 8 := 0x51
def Code.cfgImage : BitVec 8 := 0x60
def Code.layoutStale : BitVec 8 := 0x61
def Code.cfgAborted : BitVec 8 := 0x62
def Code.replayDiverge : BitVec 8 := 0x70
def Code.debugStop : BitVec 8 := 0x78
def Code.hwDetected : BitVec 8 := 0x7E
def Code.deadlock : BitVec 8 := 0x7F

/-- What a rule gives of a fault (R226): code, access kind, word 1, element index or other bits of word 3 [47:0], alias
class, key id, and whether it was coalesced (R54). -/
structure FaultInfo where
  code : BitVec 8
  kind : BitVec 3 := 7
  w1 : Double := 0
  elem : BitVec 48 := 0
  ac : BitVec 4 := 0
  key : BitVec 12 := 0
  coalesced : Bool := false
  deriving DecidableEq, Repr

/-- The flags of word 0 of a record (R226), bits 61 to 55 but for TID11. -/
structure RecFlags where
  node : Bool := false
  setf : Bool := false
  notice : Bool := false
  eng : Bool := false
  cir : Bool := false
  bsu : Bool := false
  deriving DecidableEq, Repr

/-- Word 0 of a record (R226). -/
def recWord0 (f : FaultInfo) (g : RecFlags) (t o who blk idx : Nat) : Double :=
  let th := BitVec.ofNat 12 who
  (0 : BitVec 2) ++ BitVec.ofBool g.node ++ BitVec.ofBool g.setf ++ BitVec.ofBool g.notice ++ BitVec.ofBool g.eng ++
    th.extractLsb' 11 1 ++ BitVec.ofBool g.cir ++ BitVec.ofBool g.bsu ++ BitVec.ofBool f.coalesced ++ f.kind ++
    BitVec.ofNat 6 idx ++ BitVec.ofNat 12 blk ++ th.extractLsb' 0 11 ++ BitVec.ofNat 4 o ++ BitVec.ofNat 10 t ++ f.code

/-- Word 2: source node, and the invocation or the count of EOIs in the 32 bits above it. -/
def recWord2 {w : Nat} (node : Word) (invoc : BitVec w) : Double := invoc.setWidth 32 ++ node

/-- Word 3: element index, alias class, key id. -/
def recWord3 (f : FaultInfo) : Double := f.key ++ f.ac ++ f.elem

/-- The node of a block of a set (R242). -/
def State.blockNode (s : State) (t o blk : Nat) : Word := s.node t 0 (o * 4096 + blk)

/-- A set fault (R224): its record goes to the region fault queue and the whole set stops; the running sweep is held
as it stands (log entry 13, DEDUCED). -/
def State.setFaultAt (s : State) (t o : Nat) (f : FaultInfo) (who blk idx : Nat) : State :=
  match s.set? t o with
  | none => s
  | some v =>
    let s1 := s.putSet t o ({ v with stopped := true, setFault := true }.count 0x0A 1)
    s1.tileRecord t (recWord0 f { setf := true } t o who blk idx) f.w1 (recWord2 (s.blockNode t o blk) v.eoiInvoc)
      (recWord3 f)

/-- A thread or command record enters the faulted vector of its set, and goes on to the region fault queue at once when
the set has no trap block (R223, R225, R228). -/
def State.enterVector (s : State) (t o : Nat) (e : FaultEntry) : State :=
  match s.set? t o with
  | none => s
  | some v =>
    let s1 := s.putSet t o ({ v with faulted := v.faulted ++ [{ e with forwarded := !v.hasTrap }] }.count 0x0A 1)
    if v.hasTrap then s1 else s1.tileRecord t e.w0 e.w1 e.w2 e.w3

/-- A thread takes a fault (R223): it leaves the sweep with the faulting instruction's index and joins the faulted
vector with its record; a fault inside a trap block is a set fault (R224). -/
def State.threadFault (s : State) (t o tid blk idx : Nat) (loops : Loops) (inTrap : Bool) (f : FaultInfo) : State :=
  if inTrap then s.setFaultAt t o f tid blk idx
  else
    match s.set? t o with
    | none => s
    | some v =>
      let s1 := s.modThread t o tid (fun th => { th with place := .faulted blk idx, loops := loops })
      s1.enterVector t o ⟨recWord0 f {} t o tid blk idx, f.w1, recWord2 (s.blockNode t o blk) v.eoiInvoc, recWord3 f,
        false, tid, false⟩

/-- An engine command takes a fault (R225): it stops, and its record carries its sequence number. -/
def State.cmdFault (s : State) (t o seq : Nat) (blk : Nat) (invoc : BitVec 24) (f : FaultInfo) : State :=
  let s1 := s.modSet t o (fun v => { v with queue := v.queue.map (fun c =>
    if c.seq == seq && c.at' != .queued then { c with at' := .stopped } else c) })
  s1.enterVector t o ⟨recWord0 f { eng := true } t o seq blk 0, f.w1, recWord2 (s.blockNode t o blk) invoc, recWord3 f,
    true, seq, false⟩

/-- A notice or node record straight to the region fault queue (R222). -/
def State.notice (s : State) (t o blk : Nat) (node : Word) (invoc : BitVec 24) (g : RecFlags) (f : FaultInfo) : State :=
  s.tileRecord t (recWord0 f g t o 0 blk 0) f.w1 (recWord2 node invoc) (recWord3 f)

/-! ### Returning from a fault (R229, R230) -/

/-- A record leaves the faulted vector. -/
def SetState.dropRecord (v : SetState) (eng : Bool) (who : Nat) : SetState :=
  { v with faulted := v.faulted.filter (fun e => !(e.eng == eng && e.who == who)) }

/-- A thread or command has a record in the vector; `view` counts only records not forwarded (R393). -/
def SetState.inVector (v : SetState) (eng : Bool) (who : Nat) (view : Bool) : Bool :=
  v.faulted.any (fun e => e.eng == eng && e.who == who && (!view || !e.forwarded))

/-- Resume at an index: the thread joins its block's resume vector with a solo mark (R230); past the last
instruction it is placed as at block end (R229, R345). -/
def SetState.resumeAt (v : SetState) (tid blk idx : Nat) : SetState :=
  match v.threads.look tid with
  | some th => (v.putThread tid { th with place := .parked blk idx .clear, solo := true }).dropRecord false tid
  | none => v

end Sys2Proof.Machine
end

