-- ==== Sys2Proof/Machine/Cipher.lean ====
section
/-!
DEFINITION. Inline encryption of a line (spec/02 R30): AES-256-XTS with the line's number as tweak. The cipher is the published
standard's (FIPS 197, IEEE 1619); R30 names it and fixes the data unit, the tweak and the blocks (log entry 9).
-/
namespace Sys2Proof.Machine

/-- Multiply by x in GF(2^8) modulo x^8 + x^4 + x^3 + x + 1. -/
def xtime (b : Byte) : Byte := (b <<< 1) ^^^ (if b.getLsbD 7 then 0x1B else 0)

/-- Product in GF(2^8), over n bits of the second factor. -/
def gmulAux (a b : Byte) : Nat → Byte
  | 0 => 0
  | n + 1 => (if b.getLsbD 0 then a else 0) ^^^ gmulAux (xtime a) (b >>> 1) n

def gmul (a b : Byte) : Byte := gmulAux a b 8

/-- a^254, the inverse in GF(2^8), 0 for 0. -/
def ginv (a : Byte) : Byte :=
  let a2 := gmul a a
  let a4 := gmul a2 a2
  let a8 := gmul a4 a4
  let a16 := gmul a8 a8
  let a32 := gmul a16 a16
  let a64 := gmul a32 a32
  let a128 := gmul a64 a64
  gmul (gmul (gmul a2 a4) (gmul a8 a16)) (gmul (gmul a32 a64) a128)

def sbox (a : Byte) : Byte :=
  let b := ginv a
  b ^^^ b.rotateLeft 1 ^^^ b.rotateLeft 2 ^^^ b.rotateLeft 3 ^^^ b.rotateLeft 4 ^^^ 0x63

def invSbox (a : Byte) : Byte := ginv (a.rotateLeft 1 ^^^ a.rotateLeft 3 ^^^ a.rotateLeft 6 ^^^ 0x05)

/-- A byte of a block or key list. -/
def at8 (l : List Byte) (n : Nat) : Byte := l.getD n 0

/-- The key schedule: words of 4 bytes, newest last, until the list has `n` more words. -/
def expandKey : Nat → Nat → Byte → List (List Byte) → List (List Byte)
  | 0, _, _, ws => ws
  | n + 1, i, rc, ws =>
    let t := ws.getD (i - 1) []
    let b := ws.getD (i - 8) []
    let u := if i % 8 = 0 then [sbox (at8 t 1) ^^^ rc, sbox (at8 t 2), sbox (at8 t 3), sbox (at8 t 0)]
      else if i % 8 = 4 then t.map sbox else t
    expandKey n (i + 1) (if i % 8 = 0 then xtime rc else rc) (ws ++ [List.zipWith (· ^^^ ·) b u])

/-- The 15 round keys of 16 bytes of a 32-byte key. -/
def roundKeys (key : List Byte) : List (List Byte) :=
  let ws := expandKey 52 8 1 ((List.range 8).map (fun i => (key.drop (4 * i)).take 4))
  (List.range 15).map (fun r => ((ws.drop (4 * r)).take 4).flatten)

def addRound (b k : List Byte) : List Byte := List.zipWith (· ^^^ ·) b k

def shiftRows (b : List Byte) : List Byte := (List.range 16).map (fun i => at8 b ((i + 4 * (i % 4)) % 16))
def invShiftRows (b : List Byte) : List Byte := (List.range 16).map (fun i => at8 b ((i + 12 * (i % 4)) % 16))

/-- A column matrix product with coefficients c0 to c3 of the first row. -/
def mixWith (c0 c1 c2 c3 : Byte) (b : List Byte) : List Byte :=
  (List.range 16).map (fun i =>
    let c := i / 4 * 4
    let r := i % 4
    gmul c0 (at8 b (c + r)) ^^^ gmul c1 (at8 b (c + (r + 1) % 4)) ^^^ gmul c2 (at8 b (c + (r + 2) % 4)) ^^^
      gmul c3 (at8 b (c + (r + 3) % 4)))

def mixColumns (b : List Byte) : List Byte := mixWith 2 3 1 1 b
def invMixColumns (b : List Byte) : List Byte := mixWith 14 11 13 9 b

/-- AES-256 of one block under its round keys. -/
def aesEnc (ks : List (List Byte)) (b : List Byte) : List Byte :=
  let r := (List.range 13).foldl (fun b i => addRound (mixColumns (shiftRows (b.map sbox))) (ks.getD (i + 1) []))
    (addRound b (ks.getD 0 []))
  addRound (shiftRows (r.map sbox)) (ks.getD 14 [])

def aesDec (ks : List (List Byte)) (b : List Byte) : List Byte :=
  let r := (List.range 13).foldl (fun b i => invMixColumns (addRound ((invShiftRows b).map invSbox) (ks.getD (13 - i) [])))
    (addRound b (ks.getD 14 []))
  addRound ((invShiftRows r).map invSbox) (ks.getD 0 [])

/-- Multiply a tweak by x in GF(2^128), bytes little-endian. -/
def tweakNext (t : List Byte) : List Byte :=
  let v := t.foldr (fun b n => b.toNat + 256 * n) 0
  let w := (2 * v) % 2 ^ 128
  let w := if 2 ^ 127 ≤ v then w ^^^ 0x87 else w
  (List.range 16).map (fun i => BitVec.ofNat 8 (w / 256 ^ i))

/-- XTS over the blocks of a unit. -/
def xtsBlocks (f : List Byte → List Byte) : Nat → List Byte → List Byte → List Byte
  | 0, _, _ => []
  | n + 1, t, bs => addRound t (f (addRound t (bs.take 16))) ++ xtsBlocks f n (tweakNext t) (bs.drop 16)

/-- The bytes of a 256-bit key, lowest first (R3, R31). -/
def keyBytes (k : BitVec 256) : List Byte := (List.range 32).map (fun i => k.extractLsb' (8 * i) 8)

/-- The first tweak of a line: its number, encrypted under the tweak key. -/
def lineTweak (k2 : BitVec 256) (line : Nat) : List Byte :=
  aesEnc (roundKeys (keyBytes k2)) ((List.range 16).map (fun i => BitVec.ofNat 8 (line / 256 ^ i)))

/-- Encrypt or decrypt a 64-byte line under a pair of keys: data key in the low half, tweak key in the high half
(log entry 9, PRESUMED). -/
def xtsEnc (pair : BitVec 512) (line : Nat) (bs : List Byte) : List Byte :=
  xtsBlocks (aesEnc (roundKeys (keyBytes (pair.extractLsb' 0 256)))) 4 (lineTweak (pair.extractLsb' 256 256) line) bs

def xtsDec (pair : BitVec 512) (line : Nat) (bs : List Byte) : List Byte :=
  xtsBlocks (aesDec (roundKeys (keyBytes (pair.extractLsb' 0 256)))) 4 (lineTweak (pair.extractLsb' 256 256) line) bs

end Sys2Proof.Machine
end

