-- ==== Sys2Proof/Machine/Flags.lean ====
section
/-!
DEFINITION. The exception flags (spec/08 R149 to R152): NV, DZ, OF, UF and NX of a thread's ff register, and the
integer comparisons' results.
-/
namespace Sys2Proof.Machine

/-- A set of exceptions, at the bit positions of R149: NV 4, DZ 3, OF 2, UF 1, NX 0. -/
abbrev Exc := BitVec 5

def Exc.none : Exc := 0
def Exc.nv : Exc := 16
def Exc.dz : Exc := 8
def Exc.of : Exc := 4
def Exc.uf : Exc := 2
def Exc.nx : Exc := 1

/-- SetFlag (R10): sticky, and without effect when SF suppresses flags (R150). -/
def Thread.setFlags (th : Thread) (sf : Bool) (e : Exc) : Thread := if sf then th else { th with ff := th.ff ||| e }

/-- ffclr (R331): clear the flags that a mask names. -/
def Thread.clearFlags (th : Thread) (mask : BitVec 5) : Thread := { th with ff := th.ff &&& ~~~mask }

/-- A truth value as a 32-bit operand (R340). -/
def boolWord (b : Bool) : Double := if b then 1 else 0

end Sys2Proof.Machine
end

