-- ==== Sys2Proof/Machine/Operands.lean ====
section
/-!
DEFINITION. Operand forms (spec/09 R154 to R156, spec/16 R285 and R286): reading and writing every class of operand for
one thread, the ends that channel operands name, and the registers that the scoreboard watches (R160, R161).
-/
namespace Sys2Proof.Machine

/-- Where one thread executes one instruction: tile, set, block, instruction index, block mode, the pass's position,
the sweep's loop registers, the thread, and the s registers and k bits as the earlier passes of the instruction left
them, which every thread of the pass reads (R156), and the number of the next access when the pass began. -/
structure Ctx where
  tile : Nat
  set : Nat
  blk : Nat
  idx : Nat
  mode : BlockMode
  pos : Nat
  loops : Loops
  tid : Nat
  sreg : SMap Double
  k : BitVec 8
  base : Nat

/-- A shared register as the pass reads it. -/
def Ctx.s (c : Ctx) (n : Nat) : Double := SMap.get 0 c.sreg n

/-- The count of a loop level (R155). -/
def Loops.count (l : Loops) (n : BitVec 2) : Nat :=
  match n.toNat with
  | 0 => l.l0.c
  | 1 => l.l1.c
  | 2 => l.l2.c
  | _ => l.l3.c

/-- The part-wide thread number (R155): tile, lane, slot. -/
def gtid (e : SetEntry) (tid : Nat) : Nat := e.tile * 4096 + e.lane tid * 32 + tid / e.width

/-- The specials of R155. -/
def readSpecial (c : Ctx) (e : SetEntry) (th : Thread) : Special → Nat
  | .tid => c.tid
  | .gtid => gtid e c.tid
  | .lane => e.lane c.tid
  | .setid => e.oct
  | .tileid => c.tile
  | .sweep => c.pos
  | .ff => th.ff.toNat
  | .zero => 0

/-- A pair x(n):x(n + 1), the even register lower (R142). -/
def State.xPair (s : State) (t : Nat) (e : SetEntry) (tid n : Nat) : Double :=
  s.xReg t e tid (n + 1) ++ s.xReg t e tid n

/-- A register operand of one thread at 32 or 64 bits (R285); channel operands are popped elsewhere. -/
def readOpd (c : Ctx) (s : State) (wide : Bool) (o : Opd) : Double :=
  match s.set? c.tile c.set with
  | none => 0
  | some v =>
    match v.threads.look c.tid with
    | none => 0
    | some th =>
      match o with
      | .x n =>
        if wide then s.xPair c.tile v.ent c.tid n.toNat
        else (s.xReg c.tile v.ent c.tid n.toNat).setWidth 64
      | .s n => if wide then c.s n.toNat else ((c.s n.toNat).extractLsb' 0 32).setWidth 64
      | .q n => boolWord (n == 7 || th.q.getLsbD n.toNat)
      | .k n => boolWord (c.k.getLsbD n.toNat)
      | .spec r => BitVec.ofNat 64 (readSpecial c v.ent th r)
      | .lc n => BitVec.ofNat 64 (c.loops.count n % 2 ^ 32)
      | .ch _ => 0
      | .pc _ => 0

/-- The end numbers of a set's names (R123, R202); 255 where the set leaves one unbound. -/
def SetEntry.chIn (e : SetEntry) (n : BitVec 3) : Nat := e.chin.getD n.toNat 255
def SetEntry.chOut (e : SetEntry) (n : BitVec 3) : Nat := e.chout.getD n.toNat 255
def SetEntry.pcIn (e : SetEntry) (n : BitVec 3) : Nat := e.pcin.getD n.toNat 255
def SetEntry.pcOut (e : SetEntry) (n : BitVec 3) : Nat := e.pcout.getD n.toNat 255

end Sys2Proof.Machine

namespace Sys2Proof
open Machine

/-- The input end that a source operand pops. -/
def Opd.inEnd (o : Opd) (e : SetEntry) : Option Nat :=
  match o with
  | .ch n => some (e.chIn n)
  | .pc n => some (e.pcIn n)
  | _ => none

/-- The output end that a destination operand pushes. -/
def Opd.outEnd (o : Opd) (e : SetEntry) : Option Nat :=
  match o with
  | .ch n => some (e.chOut n)
  | .pc n => some (e.pcOut n)
  | _ => none

end Sys2Proof

namespace Sys2Proof.Machine

/-- Write a k bit at a step, of which its last change is noted (R253). -/
def SetState.putK (v : SetState) (n : Nat) (b : Bool) (now : Nat) : SetState :=
  { v with k := setBit v.k n b, kSince := if v.k.getLsbD n == b then v.kSince else v.kSince.insert n now }

/-- Write one thread's result (R156, R285): an x register or pair, an s register (a 32-bit write clears the upper half),
bit 0 into q or k, a push on a channel. q7 ignores the write. -/
def writeOpd (c : Ctx) (s : State) (wide : Bool) (tag : BitVec 3) (o : Opd) (v : Double) : State :=
  match s.set? c.tile c.set with
  | none => s
  | some st =>
    match o with
    | .x n =>
      let s1 := s.putX c.tile st.ent c.tid n.toNat (v.extractLsb' 0 32)
      if wide then s1.putX c.tile st.ent c.tid (n.toNat + 1) (v.extractLsb' 32 32) else s1
    | .s n => s.putSet c.tile c.set (st.putS n.toNat (if wide then v else (v.extractLsb' 0 32).setWidth 64))
    | .q n =>
      if n == 7 then s
      else s.modThread c.tile c.set c.tid (fun th => { th with q := setBit th.q n.toNat (v.getLsbD 0) })
    | .k n => s.putSet c.tile c.set (st.putK n.toNat (v.getLsbD 0) s.tick)
    | .ch n => s.pushFrom (s.firingOf c.tile c.set c.blk) c.tile (st.ent.chOut n) ⟨tag, v.extractLsb' 0 32, []⟩
    | .pc n => s.pushFrom (s.firingOf c.tile c.set c.blk) c.tile (st.ent.pcOut n) ⟨0, (v.extractLsb' 0 1).setWidth 32, []⟩
    | .spec _ => s
    | .lc _ => s

end Sys2Proof.Machine

namespace Sys2Proof
open Machine

/-- A register destination as an operand. -/
def Reg.opd : Reg → Opd
  | .x n => .x n
  | .s n => .s n

/-- The registers an operand covers at its width: both of a pair (R160). -/
def Opd.cover (o : Opd) (wide : Bool) : List Opd :=
  match o with
  | .x n => if wide then [.x n, .x (n + 1)] else [.x n]
  | .q n => if n = 7 then [] else [.q n]
  | o => [o]

end Sys2Proof

namespace Sys2Proof.Machine

/-- Whether a thread waits for a late result before its next instruction: a store's check, which marks no register (R453), the translation of a
load (R59), or the reply of another node (R262). -/
def Late.isStore : Late → Bool
  | .check _ => true
  | .place _ _ => true
  | .peer _ _ => true
  | _ => false

/-- A register that every thread of the set shares: one thread's pending mark is every thread's (R156). -/
def Mark.isShared : Mark → Bool
  | .opd (.s _) => true
  | .opd (.k _) => true
  | _ => false

/-- The incomplete return groups that mark an operand pending for a thread (R160, R161). -/
def SetState.pendingOn (v : SetState) (tid : Nat) (ms : List Mark) : List Nat :=
  (v.groups.filter (fun g => g.2.marks.any (fun m => ms.contains m && (m.isShared || g.2.members.any (fun x => x.tid == tid))))).map
    Prod.fst

/-- The incomplete store groups of a thread (R453). -/
def SetState.storePending (v : SetState) (tid : Nat) : List Nat :=
  (v.groups.filter (fun g => g.2.members.any (fun m => m.tid == tid && m.late.isStore))).map Prod.fst

/-- Every incomplete return group of a thread (R187). -/
def SetState.groupsOf (v : SetState) (tid : Nat) : List Nat :=
  (v.groups.filter (fun g => g.2.members.any (fun m => m.tid == tid))).map Prod.fst

/-- Guard(t) of R277. -/
def Thread.guard (th : Thread) (g : Guard) : Bool := (g.q == 7 || th.q.getLsbD g.q.toNat) != g.inv

/-- A poisoned LVS word among an operand's registers (R159). -/
def State.opdPoison (s : State) (c : Ctx) (e : SetEntry) (wide : Bool) (o : Opd) : Option Nat :=
  match o with
  | .x n =>
    let w := e.xWord c.tid n.toNat
    if NSet.has (s.tile c.tile).lvsPoison w then some w
    else if wide && NSet.has (s.tile c.tile).lvsPoison (w + 1) then some (w + 1) else none
  | _ => none

end Sys2Proof.Machine
end

