-- ==== Sys2Proof/Machine/Threads.lean ====
section
/-!
DEFINITION. Threads, groups and barriers (spec/11 R186 to R192, spec/19 R361 to R364): creation and retirement,
membership, and the state table of a barrier. Loop stepping (R349) stands here because a thread that parks at its next
instruction needs it.
-/
namespace Sys2Proof.Machine

/-! ### Loops -/

def Loops.get (l : Loops) (n : Nat) : LoopReg :=
  match n with
  | 0 => l.l0
  | 1 => l.l1
  | 2 => l.l2
  | _ => l.l3

def Loops.put (l : Loops) (n : Nat) (r : LoopReg) : Loops :=
  match n with
  | 0 => { l with l0 := r }
  | 1 => { l with l1 := r }
  | 2 => { l with l2 := r }
  | _ => { l with l3 := r }

/-- Examine one level after instruction `i` (R349): a jump, or the loop ended, or nothing. -/
def Loops.level (l : Loops) (n i : Nat) : Loops × Option Nat :=
  let r := l.get n
  if r.c = 0 ∨ r.e ≠ i then (l, none)
  else if 1 < r.c then (l.put n { r with c := r.c - 1 }, some r.s)
  else (l.put n { r with c := 0 }, none)

/-- Levels 3 down to 0 in turn, until one jumps (R349). -/
def Loops.after (l : Loops) (i : Nat) : Loops × Nat :=
  match l.level 3 i with
  | (l3, some j) => (l3, j)
  | (l3, none) =>
    match l3.level 2 i with
    | (l2, some j) => (l2, j)
    | (l2, none) =>
      match l2.level 1 i with
      | (l1, some j) => (l1, j)
      | (l1, none) =>
        match l1.level 0 i with
        | (l0, some j) => (l0, j)
        | (l0, none) => (l0, i + 1)

/-! ### Accesses of a thread -/

/-- What comes after a thread's accesses in classes of a mask when it is ordered after them at a level (R305, R448): they themselves, what
fences, barriers and its creation have named for those classes, and the writes of regions that are complete (R196), all with what is before
them. -/
def State.known (s : State) (t o tid : Nat) (mask : BitVec 16) (lvl : Nat) : List Need :=
  let own := (s.accs.filter (fun a => a.2.ended || (a.2.tile == t && a.2.set == o && a.2.tid == tid && (a.2.cls &&& mask) != 0))).map Prod.fst
  let named : List Need := match s.thread? t o tid with
    | some th => (th.after.filter (fun x => (x.1 &&& mask) != 0)).flatMap Prod.snd
    | none => []
  (deepNeeds lvl own ++ (s.live named).map (fun n => (⟨n.acc, max n.lvl lvl, true⟩ : Need))).eraseDups

/-- Every later access of the thread in a class of the mask is ordered after these (R192, R305). -/
def Thread.orderAfter (th : Thread) (mask : BitVec 16) (ns : List Need) : Thread :=
  if ns.isEmpty then th else { th with after := th.after ++ [(mask, ns)] }

/-- Forget what has been performed with all that came before it: later loads see memory as it is by then. -/
def State.recall (s : State) (th : Thread) : Thread :=
  { th with after := (th.after.map (fun x => (x.1, s.live x.2))).filter (fun x => !x.2.isEmpty), fenced := s.live th.fenced,
            since := if th.after.all (fun x => (s.live x.2).length == x.2.length) then th.since else s.tick }

/-- From now on a thread's accesses are ordered after what other parties have done and `ns` names (R447). -/
def State.acquire (s : State) (t o tid : Nat) (ns : List Need) : State :=
  s.modThread t o tid (fun th => { (s.recall th).orderAfter 0xFFFF (s.live ns) with since := s.tick })

/-- A set's later accesses are ordered after what a DRN token that it has popped releases (R446). -/
def State.acquireSet (s : State) (t o : Nat) (ns : List Need) : State :=
  match s.set? t o with
  | none => s
  | some v =>
    let s1 := s.putSet t o { v with knew := (s.live (v.knew ++ ns)).eraseDups }
    v.threads.foldl (fun s th => s.acquire t o th.1 ns) s1

/-- The tids that mark accesses whose thread has retired. -/
def noTid (tid : Nat) : Nat := 4096 + tid

/-! ### Barriers -/

/-- A barrier of a tile, or of the region that holds the tile. -/
def State.bar (s : State) (t : Nat) (region : Bool) (n : Nat) : Barrier :=
  if region then
    match (s.regionOf t).bind s.region? with
    | some r => SMap.get Barrier.reset r.bars n
    | none => Barrier.reset
  else SMap.get Barrier.reset (s.tile t).bars n

def State.putBar (s : State) (t : Nat) (region : Bool) (n : Nat) (b : Barrier) : State :=
  if region then
    match s.regionOf t with
    | some r => s.modRegion r (fun x => { x with bars := SMap.put Barrier.reset x.bars n b })
    | none => s
  else s.putTile t { s.tile t with bars := SMap.put Barrier.reset (s.tile t).bars n b }

/-- Members of a key on one tile, or over every tile of the region (R191). -/
def State.members (s : State) (t : Nat) (region : Bool) (key : BitVec 16) : Nat :=
  let on (u : Nat) : Nat := (((s.tile u).groups.look key.toNat).getD []).length
  if region then
    match (s.regionOf t).bind s.region? with
    | some r => (r.tiles.map on).sum
    | none => 0
  else on t

/-- Release every waiter (R190): each may resume, leaves when it next issues, and its later accesses are ordered after
every access that an arriving thread made before its arrival (R192). With no waiter to leave, it re-arms at once. -/
def State.barRelease (s : State) (t : Nat) (region : Bool) (n : Nat) : State :=
  let b := s.bar t region n
  let s1 := b.waiters.foldl (fun s p => (s.acquire p.tile p.set p.tid b.accs).modThread p.tile p.set p.tid (fun th1 =>
    if p.trap then
      { th1 with trapLeaving := some (region, n), trap := match th1.trap with
          | some (blk, idx, .barrier x k) => some (blk, idx, if x == region && k == n then .clear else .barrier x k)
          | w => w }
    else
      { th1 with leaving := some (region, n), place := match th1.place with
          | .parked blk idx (.barrier x k) => .parked blk idx (if x == region && k == n then .clear else .barrier x k)
          | w => w })) s
  if b.waiters.isEmpty then
    let count := match b.key with
      | some k => s.members t region k
      | none => b.reload
    s.putBar t region n { b with st := if count = 0 then .unset else .armed, n := count, accs := [] }
  else s1.putBar t region n { b with st := .releasing, n := 0, accs := [] }

/-- What an arrival does to its thread (R190). -/
inductive Arrival where
  | misuse
  | parked (s : State)
  | held (s : State)

/-- An arrival (R190). The thread parks; the accesses it has made are noted for the release (R192). -/
def State.arrive (s : State) (p : Party) (region : Bool) (n : Nat) : Arrival :=
  let t := p.tile
  let b := s.bar t region n
  match b.st with
  | .unset => .misuse
  | .armed =>
    let b1 := { b with n := b.n - 1, waiters := b.waiters ++ [p],
                       accs := b.accs ++ s.known t p.set p.tid 0xFFFF (if region then 4 else 2) }
    .parked (s.putBar t region n b1)
  | .releasing => .held (s.putBar t region n { b with held := b.held ++ [p] })

/-- Release when the count has reached 0 (R190). -/
def State.barCheck (s : State) (t : Nat) (region : Bool) (n : Nat) : State :=
  let b := s.bar t region n
  if b.st == .armed && b.n == 0 then s.barRelease t region n else s

/-- A held arrival counts at the re-armed barrier; at an UNSET one it traps BAR_MISUSE with the barrier instruction as
its resume index, and is no longer held (R190); in a trap block that is a set fault (R185). -/
def State.countHeld (region : Bool) (n : Nat) (s : State) (p : Party) : State :=
  match s.thread? p.tile p.set p.tid with
  | none => s
  | some th =>
    match (if p.trap then th.trap else none), (if p.trap then Place.idle else th.place) with
    | some (blk, idx, .held _ _ i), _ =>
      match s.arrive p region n with
      | .misuse =>
        (s.modThread p.tile p.set p.tid (fun th => { th with trap := some (blk, i, .clear) })).setFaultAt p.tile p.set { code := Code.barMisuse } p.tid blk i
      | .parked s1 =>
        (s1.modThread p.tile p.set p.tid (fun th => { th with trap := some (blk, idx, .barrier region n) })).barCheck
          p.tile region n
      | .held s1 => s1
    | _, .parked blk idx (.held _ _ i) =>
      match s.arrive p region n with
      | .misuse => s.threadFault p.tile p.set p.tid blk i th.loops false { code := Code.barMisuse }
      | .parked s1 =>
        (s1.modThread p.tile p.set p.tid (fun th => { th with place := .parked blk idx (.barrier region n) })).barCheck
          p.tile region n
      | .held s1 => s1
    | _, _ => s

/-- Re-arm when the last released waiter has left (R190). -/
def State.rearm (s : State) (t : Nat) (region : Bool) (n : Nat) : State :=
  let b := s.bar t region n
  let count := match b.key with
    | some k => s.members t region k
    | none => b.reload
  let s1 := s.putBar t region n { b with st := if count = 0 then .unset else .armed, n := count, waiters := [], held := [] }
  b.held.foldl (State.countHeld region n) s1

/-- Parties that leave a barrier; the last released waiter re-arms it. -/
def State.barDrop (s : State) (t : Nat) (region : Bool) (n : Nat) (who : Party → Bool) : State :=
  let b := s.bar t region n
  let b1 := { b with waiters := b.waiters.filter (fun p => !who p), held := b.held.filter (fun p => !who p) }
  let s1 := s.putBar t region n b1
  if b.st == .releasing && b1.waiters.isEmpty then s1.rearm t region n else s1

/-- A released waiter leaves when it issues (R190): the thread, or the trap block that runs for it. -/
def State.leaveBar (s : State) (t o tid : Nat) (trap : Bool) : State :=
  match (s.thread? t o tid).bind (if trap then Thread.trapLeaving else Thread.leaving) with
  | none => s
  | some (region, n) =>
    (s.modThread t o tid (fun th => if trap then { th with trapLeaving := none } else { th with leaving := none })).barDrop t region n
      (· == ⟨t, o, tid, trap⟩)

/-- bar.set (R364): RELOAD := count, unbound; `none` is BAR_MISUSE. -/
def State.barSet (s : State) (t : Nat) (region : Bool) (n count : Nat) : Option State :=
  let b := s.bar t region n
  if b.st == .releasing || (b.st == .armed && !b.waiters.isEmpty) then none
  else some (s.putBar t region n { b with st := if count = 0 then .unset else .armed, n := count, reload := count, key := none })

/-- bar.bind (R364): bound to the key, with its current membership. -/
def State.barBind (s : State) (t : Nat) (region : Bool) (n : Nat) (key : BitVec 16) : Option State :=
  let b := s.bar t region n
  if b.st == .releasing || (b.st == .armed && !b.waiters.isEmpty) then none
  else
    let count := s.members t region key
    some (s.putBar t region n { b with st := if count = 0 then .unset else .armed, n := count, key := some key })

/-- The barriers that a tile's threads reach: those of the tile and of its region. -/
def State.barsAt (s : State) (t : Nat) : List (Bool × Nat × Barrier) :=
  (s.tile t).bars.map (fun b => (false, b.1, b.2)) ++
    match (s.regionOf t).bind s.region? with
    | some r => r.bars.map (fun b => (true, b.1, b.2))
    | none => []

/-- A thread has arrived at a barrier, and is counted there. -/
def Barrier.arrived (b : Barrier) (t o tid : Nat) : Bool := b.waiters.any (fun p => p.tile == t && p.set == o && p.tid == tid)

/-- An ARMED barrier bound to the key gains one with a member, or loses one with a member that has not arrived (R191). -/
def State.adjust (s : State) (t o tid : Nat) (key : BitVec 16) (up : Bool) : State :=
  (s.barsAt t).foldl (fun s x =>
    let b := s.bar t x.1 x.2.1
    if b.st == .armed && b.key == some key && (up || !b.arrived t o tid) then
      (s.putBar t x.1 x.2.1 { b with n := if up then b.n + 1 else b.n - 1 }).barCheck t x.1 x.2.1
    else s) s

/-! ### Groups (R189) -/

/-- grp.join; `none` is GROUP_FULL: no free id among the tile's 64. -/
def State.join (s : State) (t o tid : Nat) (key : BitVec 16) : Option State :=
  let g := (s.tile t).groups
  match g.look key.toNat with
  | some ms =>
    if ms.contains (o, tid) then some s
    else some ((s.putTile t { s.tile t with groups := g.insert key.toNat (ms ++ [(o, tid)]) }).adjust t o tid key true)
  | none =>
    if 64 ≤ g.length then none
    else some ((s.putTile t { s.tile t with groups := g.insert key.toNat [(o, tid)] }).adjust t o tid key true)

/-- A member leaves a group, which is dissolved with its last member. -/
def State.ungroup (s : State) (t o tid : Nat) (key : BitVec 16) : State :=
  let g := (s.tile t).groups
  match g.look key.toNat with
  | none => s
  | some ms =>
    if !ms.contains (o, tid) then s
    else
      let ms1 := ms.filter (· != (o, tid))
      let g1 := if ms1.isEmpty then g.erase key.toNat else g.insert key.toNat ms1
      (s.putTile t { s.tile t with groups := g1 }).adjust t o tid key false

/-- grp.leave: an anchor parked at an ARMED barrier that is bound to the group cannot leave it in a trap block (R191). -/
def State.leave (s : State) (t o tid : Nat) (key : BitVec 16) : State :=
  if (s.barsAt t).any (fun x => x.2.2.st == .armed && x.2.2.key == some key && x.2.2.arrived t o tid) then s else s.ungroup t o tid key

/-- Leave every group (R187). -/
def State.leaveAll (s : State) (t o tid : Nat) : State :=
  (s.tile t).groups.foldl (fun s g => if g.2.contains (o, tid) then s.ungroup t o tid (BitVec.ofNat 16 g.1) else s) s

/-! ### Spill words (R162 to R164) -/

def spEn (m : Double) : Bool := m.getLsbD 63
def spAcs (m : Double) : Bool := m.getLsbD 62
def spWords (m : Double) : Nat := (m.extractLsb' 55 7).toNat
def spCol (m : Double) : Nat := (m.extractLsb' 32 8).toNat

/-- The k-th set bit of a mask, from bit `i` upward. -/
def nthBit (mask : BitVec 16) : Nat → Nat → Nat → Nat
  | 0, i, _ => i
  | fuel + 1, i, k => if mask.getLsbD i then (if k = 0 then i else nthBit mask fuel (i + 1) (k - 1)) else nthBit mask fuel (i + 1) k

/-- The backing word of spill word n of a thread: an LVS word, or an ACS word by column and row. -/
def spillWord (m : Double) (e : SetEntry) (tid n : Nat) : Nat :=
  let i := n * (32 * e.width) + tid
  if spAcs m then i % 512 * 256 + spCol m + i / 512
  else nthBit (m.extractLsb' 0 16) 16 0 (i / 8192) * 8192 + i % 8192

/-- Columns of the accumulator store that a map lends: the first and how many (R162). -/
def lentCols (m : Double) (e : SetEntry) : Nat × Nat :=
  if spEn m && spAcs m then (spCol m, (32 * e.width * spWords m + 511) / 512) else (0, 0)

/-- Spill words of a thread read zero until it spills (R164). -/
def State.zeroSpill (s : State) (t : Nat) (m : Double) (e : SetEntry) (tid : Nat) : State :=
  if !spEn m || (spAcs m && (s.tile t).heldFor.isSome) then s
  else
    (List.range (spWords m)).foldl (fun s n =>
      let w := spillWord m e tid n
      let x := s.tile t
      if spAcs m then s.putTile t { x with acs := SMap.put 0 x.acs w 0, acsPoison := NSet.drop x.acsPoison w }
      else s.putLvs t w 0) s

/-! ### Creation and retirement -/

/-- A thread that retires waits at no barrier any more. -/
def State.dropParty (s : State) (t o tid : Nat) : State :=
  (s.barsAt t).foldl (fun s x =>
    let who (p : Party) : Bool := p.tile == t && p.set == o && p.tid == tid
    if (x.2.2.waiters ++ x.2.2.held).any who then s.barDrop t x.1 x.2.1 who else s) s

/-- Retirement (R187): the thread leaves every group and its slot becomes free; its accesses complete on their own, under a number that no
thread of the set has. -/
def State.retire (s : State) (t o tid : Nat) : State :=
  let s1 := (s.leaveAll t o tid).dropParty t o tid
  let s2 := s1.modSet t o (fun v => { v with threads := v.threads.erase tid }.dropRecord false tid)
  { s2 with accs := s2.accs.map (fun a =>
      if a.2.tile == t && a.2.set == o && a.2.tid == tid then (a.1, { a.2 with tid := noTid tid }) else a) }

/-- The lowest free tid of a set (R186). -/
def SetState.freeTid (v : SetState) : Option Nat :=
  (List.range (32 * v.ent.width)).find? (fun tid => (v.threads.look tid).isNone)

/-- A new thread (R157, R186, R361): zero in every register but x0 and in every spill word, in the waiting vector of the block, its accesses
ordered after its creator's earlier ones. -/
def State.newThread (s : State) (t o creator : Nat) (blk : Nat) (x0 : Word) : State × Nat :=
  match s.set? t o with
  | none => (s, 0xFFFFFFFF)
  | some v =>
    match v.freeTid with
    | none => (s, 0xFFFFFFFF)
    | some tid =>
      let th := { (Thread.fresh (.waiting blk)).orderAfter 0xFFFF (s.known t o creator 0xFFFF 2) with since := s.tick }
      let s1 := s.putSet t o (v.putThread tid th)
      let s2 := (List.range 32).foldl (fun s n => s.putX t v.ent tid n 0) s1
      ((s2.putX t v.ent tid 0 x0).zeroSpill t v.regs.spmap v.ent tid, tid)

end Sys2Proof.Machine
end

