-- ==== Sys2Proof/Machine/Pass.lean ====
section
/-!
DEFINITION. How an instruction executes for a pass (spec/16 R278, spec/12 R212 and R213, spec/09 R160 and R161): the checks that
need the set and the block, then thread by thread in lane order: an incomplete store group or a pending guard parks, a
false guard skips, and otherwise the instruction serves the thread. Every meaning of a set's instruction goes through
`withPass`.
-/
namespace Sys2Proof.Machine

/-- What serving one thread gives: it goes on, perhaps with a member of the pass's return group; it parks at this
instruction; it takes a fault; its set takes a set fault; or it has left the sweep, already placed. -/
inductive Serve where
  | ok (s : State) (m : Option Member)
  | park (s : State) (why : Cause)
  | fault (s : State) (f : FaultInfo)
  | setFault (s : State) (f : FaultInfo)
  | gone (s : State)
  /-- A full Drift stalls the set at this thread: the pass goes on from it later (R251, R407). -/
  | stall (s : State)

/-- Park a thread (R10, R213, R350): its resume index, its loop state and its cause. The anchor of a trap block keeps
its own place. -/
def State.parkAt (s : State) (c : Ctx) (idx : Nat) (loops : Loops) (why : Cause) : State :=
  let solo := ((s.set? c.tile c.set).bind SetState.sweep).any (fun w => w.alone == some idx)
  let s1 := s.modThread c.tile c.set c.tid (fun th =>
    if c.mode == .trap then { th with trap := some (c.blk, idx, why), trapLoops := loops }
    else { th with place := .parked c.blk idx why, loops := loops, solo := solo })
  s1.modSet c.tile c.set (fun v =>
    let v1 := v.count 0x06 1
    match why with
    | .chan _ => v1.count 0x07 1
    | _ => v1)

/-- The state of a pass under way: the machine, the threads that stay, those already served, the members of its return
group, how many executed, and whether a set fault or a full Drift stopped it. -/
structure PassSt where
  s : State
  keep : List Nat
  done : List Nat
  members : List Member
  count : Nat
  stop : Bool

/-- The incomplete store groups of a context's thread (R453). -/
def State.storesOf (s : State) (c : Ctx) : List Nat := ((s.set? c.tile c.set).map (fun v => v.storePending c.tid)).getD []

/-- A thread that begins the block's first instruction has the next-block index "none" (R345). -/
def State.passBegin (s : State) (t o idx tid : Nat) : State :=
  if idx == 0 then s.modThread t o tid (fun th => { th with next := none }) else s

/-- One thread of a pass. After a set fault, or a stall at a full Drift, the rest of the pass stands as it is. -/
def passStep (c : Ctx) (g : Guard) (serve : Ctx → State → Serve) (p : PassSt) (tid : Nat) : PassSt :=
  if p.stop then { p with keep := p.keep ++ [tid] }
  else if p.done.contains tid then { p with keep := p.keep ++ [tid] }
  else
    let c := { c with tid := tid }
    match p.s.set? c.tile c.set with
    | none => p
    | some v =>
      match v.threads.look tid with
      | none => p
      | some th =>
        let stores := v.storePending tid
        let pend := if g.q == 7 then [] else v.pendingOn tid [.opd (.q g.q)]
        if !stores.isEmpty || !pend.isEmpty then
          { p with s := p.s.parkAt c c.idx c.loops (.groups (stores ++ pend)) }
        else if !th.guard g then { p with keep := p.keep ++ [tid], done := p.done ++ [tid] }
        else
          match serve c p.s with
          | .ok s m =>
            { p with s := s, keep := p.keep ++ [tid], done := p.done ++ [tid], members := p.members ++ m.toList, count := p.count + 1 }
          | .park s why => { p with s := s.parkAt c c.idx c.loops why }
          | .fault s f => { p with s := s.threadFault c.tile c.set tid c.blk c.idx c.loops (c.mode == .trap) f, keep := if c.mode == .trap then p.keep ++ [tid] else p.keep, stop := c.mode == .trap }
          | .setFault s f =>
            { p with s := s.setFaultAt c.tile c.set f tid c.blk c.idx, keep := p.keep ++ [tid], stop := true }
          | .gone s => { p with s := s, count := p.count + 1 }
          | .stall s => { p with s := s, keep := p.keep ++ [tid], stop := true }

/-- Replace the threads of a sweep's current pass. -/
def Sweep.setPass (w : Sweep) (tids done : List Nat) : Sweep :=
  { w with passes := w.passes.modify w.cur (fun p => { p with tids := tids }), done := done }

/-- A pass makes a return group, if it has members. -/
def State.newGroup (s : State) (c : Ctx) (marks : List Mark) (ms : List Member) : State :=
  if ms.isEmpty then s
  else
    { s.modSet c.tile c.set (fun v => { v with groups := v.groups.insert s.nextId ⟨c.blk, c.idx, marks, ms, c.loops, c.mode == .trap, s.firingOf c.tile c.set c.blk⟩ }) with
      nextId := s.nextId + 1 }

/-- The store group of a reduction whose flags return late: its own group completes at the check (R453). -/
def Member.check? (m : Member) : Option Member :=
  match m.dst, m.late with
  | none, .atom i => some { m with late := .check i }
  | _, _ => none

/-- Close the pass: the threads that stay, the return groups with their marks, and the counters. -/
def PassSt.close (p : PassSt) (c : Ctx) (marks : List Mark) : State :=
  let s1 := p.s.modSet c.tile c.set (fun v =>
    let v1 := { v with sweep := v.sweep.map (fun w : Sweep => w.setPass p.keep (if p.stop then p.done else [])) }
    v1.count 0x03 p.count)
  (s1.newGroup c marks p.members).newGroup c [] (p.members.filterMap Member.check?)

/-- Every executing thread of the pass takes the trap of a failed check, whatever its guard (R278); one whose store group is incomplete
does not issue the instruction, and parks (R453). -/
def trapPass (c : Ctx) (code : BitVec 8) (p : PassSt) (tid : Nat) : PassSt :=
  if p.stop then { p with keep := p.keep ++ [tid] }
  else
    let c := { c with tid := tid }
    let stores := p.s.storesOf c
    if !stores.isEmpty then { p with s := p.s.parkAt c c.idx c.loops (.groups stores) }
    else
      { p with s := p.s.threadFault c.tile c.set tid c.blk c.idx c.loops (c.mode == .trap) { code := code },
               keep := if c.mode == .trap then p.keep ++ [tid] else p.keep, stop := c.mode == .trap }

/-- The set and sweep in focus: the set, its sweep, and its current pass. -/
def State.focus? (s : State) : Option (SetState × Sweep × Pass) :=
  match s.set? s.focusTile s.focusSet with
  | none => none
  | some v =>
    match v.sweep with
    | none => none
    | some w =>
      match w.passes[w.cur]? with
      | none => none
      | some p => some (v, w, p)

/-- The context of the pass in focus; `tid` is filled in thread by thread. -/
def focusCtx (s : State) (v : SetState) (w : Sweep) (p : Pass) : Ctx :=
  ⟨s.focusTile, s.focusSet, w.blk, w.idx, w.mode, p.pos, w.loops, 0, v.sreg, v.k, s.nextId⟩

/-- Execute one instruction for the pass in focus: `chk` gives the code of the first check of R278 that fails for this
set and block, `marks` what the pass's return group marks pending (R160). -/
def withPass (s : State) (g : Guard) (chk : SetState → Ctx → Option (BitVec 8)) (marks : List Mark)
    (serve : Ctx → State → Serve) : Host.Outcome State Fault Refusal :=
  match s.focus? with
  | none => .fault .noSweep
  | some (v, w, p) =>
    let c := focusCtx s v w p
    match chk v c with
    | some code => .next ((p.tids.foldl (trapPass c code) ⟨s, [], [], [], 0, false⟩).close c [])
    | none => .next ((p.tids.foldl (passStep c g serve) ⟨s, [], w.done, [], 0, false⟩).close c marks)

/-! ### Checks of R278 that need the set or the block -/

/-- No check beyond the word's own. -/
def chkNone : SetState → Ctx → Option (BitVec 8) := fun _ _ => none

/-- The ends that channel operands name are bound (R286): sources pop input ends, destinations push output ends. -/
def chkEnds (srcs dsts : List Opd) (v : SetState) (_ : Ctx) : Option (BitVec 8) :=
  if srcs.any (fun o => o.inEnd v.ent == some 255) || dsts.any (fun o => o.outEnd v.ent == some 255) then some Code.reservedField
  else none

/-- PRIVILEGE outside a supervisor set (R278, check 4). -/
def chkSup (v : SetState) (_ : Ctx) : Option (BitVec 8) := if v.supervisor then none else some Code.privilege

/-- TYPE_VIOLATION outside the set types and block modes that allow the instruction (R183, R386). -/
def chkType (types : List SetType) (modes : List BlockMode) (v : SetState) (c : Ctx) : Option (BitVec 8) :=
  if types.contains v.ent.typ && modes.contains c.mode then none else some Code.typeViolation

def allTypes : List SetType := [.ag, .cp, .rd]
def allModes : List BlockMode := [.thread, .token, .trap]

/-- Checks in order: the first that fails gives the trap. -/
def chkAll (l : List (SetState → Ctx → Option (BitVec 8))) (v : SetState) (c : Ctx) : Option (BitVec 8) :=
  l.findSome? (fun f => f v c)

/-! ### The shape shared by instructions on operands -/

/-- A source or destination operand with its width and the tag and binary8 format it carries on a channel (R286). -/
structure Operand where
  o : Opd
  wide : Bool := false
  tag : BitVec 3 := 0
  fmt : Option B8 := none

/-- An instruction on operands (R320): sources in the order A, B, C, a destination, whether it returns late (R322), whether its
flags do, SF, whether it reads ff, and its effect on the source values. -/
structure LaneSpec where
  srcs : List Operand
  dst : Option Operand
  late : Bool := false
  flags : Bool := false
  sf : Bool := false
  readsFf : Bool := false
  f : List Double → Double × Exc

/-- Every register operand of an instruction, as the scoreboard sees it. A late push marks its output channel (R322). -/
def LaneSpec.watched (sp : LaneSpec) : List Mark :=
  (sp.srcs.flatMap (fun x => match x.o with
    | .ch _ => []
    | .pc _ => []
    | .spec .ff => [Mark.ff]
    | o => (o.cover x.wide).map Mark.opd)) ++
  (sp.dst.toList.flatMap (fun x => (x.o.cover x.wide).map Mark.opd)) ++
  (if sp.readsFf then [Mark.ff] else [])

/-- The input ends that a list of operands pops, one entry for each pop. -/
def popEnds (e : SetEntry) (l : List Operand) : List (Nat × Operand) :=
  l.filterMap (fun x => (x.o.inEnd e).map (fun n => (n, x)))

/-- Whether the tile's cube binding of this set holds an end (R378). -/
def State.boundByCube (s : State) (t o : Nat) (e : SetEntry) (isIn : Bool) (n : Nat) : Bool :=
  match (s.tile t).cube.binding with
  | some b =>
    b.set == o && (if isIn then e.chIn b.chI == n else e.chOut b.chO == n)
  | none => false

/-- The i-th token that a list of pops takes from an end: earlier pops of the same end come first. -/
def State.popToken (s : State) (t : Nat) (before : List Nat) (e : Nat) : Option Token := s.tokenAt t e (before.count e)

/-- Walk the pops in order: the first end without a token, or the first head refused, or the tokens. -/
inductive Pops where
  | wait (e n : Nat)
  | refuse
  | take (ks : List Token)

/-- Tokens for every pop (R286): a data operand takes the tag and format it names; a predicate operand takes a data
token and refuses a marker. Presence is judged before tags, so that a thread parks until every pop has a token. -/
def State.pops (s : State) (t : Nat) : List Nat → List (Nat × Operand) → Pops
  | _, [] => .take []
  | before, (e, x) :: rest =>
    match s.popToken t before e with
    | none => .wait e (before.count e)
    | some k =>
      match s.pops t (before ++ [e]) rest with
      | .wait e2 n => .wait e2 n
      | .refuse => .refuse
      | .take ks =>
        let bad := match x.o with
          | .pc _ => k.isCtl
          | _ => k.tag != x.tag || (k.tag == 3 && x.fmt.isSome && s.fmtIn t e != x.fmt)
        if bad then .refuse else .take (k :: ks)

/-- The value that a source gives: the popped token's payload for a channel, else the register. -/
def srcValues (c : Ctx) (s : State) : List Operand → List Token → List Double
  | [], _ => []
  | x :: rest, ks =>
    match x.o, ks with
    | .ch _, k :: ks => k.val.setWidth 64 :: srcValues c s rest ks
    | .pc _, k :: ks => (k.val.extractLsb' 0 1).setWidth 64 :: srcValues c s rest ks
    | _, ks => readOpd c s x.wide x.o :: srcValues c s rest ks

/-- Take one free slot for a push that a late result will make (R322). -/
def State.reserve (s : State) (t e : Nat) : State :=
  match s.outChan t e with
  | some (n, c) => s.putChan n { c with free := c.free - 1 }
  | none => s

/-- Serve one thread of an instruction on operands (R161, R286, R320 to R322). -/
def serveLane (sp : LaneSpec) (c : Ctx) (s : State) : Serve :=
  match s.set? c.tile c.set with
  | none => .gone s
  | some v =>
    let pend := v.pendingOn c.tid sp.watched
    if !pend.isEmpty then .park s (.groups pend)
    else
      let ins := popEnds v.ent sp.srcs
      let out := sp.dst.bind (fun x => (x.o.outEnd v.ent).map (fun e => (e, x)))
      if ins.any (fun p => s.boundByCube c.tile c.set v.ent true p.1) || out.any (fun p => s.boundByCube c.tile c.set v.ent false p.1) then
        .setFault s { code := Code.chTag }
      else
        match s.pops c.tile [] ins with
        | .wait e n => .park s (.chan [.head e n])
        | .refuse =>
          if out.any (fun p => s.roomAt c.tile p.1 == 0) then .park s (.chan (out.toList.map (fun p => .room p.1)))
          else .setFault s { code := Code.chTag }
        | .take ks =>
          if out.any (fun p => s.roomAt c.tile p.1 == 0) then .park s (.chan (out.toList.map (fun p => .room p.1)))
          else if out.any (fun p => p.2.tag == 3 && p.2.fmt.isSome && s.fmtOut c.tile p.1 != p.2.fmt) then
            .setFault s { code := Code.chTag }
          else
            match sp.srcs.findSome? (fun x => s.opdPoison c v.ent x.wide x.o) with
            | some w => .fault s { code := Code.memPoison, w1 := BitVec.ofNat 64 (w * 4) }
            | none =>
              let r := sp.f (srcValues c s sp.srcs ks)
              let s1 := ins.foldl (fun s p => s.popAt c.tile p.1) s
              let e := if sp.sf then Exc.none else r.2
              if sp.late then
                let s2 := match out with
                  | some p => s1.reserve c.tile p.1
                  | none => s1
                .ok s2 (some ⟨c.tid, sp.dst.map Operand.o, (sp.dst.map Operand.wide).getD false, (sp.dst.map Operand.tag).getD 0,
                  e, .value r.1, false⟩)
              else
                let s2 := match sp.dst with
                  | some x => writeOpd c s1 x.wide x.tag x.o r.1
                  | none => s1
                .ok (s2.modThread c.tile c.set c.tid (fun th => th.setFlags sp.sf e)) none

/-- What the return group of a late instruction marks: its destination, and ff where its flags arrive late. -/
def LaneSpec.marks (sp : LaneSpec) : List Mark :=
  (sp.dst.toList.flatMap (fun x => (x.o.cover x.wide).map Mark.opd)) ++ (if sp.flags then [Mark.ff] else [])

/-- Execute an instruction on operands for the pass in focus. -/
def laneExec (g : Guard) (sp : LaneSpec) (s : State) : Host.Outcome State Fault Refusal :=
  withPass s g (chkEnds (sp.srcs.map Operand.o) (sp.dst.toList.map Operand.o)) sp.marks (serveLane sp)

end Sys2Proof.Machine
end

