-- ==== Sys2Proof/Machine/Trace.lean ====
section
/-!
DEFINITION. Observation (spec/14 R241 to R255): trace records into a tile's Drift, trigger windows, breakpoints and the start of a
halt, and the notes behind Gust walks. Times and cycle counts are free values (log entry 4).
-/
namespace Sys2Proof.Machine

/-- A value that no rule states, fresh at each step, for a purpose of its own (log entry 4, DESIGN CHOICE). -/
def State.free (s : State) (n : Nat) : Double := Config.freeWord s.tick n

/-- A choice below `k` that no rule fixes. -/
def State.choose (s : State) (n k : Nat) : Nat := if k ≤ 1 then 0 else Config.freeChoice s.tick n % k

/-! ### Debug levels and replay (R243, R257) -/

/-- The debug level, as it stands when the action is taken, allows an action of R243 (R272): Control for halting and replay, Observe or
Control for the rest. -/
def State.dbgControl (s : State) : Bool := s.cfg.dbg == 2
def State.dbgObserve (s : State) : Bool := s.cfg.dbg == 1 || s.cfg.dbg == 2

/-- Replay modes of RPLCTL (R257). -/
inductive RplMode where
  | off | record | strict | advisory
  deriving DecidableEq, Repr

/-- The registers of the region that holds a tile: every set of it carries the same values. -/
def State.regionRegs (s : State) (t : Nat) : Option SetRegs :=
  match s.regionOf t with
  | none => none
  | some r =>
    match s.regionSets r with
    | [] => none
    | (_, _, v) :: _ => some v.regs

/-- The mode that holds at a tile: enforcement is off once a divergence has ended it (R259), and nothing holds below its debug level. -/
def State.rplMode (s : State) (t : Nat) : RplMode :=
  match s.regionRegs t, (s.regionOf t).bind s.region? with
  | some g, some r =>
    match (g.rplctl.extractLsb' 62 2).toNat with
    | 0 => .off
    | 1 => if s.dbgObserve then .record else .off
    | 2 => if r.rplOff || !s.dbgControl then .off else .strict
    | _ => if r.rplOff || !s.dbgControl then .off else .advisory
  | _, _ => .off

/-- The region of a tile is coming to a halt. -/
def State.halting (s : State) (t : Nat) : Bool :=
  match (s.regionOf t).bind s.region? with
  | some r => r.halt == .halting
  | none => false

/-- The classes of event that a trigger names (R252). -/
inductive EvClass where
  | firing | sweep | mark | retire | other
  deriving DecidableEq, Repr

def EvClass.code : EvClass → Nat
  | .firing => 0
  | .sweep => 1
  | .mark => 2
  | .retire => 3
  | .other => 8

/-- A trigger condition is met by an event of a node (R252). -/
def trgMet (reg : Double) (c : EvClass) (node : Word) : Bool :=
  reg.getLsbD 63 && (reg.extractLsb' 60 3).toNat == c.code && reg.extractLsb' 0 32 == node

/-- The EVMASK bit of a record kind (R250); LOST records follow no bit. -/
def evBit (kind : Nat) : Nat :=
  match kind with
  | 1 => 0
  | 2 => 1
  | 3 => 2
  | 4 => 3
  | 5 => 4
  | 7 => 5
  | _ => 6

/-- Capacity of Drift (R251). -/
def driftSize : Nat := 128

/-- An element's event: who forms it and what it carries (R249), with the note of the firing that it is of. -/
structure TraceEv where
  tile : Nat
  set : Nat
  blk : Nat
  node : Word
  invoc : BitVec 24
  kind : Nat
  cls : EvClass
  arg0 : Word
  arg1 : Double
  note : Option Note

def SetState.trcctl (v : SetState) : Double := v.regs.trcctl

/-- The forming set traces an event of this kind now (R250, R252). -/
def State.traceOn (s : State) (e : TraceEv) : Bool :=
  match s.set? e.tile e.set with
  | none => false
  | some v =>
    let c := v.trcctl
    s.dbgObserve && c.getLsbD 63 && c.getLsbD (49 + evBit e.kind) &&
      (!c.getLsbD 0 || (s.tile e.tile).trgOpen.isSome || trgMet (s.tile e.tile).trgStart e.cls e.node)


/-- The record of an event (R249). -/
def State.traceWords (s : State) (e : TraceEv) (zlp : Bool) : TraceRec :=
  let free := match (s.regionOf e.tile).bind s.region? with
    | some r => r.free
    | none => false
  ⟨BitVec.ofNat 4 e.kind ++ BitVec.ofBool zlp ++ BitVec.ofBool free ++ BitVec.ofNat 4 e.set ++ BitVec.ofNat 10 e.tile ++
      BitVec.ofNat 12 e.blk ++ e.node,
    (0 : BitVec 8) ++ e.invoc ++ e.arg0,
    (s.tile e.tile).lastSync ++ (e.note.map Note.time).getD ((s.free 1).extractLsb' 0 40),
    e.arg1⟩

/-- A record enters Drift, or is counted as lost (R251). -/
def State.driftPut (s : State) (t : Nat) (r : TraceRec) : State :=
  let x := s.tile t
  if driftSize ≤ x.drift.length then s.putTile t { x with driftLost := x.driftLost + 1 }
  else s.putTile t { x with drift := x.drift ++ [r] }

/-- An event is observed: it may open the tile's window, it is traced, and it may close the window (R249 to R252). -/
def State.observe (s : State) (e : TraceEv) : State :=
  let opens := s.dbgObserve && (s.tile e.tile).trgOpen.isNone && trgMet (s.tile e.tile).trgStart e.cls e.node
  let s1 := if opens then s.putTile e.tile { s.tile e.tile with trgOpen := some s.tick } else s
  let s2 := if s1.traceOn e then s1.driftPut e.tile (s1.traceWords e false) else s1
  if s.dbgObserve && (s2.tile e.tile).trgOpen.isSome && trgMet (s2.tile e.tile).trgStop e.cls e.node then
    let len : Double := if opens then 0 else (s2.free 2).extractLsb' 0 40 |>.setWidth 64
    let w : TraceEv := { e with kind := 6, cls := .other, arg0 := 0, arg1 := len }
    let s3 := if s2.traceOn w then s2.driftPut e.tile (s2.traceWords w (len == 0)) else s2
    s3.putTile e.tile { s3.tile e.tile with trgOpen := none }
  else s2

/-- The records that an event would form: its own, and that of the window that it closes. -/
def State.formed (s : State) (e : TraceEv) : Nat :=
  let x := s.tile e.tile
  let s1 := (s.putTile e.tile { x with drift := [], driftLost := 0 }).observe e
  (s1.tile e.tile).drift.length + (s1.tile e.tile).driftLost

/-- The event stalls: its records would meet a full Drift in lossless mode (R251). -/
def State.traceStalls (s : State) (e : TraceEv) : Bool :=
  match s.set? e.tile e.set with
  | none => false
  | some v => v.trcctl.getLsbD 62 && decide (driftSize < (s.tile e.tile).drift.length + s.formed e) && decide (0 < s.formed e)

/-! ### Breakpoints and halting (R244, R245) -/

/-- Breakpoint register n of a set matches an element. -/
def bkptMatch (reg : Double) (node : Word) (invoc : BitVec 24) (firing : Bool) : Bool :=
  reg.getLsbD 63 && reg.extractLsb' 0 32 == node && (!reg.getLsbD 62 || reg.extractLsb' 32 24 == invoc) &&
    match (reg.extractLsb' 60 2).toNat with
    | 0 => true
    | 1 => firing
    | 2 => !firing
    | _ => false

/-- The first of a set's breakpoints, as its last selection took them, that matches an element, while the debug level allows it (R243, R244). -/
def State.bkptHit (s : State) (v : SetState) (node : Word) (invoc : BitVec 24) (firing : Bool) : Option Nat :=
  if s.dbgControl then (List.range 8).find? (fun n => bkptMatch (SMap.get 0 v.regs.bkptOn n) node invoc firing) else none

/-- What the last hit of a region's halt names, and its reason (R245). -/
def Region.haltElem (x : Region) : Elem := ((x.hits.getLast?).map Prod.fst).getD .none
def Region.haltWhy (x : Region) : BitVec 8 := ((x.hits.getLast?).map Prod.snd).getD 0

/-- A region begins to halt at an element, or another element matches during its halt (R245); the element goes on from there. -/
def State.halt (s : State) (r : Nat) (e : Elem) (why : BitVec 8) : State :=
  s.modRegion r (fun x => { x with halt := .halting, hits := (if x.halt == .halting then x.hits else []) ++ [(e, why)],
                                   passing := if e == .none then x.passing else e :: x.passing })

/-- The region of a tile issues, selects and steps: it is placed and running, not halted, and no clock fault has
stopped the part (R232, R239, R245). -/
def State.runs (s : State) (t : Nat) : Bool :=
  !s.stopped &&
    match (s.regionOf t).bind s.region? with
    | some r => r.st == .running && (r.halt == .none || r.halt == .stepping)
    | none => false

/-- The region of a tile comes to a stop: it is being pre-empted, or it is coming to a halt. The cube goes on to its panel boundary (R181). -/
def State.stopping (s : State) (t : Nat) : Bool :=
  !s.stopped &&
    match (s.regionOf t).bind s.region? with
    | some r => (match r.st with
        | .preempting _ => true
        | _ => r.halt == .halting)
    | none => false

/-- A set was held only by the observing machinery (R251, R257): its PERTURB register is no longer zero. -/
def State.perturbed (s : State) (t o : Nat) : State :=
  s.modSet t o (fun v => { v with regs := { v.regs with perturb := v.regs.perturb + 1 } })

/-- An event of a set stalls at a full Drift: until Drift has room the set issues nothing (R251). -/
def State.driftStall (s : State) (t o : Nat) : State := (s.perturbed t o).modSet t o (fun v => { v with driftHeld := true })

/-- Drift has room again: the events that waited may be formed. -/
def State.driftRoom (s : State) (t : Nat) : State :=
  match (s.tile t).active with
  | none => s
  | some p => s.putTile t { s.tile t with active := some { p with sets := p.sets.map (fun v => (v.1, { v.2 with driftHeld := false })) } }

/-- A region's halt state after its one step (R248); after a halt command, which names no element, any step ends it. -/
def State.stepDone (s : State) (t : Nat) (e : Elem) : State :=
  match s.regionOf t with
  | none => s
  | some r =>
    match s.region? r with
    | none => s
    | some x => if x.halt == .stepping && (x.haltElem == e || x.haltElem == .none) then s.halt r e 0xFE else s

/-! ### Firings and their notes (R253 to R255) -/

/-- The number that an element's notes stand under: a block, an array, the cube's binding, or a port node. -/
def elemKey (ek : BitVec 3) (elem : Nat) : Nat :=
  match ek.toNat with
  | 3 => 65536 + elem
  | 4 => 131072
  | 5 => 131073 + elem
  | _ => elem

/-- A free value of a firing. While choices are recorded or replayed it belongs to the firing, by element and number, so that a replay
reproduces it (R260); otherwise it is fresh (log entry 4, DESIGN CHOICE). -/
def State.freeAt (s : State) (t key num n : Nat) : Double :=
  if s.rplMode t == .off then s.free n else Config.freeWord num (1000000 + (t * 200000 + key) * 8 + n)

/-- A condition of a firing (R253): its code, the input end that it is of, the step at which it became true, and, of an input, the tokens that had
been popped there before the one that made it true. -/
structure FireCond where
  code : Nat
  inEnd : Option Nat := none
  since : Nat := 0
  pops : Nat := 0

/-- The condition that an input end has a head, and the one that an output end has a free slot. -/
def State.condIn (s : State) (t code e : Nat) : FireCond :=
  ⟨code, some e, ((s.inChan t e).map (fun c => c.2.headSince)).getD 0, ((s.inChan t e).map (fun c => c.2.popped)).getD 0⟩

def State.condOut (s : State) (t e : Nat) : FireCond := { code := 2, since := ((s.outChan t e).map (fun c => c.2.freeSince)).getD 0 }

/-- The condition that became true last: of those of the last cycle the one of the lower code, and none (15) where all of several became true in
it (R253). How many steps that cycle takes in is a matter of time. -/
def lastCond (conds : List FireCond) (cycle : Nat) : FireCond :=
  let last := (conds.map FireCond.since).foldl max 0
  let now := conds.filter (fun c => decide (last ≤ c.since + cycle))
  if 1 < conds.length ∧ now.length = conds.length then { code := 15 } else now.headD { code := 15 }

/-- The note of an element's next firing (R253), from its conditions in the order of their codes. The length of the last cycle in steps, and times,
are free (log entry 4, DESIGN CHOICE). -/
def State.noteOf (s : State) (t o blk : Nat) (ek : BitVec 3) (elem : Nat) (invoc : BitVec 24) (conds : List FireCond) : Note :=
  let key := elemKey ek elem
  let num := SMap.get 0 (s.tile t).firings key + 1
  let c := lastCond conds (s.freeAt t key num 0).toNat
  ⟨num, c.code, c.inEnd, c.pops, (s.freeAt t key num 1).extractLsb' 0 40 |>.setWidth 64, (s.free 1).extractLsb' 0 40, o, blk, s.node t ek elem, invoc⟩

/-- The FIRE event of a firing (R249). -/
def fireEvent (t : Nat) (n : Note) : TraceEv :=
  ⟨t, n.set, n.blk, n.node, n.invoc, 1, .firing, BitVec.ofNat 32 n.last, n.arrival, some n⟩

/-- A sampled firing or an armed probe starts a walk at a firing (R254, R255). -/
def State.startWalk (s : State) (t : Nat) (n : Note) (probe : BitVec 16) : State :=
  let hops := ((((s.set? t n.set).map SetState.trcctl).getD 0).extractLsb' 32 8).toNat
  s.putTile t { s.tile t with gusts := (s.tile t).gusts ++ [⟨probe, 0, if hops = 0 ∨ 64 < hops then 64 else hops, n.set, n⟩] }

/-- The node-map entry of an element samples Gust walks (R241). -/
def State.sampled (s : State) (t : Nat) (ek : BitVec 3) (elem : Nat) : Bool :=
  match (s.tile t).active with
  | some p => s.nodes.any (fun n => n.pid == p.pid && n.tile == t && n.ek == ek && n.elem == elem && n.sample)
  | none => false

/-- Keep the note of a firing, of which an element has its last 64, and start the walk that its set's SPER asks for (R250, R253, R254). -/
def State.noteFiring (s : State) (t : Nat) (ek : BitVec 3) (elem : Nat) (n : Note) : State :=
  let key := elemKey ek elem
  let x := s.tile t
  let s1 := s.putTile t { x with firings := SMap.put 0 x.firings key n.num, notes := x.notes.insert key ((n :: (x.notes.look key).getD []).take 64) }
  match s.set? t n.set with
  | none => s1
  | some v =>
    let sper := (v.trcctl.extractLsb' 40 8).toNat
    if s.dbgObserve && v.trcctl.getLsbD 63 && sper != 0 && s.sampled t ek elem && n.num % 2 ^ sper == 0 then
      s1.startWalk t n ((s.freeAt t key n.num 2).extractLsb' 0 16)
    else s1

/-- The input ends that a block's header names. -/
def Block.ends (b : Block) (e : SetEntry) : List Nat := (b.in1.toList ++ b.in2.toList).map (fun i => e.chin.getD i.ch 255)

/-- The walks of the PROBEs that a block has consumed: those popped at the ends that its header names, and at ends that no header names, whose next
firing is that of any block (R255; log entry 35, DEDUCED). Below their debug level no walk starts (R243). -/
def State.probeFiring (s : State) (t : Nat) (n : Note) : State :=
  match s.set? t n.set with
  | none => s
  | some v =>
    let named := v.blocks.flatMap (fun b => if b.mode == .thread then [] else b.ends v.ent)
    let mine (e : Nat) : Bool := (v.blocks[n.blk]?).any (fun b => (b.ends v.ent).contains e) || !named.contains e
    let ps := v.probes.filter (fun p => mine p.1)
    if ps.isEmpty || !s.dbgObserve then s
    else (ps.foldl (fun s p => s.startWalk t n p.2) s).modSet t n.set (fun v => { v with probes := v.probes.filter (fun p => !mine p.1) })

end Sys2Proof.Machine
end

