-- ==== Sys2Proof/Machine/Memory.lean ====
section
/-!
DEFINITION. Device memory, the tier window and configuration space as places (spec/02 R24 to R41), reads and writes through
the inline cipher (R30), and address translation (spec/03 R46 to R59).
-/
namespace Sys2Proof.Machine

/-! ### The physical map (R24, R40, R41) -/

/-- What a physical address reaches. -/
inductive PaRange where
  | device
  | config
  | tier (port : Nat)
  | hole
  deriving DecidableEq, Repr

def cfgBase : Nat := 0x100000000000
def tierBase : Nat := 0x200000000000
def tierEnd : Nat := 0x400000000000

/-- The ports with a device, in ascending order. -/
def Regs.ports (r : Regs) : List Nat := (List.range 8).filter (fun p => r.tierPop.getLsbD p)

/-- Capacity of a port in bytes. -/
def Regs.portBytes (r : Regs) (p : Nat) : Nat := SMap.get 0 r.tierCap p * 2 ^ 30

/-- The port of a window offset, capacities following one another. -/
def concatPort (r : Regs) : List Nat → Nat → Option Nat
  | [], _ => none
  | p :: ps, off => if off < r.portBytes p then some p else concatPort r ps (off - r.portBytes p)

/-- The port that backs a window offset: interleaved at 4 KiB, or one after the other (R40). -/
def Regs.tierPort (r : Regs) (off : Nat) : Option Nat :=
  let ps := r.ports
  if r.tierMode then
    if off < (ps.map r.portBytes).sum then ps[off / 4096 % ps.length]? else none
  else concatPort r ps off

def Regs.place (r : Regs) (pa : Nat) : PaRange :=
  if pa < devEnd then .device
  else if cfgBase ≤ pa ∧ pa < cfgBase + 65536 then .config
  else if tierBase ≤ pa ∧ pa < tierEnd then
    match r.tierPort (pa - tierBase) with
    | some p => .tier p
    | none => .hole
  else .hole

/-- Memory types of R25. -/
inductive MType where
  | device | tier | persist | peer | config
  deriving DecidableEq, Repr

def MType.of (b : BitVec 3) : Option MType :=
  match b.toNat with
  | 0 => some .device
  | 1 => some .tier
  | 2 => some .persist
  | 3 => some .peer
  | 4 => some .config
  | _ => none

/-- The type that a range accepts; a hole takes none, and is found when the access reaches memory (R25, R51). -/
def Regs.accepts (r : Regs) (pa : Nat) (m : MType) : Bool :=
  match r.place pa with
  | .device => m == .device
  | .config => m == .config
  | .tier p => m == (if r.tierPersist.getLsbD p then .persist else .tier)
  | .hole => true

/-- The type of a physical address when translation is off (R47). -/
def Regs.natural (r : Regs) (pa : Nat) : MType :=
  match r.place pa with
  | .device => .device
  | .config => .config
  | .tier p => if r.tierPersist.getLsbD p then .persist else .tier
  | .hole => .device

/-- An access that reaches memory here faults MEM_POISON: a hole, unbacked window, a link that is down, or a poisoned line
(R25, R28, R36, R40). `whole` says that the access writes whole lines. -/
def State.memFaults (s : State) (pa n : Nat) (whole : Bool) : Bool :=
  match s.cfg.place pa with
  | .device => if whole then NSet.has s.cfg.retired (chanOf pa) else s.rangePoison pa n
  | .config => false
  | .tier p => !s.cfg.tierUp.getLsbD p || (!whole && s.rangePoison pa n)
  | .hole => true

/-! ### Through the cipher (R30, R32) -/

/-- A key id that new accesses may carry. -/
def State.keyValid (s : State) (k : BitVec 12) : Bool := k == 0 || (SMap.look s.keys k.toNat).isSome

/-- The keys of an access already accepted: those of an invalidated id stay until its accesses have completed. -/
def State.keysOf (s : State) (k : BitVec 12) : Option (BitVec 512) :=
  match SMap.look s.keys k.toNat with
  | some p => some p
  | none => SMap.look s.oldKeys k.toNat

/-- Plaintext bytes of memory under a key id, within one line. -/
def State.readKey (s : State) (k : BitVec 12) (pa n : Nat) : List Byte :=
  if k = 0 then Memory.bytes s.mem pa n
  else
    match s.keysOf k with
    | none => Memory.bytes s.mem pa n
    | some p =>
      let line := pa / 64
      ((xtsDec p line (Memory.bytes s.mem (line * 64) 64)).drop (pa % 64)).take n

/-- Write plaintext bytes under a key id, within one line. -/
def State.writeKey (s : State) (k : BitVec 12) (pa : Nat) (bs : List Byte) : State :=
  if k = 0 then { s with mem := Memory.writeBytes s.mem pa bs }
  else
    match s.keysOf k with
    | none => { s with mem := Memory.writeBytes s.mem pa bs }
    | some p =>
      let line := pa / 64
      let old := xtsDec p line (Memory.bytes s.mem (line * 64) 64)
      let new := old.take (pa % 64) ++ bs ++ old.drop (pa % 64 + bs.length)
      { s with mem := Memory.writeBytes s.mem (line * 64) (xtsEnc p line new) }

/-- The number of bytes in little-endian order, and back. -/
def bytesNat (bs : List Byte) : Nat := bs.foldr (fun b n => b.toNat + 256 * n) 0

def natBytes : Nat → Nat → List Byte
  | 0, _ => []
  | n + 1, v => BitVec.ofNat 8 v :: natBytes n (v / 256)

/-- Bytes of memory from any address, line by line. -/
def State.readRange (s : State) (k : BitVec 12) : Nat → Nat → Nat → List Byte
  | 0, _, _ => []
  | fuel + 1, pa, n =>
    if n = 0 then []
    else
      let m := min n (64 - pa % 64)
      s.readKey k pa m ++ s.readRange k fuel (pa + m) (n - m)

/-! ### What memory has held (R41, R56, R77, R449) -/

/-- Memory that keeps its contents without power. -/
def Regs.persists (r : Regs) (pa : Nat) : Bool :=
  match r.place pa with
  | .tier p => r.tierPersist.getLsbD p
  | _ => false

/-- A fence of device or domain scope that covers the write has completed: the walker and the near-memory queue see it, and in persistent
memory it is durable. -/
def State.settledWrite (s : State) (f : Fresh) : Bool := f.waits.any (fun ns => ns.all s.met)

/-- The step from which every thread and circuit of a tile sees memory: writes before it are in the past of all. -/
def State.horizonAt (s : State) (t m : Nat) : Nat :=
  let m1 := (s.setsOf t).foldl (fun m v => v.2.threads.foldl (fun m th => min m th.2.since) m) m
  (s.tile t).arrs.foldl (fun m r => if r.2.mode == .running then min m r.2.since else m) m1

def State.horizon (s : State) : Nat := s.tiles.foldl (fun m x => s.horizonAt x.1 m) s.tick

/-- The steps before which a double held something that a read may see which is ordered after nothing later than step `since` (R449). -/
def pastSteps (since : Nat) (l : List Past) : List Nat := (l.takeWhile (fun p => since < p.tick && p.ok)).map Past.tick

/-- What a double held before a step. -/
def pastValue (at' : Nat) (l : List Past) (now : Double) : Double := (((l.filter (fun p => at' ≤ p.tick)).getLast?).map Past.old).getD now

/-- Note that a write is about to change the double of an address: what it held stays known while a party may still see it. -/
def State.noteWrite (s : State) (pa : Nat) (f : Fresh) : State :=
  let l := SMap.get [] s.fresh (pa / 8)
  let open' := l.takeWhile (fun f => !s.settledWrite f)
  let past := (l.drop open'.length).filter (fun f => s.horizon < f.was.tick)
  { s with fresh := s.fresh.insert (pa / 8) ({ f with was := ⟨s.tick, s.readPlain (pa / 8 * 8), f.was.ok⟩ } :: open' ++ past) }

/-- A write changes the doubles of `n` bytes, or, where a key enciphers the line, every double of the line. -/
def State.noteBytes (s : State) (key : BitVec 12) (pa n : Nat) (f : Fresh) : State :=
  let ds := if key == 0 then (List.range ((pa + n + 7) / 8 - pa / 8)).map (pa / 8 + ·) else (List.range 8).map (pa / 64 * 8 + ·)
  ds.foldl (fun s d => s.noteWrite (8 * d) f) s

/-- What a double may still be for a party that only a device-scope fence reaches: what it holds, or what it held before writes that no
completed fence covers (R41, R56, R77). -/
def State.olds (s : State) (d : Nat) : List Double := ((SMap.get [] s.fresh d).takeWhile (fun f => !s.settledWrite f)).map (fun f => f.was.old)

/-- A double as the walker or the near-memory queue sees it: an uncovered write may be seen or not (R56, R77; log entry 7). -/
def State.seePlain (s : State) (pa : Nat) : Double :=
  let l := s.readPlain pa :: s.olds (pa / 8)
  l.getD (s.choose (2 ^ 42 + pa / 8) l.length) 0

/-- The persistent tier as a loss of power leaves it: a write that is not durable may be kept or lost (R41). -/
def State.persistent (s : State) : Memory :=
  (s.fresh.foldl (fun m f =>
    let l := s.readPlain (8 * f.1) :: s.olds f.1
    Memory.writeLE m (8 * f.1) 8 (l.getD (s.choose (2 ^ 43 + f.1) l.length) 0).toNat) s.mem).filter (fun c => s.cfg.persists c.1)

/-- The writes that a double of physical memory has had, newest first. -/
def State.pastOf (s : State) (d : Nat) : List Past := (SMap.get [] s.fresh d).map Fresh.was

/-- Memory as it was before a step, in one line. -/
def State.lineAt (s : State) (line at' : Nat) : State :=
  { s with mem := (List.range 8).foldl (fun m i =>
      let a := 64 * line + 8 * i
      Memory.writeLE m a 8 (pastValue at' (s.pastOf (a / 8)) (s.readPlain a)).toNat) s.mem }

/-- A memory tile as it was before a step, in the double of an address. -/
def Tile.memAt (x : Tile) (a at' : Nat) : Memory :=
  Memory.writeLE x.mem (a / 8 * 8) 8 (pastValue at' (SMap.get [] x.past (a / 8)) (BitVec.ofNat 64 (Memory.readLE x.mem (a / 8 * 8) 8))).toNat

/-! ### Performing and forgetting an access (R448) -/

/-- A performed access is kept while something that it is ordered after is, or while it wrote persistent memory and the write is not
durable. -/
def State.keeps (s : State) (x : Nat × Access) : Bool :=
  x.2.pending || x.2.after.any (fun n => (SMap.look s.accs n.acc).isSome) ||
    match x.2.loc with
    | .dev pa _ => s.cfg.persists pa && (SMap.get [] s.fresh (pa / 8)).any (fun f => f.acc == x.1 && !s.settledWrite f)
    | _ => false

/-- Forget performed accesses until every one that is left has a reason to stay. -/
def State.reapN : Nat → State → State
  | 0, s => s
  | fuel + 1, s =>
    let left := s.accs.filter s.keeps
    if left.length == s.accs.length then s else State.reapN fuel { s with accs := left }

def State.reap (s : State) : State := State.reapN s.accs.length s

/-- An access leaves without having been performed: nothing waits for it any more. -/
def State.dropAcc (s : State) (i : Nat) : State := { s with accs := s.accs.erase i }.reap

/-- An access has been performed for the whole part; a load with what it has seen of the order of others (R445). -/
def State.finish (s : State) (i : Nat) (seen : List Need) : State :=
  match SMap.look s.accs i with
  | none => s
  | some a => { s with accs := s.accs.insert i { a with lvl := 4, after := if a.kind == AccKind.load then seen else a.after ++ seen } }.reap

/-! ### Fences of device scope (R41, R56, R305) -/

/-- A fence of device or domain scope covers the writes of its thread's classes, performed or waited for by `ns`, and, for durability, every
write that is ordered before it. The anchor's fences cover the writes of its set's commands too. -/
def State.coverWrites (s : State) (t o tid : Nat) (mask : BitVec 16) (ns : List Need) : State :=
  let before := s.upTo ns
  let covered (i u p q : Nat) (cls : BitVec 16) (pa : Nat) : Bool :=
    (u == t && p == o && (q == tid || (tid == 0 && 8192 ≤ q && q < 16384)) && (cls &&& mask) != 0) || (s.cfg.persists pa && before.contains i)
  { s with
    fresh := s.fresh.map (fun f => (f.1, f.2.map (fun x =>
      if x.waits.isNone && covered x.acc x.tile x.set x.tid x.cls (8 * f.1) then { x with waits := some ns } else x))),
    accs := s.accs.map (fun a => match a.2.loc with
      | .dev pa _ => if a.2.dur.isNone && before.contains a.1 && covered a.1 a.2.tile a.2.set a.2.tid a.2.cls pa then (a.1, { a.2 with dur := some ns }) else a
      | _ => a) }

/-! ### Writes of bank-side graphs (R77) -/

def State.unit (s : State) (n : Nat) : BankUnit := SMap.get BankUnit.reset s.units n

def State.putUnit (s : State) (n : Nat) (u : BankUnit) : State := { s with units := SMap.put BankUnit.reset s.units n u }

/-- Every party sees a unit's writes from now on (R77). -/
def State.drainUnit (s : State) (n : Nat) : State :=
  ((s.unit n).wbuf.foldl (fun s w => s.writeKey w.key w.pa w.bytes) s).putUnit n { s.unit n with wbuf := [] }

/-- A fence of device or domain scope makes every party see the writes of graphs whose commands have been answered (R77, R406). -/
def State.drainAnswered (s : State) : State :=
  (s.units.filter (fun u => !s.nmq.any (fun c => (SMap.look c.chans u.1).isSome))).foldl (fun s u => s.drainUnit u.1) s

/-! ### Coalescing of translation faults (R54) -/

/-- Note a fault of a page and direction: a match sets COALESCED; otherwise the key is entered if there is room. -/
def State.coalesce (s : State) (die : Nat) (asid : BitVec 16) (vpn : Nat) (wr : Bool) : State × Bool :=
  let key : Coal := ⟨die, asid, vpn, wr⟩
  if s.coal.contains key then (s, true)
  else if (s.coal.filter (fun c => c.die == die)).length < 256 then ({ s with coal := s.coal ++ [key] }, false)
  else (s, false)

/-- A translation fault with its record's parts (R53): only XLATE_MISS and XLATE_PERM coalesce. -/
def State.xlFault (s : State) (t : Nat) (asid : BitVec 16) (va : Double) (write : Bool) (f : FaultInfo) : State × FaultInfo :=
  if f.code == Code.xlateMiss || f.code == Code.xlatePerm then
    let r := s.coalesce (dieOf t) asid ((va.extractLsb' 16 40).toNat) write
    (r.1, { f with w1 := va, coalesced := r.2 })
  else (s, { f with w1 := va })

/-! ### XCTX (R47) -/

def xctxEn (x : Double) : Bool := x.getLsbD 0
def xctxAsid (x : Double) : BitVec 16 := x.extractLsb' 48 16
def xctxRoot (x : Double) : Nat := (x.extractLsb' 13 35).toNat * 8192

/-- Offset bits of a page by its leaf's level (R46). -/
def pageBits (level : Nat) : Nat :=
  match level with
  | 1 => 36
  | 2 => 26
  | _ => 16

/-- The fields of a leaf (R49). -/
def leafKey (e : Double) : BitVec 12 := e.extractLsb' 52 12
def leafType (e : Double) : BitVec 3 := e.extractLsb' 49 3
def leafFrame (e : Double) : Nat := (e.extractLsb' 16 32).toNat * 65536
def leafDev (e : Double) : BitVec 10 := e.extractLsb' 6 10

/-! ### The walk (R50, R52) -/

/-- A table entry as the walk reads it: a held bank holds the walk (`none`, R33); a poisoned or foreign table address fails; a write that no
fence covers may not be seen yet (R56). -/
def State.readEntry (s : State) (addr : Nat) : Except (Option WalkFail) Double :=
  if devEnd ≤ addr / 8192 * 8192 then .error (some ⟨Code.xlatePerm, true, 0⟩)
  else if s.bankHeld addr then .error none
  else if s.linePoison (addr / 64) then .error (some ⟨Code.memPoison, true, 0⟩)
  else .ok (s.seePlain addr)

/-- Whether a leaf is valid as a leaf (R50, R51 check 1). -/
def State.leafOk (s : State) (e : Double) (level : Nat) : Bool :=
  let low := leafFrame e % 2 ^ pageBits level
  level != 0 && low == 0 && !e.getLsbD 48 && !e.getLsbD 2 &&
    match MType.of (leafType e) with
    | none => false
    | some .peer => leafDev e != s.cfg.devid
    | some _ => leafDev e == 0

/-- A cached table entry of the die, if the free choice at this level uses it (R52) (log entry 45, DEDUCED). -/
def State.cachedEntry (s : State) (die : Nat) (asid : BitVec 16) (level key : Nat) : Option Double :=
  match s.wcache.find? (fun w => w.die == die && w.asid == asid && w.level == level && w.key == key) with
  | some w => if Config.freeBit s.tick (20 + level) then some w.entry else none
  | none => none

/-- The walk from a level (R50): a leaf with its level, a failure, or `none` while a bank is held, with the table entries it read. -/
def State.walkFrom (s : State) (die : Nat) (asid : BitVec 16) (va : Nat) :
    Nat → Nat → Nat → List WalkEnt → Except (Option WalkFail) (Double × Nat) × List WalkEnt
  | 0, _, _, seen => (.error (some ⟨Code.xlatePerm, false, 0⟩), seen)
  | fuel + 1, level, tbl, seen =>
    let key := va / 2 ^ (46 - 10 * level)
    let got := match s.cachedEntry die asid level key with
      | some e => Except.ok e
      | none => s.readEntry (tbl + 8 * (key % 1024))
    match got with
    | .error f => (.error f, seen)
    | .ok e =>
      if !e.getLsbD 0 then (.error (some ⟨Code.xlateMiss, false, 0⟩), seen)
      else if !e.getLsbD 1 then
        if e.extractLsb' 48 16 != 0 || e.extractLsb' 2 11 != 0 || level == 3 then (.error (some ⟨Code.xlatePerm, false, 0⟩), seen)
        else s.walkFrom die asid va fuel (level + 1) ((e.extractLsb' 13 35).toNat * 8192) (seen ++ [⟨die, asid, level, key, e⟩])
      else if s.leafOk e level then (.ok (e, level), seen)
      else (.error (some ⟨Code.xlatePerm, false, leafKey e⟩), seen)

/-- Keep of a list the last `n` entries that satisfy `p`, and every other (a cache's capacity, R52; which entry is replaced is not
architectural). -/
def keepLast {α : Type} (p : α → Bool) (n : Nat) (l : List α) : List α :=
  let extra := (l.filter p).length - n
  (l.foldl (fun (a : List α × Nat) x => if p x && a.2 < extra then (a.1, a.2 + 1) else (a.1 ++ [x], a.2)) ([], 0)).1

/-- Capacities of the caches of leaves, and of the walk cache of a die (R52). -/
def XlAt.capacity : XlAt → Nat
  | .set _ _ => 16
  | .tile _ => 1024
  | .die _ => 16384
def walkCapacity : Nat := 4096

/-- New table entries enter the walk cache of a die. -/
def State.cacheEntries (s : State) (die : Nat) (new : List WalkEnt) : State :=
  { s with wcache := keepLast (fun w => w.die == die) walkCapacity (s.wcache ++ new.filter (fun e => !s.wcache.contains e)) }

/-- A leaf translation enters a cache. -/
def State.cacheLeaf (s : State) (x : Xlat) : State :=
  if s.xlat.contains x then s else { s with xlat := keepLast (fun y => y.at' == x.at') x.at'.capacity (s.xlat ++ [x]) }

/-- The caches that a set of a tile finds leaves in, nearest first: its own if it is an AG set, its tile's and its die's. -/
def State.cachesOf (s : State) (t o : Nat) : List XlAt :=
  (if (s.set? t o).any (fun v => v.ent.typ == .ag) then [.set t o] else []) ++ [.tile t, .die (dieOf t)]

/-- A walk is made (R50, R52): success caches the leaf at every level for every waiter and the table entries for the die, and the walk is
over; a failure stays with the walk until its waiters have taken it, and is never cached. -/
def State.doWalk (s : State) (id : Nat) : State :=
  match SMap.look s.walks id with
  | none => s
  | some w =>
    if w.res.isSome then s
    else
      match s.walkFrom w.die w.asid w.va 4 0 (xctxRoot w.xctx) [] with
      | (.error none, _) => s
      | (.error (some f), seen) => { s with walks := s.walks.insert id { w with res := some f } }.cacheEntries w.die seen
      | (.ok (e, level), seen) =>
        let base := w.va / 2 ^ pageBits level * 2 ^ pageBits level
        let new := w.waiters.flatMap (fun x => (s.cachesOf x.tile x.set).map (fun k => (⟨k, w.asid, base, level, e⟩ : Xlat)))
        (new.foldl State.cacheLeaf { s with walks := s.walks.erase id }).cacheEntries w.die seen

/-- A set's command no longer waits for a walk, nor for its outcome: what it accesses next is translated anew (R52, R57). -/
def State.forgetWalks (s : State) (t o seq : Nat) : State :=
  let me : Waiter := ⟨t, o, true, seq⟩
  if s.walks.any (fun w => w.2.waiters.contains me) then
    { s with walks := (s.walks.map (fun w => (w.1, { w.2 with waiters := w.2.waiters.filter (· != me) }))).filter (fun w : Nat × Walk =>
        !w.2.waiters.isEmpty) }
  else s

/-! ### Translating one access -/

/-- A translated access. -/
structure Xl where
  pa : Nat
  mtype : MType
  key : BitVec 12
  dev : BitVec 10
  deriving DecidableEq, Repr

/-- What a translation gives: a fault; a walk to wait for; or the translation. -/
inductive XlRes where
  | fault (s : State) (f : FaultInfo)
  | wait (s : State) (walk : Nat)
  | ok (s : State) (x : Xl)

/-- The leaf check of R51, in order, with the fault's code. -/
def State.leafCheck (s : State) (e : Double) (pa : Nat) (write sup : Bool) : Option (BitVec 8) :=
  match MType.of (leafType e) with
  | none => some Code.xlatePerm
  | some m =>
    if (if write then !e.getLsbD 4 else !e.getLsbD 3) || (e.getLsbD 5 && !sup) then some Code.xlatePerm
    else if m != .peer && !s.cfg.accepts pa m then some Code.xlatePerm
    else if !s.keyValid (leafKey e) || (leafKey e != 0 && (m == .peer || m == .config)) then some Code.xlateKey
    else none

/-- Translate one address for a set (R46, R47, R50 to R54): by the cached leaf, or by a walk that the access joins and
waits for. A missing page is counted by its 64 KiB, the smallest page, for its size is not known before the walk (log entry 45, DESIGN CHOICE).
`who` names the access or command, and `walk` says that what a walk for it comes after has been performed (R447): without that it waits. -/
def State.translate (s : State) (t o : Nat) (xctx : Double) (sup : Bool) (eng : Bool) (who : Nat) (va : Double) (kind : BitVec 3)
    (write walk : Bool) : XlRes :=
  let asid := xctxAsid xctx
  let bad (s : State) (f : FaultInfo) : XlRes :=
    let r := s.xlFault t asid va write f
    .fault r.1 r.2
  if va.extractLsb' 56 8 != 0 then bad s { code := Code.xlateMiss, kind := kind }
  else if !xctxEn xctx then
    if va.extractLsb' 48 8 != 0 then bad s { code := Code.xlateMiss, kind := kind }
    else .ok s ⟨va.toNat, s.cfg.natural va.toNat, 0, 0⟩
  else
    let me : Waiter := ⟨t, o, eng, who⟩
    let page := va.toNat / 65536
    match s.walks.find? (fun w => w.2.asid == asid && w.2.die == dieOf t && w.2.va / 65536 == page && w.2.res.isSome &&
        w.2.waiters.contains me) with
    | some (id, w) =>
      let ws := w.waiters.filter (· != me)
      let s1 := { s with walks := if ws.isEmpty then s.walks.erase id else s.walks.insert id { w with waiters := ws } }
      match w.res with
      | some f => bad s1 { code := f.code, kind := if f.walkKind then 7 else kind, key := f.key }
      | none => .wait s1 id
    | none =>
      match (s.cachesOf t o).findSome? (fun k =>
          s.xlat.find? (fun x => x.at' == k && x.asid == asid && va.toNat / 2 ^ pageBits x.level * 2 ^ pageBits x.level == x.base)) with
      | some x =>
        let pa := leafFrame x.leaf + va.toNat % 2 ^ pageBits x.level
        match s.leafCheck x.leaf pa write sup with
        | some code => bad s { code := code, kind := kind, key := leafKey x.leaf }
        | none =>
          match MType.of (leafType x.leaf) with
          | none => bad s { code := Code.xlatePerm, kind := kind, key := leafKey x.leaf }
          | some m => .ok s ⟨pa, m, leafKey x.leaf, leafDev x.leaf⟩
      | none =>
        if !walk then .wait s 0
        else
        let s1 := if s.walks.any (fun w => w.2.asid == asid && w.2.va / 65536 == page && w.2.waiters.contains me) then s else s.countTile t 0x15 1
        match s1.walks.find? (fun w => w.2.asid == asid && w.2.die == dieOf t && w.2.va / 65536 == page && w.2.res.isNone) with
        | some (id, w) =>
          .wait { s1 with walks := s1.walks.insert id { w with waiters := if w.waiters.contains me then w.waiters else w.waiters ++ [me] } } id
        | none =>
          if 4096 ≤ (s1.walks.filter (fun w => w.2.die == dieOf t)).length then .wait { s1 with nextId := s1.nextId + 1 } s1.nextId
          else .wait { s1 with walks := s1.walks.insert s1.nextId ⟨dieOf t, asid, xctx, va.toNat, [me], none⟩, nextId := s1.nextId + 1 } s1.nextId

end Sys2Proof.Machine
end

