-- ==== Sys2Proof/Machine/Access.lean ====
section
/-!
DEFINITION. Accesses of threads (spec/17 R295 to R305, spec/05 R81 to R85, spec/28): addresses, checks, what an access is ordered
after, and loads, stores and atomics as they are issued.
-/
namespace Sys2Proof.Machine

/-! ### Ordering (R299, R300, R305, R447) -/

def Access.writes (a : Access) : Bool :=
  match a.kind with
  | .load => false
  | _ => true

/-- The class bit of an alias class. -/
def classBit (ac : BitVec 4) : BitVec 16 := BitVec.ofNat 16 (2 ^ ac.toNat)

/-- What an access of a thread is ordered after: earlier ones of its class that are still to be performed, if one of the two writes; every
acquire; and what its thread's fences, barriers and creation name for the class. A release comes after every earlier access of the thread, with
all that is before them, at the level `rel` of its own scope (R299, R300, R448). -/
def State.orderNeeds (s : State) (t o tid : Nat) (cls : BitVec 16) (write : Bool) (rel : Option Nat) : List Need :=
  match rel with
  | some lvl => s.known t o tid 0xFFFF lvl
  | none =>
    let own := (s.toCome.filter (fun a => a.2.tile == t && a.2.set == o && a.2.tid == tid &&
      (a.2.acq || ((a.2.cls &&& cls) != 0 && (write || a.2.writes))))).map (fun a => (⟨a.1, 4, false⟩ : Need))
    let named := match s.thread? t o tid with
      | some th => (th.after.filter (fun x => (x.1 &&& cls) != 0)).flatMap Prod.snd
      | none => []
    (own ++ s.live named).eraseDups

/-- Issue an access: it takes the next number. -/
def State.issueAcc (s : State) (a : Access) : State × Nat :=
  ({ s with accs := s.accs.insert s.nextId a, nextId := s.nextId + 1 }, s.nextId)

/-- An access may be performed: what it is ordered after has been, and its bank is not held (R33). -/
def State.accReady (s : State) (a : Access) : Bool :=
  a.after.all s.met &&
    match a.loc with
    | .virt => false
    | .dev pa _ => !s.bankHeld pa
    | .line l _ => !s.bankHeld (64 * l)
    | _ => true

/-- Two places share a byte. -/
def placeClash (a b : Place2) (n m : Nat) : Bool :=
  match a, b with
  | .tile x, .tile y => decide (x < y + m ∧ y < x + n)
  | .dev x _, .dev y _ => decide (x < y + m ∧ y < x + n)
  | .peer d x, .peer e y => d == e && decide (x < y + m ∧ y < x + n)
  | .acs x, .acs y => x == y
  | _, _ => false

/-- The stores that lower lanes of a pass made to the same bytes: the highest lane's value stands (R9, R298, R380). The accesses of the pass
have the numbers from `base` on, and the access itself is `i`. -/
def State.passStores (s : State) (t o base i : Nat) (loc : Place2) (n : Nat) : List Need :=
  (s.toCome.filter (fun a => base ≤ a.1 && a.1 < i && a.2.tile == t && a.2.set == o && a.2.kind == .store &&
    placeClash a.2.loc loc a.2.bytes n)).map (fun a => ⟨a.1, 4, false⟩)

/-! ### Writes that only the parties of a narrower scope see (R305, R450) -/

/-- A store that is performed at a level of its thread's set, tile or region is seen by the threads of a set. -/
def State.shownTo (s : State) (a : Access) (t o : Nat) : Bool :=
  a.kind == .store && 0 < a.lvl && a.pending &&
    ((a.tile == t && (a.set == o || 2 ≤ a.lvl)) || (3 ≤ a.lvl && (s.regionOf a.tile).isSome && s.regionOf a.tile == s.regionOf t))

/-- A write may not come before one to the same bytes that its own set sees already: writes to a byte have one order (R450). -/
def State.overShown (s : State) (i : Nat) (a : Access) : Bool :=
  s.toCome.any (fun b => b.1 != i && placeClash b.2.loc a.loc b.2.bytes a.bytes && s.shownTo b.2 a.tile a.set)

/-- A byte address of a place. -/
def Place2.addr : Place2 → Nat
  | .virt => 0
  | .tile a => a
  | .dev pa _ => pa
  | .peer _ pa => pa
  | .line n _ => 64 * n
  | .acs i => i
  | .reg => 0

/-- The bytes of a store over those read at an address. -/
def Access.over (b : Access) (a : Nat) (bs : List Byte) : List Byte :=
  (List.range bs.length).map (fun i =>
    if b.loc.addr ≤ a + i ∧ a + i < b.loc.addr + b.bytes then b.data.extractLsb' (8 * (a + i - b.loc.addr)) 8 else bs.getD i 0)

/-- The stores to some bytes that a set sees and others do not yet, those of wider scope first: the narrower ones come last in the order of
writes. -/
def State.shown (s : State) (a : Access) : List (Nat × Access) :=
  [3, 2, 1].flatMap (fun l => s.toCome.filter (fun b => b.2.lvl == l && placeClash b.2.loc a.loc b.2.bytes a.bytes && s.shownTo b.2 a.tile a.set))

/-- What a read gives its thread of the order of others (R300, R445, R448): the writes whose values it returns, where they are not performed for
all, and what they come after, as far as that is ordered for the reader: at the level of the narrowest scope that holds both threads. -/
def State.readOrder (s : State) (a : Access) : List Need :=
  let from' (b : Nat × Access) : List Need :=
    let scope := if b.2.tile == a.tile then (if b.2.set == a.set then 1 else 2)
      else if (s.regionOf a.tile).isSome && s.regionOf b.2.tile == s.regionOf a.tile then 3 else 4
    (if b.2.pending then [⟨b.1, scope, false⟩] else []) ++ b.2.after.filter (fun n => scope ≤ n.lvl)
  (s.accs.filter (fun b => b.2.writes && 0 < b.2.bytes && placeClash b.2.loc a.loc b.2.bytes a.bytes &&
    (!b.2.pending || s.shownTo b.2 a.tile a.set))).flatMap from'

/-- Among the accesses that an access is ordered after, a store writes its whole word or double, and so clears the poison there first
(R83, R380). -/
def State.clearsFirst (s : State) (ns : List Need) (loc : Place2) (whole : Nat) : Bool :=
  ns.any (fun n => (SMap.look s.accs n.acc).any (fun a => a.pending && a.kind == .store && a.bytes == whole && placeClash a.loc loc whole 1))

/-- The step from which on a load may have seen memory (R449): that of the last event that orders it after others. One that waits for an access,
or that has been ordered after one, sees memory as it is when that has been performed. -/
def State.earliest (s : State) (t o tid : Nat) (cls : BitVec 16) (after : List Need) : Option Nat :=
  if !after.isEmpty then none
  else (s.thread? t o tid).map (fun th => if th.after.any (fun x => (x.1 &&& cls) != 0) then s.tick else th.since)

/-! ### Addresses (R281, R295) -/

/-- The address of a format M access, over exact integers. -/
def eaOf (c : Ctx) (s : State) (m : MemRef) : Int :=
  let x : Int := match m.ofs with
    | some n => ((readOpd c s false (.x n)).extractLsb' 0 32).toInt
    | none => 0
  ((c.s m.base.toNat).toNat : Int) + x * ((2 ^ m.sc.toNat : Nat) : Int) + m.off.toInt

/-- Registers that an address reads. -/
def MemRefRegs (m : MemRef) : List Opd := .s m.base :: (m.ofs.map Opd.x).toList

/-- The tile-local address checks of R81, in order; a memory tile held for a pre-empted region is out of range (R233). -/
def tileCheck (x : Tile) (a : Int) (n : Nat) (write atom : Bool) : Option (BitVec 8) :=
  if x.heldFor.isSome ∨ a < 0 ∨ 2097152 < a + (n : Int) then some Code.tileRange
  else
    let u := a.toNat
    if u % n ≠ 0 then some Code.align
    else if ((x.arrs.look (u / 65536)).getD Arr.reset).mode != .storage then some Code.arrayMode
    else if NSet.has x.memPoison (u / 8) && !(write && !atom && n == 8) then some Code.memPoison
    else none

/-- The checks of R81 as a thread's access is issued; poison that an earlier store of its own order clears is tested when it is performed. -/
def State.tileIssue (s : State) (t : Nat) (a : Int) (n : Nat) (write atom : Bool) (ids : List Need) : Option (BitVec 8) :=
  match tileCheck (s.tile t) a n write atom with
  | some code => if code == Code.memPoison && s.clearsFirst ids (.tile a.toNat) 8 then none else some code
  | none => none

/-! ### Sizes (R296) -/

def LdSizeBytes (z : LdSize) : Nat :=
  match z with
  | .i8 => 1
  | .n8 => 1
  | .i16 => 2
  | .n16 => 2
  | .w32 => 4
  | .d64 => 8

/-- What a load puts into its register (R296). -/
def extendLoad (z : LdSize) (v : Nat) : Double :=
  match z with
  | .i8 => (BitVec.ofNat 8 v).signExtend 64
  | .n8 => BitVec.ofNat 64 (v % 256)
  | .i16 => (BitVec.ofNat 16 v).signExtend 64
  | .n16 => BitVec.ofNat 64 (v % 65536)
  | .w32 => BitVec.ofNat 64 (v % 2 ^ 32)
  | .d64 => BitVec.ofNat 64 v

def Reg.isS : Reg → Bool
  | .s _ => true
  | .x _ => false

/-- A load writes 64 bits into an s register, or a pair. -/
def loadWide (data : Reg) (z : LdSize) : Bool := Reg.isS data || z == .d64

/-! ### Device loads and stores (R295, R297, R298) -/

/-- A device access as issued: load or store, release or acquire. -/
structure DevOp where
  load : Bool
  acq : Bool
  rel : Bool
  size : LdSize
  data : Reg
  m : MemRef

/-- The first poisoned LVS word among the x registers that a thread reads. -/
def State.srcPoison (s : State) (c : Ctx) (e : SetEntry) (l : List (Opd × Bool)) : Option Nat :=
  l.findSome? (fun x => s.opdPoison c e x.2 x.1)

/-- The record of a poisoned LVS word (R159). -/
def lvsFault (w : Nat) : FaultInfo := { code := Code.memPoison, w1 := BitVec.ofNat 64 (w * 4) }

/-- Where a translated access goes. -/
def Xl.loc (x : Xl) : Place2 := if x.mtype == .peer then .peer x.dev.toNat x.pa else .dev x.pa x.key

/-- The checks of R295 on a thread's access, in order: a fault, a wait for a walk, or the place of the access. -/
def State.devPlace (s : State) (i : Nat) (a : Access) (sup walk : Bool) : XlRes :=
  let write := a.kind == .store
  let kind : BitVec 3 := if write then 1 else 0
  let bad (s : State) (f : FaultInfo) : XlRes :=
    let r := s.xlFault a.tile (xctxAsid a.xctx) a.va write { f with ac := a.ac, kind := kind }
    .fault r.1 r.2
  if a.va.extractLsb' 56 8 != 0 then bad s { code := Code.xlateMiss }
  else if a.va.toNat % a.bytes ≠ 0 then bad s { code := Code.align }
  else
    match s.translate a.tile a.set a.xctx sup false i a.va kind write walk with
    | .fault s1 f => .fault s1 { f with ac := a.ac }
    | .wait s1 w => .wait s1 w
    | .ok s1 x =>
      if x.mtype == .config && a.bytes != 8 then bad s1 { code := Code.xlatePerm, key := x.key }
      else if x.mtype != .peer && s1.memFaults x.pa a.bytes false then bad s1 { code := Code.memPoison, key := x.key }
      else .ok s1 x

/-- A lower lane of the same pass still waits for its translation. -/
def State.laneBefore (s : State) (i : Nat) (a : Access) : Bool :=
  s.toCome.any (fun b => a.base ≤ b.1 && b.1 < i && b.2.tile == a.tile && b.2.set == a.set && b.2.loc == .virt)

/-- A walk for an access may begin: the acquires and fences that the access is ordered after, and what these name, have been performed (R56,
R447). -/
def State.walkReady (s : State) (a : Access) : Bool :=
  a.after.all (fun n => !(n.deep || (SMap.look s.accs n.acc).any Access.acq) || s.met n)

/-- Translate and check an access: it gets its place, waits, or faults and is gone. Lower lanes go first where it matters: a pass presents its
accesses in lane order (R59), and the highest lane's store to a byte stands. -/
def State.placeAcc (s : State) (i : Nat) (a : Access) : XlRes :=
  let sup := ((s.set? a.tile a.set).map SetState.supervisor).getD false
  match s.devPlace i a sup (s.walkReady a) with
  | .fault s1 f => if s.laneBefore i a then .wait s 0 else .fault (s1.dropAcc i) f
  | .wait s1 w => .wait s1 w
  | .ok s1 x =>
    if a.kind == .store && s.laneBefore i a then .wait s 0
    else
      let after := if a.kind == .store then (a.after ++ s1.passStores a.tile a.set a.base i x.loc a.bytes).eraseDups else a.after
      .ok { s1 with accs := s1.accs.insert i { a with loc := x.loc, after := after } } x

/-- What a load or store is ordered after; a release is of a level (R299, R300). -/
def DevOp.needs (p : DevOp) (c : Ctx) (s : State) (lvl : Nat) : List Need :=
  s.orderNeeds c.tile c.set c.tid (classBit p.m.ac) (!p.load) (if p.rel then some lvl else none)

/-- The access that a load or store issues at a place (R295 to R300). -/
def DevOp.access (p : DevOp) (c : Ctx) (s : State) (loc : Place2) (needs : List Need) : Access :=
  let cls := classBit p.m.ac
  { tile := c.tile, set := c.set, tid := c.tid, kind := if p.load then .load else .store, loc := loc, va := BitVec.ofInt 64 (eaOf c s p.m),
    bytes := LdSizeBytes p.size, data := if p.load then 0 else readOpd c s (p.size == .d64) p.data.opd, cls := cls, ac := p.m.ac, acq := p.acq,
    rel := p.rel, checked := false, after := needs, blk := c.blk, idx := c.idx,
    early := if p.load then s.earliest c.tile c.set c.tid cls needs else none }

/-- A device access as it is issued, before its place is known. -/
def DevOp.devAccess (p : DevOp) (c : Ctx) (s : State) (v : SetState) : Access :=
  { p.access c s .virt (p.needs c s 4) with base := c.base, xctx := v.regs.xctx }

/-- A tile-local access as it is issued. -/
def DevOp.locAccess (p : DevOp) (c : Ctx) (s : State) : Access :=
  let loc : Place2 := .tile (eaOf c s p.m).toNat
  let needs := p.needs c s 2
  { p.access c s loc needs with
    after := (needs ++ (if p.load then [] else s.passStores c.tile c.set c.base s.nextId loc (LdSizeBytes p.size))).eraseDups }

/-- What a load or store reads: the registers of its address, and the datum of a store. -/
def DevOp.reads (p : DevOp) : List (Opd × Bool) :=
  (MemRefRegs p.m).map (fun o => (o, false)) ++ (if p.load then [] else [(p.data.opd, p.size == .d64)])

/-- The member that a load or store gives its pass's return group. -/
def DevOp.member (p : DevOp) (c : Ctx) (late : Late) (i : Nat) : Member :=
  if p.load then ⟨c.tid, some p.data.opd, loadWide p.data p.size, 0, 0, late, false⟩ else ⟨c.tid, none, false, 0, 0, .check i, false⟩

/-- Serve one thread of a device access: it is issued, and its place found at once, or when a walk has brought its translation; meanwhile the
thread does not pass it (R59, R262, R453; log entry 51, DEDUCED). -/
def serveDev (p : DevOp) (c : Ctx) (s : State) : Serve :=
  match s.set? c.tile c.set with
  | none => .gone s
  | some v =>
    let wide := if p.load then loadWide p.data p.size else p.size == .d64
    let pend := v.pendingOn c.tid ((MemRefRegs p.m).map Mark.opd ++ (p.data.opd.cover wide).map Mark.opd)
    if !pend.isEmpty then .park s (.groups pend)
    else
      match s.srcPoison c v.ent p.reads with
      | some w => .fault s (lvsFault w)
      | none =>
        let a := p.devAccess c s v
        let r := s.issueAcc a
        match r.1.placeAcc r.2 a with
        | .fault s1 f => .fault s1 f
        | .wait s1 _ => .ok s1 (some (p.member c (.place r.2 p.size) r.2))
        | .ok s1 x => .ok s1 (some (p.member c (if x.mtype == .peer then .peer r.2 p.size else .load r.2 p.size) r.2))

/-- A load into an s register is legal only in token and trap blocks (R297). -/
def chkSData (data : Reg) (v : SetState) (c : Ctx) : Option (BitVec 8) :=
  if Reg.isS data then chkType allTypes [.token, .trap] v c else none

/-- A device access for the pass in focus. -/
def devExec (g : Guard) (p : DevOp) (s : State) : Host.Outcome State Fault Refusal :=
  withPass s g (chkAll ([chkType [.ag] allModes] ++ (if p.load then [chkSData p.data] else [])))
    (if p.load then (p.data.opd.cover (loadWide p.data p.size)).map Mark.opd else []) (serveDev p)

/-! ### Tile-local loads and stores (R81, R82) -/

/-- Serve one thread of a tile-local access. -/
def serveLoc (p : DevOp) (c : Ctx) (s : State) : Serve :=
  match s.set? c.tile c.set with
  | none => .gone s
  | some v =>
    let wide := if p.load then loadWide p.data p.size else p.size == .d64
    let pend := v.pendingOn c.tid ((MemRefRegs p.m).map Mark.opd ++ (p.data.opd.cover wide).map Mark.opd)
    if !pend.isEmpty then .park s (.groups pend)
    else
      match s.srcPoison c v.ent p.reads with
      | some w => .fault s (lvsFault w)
      | none =>
        let ea := eaOf c s p.m
        match s.tileIssue c.tile ea (LdSizeBytes p.size) (!p.load) false (p.needs c s 2) with
        | some code => .fault s { code := code, kind := if p.load then 0 else 1, w1 := BitVec.ofInt 64 ea, ac := p.m.ac }
        | none =>
          let r := s.issueAcc (p.locAccess c s)
          .ok r.1 (some (p.member c (.load r.2 p.size) r.2))

def locExec (g : Guard) (p : DevOp) (s : State) : Host.Outcome State Fault Refusal :=
  withPass s g (chkAll ([chkType [.cp, .rd] allModes] ++ (if p.load then [chkSData p.data] else [])))
    (if p.load then (p.data.opd.cover (loadWide p.data p.size)).map Mark.opd else []) (serveLoc p)

/-! ### Atomics and reductions (R301 to R303) -/

/-- The registers of the comparand (R301). -/
def casOpd (ty : ATy) (data : Reg) : Opd :=
  match data with
  | .x n => .x (if ty.wide then n + 2 else n + 1)
  | .s n => .s (n + 1)

/-- The flags of f32 add arrive late, and mark ff (R302). -/
def atomFlags (op : AtomOp) (ty : ATy) : Bool := op == .add && ty == .f32

/-- Serve one thread of an atomic, or of a reduction (`ret` false): checked by R81 as a write, and submitted to the tile's pipeline in lane
order (R95). -/
def serveAtom (sf : Bool) (op : AtomOp) (ty : ATy) (data : Reg) (m : MemRef) (ret : Bool) (c : Ctx) (s : State) : Serve :=
  match s.set? c.tile c.set with
  | none => .gone s
  | some v =>
    let wide := ty.wide
    let cmp := if op == .cas then (casOpd ty data).cover wide else []
    let marks := ((MemRefRegs m) ++ data.opd.cover wide ++ cmp).map Mark.opd ++ (if atomFlags op ty then [Mark.ff] else [])
    let pend := v.pendingOn c.tid marks
    if !pend.isEmpty then .park s (.groups pend)
    else
      match s.srcPoison c v.ent ((MemRefRegs m).map (fun o => (o, false)) ++ (data.opd, wide) :: (cmp.map (fun o => (o, false)))) with
      | some w => .fault s (lvsFault w)
      | none =>
        let n := if wide then 8 else 4
        let ea := eaOf c s m
        let cls := classBit m.ac
        let needs := s.orderNeeds c.tile c.set c.tid cls true none
        match s.tileIssue c.tile ea n true true needs with
        | some code => .fault s { code := code, kind := 1, w1 := BitVec.ofInt 64 ea, ac := m.ac }
        | none =>
          let cv := if op == .cas then readOpd c s wide (casOpd ty data) else 0
          let a : Access :=
            { tile := c.tile, set := c.set, tid := c.tid, kind := .atom op ty cv ret, loc := .tile ea.toNat, va := BitVec.ofInt 64 ea,
              bytes := n, data := readOpd c s wide data.opd, cls := cls, ac := m.ac, acq := false, rel := false, checked := sf,
              after := needs, blk := c.blk, idx := c.idx }
          let r := s.issueAcc a
          let x := r.1.tile c.tile
          let s1 := r.1.putTile c.tile { x with atomQ := x.atomQ ++ [⟨r.2, none, 0⟩] }
          .ok s1 (some (if ret then ⟨c.tid, some data.opd, wide, 0, 0, .atom r.2, false⟩
            else if atomFlags op ty then ⟨c.tid, none, false, 0, 0, .atom r.2, false⟩
            else ⟨c.tid, none, false, 0, 0, .check r.2, false⟩))

end Sys2Proof.Machine
end

