-- ==== Sys2Proof/Machine/LoadStore.lean ====
section
/-!
DEFINITION. Loads, stores, atomics, reductions, fences, event-queue waits and spill words (spec/17 R297 to R306, spec/09 R162 to
R164).
-/
namespace Sys2Proof.Machine

/-- ld.dev (R297, R298). -/
def execLdDev (g : Guard) (size : LdSize) (data : Reg) (m : MemRef) (s : State) : Host.Outcome State Fault Refusal :=
  devExec g { load := true, acq := false, rel := false, size := size, data := data, m := m } s

/-- ld.acq.dev (R300). -/
def execLdAcqDev (g : Guard) (size : LdSize) (data : Reg) (m : MemRef) (s : State) : Host.Outcome State Fault Refusal :=
  devExec g { load := true, acq := true, rel := false, size := size, data := data, m := m } s

/-- ld.loc (R81, R297). -/
def execLdLoc (g : Guard) (size : LdSize) (data : Reg) (m : MemRef) (s : State) : Host.Outcome State Fault Refusal :=
  locExec g { load := true, acq := false, rel := false, size := size, data := data, m := m } s

/-- ld.acq.loc (R300). -/
def execLdAcqLoc (g : Guard) (size : LdSize) (data : Reg) (m : MemRef) (s : State) : Host.Outcome State Fault Refusal :=
  locExec g { load := true, acq := true, rel := false, size := size, data := data, m := m } s

/-- st.dev (R297, R298, R453). -/
def execStDev (g : Guard) (size : LdSize) (data : Reg) (m : MemRef) (s : State) : Host.Outcome State Fault Refusal :=
  devExec g { load := false, acq := false, rel := false, size := size, data := data, m := m } s

/-- st.rel.dev (R300). -/
def execStRelDev (g : Guard) (size : LdSize) (data : Reg) (m : MemRef) (s : State) : Host.Outcome State Fault Refusal :=
  devExec g { load := false, acq := false, rel := true, size := size, data := data, m := m } s

/-- st.loc (R81, R297, R453). -/
def execStLoc (g : Guard) (size : LdSize) (data : Reg) (m : MemRef) (s : State) : Host.Outcome State Fault Refusal :=
  locExec g { load := false, acq := false, rel := false, size := size, data := data, m := m } s

/-- st.rel.loc (R300). -/
def execStRelLoc (g : Guard) (size : LdSize) (data : Reg) (m : MemRef) (s : State) : Host.Outcome State Fault Refusal :=
  locExec g { load := false, acq := false, rel := true, size := size, data := data, m := m } s

/-- What an atomic or reduction marks pending (R302, R303). -/
def atomMarks (op : AtomOp) (ty : ATy) (data : Reg) (ret : Bool) : List Mark :=
  (if ret then (data.opd.cover ty.wide).map Mark.opd else []) ++ (if atomFlags op ty then [.ff] else [])

/-- atom (R301, R302): RD sets; an s DATA only in token and trap blocks. -/
def execAtom (g : Guard) (sf : Bool) (op : AtomOp) (ty : ATy) (data : Reg) (m : MemRef) (s : State) :
    Host.Outcome State Fault Refusal :=
  withPass s g (chkAll [chkType [.rd] allModes, chkSData data]) (atomMarks op ty data true) (serveAtom sf op ty data m true)

/-- red (R303): returns nothing. -/
def execRed (g : Guard) (sf : Bool) (op : AtomOp) (ty : ATy) (data : Reg) (m : MemRef) (s : State) :
    Host.Outcome State Fault Refusal :=
  withPass s g (chkType [.rd] allModes) (atomMarks op ty data false) (serveAtom sf op ty data m false)

/-- fence (R305) for one thread: its later accesses in masked classes come after its earlier ones, and all that is before those, at the level of
the scope; loads that it has made count by the step at which they saw memory. A token block's later engine commands come after them too, at the
level of the whole part (log entry 7, DEDUCED). A fence of device or domain scope covers its writes for the walker, the near-memory queue and
durability (R41, R56, R77), and graphs' writes are seen by all after it (R77). -/
def serveFence (lvl : Nat) (mask : BitVec 16) (c : Ctx) (s : State) : Serve :=
  let ns := s.known c.tile c.set c.tid mask lvl
  let s0 := if lvl = 4 then (s.coverWrites c.tile c.set c.tid mask ns).drainAnswered else s
  .ok (s0.modThread c.tile c.set c.tid (fun th =>
    let th1 := (s.recall th).orderAfter mask ns
    { th1 with fenced := if c.mode == .token then th1.fenced ++ s.known c.tile c.set c.tid mask 4 else th1.fenced, since := max th1.since th1.seen })) none

/-- The level of a scope (R305): the domain's parties are those of this part and others, which see a write when it is performed. -/
def Scope.level : Scope → Nat
  | .set => 1
  | .tile => 2
  | .region => 3
  | .device => 4
  | .domain => 4

/-- fence (R304, R305). -/
def execFence (g : Guard) (scope : Scope) (mask : BitVec 16) (s : State) : Host.Outcome State Fault Refusal :=
  withPass s g chkNone [] (serveFence (Scope.level scope) mask)

/-- The writes of retired commands of a tile that are not forgotten: whoever consumes an event-queue token comes after those of the command that
posted it (R91; log entry 7, DEDUCED). -/
def State.posted (s : State) (t : Nat) : List Nat :=
  (s.accs.filter (fun a => a.2.tile == t && 8192 ≤ a.2.tid && a.2.tid < 16384 && !a.2.pending)).map Prod.fst

/-- eq.wait (R219, R306) for one thread: it consumes a token or parks. -/
def serveEqWait (n : Nat) (c : Ctx) (s : State) : Serve :=
  let x := s.tile c.tile
  let k := SMap.get 0 x.eq n
  if k = 0 then .park s (.event n)
  else .ok ((s.putTile c.tile { x with eq := SMap.put 0 x.eq n (k - 1) }).acquire c.tile c.set c.tid (deepNeeds 4 (s.posted c.tile))) none

def execEqWait (g : Guard) (n : BitVec 4) (s : State) : Host.Outcome State Fault Refusal :=
  withPass s g chkNone [] (serveEqWait n.toNat)

/-! ### Spill words (R162 to R164) -/

/-- spill (R164) for one thread. A held accumulator store lends no column (R233; log entry 20, DEDUCED). -/
def serveSpill (a : BitVec 5) (n : Nat) (c : Ctx) (s : State) : Serve :=
  match s.set? c.tile c.set with
  | none => .gone s
  | some v =>
    let pend := v.pendingOn c.tid [.opd (.x a)]
    if !pend.isEmpty then .park s (.groups pend)
    else
      match s.opdPoison c v.ent false (.x a) with
      | some w => .fault s (lvsFault w)
      | none =>
        let m := v.regs.spmap
        if !spEn m || spWords m ≤ n then .fault s { code := Code.tileRange, w1 := BitVec.ofNat 64 n }
        else
          let w := spillWord m v.ent c.tid n
          let val := s.xReg c.tile v.ent c.tid a.toNat
          if spAcs m && (s.tile c.tile).heldFor.isSome then .fault s { code := Code.slotState }
          else if spAcs m then
            let x := s.tile c.tile
            .ok (s.putTile c.tile { x with acs := SMap.put 0 x.acs w val, acsPoison := NSet.drop x.acsPoison w }) none
          else .ok (s.putLvs c.tile w val) none

/-- fill (R164) for one thread: the word returns late. -/
def serveFill (d : BitVec 5) (n : Nat) (c : Ctx) (s : State) : Serve :=
  match s.set? c.tile c.set with
  | none => .gone s
  | some v =>
    let pend := v.pendingOn c.tid [.opd (.x d)]
    if !pend.isEmpty then .park s (.groups pend)
    else
      let m := v.regs.spmap
      if !spEn m || spWords m ≤ n then .fault s { code := Code.tileRange, w1 := BitVec.ofNat 64 n }
      else if spAcs m && (s.tile c.tile).heldFor.isSome then .fault s { code := Code.slotState }
      else
        let w := spillWord m v.ent c.tid n
        let x := s.tile c.tile
        let bad := if spAcs m then NSet.has x.acsPoison w else NSet.has x.lvsPoison w
        if bad then .fault s { code := Code.memPoison, w1 := BitVec.ofNat 64 n }
        else
          let val := if spAcs m then SMap.get 0 x.acs w else s.lvs c.tile w
          .ok s (some ⟨c.tid, some (.x d), false, 0, 0, .value (val.setWidth 64), false⟩)

def execSpill (g : Guard) (a : BitVec 5) (n : BitVec 6) (s : State) : Host.Outcome State Fault Refusal :=
  withPass s g chkNone [] (serveSpill a n.toNat)

def execFill (g : Guard) (d : BitVec 5) (n : BitVec 6) (s : State) : Host.Outcome State Fault Refusal :=
  withPass s g chkNone [.opd (.x d)] (serveFill d n.toNat)

end Sys2Proof.Machine
end

