-- ==== Sys2Proof/Machine/Engine.lean ====
section
/-!
DEFINITION. Engine queues (spec/12 R215 to R218, spec/17 R307, R308, R315 and R316, spec/13 R225): how a command enters its queue, issues,
fetches its descriptor, stops at a fault, retires and posts.
-/
namespace Sys2Proof

/-- The common fields of an engine command. -/
def Instr.com? : Instr → Option SCom
  | .strmRd c _ _ => some c
  | .strmWr c _ _ => some c
  | .engBar c => some c
  | .cpIn c _ => some c
  | .cpOut c _ => some c
  | .cpLocal c _ => some c
  | .cpPush c _ _ => some c
  | .cpPushz c _ _ => some c
  | .cpPop c _ _ => some c
  | .cpPopd c _ _ => some c
  | .slotClaim c _ _ => some c
  | .slotFill c _ _ _ _ => some c
  | .slotRel c _ _ => some c
  | .cubeMm c _ => some c
  | .cubeGate c _ => some c
  | .cubeSpread c _ => some c
  | .cubeFold c _ => some c
  | .cubeBind c _ _ _ _ => some c
  | .cubeUnbind c => some c
  | .cirConvert c _ _ => some c
  | .cirSched c _ _ => some c
  | .cirRun c _ => some c
  | .cirRunf c _ => some c
  | .cirHalt c _ => some c
  | .cirRevert c _ => some c
  | .cirPageout c _ _ _ => some c
  | .cirPagein c _ _ _ => some c
  | .cfgLd c _ _ _ _ => some c
  | .preempt c _ => some c
  | .restore c _ => some c
  | .nmqSub c _ => some c
  | _ => none

/-- The ports that a stream command binds: the channel name, and whether it is the input end (R215, R312, R318, R365). -/
def Instr.ports : Instr → List (Bool × BitVec 3)
  | .strmRd _ n _ => [(false, n)]
  | .strmWr _ n _ => [(true, n)]
  | .cpPush _ n _ => [(false, n)]
  | .cpPushz _ n _ => [(false, n)]
  | .cpPop _ n _ => [(true, n)]
  | .cpPopd _ n _ => [(true, n)]
  | .slotFill _ _ _ (some n) _ => [(true, n)]
  | .cubeBind _ _ i o _ => [(true, i), (false, o)]
  | _ => []

/-- A command that runs on the copy engine (R87, R167). -/
def Instr.onCopyEngine : Instr → Bool
  | .cpIn .. => true
  | .cpOut .. => true
  | .cpLocal .. => true
  | .cpPush .. => true
  | .cpPushz .. => true
  | .cpPop .. => true
  | .cpPopd .. => true
  | .slotFill .. => true
  | _ => false

/-- A command that takes its turn at the tile's cube (R169). -/
def Instr.atCube : Instr → Bool
  | .cubeMm .. => true
  | .cubeGate .. => true
  | .cubeSpread .. => true
  | .cubeFold .. => true
  | .cubeBind .. => true
  | .cubeUnbind .. => true
  | _ => false

/-- The array that a circuit command is aimed at (R100). -/
def Instr.array? : Instr → Option Nat
  | .cirConvert _ a _ => some a.toNat
  | .cirSched _ a _ => some a.toNat
  | .cirRun _ a => some a.toNat
  | .cirRunf _ a => some a.toNat
  | .cirHalt _ a => some a.toNat
  | .cirRevert _ a => some a.toNat
  | .cirPageout _ a _ _ => some a.toNat
  | .cirPagein _ a _ _ => some a.toNat
  | _ => none

end Sys2Proof

namespace Sys2Proof.Machine

/-! ### Entering the queue (R216, R307) -/

/-- The sequence number that the next command to enter will have when it issues (R225): commands issue in entry order. -/
def SetState.nextSeq (v : SetState) : Nat :=
  (v.cmdSeq.toNat + (v.queue.filter (fun c => c.at' == CmdAt.queued)).length) % 4096

/-- What a command's accesses are ordered after (R91, R315, R192): the stream's earlier accesses of its class, every earlier
acquire, and what the stream's barriers and fences have named for that class, all with what is before them, performed for the whole part (log
entry 7, DEDUCED). -/
def State.cmdAfter (s : State) (t o : Nat) (ac : BitVec 4) : List Need :=
  let acqs := (s.accs.filter (fun a => a.2.tile == t && a.2.set == o && a.2.tid == 0 && a.2.acq)).map Prod.fst
  let fenced := match s.thread? t o 0 with
    | some th => s.live th.fenced
    | none => []
  (deepNeeds 4 acqs ++ s.known t o 0 (classBit ac) 4 ++ fenced).eraseDups

/-- A tried command's success goes to its predicate; q7 discards it. -/
def State.tried (s : State) (c : Ctx) (q : Option (BitVec 3)) (ok : Bool) : State :=
  match q with
  | some n => writeOpd c s false 0 (.q n) (boolWord ok)
  | none => s

/-- The command as it enters. -/
def newCmd (i : Instr) (addr : Double) (c : Ctx) (gate after : List Need) (seq : Nat) : Cmd where
  i := i
  addr := addr
  blk := c.blk
  idx := c.idx
  gate := gate
  after := after
  at' := .queued
  seq := seq
  invoc := 0
  stage := 0
  ds := []
  pos := 0
  buf := []
  held := []
  aux := []

/-- Serve an engine command instruction for the anchor: it enters, or meets a full queue. A late push that is still to be made on the channel that
the command pushes parks it (R161, R322). `waits` parks the anchor until the command retires (R398): its instruction has been executed (R409). -/
def serveEnter (i : Instr) (m : SCom) (desc : Option (BitVec 4)) (waits : Bool) (c : Ctx) (s : State) : Serve :=
  match s.set? c.tile c.set with
  | none => .gone s
  | some v =>
    let regs := (desc.map Opd.s).toList ++ (m.tq.map Opd.q).toList.filter (· != .q 7) ++
      (i.ports.filter (fun p => !p.1)).map (fun p => Opd.ch p.2)
    let pend := v.pendingOn c.tid (regs.map Mark.opd)
    if !pend.isEmpty then .park s (.groups pend)
    else if 16 ≤ v.queue.length then
      let s1 := s.modSet c.tile c.set (fun v => v.count 0x08 1)
      if m.tq.isSome then .ok (s1.tried c m.tq false) none else .park s1 .queueFull
    else
      let gate := match v.threads.look c.tid with
        | some th => s.live th.fenced
        | none => []
      let addr := (desc.map (fun d => c.s d.toNat)).getD 0
      let k := newCmd i addr c gate (s.cmdAfter c.tile c.set m.ac) v.nextSeq
      let s1 := (s.putSet c.tile c.set { v with queue := v.queue ++ [k] }).tried c m.tq true
      if waits then .park (s1.modSet c.tile c.set (fun v => v.count 0x03 1)) (.command k.seq) else .ok s1 none

/-- An engine command instruction (R307, R365, R386): token blocks of AG sets, and supervisor sets where its entry says so. -/
def enterExec (i : Instr) (m : SCom) (desc : Option (BitVec 4)) (sup waits : Bool) (s : State) : Host.Outcome State Fault Refusal :=
  withPass s m.g (chkAll ((if sup then [chkSup] else []) ++ [chkType [.ag] [.token]])) [] (serveEnter i m desc waits)

/-! ### Commands under way -/

/-- An issued command of a set. -/
def SetState.cmd? (v : SetState) (seq : Nat) : Option Cmd := v.queue.find? (fun c => c.seq == seq && c.at' != .queued)

def State.modCmd (s : State) (t o seq : Nat) (f : Cmd → Cmd) : State :=
  s.modSet t o (fun v => { v with queue := v.queue.map (fun c => if c.seq == seq && c.at' != .queued then f c else c) })

/-- The last stage: nothing is left but to retire. -/
def doneStage : Nat := 255

/-- The stage of an abandoned read stream whose tokens still flow on (R57, R229; log entry 39, DEDUCED). -/
def flowStage : Nat := 6

def State.cmdDone (s : State) (t o seq : Nat) : State := s.modCmd t o seq (fun c => { c with stage := doneStage })

/-- The anchor that a cfg.ld parked goes on at the next instruction (R398). -/
def State.freeAnchor (s : State) (t o seq : Nat) : State :=
  s.modThread t o 0 (fun th => match th.place with
    | .parked b i (.command q) =>
      if q == seq then
        let r := th.loops.after i
        { th with place := .parked b r.2 .clear, loops := r.1 }
      else th
    | _ => th)

/-- A command stops at a fault, charged to it (R225). One that has made no access yet reads its descriptor again when it resumes
(R308); bytes read ahead are discarded (R57, R58). -/
def State.stopCmd (s : State) (t o : Nat) (c : Cmd) (f : FaultInfo) : State :=
  let s1 := s.modCmd t o c.seq (fun c => if c.stage ≤ 1 then { c with stage := 0, ds := if c.stage = 1 then c.ds else [], buf := [] }
    else { c with buf := [] })
  ((s1.cmdFault t o c.seq c.blk c.invoc f).freeAnchor t o c.seq).forgetWalks t o c.seq

/-- The class of a command. -/
def Cmd.ac (c : Cmd) : BitVec 4 := ((c.i.com?).map SCom.ac).getD 0

/-- What a command's accesses are ordered after has been performed. -/
def State.cmdReady (s : State) (c : Cmd) : Bool := c.after.all s.met

/-- The number that stands for a command in the tid of its accesses (log entry 40, DESIGN CHOICE). -/
def cmdTid (seq : Nat) : Nat := 8192 + seq

/-- Accesses of a command that are still to be performed. -/
def State.cmdAccs (s : State) (t o seq : Nat) : List Nat :=
  (s.toCome.filter (fun a => a.2.tile == t && a.2.set == o && a.2.tid == cmdTid seq)).map Prod.fst

/-! ### Issue (R215) -/

/-- Commands that a tile's copy engine is running: those of its sets, and each port node, which counts as one (R87, R97). -/
def State.copyLoad (s : State) (t : Nat) : Nat :=
  ((s.setsOf t).map (fun v => (v.2.queue.filter (fun c => c.i.onCopyEngine && c.at' == CmdAt.issued && c.stage != doneStage)).length)).sum +
    (s.tile t).ports.length

/-- Every port that a command binds is free. -/
def SetState.portsFree (v : SetState) (i : Instr) : Bool :=
  i.ports.all (fun p => !v.queue.any (fun c => c.at' != CmdAt.queued && c.i.ports.contains p))

/-- Post to an event queue: none while its count is 255 (R218). -/
def State.post (s : State) (t n : Nat) : Option State :=
  let x := s.tile t
  let k := SMap.get 0 x.eq n
  if 255 ≤ k then none else some (s.putTile t { x with eq := SMap.put 0 x.eq n (k + 1) })

/-- The head of a queue: its first command that has not issued, with those before it. -/
def splitQueue : List Cmd → List Cmd × Option (Cmd × List Cmd)
  | [] => ([], none)
  | c :: cs =>
    if c.at' == .queued then ([], some (c, cs))
    else
      let r := splitQueue cs
      (c :: r.1, r.2)

/-- The event of a command's retirement (R249, R252). -/
def State.retireEvent (s : State) (t o : Nat) (v : SetState) (c : Cmd) : TraceEv :=
  ⟨t, o, c.blk, s.blockNode t o c.blk, v.eoiInvoc, 3, .retire, BitVec.ofNat 32 c.seq, 0, none⟩

/-- The slots of a run. -/
def slotRun (first countM1 : Nat) : List Nat := (List.range (countM1 + 1)).map (first + ·)

/-- Every slot of a run takes a state. -/
def Tile.setRun (x : Tile) (o : Nat) (run : List Nat) (st : SlotSt) : Tile :=
  { x with slots := run.foldl (fun m n => SMap.put Slot.reset m n ⟨st, o, 0⟩) x.slots }

/-- The run of a fill is FILLING until the fill retires (R167); that of a fill of length 0 has been READY since its start (R370). -/
def State.fillReady (s : State) (t o : Nat) (c : Cmd) : State :=
  match c.i with
  | .slotFill _ f n _ _ =>
    if ((c.ds.getD 2 0).extractLsb' 0 19).toNat = 0 then s else s.putTile t ((s.tile t).setRun o (slotRun f.toNat n.toNat) .ready)
  | _ => s

/-- Retire a command without Post. -/
def State.leaveQueue (s : State) (t o : Nat) (c : Cmd) : State :=
  let s1 := (((s.freeAnchor t o c.seq).forgetWalks t o c.seq).fillReady t o c).modSet t o (fun v =>
    (v.unqueue (fun k => k.at' == CmdAt.queued || k.seq != c.seq) s.tick).count 0x09 1)
  let x := s1.tile t
  s1.putTile t { x with cube := { x.cube with cmds := x.cube.cmds.filter (· != (o, c.seq)) },
                        arrs := x.arrs.map (fun a => (a.1, { a.2 with cmds := a.2.cmds.filter (· != (o, c.seq)) })) }

/-- Retire a command, posting if it is marked to; a full event queue holds the retirement (R218), and so does a full Drift (R251). -/
def State.retireCmd (s : State) (t o : Nat) (v : SetState) (c : Cmd) : State :=
  let e := s.retireEvent t o v c
  if s.traceStalls e then s.driftStall t o
  else
    match (c.i.com?).bind SCom.pq with
    | none => (s.leaveQueue t o c).observe e
    | some n =>
      match s.post t n.toNat with
      | some s1 => (s1.leaveQueue t o c).observe e
      | none => s.modCmd t o c.seq (fun c => { c with at' := .posting })

/-- Take the turn of a command at the units it is aimed at. -/
def State.reach (s : State) (t o : Nat) (c : Cmd) : State :=
  let x := s.tile t
  if c.i.atCube then s.putTile t { x with cube := { x.cube with cmds := x.cube.cmds ++ [(o, c.seq)] } }
  else
    match c.i.array? with
    | some a =>
      let r := (x.arrs.look a).getD Arr.reset
      s.putTile t { x with arrs := SMap.put Arr.reset x.arrs a { r with cmds := r.cmds ++ [(o, c.seq)] } }
    | none => s

/-- COMMAND_RETIRE (R91, R180, R218): a command whose work is done retires once its writes have been performed, and posts. -/
def execCommandRetire (t o seq : Nat) (s : State) : Host.Outcome State Fault Refusal :=
  match s.set? t o with
  | none => .next s
  | some v =>
    match v.cmd? seq with
    | none => .next s
    | some c =>
      if c.stage == doneStage && c.at' != .stopped && s.runs t && (s.cmdAccs t o seq).isEmpty then .next (s.retireCmd t o v c)
      else .next s

/-! ### Configuration fetches (R308, R399) -/

/-- One piece of a command's access is translated and checked (R295): alignment, translation, CONFIG pages, a held bank, which holds it (R33),
and memory. -/
def State.engTranslate (s : State) (t o : Nat) (v : SetState) (c : Cmd) (va : Double) (n align : Nat) (kind : BitVec 3) (write : Bool) : XlRes :=
  let bad (s : State) (f : FaultInfo) : XlRes :=
    let r := s.xlFault t (xctxAsid v.regs.xctx) va write { f with ac := c.ac }
    .fault r.1 r.2
  if va.extractLsb' 56 8 != 0 then bad s { code := Code.xlateMiss, kind := kind }
  else if va.toNat % align ≠ 0 then bad s { code := Code.align, kind := kind }
  else
    match s.translate t o v.regs.xctx v.ent.sup true c.seq va kind write true with
    | .fault s1 f => .fault s1 { f with ac := c.ac }
    | .wait s1 w => .wait s1 w
    | .ok s1 x =>
      if x.mtype == .config then bad s1 { code := Code.xlatePerm, kind := kind, key := x.key }
      else if x.mtype == .peer then
        if Config.freeBit s1.tick (32 + va.toNat % 2 ^ 32) then bad s1 { code := Code.memPoison, kind := kind } else .ok s1 x
      else if s1.bankHeld x.pa then .wait s1 0
      else if s1.memFaults x.pa n false then bad s1 { code := Code.memPoison, kind := kind, key := x.key }
      else .ok s1 x

/-- Bytes at a translated place, within one line; a peer's are free. -/
def State.xlRead (s : State) (x : Xl) (n : Nat) : List Byte :=
  if x.mtype == .peer then (List.range n).map (fun i => (Config.freeWord s.tick (2 ^ 32 + x.pa + i)).extractLsb' 0 8)
  else s.readKey x.key x.pa n

/-- What a fetch gives: the bytes, and the pieces of memory that they come from. -/
inductive Fetched where
  | fault (s : State) (f : FaultInfo)
  | wait (s : State)
  | ok (s : State) (bs : List Byte) (src : List ImgPiece)

/-- A piece before others, joined with one that follows it in memory. -/
def ImgPiece.before (p : ImgPiece) : List ImgPiece → List ImgPiece
  | [] => [p]
  | q :: l => if p.pa + p.n = q.pa ∧ p.key = q.key ∧ p.peer = q.peer then { p with n := p.n + q.n } :: l else p :: q :: l

/-- Read `n` bytes from a virtual address as a configuration fetch, line by line; it waits whole for a missing translation. -/
def State.fetchBytes (s : State) (t o : Nat) (v : SetState) (c : Cmd) (align : Nat) : Nat → Double → Nat → Fetched
  | 0, _, _ => .ok s [] []
  | fuel + 1, va, n =>
    if n = 0 then .ok s [] []
    else
      let m := min n (64 - va.toNat % 64)
      match s.engTranslate t o v c va m align 6 false with
      | .fault s1 f => .fault s1 f
      | .wait s1 _ => .wait s1
      | .ok s1 x =>
        let bs := s1.xlRead x m
        match s1.fetchBytes t o v c 1 fuel (va + BitVec.ofNat 64 m) (n - m) with
        | .ok s2 more src => .ok s2 (bs ++ more) ((⟨x.pa, m, x.key, x.mtype == .peer⟩ : ImgPiece).before src)
        | r => r

/-- Bytes as doubles. -/
def doubles : Nat → List Byte → List Double
  | 0, _ => []
  | n + 1, bs => BitVec.ofNat 64 (bytesNat (bs.take 8)) :: doubles n (bs.drop 8)

/-- A descriptor of `n` doubles, aligned (R308): a failed fetch stops the command at offset 0 with the descriptor's address. -/
def State.fetchDesc (s : State) (t o : Nat) (v : SetState) (c : Cmd) (n align : Nat) (k : State → List Double → State) : State :=
  if !s.cmdReady c then s
  else
    match s.fetchBytes t o v c align 128 c.addr (8 * n) with
    | .fault s1 f => s1.stopCmd t o c { f with w1 := c.addr }
    | .wait s1 => s1
    | .ok s1 bs _ => k s1 (doubles n bs)

/-- A malformed descriptor (R308). -/
def badDesc (c : Cmd) : FaultInfo := { code := Code.cfgImage, kind := 6, w1 := c.addr, ac := c.ac }

end Sys2Proof.Machine
end

