-- ==== Sys2Proof/Machine/Pattern.lean ====
section
/-!
DEFINITION. The pattern descriptor of streams and port nodes (spec/17 R309 to R311), and the tokens of a read stream (R313), which flow on
where it stops (spec/03 R57).
-/
namespace Sys2Proof.Machine

/-! ### The pattern descriptor (R309 to R311) -/

structure Pattern where
  base : Double
  c0 : Nat
  c1 : Nat
  c2 : Nat
  c3 : Nat
  s0 : Int
  s1 : Int
  s2 : Int
  s3 : Int
  scen : Bool
  bl : Nat
  b8 : BitVec 5
  tag : BitVec 3
  eoi : Bool
  scbase : Double

def pattern (ds : List Double) : Pattern where
  base := ds.getD 0 0
  c0 := ((ds.getD 1 0).extractLsb' 0 16).toNat + 1
  c1 := ((ds.getD 1 0).extractLsb' 16 16).toNat + 1
  c2 := ((ds.getD 1 0).extractLsb' 32 16).toNat + 1
  c3 := ((ds.getD 1 0).extractLsb' 48 16).toNat + 1
  s0 := ((ds.getD 2 0).extractLsb' 0 32).toInt
  s1 := ((ds.getD 2 0).extractLsb' 32 32).toInt
  s2 := ((ds.getD 3 0).extractLsb' 0 32).toInt
  s3 := ((ds.getD 3 0).extractLsb' 32 32).toInt
  scen := (ds.getD 4 0).getLsbD 63
  bl := ((ds.getD 4 0).extractLsb' 48 8).toNat
  b8 := (ds.getD 4 0).extractLsb' 35 5
  tag := (ds.getD 4 0).extractLsb' 32 3
  eoi := (ds.getD 4 0).getLsbD 31
  scbase := ds.getD 5 0

/-- Element size, and elements per token (R310). -/
def Pattern.z (p : Pattern) : Nat :=
  match p.tag.toNat with
  | 0 => 4
  | 1 => 4
  | 2 => 2
  | _ => 1

def Pattern.per (p : Pattern) : Nat := 4 / p.z

def Pattern.count (p : Pattern) : Nat := p.c0 * p.c1 * p.c2 * p.c3

/-- Malformed by itself (R310); the port is checked against `fmt`, the format of the channel it binds. -/
def Pattern.bad (p : Pattern) (ds : List Double) (fmt : Option B8) : Bool :=
  let d4 := ds.getD 4 0
  d4.extractLsb' 56 7 != 0 || d4.extractLsb' 40 8 != 0 || d4.extractLsb' 0 31 != 0 || ds.getD 6 0 != 0 || ds.getD 7 0 != 0 ||
    4 < p.tag.toNat || (if p.tag == 3 then p.b8.extractLsb' 2 3 == 0 || fmt != some (b8Dec p.b8) else p.b8 != 0) ||
    2 ^ 48 < p.count || p.c0 % p.per != 0 ||
    (if p.scen then p.bl == 0 || p.bl % p.per != 0 || p.c0 % p.bl != 0 else p.bl != 0 || p.scbase != 0)

/-- The virtual address of element e. -/
def Pattern.addr (p : Pattern) (e : Nat) : Double :=
  let i0 := e % p.c0
  let i1 := e / p.c0 % p.c1
  let i2 := e / (p.c0 * p.c1) % p.c2
  let i3 := e / (p.c0 * p.c1 * p.c2)
  p.base + BitVec.ofInt 64 ((i0 : Int) * p.s0 + (i1 : Int) * p.s1 + (i2 : Int) * p.s2 + (i3 : Int) * p.s3)

def Pattern.scaleAddr (p : Pattern) (b : Nat) : Double := p.scbase + BitVec.ofNat 64 b

/-- A scale header (R121): LAST on the last block of a dimension-0 row. -/
def scaleHeader (last : Bool) (len : Nat) (scale : Nat) : Token :=
  ⟨6, (0 : BitVec 15) ++ BitVec.ofBool last ++ BitVec.ofNat 8 len ++ BitVec.ofNat 8 scale, []⟩

def Pattern.lastBlock (p : Pattern) (e : Nat) : Bool := (e + p.bl) % p.c0 == 0

/-! ### The tokens of a read stream (R313) -/

/-- The key under which a block's scale is held. -/
def scaleKey (b : Nat) : Nat := 2 ^ 60 + b

/-- The next token of a read stream, if it is ready: a scale header, or data. -/
def Pattern.ready (p : Pattern) (c : Cmd) : Option (Token × Cmd) :=
  if p.scen && c.pos % p.bl == 0 && c.aux != [1] then
    (SMap.look c.held (scaleKey (c.pos / p.bl))).map (fun sc =>
      (scaleHeader (p.lastBlock c.pos) p.bl sc, { c with held := c.held.erase (scaleKey (c.pos / p.bl)), aux := [1] }))
  else
    let es := (List.range p.per).map (fun k => (SMap.look c.held (c.pos + k)))
    if es.any Option.isNone then none
    else
      let val := (es.map (fun e => e.getD 0)).foldr (fun e acc => e + 2 ^ (8 * p.z) * acc) 0
      some (⟨p.tag, BitVec.ofNat 32 val, []⟩,
        { c with held := c.held.filter (fun h : Nat × Nat => !(c.pos ≤ h.1 && h.1 < c.pos + p.per)), pos := c.pos + p.per, aux := [] })

/-- What a stopped read stream has read, and has not yet pushed, of the elements before its stop. -/
def Cmd.flows (c : Cmd) : Bool :=
  match c.i with
  | .strmRd .. => decide (2 ≤ c.stage) && (SMap.look c.held c.pos).isSome && ((pattern c.ds).ready c).isSome
  | _ => false

end Sys2Proof.Machine
end

