-- ==== Sys2Proof/Machine/Numeric.lean ====
section
/-!
DEFINITION. Number formats and rounding (spec/08 R136 to R148): exact values, reading each format, RoundToFormat for binary32,
BF16 and the binary8 family, conversion to integers, and the exact functions of spec/18 R332 carried to enough bits
that rounding to nearest is decided.
-/
namespace Sys2Proof.Machine

/-- An exact value: NaN (signalling or not), an infinity, or a magnitude m × 2^e with a sign. `more` says that the
magnitude lies strictly between m × 2^e and (m + 1) × 2^e. -/
inductive Exact where
  | nan (sig : Bool)
  | inf (neg : Bool)
  | fin (neg : Bool) (m : Nat) (e : Int) (more : Bool)
  deriving DecidableEq, Repr

def Exact.zero : Exact := .fin false 0 0 false

def Exact.ofInt (i : Int) : Exact := .fin (i < 0) i.natAbs 0 false

/-- Number of bits of a magnitude. -/
def bitLen (m : Nat) : Nat := if m = 0 then 0 else m.log2 + 1

/-- m × 2^k rounded down, k of either sign. -/
def shiftN (m : Nat) (k : Int) : Nat := if 0 ≤ k then m <<< k.toNat else m >>> (-k).toNat

/-- Where a magnitude stands between two neighbours of a grid. -/
inductive Frac where
  | exact | below | half | above
  deriving DecidableEq, Repr

/-- The grid of a format (R144): the largest code n with g(n) ≤ m × 2^e, for precision p and exponent bias, with an
unbounded exponent field, and where the value stands between g(n) and g(n + 1). -/
def gridCode (p : Nat) (bias : Int) (m : Nat) (e : Int) (more : Bool) : Nat × Frac :=
  let lead := e + (bitLen m : Int) - 1
  let q := (if m = 0 then 1 - bias else max lead (1 - bias)) - ((p : Int) - 1)
  let sh := q - e
  let far := (bitLen m : Int) + 2 < sh
  let v := if far then 0 else shiftN m (-sh)
  let code := if v < 2 ^ (p - 1) then v else (q + (p : Int) - 1 + bias).toNat * 2 ^ (p - 1) + (v - 2 ^ (p - 1))
  if far then (code, if m = 0 ∧ !more then .exact else .below)
  else if sh ≤ 0 then (code, if more then .below else .exact)
  else
    let rem := m % 2 ^ sh.toNat
    let half := 2 ^ (sh.toNat - 1)
    (code,
      if rem = 0 ∧ !more then .exact
      else if rem < half then .below
      else if rem = half ∧ !more then .half
      else .above)

/-- The code picked (R144): RNE the nearer, the even one at a tie; RZ n; RU and RD by the sign. -/
def pickCode (rm : RM) (neg : Bool) (n : Nat) (f : Frac) : Nat :=
  match f with
  | .exact => n
  | f =>
    match rm with
    | .rne => if f == .above || (f == .half && n % 2 == 1) then n + 1 else n
    | .rz => n
    | .ru => if neg then n else n + 1
    | .rd => if neg then n + 1 else n

/-- Overflow of an IEEE format goes to infinity in this mode and sign (R144). -/
def toInf (rm : RM) (neg : Bool) : Bool :=
  match rm with
  | .rne => true
  | .rz => false
  | .ru => !neg
  | .rd => neg

/-- RoundToFormat for a format of the IEEE family with `w` bits, precision p and bias 127 (R138, R139, R144). -/
def roundIeee (w p : Nat) (rm : RM) (x : Exact) : Nat × Exc :=
  let sign (neg : Bool) : Nat := if neg then 2 ^ (w - 1) else 0
  let infc := 255 * 2 ^ (p - 1)
  match x with
  | .nan sig => (infc + 2 ^ (p - 2), if sig then Exc.nv else Exc.none)
  | .inf neg => (sign neg + infc, Exc.none)
  | .fin neg m e more =>
    let g := gridCode p 127 m e more
    let n := pickCode rm neg g.1 g.2
    let nx := if g.2 == .exact then Exc.none else Exc.nx
    if infc ≤ n then (sign neg + (if toInf rm neg then infc else infc - 1), Exc.of ||| Exc.nx)
    else
      let uf := if g.2 != .exact && g.1 < 2 ^ (p - 1) then Exc.uf else Exc.none
      (sign neg + n, nx ||| uf)

/-- RoundToFormat to f32 (R144). -/
def roundF32 (rm : RM) (x : Exact) : Word × Exc :=
  let r := roundIeee 32 24 rm x
  (BitVec.ofNat 32 r.1, r.2)

/-- RoundToFormat to bf16 (R144). -/
def roundBf16 (rm : RM) (x : Exact) : Half × Exc :=
  let r := roundIeee 16 8 rm x
  (BitVec.ofNat 16 r.1, r.2)

/-- An f32 bit pattern read exactly (R138). -/
def readF32 (w : Word) : Exact :=
  let s := w.getLsbD 31
  let e := (w.extractLsb' 23 8).toNat
  let t := (w.extractLsb' 0 23).toNat
  if e = 255 then (if t = 0 then .inf s else .nan (t < 2 ^ 22))
  else if e = 0 then .fin s t (-149) false
  else .fin s (2 ^ 23 + t) ((e : Int) - 150) false

/-- A BF16 value widens exactly (R139). -/
def readBf16 (h : Half) : Exact := readF32 (h ++ (0 : Half))

/-! ### binary8 (R140 to R145) -/

def B8bias (f : B8) : Int := if f.uns then (2 : Int) ^ (8 - f.p.toNat) else (2 : Int) ^ (7 - f.p.toNat)

def B8nan (f : B8) : Byte := if f.uns then 0xFF else 0x80

/-- The largest finite code (R140). -/
def B8max (f : B8) : Nat :=
  match f.uns, f.fin with
  | false, false => 0x7E
  | false, true => 0x7F
  | true, false => 0xFD
  | true, true => 0xFE

/-- Magnitude of a positive code (R140). -/
def b8Mag (f : B8) (n : Nat) : Nat × Int :=
  let p := f.p.toNat
  let e := n / 2 ^ (p - 1)
  let t := n % 2 ^ (p - 1)
  if e = 0 then (t, 2 - (p : Int) - B8bias f) else (2 ^ (p - 1) + t, (e : Int) - B8bias f - ((p : Int) - 1))

/-- A binary8 byte read exactly (R140): all NaNs are quiet. -/
def readB8 (f : B8) (b : Byte) : Exact :=
  if b == B8nan f then .nan false
  else if !f.fin && b.toNat == (if f.uns then 0xFE else 0x7F) then .inf false
  else if !f.fin && !f.uns && b == 0xFF then .inf true
  else
    let neg := !f.uns && b.getLsbD 7
    let n := if f.uns then b.toNat else b.toNat % 128
    let g := b8Mag f n
    .fin neg g.1 g.2 false

/-- A signed code of a sign (R144). -/
def b8Sign (f : B8) (neg : Bool) (n : Nat) : Byte := if !f.uns && neg then BitVec.ofNat 8 (128 + n) else BitVec.ofNat 8 n

/-- Saturate (R145). -/
def b8Saturate (f : B8) (rm : RM) (sat : Sat) (neg : Bool) : Byte :=
  match sat with
  | .max => b8Sign f neg (B8max f)
  | .nan => B8nan f
  | .inf => if f.fin then B8nan f else if toInf rm neg then b8Sign f neg (B8max f + 1) else b8Sign f neg (B8max f)

/-- RoundToFormat to a binary8 format (R144). -/
def roundB8 (f : B8) (rm : RM) (sat : Sat) (x : Exact) : Byte × Exc :=
  let below (neg : Bool) : Bool := f.uns && neg
  let uns : Byte × Exc := if sat == .max then (0, Exc.nx) else (B8nan f, Exc.nv)
  match x with
  | .nan sig => (B8nan f, if sig then Exc.nv else Exc.none)
  | .inf neg =>
    if below neg then uns
    else if sat == .max then (b8Sign f neg (B8max f), Exc.none)
    else if !f.fin then (b8Sign f neg (B8max f + 1), Exc.none)
    else (B8nan f, Exc.nv)
  | .fin neg m e more =>
    if m = 0 ∧ !more then (0, Exc.none)
    else if below neg then uns
    else
      let p := f.p.toNat
      let g := gridCode p (B8bias f) m e more
      let n := pickCode rm neg g.1 g.2
      let nx := if g.2 == .exact then Exc.none else Exc.nx
      let uf := if g.2 != .exact && g.1 < 2 ^ (p - 1) then Exc.uf else Exc.none
      if B8max f < n then (b8Saturate f rm sat neg, Exc.of ||| Exc.nx)
      else if n = 0 then (0, nx ||| uf)
      else (b8Sign f neg n, nx ||| uf)

/-- An E8M0 byte (R143). -/
def readE8 (b : Byte) : Exact := if b == 0xFF then .nan false else .fin false 1 ((b.toNat : Int) - 127) false

/-! ### Exact arithmetic -/

def Exact.isNan : Exact → Bool
  | .nan _ => true
  | _ => false

def Exact.isSnan : Exact → Bool
  | .nan s => s
  | _ => false

def Exact.neg : Exact → Exact
  | .nan s => .nan s
  | .inf n => .inf (!n)
  | .fin n m e k => .fin (!n) m e k

/-- Sum of exact values; two infinities of opposite sign give NaN with NV. An exact zero takes the sign that both
terms share, else − in RD and + in the other modes (R332). -/
def Exact.add (rm : RM) (x y : Exact) : Exact × Exc :=
  let nv := if x.isSnan || y.isSnan then Exc.nv else Exc.none
  match x, y with
  | .nan _, _ => (.nan false, nv)
  | _, .nan _ => (.nan false, nv)
  | .inf a, .inf b => if a == b then (.inf a, nv) else (.nan false, Exc.nv)
  | .inf a, _ => (.inf a, nv)
  | _, .inf b => (.inf b, nv)
  | .fin a m e _, .fin b n f _ =>
    let g := min e f
    let u : Int := (m <<< (e - g).toNat : Nat)
    let v : Int := (n <<< (f - g).toNat : Nat)
    let s := (if a then -u else u) + (if b then -v else v)
    if s = 0 then (.fin (if m = 0 ∧ n = 0 ∧ a = b then a else rm == .rd) 0 0 false, nv)
    else (.fin (s < 0) s.natAbs g false, nv)

/-- Product of exact values; 0 × ∞ gives NaN with NV (R333). -/
def Exact.mul (x y : Exact) : Exact × Exc :=
  let nv := if x.isSnan || y.isSnan then Exc.nv else Exc.none
  match x, y with
  | .nan _, _ => (.nan false, nv)
  | _, .nan _ => (.nan false, nv)
  | .inf a, .inf b => (.inf (a != b), nv)
  | .inf a, .fin b n _ _ => if n = 0 then (.nan false, Exc.nv) else (.inf (a != b), nv)
  | .fin a m _ _, .inf b => if m = 0 then (.nan false, Exc.nv) else (.inf (a != b), nv)
  | .fin a m e _, .fin b n f _ => (.fin (a != b) (m * n) (e + f) false, nv)

/-- a × b + c, NV of the product and of the sum together (R332, R333). 0 × ∞ raises NV also when c is a quiet NaN. -/
def Exact.fma (rm : RM) (a b c : Exact) : Exact × Exc :=
  let p := Exact.mul a b
  let s := Exact.add rm p.1 c
  (s.1, p.2 ||| s.2)

/-- a / b with its special cases (R333). -/
def Exact.div (x y : Exact) : Exact × Exc :=
  let nv := if x.isSnan || y.isSnan then Exc.nv else Exc.none
  match x, y with
  | .nan _, _ => (.nan false, nv)
  | _, .nan _ => (.nan false, nv)
  | .inf _, .inf _ => (.nan false, Exc.nv)
  | .inf a, .fin b _ _ _ => (.inf (a != b), Exc.none)
  | .fin a _ _ _, .inf b => (.fin (a != b) 0 0 false, Exc.none)
  | .fin a m e _, .fin b n f _ =>
    if n = 0 then (if m = 0 then (.nan false, Exc.nv) else (.inf (a != b), Exc.dz))
    else if m = 0 then (.fin (a != b) 0 0 false, Exc.none)
    else
      let k := 80 + bitLen n
      let q := (m <<< k) / n
      (.fin (a != b) q (e - f - (k : Int)) ((m <<< k) % n != 0), Exc.none)

/-- The integer square root, bit by bit from bit `b`. -/
def isqrtAux (n : Nat) : Nat → Nat → Nat
  | 0, r => if (r + 1) * (r + 1) ≤ n then r + 1 else r
  | b + 1, r =>
    let t := r + 2 ^ (b + 1)
    isqrtAux n b (if t * t ≤ n then t else r)

def isqrt (n : Nat) : Nat := isqrtAux n (bitLen n / 2 + 1) 0

/-- √a (R332, R333). -/
def Exact.sqrt (x : Exact) : Exact × Exc :=
  match x with
  | .nan s => (.nan false, if s then Exc.nv else Exc.none)
  | .inf n => if n then (.nan false, Exc.nv) else (.inf false, Exc.none)
  | .fin n m e _ =>
    if m = 0 then (.fin n 0 0 false, Exc.none)
    else if n then (.nan false, Exc.nv)
    else
      let adj := if e % 2 = 0 then 0 else 1
      let v := m <<< (160 + adj)
      let r := isqrt v
      (.fin false r ((e - 160 - (adj : Int)) / 2) (r * r != v), Exc.none)

/-- 1 / √a (R332, R333). -/
def Exact.rsqrt (x : Exact) : Exact × Exc :=
  match x with
  | .nan s => (.nan false, if s then Exc.nv else Exc.none)
  | .inf n => if n then (.nan false, Exc.nv) else (.fin false 0 0 false, Exc.none)
  | .fin n m e _ =>
    if m = 0 then (.inf n, Exc.dz)
    else if n then (.nan false, Exc.nv)
    else
      let adj := if e % 2 = 0 then 0 else 1
      let m1 := m <<< adj
      let e1 := e - (adj : Int)
      let k := 90 + bitLen m1
      let r := isqrt ((2 ^ (2 * k)) / m1)
      (.fin false r (-(k : Int) - e1 / 2) (r * r * m1 != 2 ^ (2 * k)), Exc.none)

/-- floor(ln 2 × 2^160). -/
def ln2Fix : Nat := 1013035739299659071135698605846798551586536899366

/-- Σ x^n / n! in fixed point with 160 fraction bits, from term n on. -/
def expSeries (x : Nat) : Nat → Nat → Nat → Nat
  | 0, _, acc => acc
  | k + 1, term, acc => expSeries x k ((term * x) / (2 ^ 160 * (61 - (k + 1)))) (acc + term)

/-- 2^a (R332, R333): exact for an integer a; otherwise irrational, carried to 160 bits. -/
def Exact.exp2 (x : Exact) : Exact × Exc :=
  match x with
  | .nan s => (.nan false, if s then Exc.nv else Exc.none)
  | .inf n => (if n then .fin false 0 0 false else .inf false, Exc.none)
  | .fin n m e _ =>
    if m = 0 then (.fin false 1 0 false, Exc.none)
    else if 12 < e + (bitLen m : Int) then (.fin false 1 (if n then -2000 else 2000) false, Exc.none)
    else
      let fx : Nat := shiftN m (e + 160)
      let whole := (e ≥ 0) || (m % 2 ^ (-e).toNat == 0)
      let i : Int := if n then -((fx / 2 ^ 160 : Nat) : Int) else ((fx / 2 ^ 160 : Nat) : Int)
      if whole then (.fin false 1 i false, Exc.none)
      else
        let fr := fx % 2 ^ 160
        let up := if n then (if fr = 0 then 2 ^ 160 - 1 else 2 ^ 160 - fr) else fr
        let i1 := if n then i - 1 else i
        let r := expSeries (up * ln2Fix / 2 ^ 160) 60 (2 ^ 160) 0
        (.fin false r (i1 - 160) true, Exc.none)

/-- Fraction bits of log2 of y / 2^220 in [1, 2), by repeated squaring (log entry 10, PRESUMED). -/
def log2Bits : Nat → Nat → Nat → Nat
  | 0, _, acc => acc
  | k + 1, y, acc =>
    let z := y * y / 2 ^ 220
    if 2 ^ 221 ≤ z then log2Bits k (z / 2) (2 * acc + 1) else log2Bits k z (2 * acc)

/-- log2 a (R332, R333): exact for a power of two; otherwise irrational, carried to 100 fraction bits. -/
def Exact.log2 (x : Exact) : Exact × Exc :=
  match x with
  | .nan s => (.nan false, if s then Exc.nv else Exc.none)
  | .inf n => if n then (.nan false, Exc.nv) else (.inf false, Exc.none)
  | .fin n m e _ =>
    if m = 0 then (.inf true, Exc.dz)
    else if n then (.nan false, Exc.nv)
    else
      let l := m.log2
      let lead : Int := e + (l : Int)
      if m = 2 ^ l then (Exact.ofInt lead, Exc.none)
      else
        let fr := log2Bits 100 (m <<< (220 - l)) 0
        let v : Int := lead * 2 ^ 100 + (fr : Int)
        if v < 0 then (.fin true (-v - 1).toNat (-100) true, Exc.none) else (.fin false v.toNat (-100) true, Exc.none)

/-- a × 2^n (R338); beyond ±2,000 the rounded result no longer changes. -/
def Exact.scale (x : Exact) (n : Int) : Exact :=
  match x with
  | .fin s m e k => .fin s m (e + max (-2000) (min 2000 n)) k
  | x => x

/-- Round a magnitude to an integer in a mode; true when it was one already. -/
def roundInt (rm : RM) (neg : Bool) (m : Nat) (e : Int) : Nat × Bool :=
  if 0 ≤ e then (m <<< e.toNat, true)
  else
    let k := (-e).toNat
    let far := bitLen m + 2 < k
    let v := if far then 0 else m >>> k
    let f : Frac :=
      if m = 0 then .exact
      else if far then .below
      else
        let rem := m % 2 ^ k
        if rem = 0 then .exact else if rem < 2 ^ (k - 1) then .below else if rem = 2 ^ (k - 1) then .half else .above
    (pickCode rm neg v f, f == .exact)

/-- rint (R333): the integral value in the mode, keeping the sign when it rounds to zero; NX when it changed. -/
def Exact.rint (rm : RM) (x : Exact) : Exact × Exc :=
  match x with
  | .nan s => (.nan false, if s then Exc.nv else Exc.none)
  | .inf n => (.inf n, Exc.none)
  | .fin n m e _ =>
    let r := roundInt rm n m e
    (.fin n r.1 0 false, if r.2 then Exc.none else Exc.nx)

/-- Conversion to an integer range (R146). -/
def Exact.toInt (rm : RM) (lo hi : Int) (x : Exact) : Int × Exc :=
  match x with
  | .nan _ => (0, Exc.nv)
  | .inf n => (if n then lo else hi, Exc.nv)
  | .fin n m e _ =>
    if 200 < e + (bitLen m : Int) then (if m = 0 then (0, Exc.none) else (if n then lo else hi, Exc.nv))
    else
      let r := roundInt rm n m e
      let v : Int := if n then -(r.1 : Int) else (r.1 : Int)
      if v < lo then (lo, Exc.nv) else if hi < v then (hi, Exc.nv) else (v, if r.2 then Exc.none else Exc.nx)

/-- Value order of exact finite or infinite values, −0 equal to +0; none when unordered. -/
def Exact.cmp (x y : Exact) : Option Ordering :=
  let val (neg : Bool) (m : Nat) (e : Int) (g : Int) : Int :=
    let u : Int := (m <<< (e - g).toNat : Nat)
    if neg then -u else u
  match x, y with
  | .nan _, _ => none
  | _, .nan _ => none
  | .inf a, .inf b => some (if a == b then .eq else if a then .lt else .gt)
  | .inf a, _ => some (if a then .lt else .gt)
  | _, .inf b => some (if b then .gt else .lt)
  | .fin a m e _, .fin b n f _ =>
    let g := min e f
    some (compare (val a m e g) (val b n f g))

def Exact.negative : Exact → Bool
  | .nan _ => false
  | .inf n => n
  | .fin n _ _ _ => n

/-- minimumNumber and maximumNumber pick an operand: true for the second (R94, R334). −0 is less than +0. -/
def pickSecond (isMax : Bool) (x y : Exact) : Bool :=
  match Exact.cmp x y with
  | none => x.isNan
  | some .eq => if isMax then x.negative && !y.negative else !x.negative && y.negative
  | some .lt => isMax
  | some .gt => !isMax

end Sys2Proof.Machine
end

