-- ==== Sys2Proof/Machine/Lane.lean ====
section
/-!
DEFINITION. What the lane-arithmetic families share (spec/18 R320 to R322): operands with the width, channel tag and format of
their type, and the shapes of one, two and three sources.
-/
namespace Sys2Proof
open Machine

/-- Width in bits. -/
def ITy.bits (t : ITy) : Nat := if t.wide then 64 else 32

/-- A value read by its type (R323). -/
def ITy.read (t : ITy) (v : Double) : Int :=
  match t with
  | .i32 => (v.extractLsb' 0 32).toInt
  | .n32 => (v.extractLsb' 0 32).toNat
  | .i64 => v.toInt
  | .n64 => v.toNat

/-- The pattern of an integer modulo 2^w. -/
def ITy.pat (t : ITy) (v : Int) : Double :=
  if t.wide then BitVec.ofInt 64 v else (BitVec.ofInt 32 v).setWidth 64

/-- The range of a type. -/
def ITy.lo (t : ITy) : Int := if t.signed then -((2 ^ (t.bits - 1) : Nat) : Int) else 0
def ITy.hi (t : ITy) : Int := if t.signed then ((2 ^ (t.bits - 1) : Nat) : Int) - 1 else ((2 ^ t.bits : Nat) : Int) - 1

/-- The tag that a type's tokens carry (R119, R279). -/
def Ty.tag : Ty → BitVec 3
  | .f32 => 1
  | .bf16 => 2
  | .b8 _ => 3
  | .q8 _ => 4
  | _ => 0

def Ty.fmt : Ty → Option B8
  | .b8 f => some f
  | _ => none

end Sys2Proof

namespace Sys2Proof.Machine

/-- Operands by type. -/
def iOpd (t : ITy) (o : Opd) : Operand := { o := o, wide := t.wide }
def tOpd (t : Ty) (o : Opd) : Operand := { o := o, wide := t.wide, tag := t.tag, fmt := t.fmt }
def wOpd (o : Opd) : Operand := { o := o }
def dOpd (o : Opd) : Operand := { o := o, wide := true }
def fOpd (o : Opd) : Operand := { o := o, tag := 1 }

/-- Shapes of the effect: one, two and three sources without flags. -/
def eff1 (f : Double → Double) : List Double → Double × Exc
  | [a] => (f a, Exc.none)
  | _ => (0, Exc.none)

def eff2 (f : Double → Double → Double) : List Double → Double × Exc
  | [a, b] => (f a b, Exc.none)
  | _ => (0, Exc.none)

def eff3 (f : Double → Double → Double → Double) : List Double → Double × Exc
  | [a, b, c] => (f a b c, Exc.none)
  | _ => (0, Exc.none)

/-- The same with flags. -/
def effx1 (f : Double → Double × Exc) : List Double → Double × Exc
  | [a] => f a
  | _ => (0, Exc.none)

def effx2 (f : Double → Double → Double × Exc) : List Double → Double × Exc
  | [a, b] => f a b
  | _ => (0, Exc.none)

def effx3 (f : Double → Double → Double → Double × Exc) : List Double → Double × Exc
  | [a, b, c] => f a b c
  | _ => (0, Exc.none)

/-- The low word of an operand's value. -/
def loWord (v : Double) : Word := v.extractLsb' 0 32

/-- A 32-bit result as an operand's value. -/
def ofWord (w : Word) : Double := w.setWidth 64

end Sys2Proof.Machine
end

