-- ==== Sys2Proof/Machine/IntArith.lean ====
section
/-!
DEFINITION. Integer arithmetic, OPC 0x01 (spec/18 R323 to R325).
-/
namespace Sys2Proof.Machine

/-- Clamp to a range. -/
def clampInt (lo hi v : Int) : Int := if v < lo then lo else if hi < v then hi else v

/-- The division table of R324: quotient and remainder. -/
def divVal (a b : Int) : Int := if b = 0 then -1 else Int.tdiv a b
def remVal (a b : Int) : Int := if b = 0 then a else Int.tmod a b

/-- Element k of an 8-bit quad. -/
def quadElem (uns : Bool) (v : Word) (k : Nat) : Int :=
  let b := v.extractLsb' (8 * k) 8
  if uns then (b.toNat : Int) else b.toInt

/-- R325. -/
def dot4Val (uns : Bool) (a b c : Word) : Word :=
  BitVec.ofInt 32 (c.toInt + quadElem uns a 0 * quadElem uns b 0 + quadElem uns a 1 * quadElem uns b 1 +
    quadElem uns a 2 * quadElem uns b 2 + quadElem uns a 3 * quadElem uns b 3)

/-- A two-source integer instruction on exact values read by the type. -/
def int2 (g : Guard) (ty : ITy) (d a b : Opd) (f : Int → Int → Int) (s : State) : Host.Outcome State Fault Refusal :=
  laneExec g { srcs := [iOpd ty a, iOpd ty b], dst := some (iOpd ty d),
               f := eff2 (fun x y => ty.pat (f (ty.read x) (ty.read y))) } s

/-- The same, with a late result (R322). -/
def int2Late (g : Guard) (ty : ITy) (d a b : Opd) (f : Int → Int → Int) (s : State) : Host.Outcome State Fault Refusal :=
  laneExec g { srcs := [iOpd ty a, iOpd ty b], dst := some (iOpd ty d), late := true,
               f := eff2 (fun x y => ty.pat (f (ty.read x) (ty.read y))) } s

def int1 (g : Guard) (ty : ITy) (d a : Opd) (f : Int → Int) (s : State) : Host.Outcome State Fault Refusal :=
  laneExec g { srcs := [iOpd ty a], dst := some (iOpd ty d), f := eff1 (fun x => ty.pat (f (ty.read x))) } s

/-- add (R323). -/
def execAddInt (g : Guard) (ty : ITy) (d a b : Opd) (s : State) : Host.Outcome State Fault Refusal :=
  int2 g ty d a b (fun x y => x + y) s

/-- sub (R323). -/
def execSubInt (g : Guard) (ty : ITy) (d a b : Opd) (s : State) : Host.Outcome State Fault Refusal :=
  int2 g ty d a b (fun x y => x - y) s

/-- mul (R323). -/
def execMulInt (g : Guard) (ty : ITy) (d a b : Opd) (s : State) : Host.Outcome State Fault Refusal :=
  int2 g ty d a b (fun x y => x * y) s

/-- mulhi (R323): the high half of the exact product. -/
def execMulhi (g : Guard) (ty : ITy) (d a b : Opd) (s : State) : Host.Outcome State Fault Refusal :=
  int2 g ty d a b (fun x y => Int.fdiv (x * y) ((2 ^ ty.bits : Nat) : Int)) s

/-- mad (R323). -/
def execMad (g : Guard) (ty : ITy) (d a b c : Opd) (s : State) : Host.Outcome State Fault Refusal :=
  laneExec g { srcs := [iOpd ty a, iOpd ty b, iOpd ty c], dst := some (iOpd ty d),
               f := eff3 (fun x y z => ty.pat (ty.read x * ty.read y + ty.read z)) } s

/-- div (R323, R324); late. -/
def execDivInt (g : Guard) (ty : ITy) (d a b : Opd) (s : State) : Host.Outcome State Fault Refusal :=
  int2Late g ty d a b divVal s

/-- rem (R323, R324); late. -/
def execRemInt (g : Guard) (ty : ITy) (d a b : Opd) (s : State) : Host.Outcome State Fault Refusal :=
  int2Late g ty d a b remVal s

/-- min (R323). -/
def execMinInt (g : Guard) (ty : ITy) (d a b : Opd) (s : State) : Host.Outcome State Fault Refusal :=
  int2 g ty d a b (fun x y => if y < x then y else x) s

/-- max (R323). -/
def execMaxInt (g : Guard) (ty : ITy) (d a b : Opd) (s : State) : Host.Outcome State Fault Refusal :=
  int2 g ty d a b (fun x y => if x < y then y else x) s

/-- abs (R323); the most negative value returns itself. -/
def execAbsInt (g : Guard) (ty : ITy) (d a : Opd) (s : State) : Host.Outcome State Fault Refusal :=
  int1 g ty d a (fun x => if x < 0 then -x else x) s

/-- neg (R323). -/
def execNegInt (g : Guard) (ty : ITy) (d a : Opd) (s : State) : Host.Outcome State Fault Refusal :=
  int1 g ty d a (fun x => -x) s

/-- adds (R323): clamped to the range of the type. -/
def execAdds (g : Guard) (ty : ITy) (d a b : Opd) (s : State) : Host.Outcome State Fault Refusal :=
  int2 g ty d a b (fun x y => clampInt ty.lo ty.hi (x + y)) s

/-- subs (R323): clamped to the range of the type. -/
def execSubs (g : Guard) (ty : ITy) (d a b : Opd) (s : State) : Host.Outcome State Fault Refusal :=
  int2 g ty d a b (fun x y => clampInt ty.lo ty.hi (x - y)) s

/-- dot4 (R325): quads of tag 100, the sum of tag 000. -/
def execDot4Int (g : Guard) (uns : Bool) (d a b c : Opd) (s : State) : Host.Outcome State Fault Refusal :=
  laneExec g { srcs := [{ o := a, tag := 4 }, { o := b, tag := 4 }, wOpd c], dst := some (wOpd d),
               f := eff3 (fun x y z => ofWord (dot4Val uns (loWord x) (loWord y) (loWord z))) } s

end Sys2Proof.Machine
end

