-- ==== Sys2Proof/Machine/BitOps.lean ====
section
/-!
DEFINITION. Bit operations, OPC 0x02 (spec/18 R326, R327).
-/
namespace Sys2Proof.Machine

/-- Low w bits of a 64-bit value, w being 32 or 64. -/
def lowBits (ty : ITy) (v : Double) : Double := if ty.wide then v else (v.extractLsb' 0 32).setWidth 64

/-- A shift count: the low 32 bits of B modulo w (R326). -/
def shiftCount (ty : ITy) (b : Double) : Nat := (b.extractLsb' 0 32).toNat % ty.bits

def shlVal (ty : ITy) (a : Double) (n : Nat) : Double := lowBits ty (lowBits ty a <<< n)
def shrVal (ty : ITy) (a : Double) (n : Nat) : Double := lowBits ty a >>> n

/-- Copies of bit w − 1 enter, whatever the type. -/
def sraVal (ty : ITy) (a : Double) (n : Nat) : Double :=
  if ty.wide then a.sshiftRight n else ((a.extractLsb' 0 32).sshiftRight n).setWidth 64

def rotlVal (ty : ITy) (a : Double) (n : Nat) : Double :=
  let x := lowBits ty a
  lowBits ty ((x <<< n) ||| (x >>> (ty.bits - n)))

/-- Number of 1 bits among the lowest n bits. -/
def popCount (v : Nat) : Nat → Nat
  | 0 => 0
  | n + 1 => (if v.testBit n then 1 else 0) + popCount v n

/-- Bits 0 to n − 1 reversed. -/
def brevNat (v w : Nat) : Nat → Nat
  | 0 => 0
  | n + 1 => (if v.testBit n then 2 ^ (w - 1 - n) else 0) + brevNat v w n

/-- Zero bits above the highest 1 bit. -/
def clzNat (w v : Nat) : Nat := w - bitLen v

/-- Zero bits below the lowest 1 bit, among n bits from bit i. -/
def ctzNat (v : Nat) : Nat → Nat → Nat
  | 0, _ => 0
  | n + 1, i => if v.testBit i then 0 else 1 + ctzNat v n (i + 1)

/-- bfe (R327). -/
def bfeVal (ty : ITy) (a b : Double) : Double :=
  let pos := (b.extractLsb' 0 8).toNat
  let len := min (b.extractLsb' 8 8).toNat ty.bits
  let f : Int := Int.fdiv (ty.read a) ((2 ^ pos : Nat) : Int) % ((2 ^ len : Nat) : Int)
  if ty.signed && len != 0 && decide (((2 ^ (len - 1) : Nat) : Int) ≤ f) then ty.pat (f - ((2 ^ len : Nat) : Int)) else ty.pat f

/-- bfi (R327): bits of A into C. -/
def bfiVal (ty : ITy) (a b c : Double) : Double :=
  let pos := (b.extractLsb' 0 8).toNat
  let len := min (b.extractLsb' 8 8).toNat ty.bits
  let mask : Double := BitVec.ofNat 64 ((2 ^ len - 1) * 2 ^ pos)
  lowBits ty ((lowBits ty c &&& ~~~mask) ||| ((lowBits ty a <<< pos) &&& mask))

/-- A two-source bit operation on w-bit patterns. -/
def bit2 (g : Guard) (ty : ITy) (d a b : Opd) (f : Double → Double → Double) (s : State) : Host.Outcome State Fault Refusal :=
  laneExec g { srcs := [iOpd ty a, iOpd ty b], dst := some (iOpd ty d), f := eff2 (fun x y => lowBits ty (f x y)) } s

def bit1 (g : Guard) (ty : ITy) (d a : Opd) (f : Double → Double) (s : State) : Host.Outcome State Fault Refusal :=
  laneExec g { srcs := [iOpd ty a], dst := some (iOpd ty d), f := eff1 (fun x => lowBits ty (f (lowBits ty x))) } s

/-- and (R326). -/
def execAndB (g : Guard) (ty : ITy) (d a b : Opd) (s : State) : Host.Outcome State Fault Refusal :=
  bit2 g ty d a b (fun x y => x &&& y) s

/-- or (R326). -/
def execOrB (g : Guard) (ty : ITy) (d a b : Opd) (s : State) : Host.Outcome State Fault Refusal :=
  bit2 g ty d a b (fun x y => x ||| y) s

/-- xor (R326). -/
def execXorB (g : Guard) (ty : ITy) (d a b : Opd) (s : State) : Host.Outcome State Fault Refusal :=
  bit2 g ty d a b (fun x y => x ^^^ y) s

/-- not (R326). -/
def execNotB (g : Guard) (ty : ITy) (d a : Opd) (s : State) : Host.Outcome State Fault Refusal :=
  bit1 g ty d a (fun x => ~~~x) s

/-- andn (R326): a AND NOT b. -/
def execAndn (g : Guard) (ty : ITy) (d a b : Opd) (s : State) : Host.Outcome State Fault Refusal :=
  bit2 g ty d a b (fun x y => x &&& ~~~y) s

/-- shl (R326). -/
def execShl (g : Guard) (ty : ITy) (d a b : Opd) (s : State) : Host.Outcome State Fault Refusal :=
  bit2 g ty d a b (fun x y => shlVal ty x (shiftCount ty y)) s

/-- shr (R326). -/
def execShr (g : Guard) (ty : ITy) (d a b : Opd) (s : State) : Host.Outcome State Fault Refusal :=
  bit2 g ty d a b (fun x y => shrVal ty x (shiftCount ty y)) s

/-- sra (R326). -/
def execSra (g : Guard) (ty : ITy) (d a b : Opd) (s : State) : Host.Outcome State Fault Refusal :=
  bit2 g ty d a b (fun x y => sraVal ty x (shiftCount ty y)) s

/-- rotl (R326). -/
def execRotl (g : Guard) (ty : ITy) (d a b : Opd) (s : State) : Host.Outcome State Fault Refusal :=
  bit2 g ty d a b (fun x y => rotlVal ty x (shiftCount ty y)) s

/-- popc (R326). -/
def execPopc (g : Guard) (ty : ITy) (d a : Opd) (s : State) : Host.Outcome State Fault Refusal :=
  bit1 g ty d a (fun x => BitVec.ofNat 64 (popCount x.toNat ty.bits)) s

/-- clz (R326). -/
def execClz (g : Guard) (ty : ITy) (d a : Opd) (s : State) : Host.Outcome State Fault Refusal :=
  bit1 g ty d a (fun x => BitVec.ofNat 64 (clzNat ty.bits x.toNat)) s

/-- ctz (R326). -/
def execCtz (g : Guard) (ty : ITy) (d a : Opd) (s : State) : Host.Outcome State Fault Refusal :=
  bit1 g ty d a (fun x => BitVec.ofNat 64 (ctzNat x.toNat ty.bits 0)) s

/-- brev (R326). -/
def execBrev (g : Guard) (ty : ITy) (d a : Opd) (s : State) : Host.Outcome State Fault Refusal :=
  bit1 g ty d a (fun x => BitVec.ofNat 64 (brevNat x.toNat ty.bits ty.bits)) s

/-- bfe (R327): the control word is read as 32 bits in every form. -/
def execBfe (g : Guard) (ty : ITy) (d a b : Opd) (s : State) : Host.Outcome State Fault Refusal :=
  laneExec g { srcs := [iOpd ty a, wOpd b], dst := some (iOpd ty d), f := eff2 (bfeVal ty) } s

/-- bfi (R327). -/
def execBfi (g : Guard) (ty : ITy) (d a b c : Opd) (s : State) : Host.Outcome State Fault Refusal :=
  laneExec g { srcs := [iOpd ty a, wOpd b, iOpd ty c], dst := some (iOpd ty d), f := eff3 (bfiVal ty) } s

end Sys2Proof.Machine
end

