-- ==== Sys2Proof/Machine/ImmForms.lean ====
section
/-!
DEFINITION. Immediate forms, address and width forms, moves and flag clearing: OPC 0x03, 0x04, 0x05 (spec/18 R328 to
R331), and the immediate compares, OPC 0x1D (R341).
-/
namespace Sys2Proof.Machine

/-- The width of an immediate form follows D (R280). -/
def immTy (d : Opd) : ITy :=
  match d with
  | .s _ => .i64
  | _ => .i32

/-- The immediate as an operand: its 32 low bits, or sign-extended to 64. -/
def immVal (ty : ITy) (imm : BitVec 33) : Double :=
  if ty.wide then imm.signExtend 64 else (imm.extractLsb' 0 32).setWidth 64

/-- A shift count taken from the exact immediate modulo w (R328). -/
def immCount (ty : ITy) (imm : BitVec 33) : Nat := (imm.toInt % (ty.bits : Int)).toNat

/-- One source and an immediate. -/
def immOp (g : Guard) (d a : Opd) (f : ITy → Double → Double) (s : State) : Host.Outcome State Fault Refusal :=
  laneExec g { srcs := [iOpd (immTy d) a], dst := some (iOpd (immTy d) d),
               f := eff1 (fun x => lowBits (immTy d) (f (immTy d) x)) } s

/-- Arithmetic on exact values with an immediate. -/
def immInt (g : Guard) (d a : Opd) (imm : BitVec 33) (f : Int → Int → Int) (s : State) : Host.Outcome State Fault Refusal :=
  immOp g d a (fun t x => t.pat (f (t.read x) (t.read (immVal t imm)))) s

/-- add immediate (R328). -/
def execAddImm (g : Guard) (d a : Opd) (imm : BitVec 33) (s : State) : Host.Outcome State Fault Refusal :=
  immInt g d a imm (fun x y => x + y) s

/-- mul immediate (R328). -/
def execMulImm (g : Guard) (d a : Opd) (imm : BitVec 33) (s : State) : Host.Outcome State Fault Refusal :=
  immInt g d a imm (fun x y => x * y) s

/-- and immediate (R328). -/
def execAndImm (g : Guard) (d a : Opd) (imm : BitVec 33) (s : State) : Host.Outcome State Fault Refusal :=
  immOp g d a (fun t x => x &&& immVal t imm) s

/-- or immediate (R328). -/
def execOrImm (g : Guard) (d a : Opd) (imm : BitVec 33) (s : State) : Host.Outcome State Fault Refusal :=
  immOp g d a (fun t x => x ||| immVal t imm) s

/-- xor immediate (R328). -/
def execXorImm (g : Guard) (d a : Opd) (imm : BitVec 33) (s : State) : Host.Outcome State Fault Refusal :=
  immOp g d a (fun t x => x ^^^ immVal t imm) s

/-- shl immediate (R328). -/
def execShlImm (g : Guard) (d a : Opd) (imm : BitVec 33) (s : State) : Host.Outcome State Fault Refusal :=
  immOp g d a (fun t x => shlVal t x (immCount t imm)) s

/-- shr immediate (R328). -/
def execShrImm (g : Guard) (d a : Opd) (imm : BitVec 33) (s : State) : Host.Outcome State Fault Refusal :=
  immOp g d a (fun t x => shrVal t x (immCount t imm)) s

/-- sra immediate (R328). -/
def execSraImm (g : Guard) (d a : Opd) (imm : BitVec 33) (s : State) : Host.Outcome State Fault Refusal :=
  immOp g d a (fun t x => sraVal t x (immCount t imm)) s

/-- min immediate (R328): signed. -/
def execMinImm (g : Guard) (d a : Opd) (imm : BitVec 33) (s : State) : Host.Outcome State Fault Refusal :=
  immInt g d a imm (fun x y => if y < x then y else x) s

/-- max immediate (R328): signed. -/
def execMaxImm (g : Guard) (d a : Opd) (imm : BitVec 33) (s : State) : Host.Outcome State Fault Refusal :=
  immInt g d a imm (fun x y => if x < y then y else x) s

/-- mov immediate (R328). -/
def execMovImm (g : Guard) (d : Opd) (imm : BitVec 33) (s : State) : Host.Outcome State Fault Refusal :=
  laneExec g { srcs := [], dst := some (iOpd (immTy d) d), f := fun _ => (immVal (immTy d) imm, Exc.none) } s

/-- movhi (R328): the immediate above the low word of A. -/
def execMovhi (g : Guard) (d : Reg) (a : Opd) (imm : BitVec 33) (s : State) : Host.Outcome State Fault Refusal :=
  laneExec g { srcs := [wOpd a], dst := some (dOpd d.opd), f := eff1 (fun x => imm.extractLsb' 0 32 ++ loWord x) } s

/-- lea (R329): b signed or unsigned, scaled. -/
def leaVal (uns : Bool) (sc : BitVec 2) (a b : Double) : Double :=
  let i : Int := if uns then ((loWord b).toNat : Int) else (loWord b).toInt
  a + BitVec.ofInt 64 (i * ((2 ^ sc.toNat : Nat) : Int))

def execLea (g : Guard) (uns : Bool) (sc : BitVec 2) (d : Reg) (a b : Opd) (s : State) : Host.Outcome State Fault Refusal :=
  laneExec g { srcs := [dOpd a, wOpd b], dst := some (dOpd d.opd), f := eff2 (leaVal uns sc) } s

/-- ext.lo (R329). -/
def execExtLo (g : Guard) (d a : Opd) (s : State) : Host.Outcome State Fault Refusal :=
  laneExec g { srcs := [dOpd a], dst := some (wOpd d), f := eff1 (fun x => ofWord (loWord x)) } s

/-- ext.hi (R329). -/
def execExtHi (g : Guard) (d a : Opd) (s : State) : Host.Outcome State Fault Refusal :=
  laneExec g { srcs := [dOpd a], dst := some (wOpd d), f := eff1 (fun x => ofWord (x.extractLsb' 32 32)) } s

/-- pack64 (R329): b above a. -/
def execPack64 (g : Guard) (d : Reg) (a b : Opd) (s : State) : Host.Outcome State Fault Refusal :=
  laneExec g { srcs := [wOpd a, wOpd b], dst := some (dOpd d.opd), f := eff2 (fun x y => loWord y ++ loWord x) } s

/-- nop (R330). -/
def execNop (g : Guard) (s : State) : Host.Outcome State Fault Refusal :=
  laneExec g { srcs := [], dst := none, f := fun _ => (0, Exc.none) } s

/-- mov (R330): the bit pattern. -/
def execMov (g : Guard) (ty : Ty) (d a : Opd) (s : State) : Host.Outcome State Fault Refusal :=
  laneExec g { srcs := [tOpd ty a], dst := some (tOpd ty d), f := eff1 (fun x => x) } s

/-- sel (R330): both sources are popped, whichever is selected; C is exempt from the width rule. -/
def execSel (g : Guard) (ty : Ty) (d a b c : Opd) (s : State) : Host.Outcome State Fault Refusal :=
  laneExec g { srcs := [tOpd ty a, tOpd ty b, wOpd c], dst := some (tOpd ty d),
               f := eff3 (fun x y z => if z == 0 then y else x) } s

/-- ffclr (R331) for one thread: a pending ff parks it; the late flags come before the clear. -/
def serveFfclr (mask : BitVec 5) (c : Ctx) (s : State) : Serve :=
  match s.set? c.tile c.set with
  | none => .gone s
  | some v =>
    let pend := v.pendingOn c.tid [.ff]
    if !pend.isEmpty then .park s (.groups pend)
    else .ok (s.modThread c.tile c.set c.tid (fun th => th.clearFlags mask)) none

def execFfclr (g : Guard) (mask : BitVec 5) (s : State) : Host.Outcome State Fault Refusal :=
  withPass s g chkNone [] (serveFfclr mask)

/-- The comparison of R341 on exact values. -/
def cmpImmVal (cond : CondImm) (a : Word) (imm : BitVec 33) : Bool :=
  let i := imm.toInt
  let x := a.toInt
  let u : Int := a.toNat
  match cond with
  | .eq => x = i
  | .ne => x ≠ i
  | .lt => x < i
  | .le => x ≤ i
  | .gt => i < x
  | .ge => i ≤ x
  | .ltu => u < i
  | .leu => u ≤ i
  | .gtu => i < u
  | .geu => i ≤ u

/-- Immediate compare (R341). -/
def execCmpImm (g : Guard) (cond : CondImm) (d a : Opd) (imm : BitVec 33) (s : State) : Host.Outcome State Fault Refusal :=
  laneExec g { srcs := [wOpd a], dst := some (wOpd d), f := eff1 (fun x => boolWord (cmpImmVal cond (loWord x) imm)) } s

/-- p.and (R342). -/
def execPAnd (g : Guard) (d a b : Opd) (s : State) : Host.Outcome State Fault Refusal :=
  laneExec g { srcs := [wOpd a, wOpd b], dst := some (wOpd d), f := eff2 (fun x y => x &&& y) } s

/-- p.or (R342). -/
def execPOr (g : Guard) (d a b : Opd) (s : State) : Host.Outcome State Fault Refusal :=
  laneExec g { srcs := [wOpd a, wOpd b], dst := some (wOpd d), f := eff2 (fun x y => x ||| y) } s

/-- p.xor (R342). -/
def execPXor (g : Guard) (d a b : Opd) (s : State) : Host.Outcome State Fault Refusal :=
  laneExec g { srcs := [wOpd a, wOpd b], dst := some (wOpd d), f := eff2 (fun x y => x ^^^ y) } s

/-- p.not (R342). -/
def execPNot (g : Guard) (d a : Opd) (s : State) : Host.Outcome State Fault Refusal :=
  laneExec g { srcs := [wOpd a], dst := some (wOpd d), f := eff1 (fun x => x ^^^ 1) } s

/-- p.andn (R342). -/
def execPAndn (g : Guard) (d a b : Opd) (s : State) : Host.Outcome State Fault Refusal :=
  laneExec g { srcs := [wOpd a, wOpd b], dst := some (wOpd d), f := eff2 (fun x y => x &&& (y ^^^ 1)) } s

/-- p.mov (R342). -/
def execPMov (g : Guard) (d a : Opd) (s : State) : Host.Outcome State Fault Refusal :=
  laneExec g { srcs := [wOpd a], dst := some (wOpd d), f := eff1 (fun x => x) } s

end Sys2Proof.Machine
end

