-- ==== Sys2Proof/Machine/FpLane.lean ====
section
/-!
DEFINITION. FP32 arithmetic, OPC 0x10 (spec/18 R332 to R334), and the register compares, OPC 0x1C (R340).
-/
namespace Sys2Proof.Machine

/-- An f32 operand's exact value. -/
def fval (v : Double) : Exact := readF32 (loWord v)

/-- Round an exact result to f32, with the flags raised on the way. -/
def fres (rm : RM) (r : Exact × Exc) : Double × Exc :=
  let v := roundF32 rm r.1
  (ofWord v.1, v.2 ||| r.2)

/-- An f32 instruction of one, two or three sources. -/
def fp1 (g : Guard) (sf : Bool) (d a : Opd) (f : Double → Double × Exc) (s : State) : Host.Outcome State Fault Refusal :=
  laneExec g { srcs := [fOpd a], dst := some (fOpd d), sf := sf, f := effx1 f } s

def fp1Late (g : Guard) (sf : Bool) (d a : Opd) (f : Double → Double × Exc) (s : State) : Host.Outcome State Fault Refusal :=
  laneExec g { srcs := [fOpd a], dst := some (fOpd d), late := true, flags := true, sf := sf, f := effx1 f } s

def fp2 (g : Guard) (sf : Bool) (d a b : Opd) (f : Double → Double → Double × Exc) (s : State) : Host.Outcome State Fault Refusal :=
  laneExec g { srcs := [fOpd a, fOpd b], dst := some (fOpd d), sf := sf, f := effx2 f } s

def fp3 (g : Guard) (sf : Bool) (d a b c : Opd) (f : Double → Double → Double → Double × Exc) (s : State) :
    Host.Outcome State Fault Refusal :=
  laneExec g { srcs := [fOpd a, fOpd b, fOpd c], dst := some (fOpd d), sf := sf, f := effx3 f } s

def f32Add (rm : RM) (x y : Double) : Double × Exc := fres rm (Exact.add rm (fval x) (fval y))
def f32Sub (rm : RM) (x y : Double) : Double × Exc := fres rm (Exact.add rm (fval x) (fval y).neg)
def f32Mul (rm : RM) (x y : Double) : Double × Exc := fres rm (Exact.mul (fval x) (fval y))
def f32Fma (rm : RM) (x y z : Double) : Double × Exc := fres rm (Exact.fma rm (fval x) (fval y) (fval z))
def f32Fms (rm : RM) (x y z : Double) : Double × Exc := fres rm (Exact.fma rm (fval x) (fval y) (fval z).neg)
def f32Fnma (rm : RM) (x y z : Double) : Double × Exc := fres rm (Exact.fma rm (fval x).neg (fval y) (fval z))
def f32Div (rm : RM) (x y : Double) : Double × Exc := fres rm (Exact.div (fval x) (fval y))
def f32Sqrt (rm : RM) (x : Double) : Double × Exc := fres rm (Exact.sqrt (fval x))
def f32Rcp (x : Double) : Double × Exc := fres .rne (Exact.div (Exact.ofInt 1) (fval x))
def f32Rsqrt (x : Double) : Double × Exc := fres .rne (Exact.rsqrt (fval x))
def f32Exp2 (x : Double) : Double × Exc := fres .rne (Exact.exp2 (fval x))
def f32Log2 (x : Double) : Double × Exc := fres .rne (Exact.log2 (fval x))

/-- rint (R332, R333): the integral value, which an f32 always holds. -/
def f32Rint (rm : RM) (x : Double) : Double × Exc := fres .rne (Exact.rint rm (fval x))

/-- minimumNumber and maximumNumber of f32 bit patterns (R94, R334). -/
def f32Pick (isMax : Bool) (x y : Word) : Word × Exc :=
  let a := readF32 x
  let b := readF32 y
  let nv := if a.isSnan || b.isSnan then Exc.nv else Exc.none
  if a.isNan && b.isNan then (0x7FC00000, nv) else (if pickSecond isMax a b then y else x, nv)

def f32MinMax (isMax : Bool) (x y : Double) : Double × Exc :=
  let r := f32Pick isMax (loWord x) (loWord y)
  (ofWord r.1, r.2)

/-- The class bit of R334. -/
def f32Class (w : Word) : Nat :=
  let neg := w.getLsbD 31
  let e := (w.extractLsb' 23 8).toNat
  let t := (w.extractLsb' 0 23).toNat
  if e = 255 then (if t = 0 then (if neg then 2 else 9) else if t < 2 ^ 22 then 0 else 1)
  else if e = 0 then (if t = 0 then (if neg then 5 else 6) else if neg then 4 else 7)
  else if neg then 3 else 8

/-- add.f32 (R332). -/
def execAddF32 (g : Guard) (sf : Bool) (rm : RM) (d a b : Opd) (s : State) : Host.Outcome State Fault Refusal :=
  fp2 g sf d a b (f32Add rm) s

/-- sub.f32 (R332). -/
def execSubF32 (g : Guard) (sf : Bool) (rm : RM) (d a b : Opd) (s : State) : Host.Outcome State Fault Refusal :=
  fp2 g sf d a b (f32Sub rm) s

/-- mul.f32 (R332). -/
def execMulF32 (g : Guard) (sf : Bool) (rm : RM) (d a b : Opd) (s : State) : Host.Outcome State Fault Refusal :=
  fp2 g sf d a b (f32Mul rm) s

/-- fma.f32 (R332): rounded once. -/
def execFmaF32 (g : Guard) (sf : Bool) (rm : RM) (d a b c : Opd) (s : State) : Host.Outcome State Fault Refusal :=
  fp3 g sf d a b c (f32Fma rm) s

/-- fms.f32 (R332). -/
def execFmsF32 (g : Guard) (sf : Bool) (rm : RM) (d a b c : Opd) (s : State) : Host.Outcome State Fault Refusal :=
  fp3 g sf d a b c (f32Fms rm) s

/-- fnma.f32 (R332). -/
def execFnmaF32 (g : Guard) (sf : Bool) (rm : RM) (d a b c : Opd) (s : State) : Host.Outcome State Fault Refusal :=
  fp3 g sf d a b c (f32Fnma rm) s

/-- min.f32 (R334). -/
def execMinF32 (g : Guard) (sf : Bool) (d a b : Opd) (s : State) : Host.Outcome State Fault Refusal :=
  fp2 g sf d a b (f32MinMax false) s

/-- max.f32 (R334). -/
def execMaxF32 (g : Guard) (sf : Bool) (d a b : Opd) (s : State) : Host.Outcome State Fault Refusal :=
  fp2 g sf d a b (f32MinMax true) s

/-- abs.f32 (R332): bit 31 cleared. -/
def execAbsF32 (g : Guard) (d a : Opd) (s : State) : Host.Outcome State Fault Refusal :=
  fp1 g true d a (fun x => (ofWord (loWord x &&& 0x7FFFFFFF), Exc.none)) s

/-- neg.f32 (R332): bit 31 inverted. -/
def execNegF32 (g : Guard) (d a : Opd) (s : State) : Host.Outcome State Fault Refusal :=
  fp1 g true d a (fun x => (ofWord (loWord x ^^^ 0x80000000), Exc.none)) s

/-- div.f32 (R332, R333); late. -/
def execDivF32 (g : Guard) (sf : Bool) (rm : RM) (d a b : Opd) (s : State) : Host.Outcome State Fault Refusal :=
  laneExec g { srcs := [fOpd a, fOpd b], dst := some (fOpd d), late := true, flags := true, sf := sf, f := effx2 (f32Div rm) } s

/-- sqrt.f32 (R332, R333); late. -/
def execSqrtF32 (g : Guard) (sf : Bool) (rm : RM) (d a : Opd) (s : State) : Host.Outcome State Fault Refusal :=
  fp1Late g sf d a (f32Sqrt rm) s

/-- rcp.f32 (R332, R333); late. -/
def execRcpF32 (g : Guard) (sf : Bool) (d a : Opd) (s : State) : Host.Outcome State Fault Refusal :=
  fp1Late g sf d a f32Rcp s

/-- rsqrt.f32 (R332, R333); late. -/
def execRsqrtF32 (g : Guard) (sf : Bool) (d a : Opd) (s : State) : Host.Outcome State Fault Refusal :=
  fp1Late g sf d a f32Rsqrt s

/-- exp2.f32 (R332, R333); late. -/
def execExp2F32 (g : Guard) (sf : Bool) (d a : Opd) (s : State) : Host.Outcome State Fault Refusal :=
  fp1Late g sf d a f32Exp2 s

/-- log2.f32 (R332, R333); late. -/
def execLog2F32 (g : Guard) (sf : Bool) (d a : Opd) (s : State) : Host.Outcome State Fault Refusal :=
  fp1Late g sf d a f32Log2 s

/-- copysign.f32 (R332): bit 31 taken from b. -/
def execCopysignF32 (g : Guard) (d a b : Opd) (s : State) : Host.Outcome State Fault Refusal :=
  fp2 g true d a b (fun x y => (ofWord ((loWord x &&& 0x7FFFFFFF) ||| (loWord y &&& 0x80000000)), Exc.none)) s

/-- class.f32 (R334): an integer with one bit set; a channel takes tag 000. -/
def execClassF32 (g : Guard) (d a : Opd) (s : State) : Host.Outcome State Fault Refusal :=
  laneExec g { srcs := [fOpd a], dst := some (wOpd d), sf := true,
               f := eff1 (fun x => BitVec.ofNat 64 (2 ^ f32Class (loWord x))) } s

/-- rint.f32 (R332, R333). -/
def execRintF32 (g : Guard) (sf : Bool) (rm : RM) (d a : Opd) (s : State) : Host.Outcome State Fault Refusal :=
  fp1 g sf d a (f32Rint rm) s

/-! ### Compares (R340) -/

/-- A condition on two values in order; none is unordered. -/
def condHolds (c : Cond) (o : Option Ordering) : Bool :=
  match c, o with
  | .eq, some .eq => true
  | .ne, some .eq => false
  | .ne, _ => true
  | .lt, some .lt => true
  | .le, some .lt => true
  | .le, some .eq => true
  | .gt, some .gt => true
  | .ge, some .gt => true
  | .ge, some .eq => true
  | .unord, none => true
  | _, _ => false

/-- lt, le, gt and ge raise NV for a quiet NaN too. -/
def condOrdered : Cond → Bool
  | .lt => true
  | .le => true
  | .gt => true
  | .ge => true
  | _ => false

/-- cmp (R340): integers exactly, f32 with NaN rules. -/
def cmpVal (cond : Cond) (ty : Ty) (x y : Double) : Double × Exc :=
  let int (t : ITy) : Double × Exc := (boolWord (condHolds cond (some (compare (t.read x) (t.read y)))), Exc.none)
  match ty with
  | .i32 => int .i32
  | .n32 => int .n32
  | .i64 => int .i64
  | .n64 => int .n64
  | _ =>
    let a := fval x
    let b := fval y
    let nv := if a.isSnan || b.isSnan || ((a.isNan || b.isNan) && condOrdered cond) then Exc.nv else Exc.none
    (boolWord (condHolds cond (Exact.cmp a b)), nv)

/-- cmp (R340): D is a 32-bit operand of tag 000, whatever the type. -/
def execCmp (g : Guard) (sf : Bool) (cond : Cond) (ty : Ty) (d a b : Opd) (s : State) : Host.Outcome State Fault Refusal :=
  laneExec g { srcs := [tOpd ty a, tOpd ty b], dst := some (wOpd d), sf := sf, f := effx2 (cmpVal cond ty) } s

end Sys2Proof.Machine
end

