-- ==== Sys2Proof/Machine/Hindcast.lean ====
section
/-!
DEFINITION. Hindcast (spec/14 R256 to R260): the log of a region's nondeterministic choices, its records, and replay's
enforcement and divergence.
-/
namespace Sys2Proof.Machine

/-- Records a segment holds, and the address of a tile's segment (R257). -/
def segSize (base : Double) : Nat := 2 ^ ((base.extractLsb' 48 4).toNat + 10)

def segAddr (base : Double) (t : Nat) : Nat :=
  (base.extractLsb' 16 32).toNat * 65536 + t * segSize base * 16 + t * 64

/-- The link channel that a delivery chose, as the log numbers it: which number a channel has is not stated, and is free
(log entry 28, DEDUCED). -/
def linkNumber (n : Nat) : BitVec 8 := (Config.freeWord 0 (2 ^ 40 + n)).extractLsb' 0 8

/-- The CHOICE of a delivery from a converter's window (R256). -/
def Chan.deliveryChoice (c : Chan) (n : Nat) : Double := BitVec.ofNat 64 (c.delivered % 256 * 256) ||| (linkNumber n).setWidth 64

/-- Replay is enforced at a tile (R258). -/
def State.replays (s : State) (t : Nat) : Bool := s.rplMode t == .strict || s.rplMode t == .advisory

/-- The counter of choices made at an element. -/
def hindKey (kind elem : Nat) : Nat := kind * 262144 + elem

def State.hindSeq (s : State) (t kind elem : Nat) : Nat := SMap.get 0 (s.tile t).hind (hindKey kind elem)

/-- Another choice has been made at an element. -/
def State.hindNext (s : State) (t kind elem : Nat) : State :=
  s.putTile t { s.tile t with hind := SMap.put 0 (s.tile t).hind (hindKey kind elem) ((s.hindSeq t kind elem + 1) % 2 ^ 32) }

/-- Double 0 of a log record (R256). -/
def hindWord (kind elem seq : Nat) : Double :=
  BitVec.ofNat 4 kind ++ (0 : BitVec 10) ++ BitVec.ofNat 18 elem ++ BitVec.ofNat 32 seq

/-- Memory gives a line of a segment: its bank is not held (R33), and it is not poisoned (R28). -/
def State.segOk (s : State) (a : Nat) : Bool := !s.bankHeld a && !s.linePoison (a / 64)

/-- Record a choice: `none` while the segment is full, which stalls the element (R257), and while memory does not take the record: none is dropped
(R28, R33; log entry 38, DEDUCED). -/
def State.hindRecord (s : State) (t kind elem : Nat) (choice : Double) : Option State :=
  match s.regionRegs t with
  | none => some s
  | some g =>
    let a := segAddr g.rplbase t
    let wr := s.readPlain a
    let slot := a + 64 + 16 * (wr.toNat % segSize g.rplbase)
    if (wr - s.readPlain (a + 8)).toNat = segSize g.rplbase || !s.segOk a || !s.segOk slot then none
    else
      let s1 := ((s.writePlain slot (hindWord kind elem (s.hindSeq t kind elem))).writePlain (slot + 8) choice).writePlain a (wr + 1)
      some (s1.hindNext t kind elem)

/-- The logged choice that an element's next choice must be, among the records that software has supplied and that memory gives (R28, R33): its
CHOICE. -/
def State.hindLook (s : State) (t kind elem : Nat) : Option Double :=
  match s.regionRegs t with
  | none => none
  | some g =>
    let a := segAddr g.rplbase t
    let n := segSize g.rplbase
    let rd := (s.readPlain (a + 8)).toNat
    let wr := (s.readPlain a).toNat
    let want := hindWord kind elem (s.hindSeq t kind elem)
    if !s.segOk a then none else
    ((List.range (min n (wr - rd))).find? (fun i => s.segOk (a + 64 + 16 * ((rd + i) % n)) &&
      s.readPlain (a + 64 + 16 * ((rd + i) % n)) &&& ~~~(0x0FFC000000000000 : Double) == want)).map (fun i =>
        s.readPlain (a + 64 + 16 * ((rd + i) % n) + 8))

/-- A record of the segment has been consumed: its element has made that choice. -/
def State.hindUsed (s : State) (t : Nat) (w : Double) : Bool :=
  let kind := (w.extractLsb' 60 4).toNat
  let elem := (w.extractLsb' 32 18).toNat
  let d := (BitVec.ofNat 32 (s.hindSeq t kind elem) - w.extractLsb' 0 32).toNat
  decide (0 < d ∧ d < 2 ^ 31)

/-- RD rises past the records consumed (R257). -/
def State.hindRaise (s : State) (t : Nat) (g : SetRegs) : Nat → State
  | 0 => s
  | fuel + 1 =>
    let a := segAddr g.rplbase t
    let rd := s.readPlain (a + 8)
    if s.readPlain a == rd || !s.segOk a || !s.segOk (a + 64 + 16 * (rd.toNat % segSize g.rplbase)) then s
    else if s.hindUsed t (s.readPlain (a + 64 + 16 * (rd.toNat % segSize g.rplbase))) then
      (s.writePlain (a + 8) (rd + 1)).hindRaise t g fuel
    else s

/-- A replayed choice has been made. -/
def State.hindConsume (s : State) (t kind elem : Nat) : State :=
  let s1 := s.hindNext t kind elem
  match s1.regionRegs t with
  | none => s1
  | some g => s1.hindRaise t g (segSize g.rplbase)

/-- The invocation that a record of a set names. -/
def State.setInvoc (s : State) (t o : Nat) : Word := (((s.set? t o).map SetState.eoiInvoc).getD 0).setWidth 32

/-- A divergence (R259): the record, and a halt or the end of enforcement; a strict one stays enforced until the region resumes. `why` is 1
for an identity divergence, 2 for a bound divergence. -/
def State.diverge (s : State) (t o blk kind elem : Nat) (e : Elem) (node invoc : Word) (choice : Double) (why : BitVec 4) : State :=
  let strict := s.rplMode t == .strict
  let f : FaultInfo := { code := Code.replayDiverge, w1 := choice, elem := BitVec.ofNat 48 (s.hindSeq t kind elem), ac := why }
  let s1 := s.tileRecord t (recWord0 f { notice := !strict } t o 0 blk 0) choice (recWord2 node invoc) (recWord3 f)
  match s1.regionOf t with
  | none => s1
  | some r =>
    if strict then (s1.modRegion r (fun x => { x with rplHeld := true })).halt r e ((s1.free 6).extractLsb' 0 8)
    else s1.modRegion r (fun x => { x with rplOff := true, free := true })

/-- A full segment holds a set's choice while recording, which counts in PERTURB (R251, R257). -/
def State.segmentStall (s : State) (t o : Nat) : State := if s.rplMode t == .record then s.perturbed t o else s

/-- A strict divergence holds its element until the region resumes (R259). -/
def State.rplHeld (s : State) (t : Nat) : Bool := (((s.regionOf t).bind s.region?).map Region.rplHeld).getD false

/-- The input end of a mailbox, if the mailboxes are enabled and an active plane binds it. -/
def State.mboxEnd (s : State) (n : Nat) : Option (Nat × Nat) :=
  let t := s.cfg.mbxTile.toNat
  let e := (s.cfg.mbxEnd.extractLsb' (8 * n) 8).toNat
  if s.cfg.mbxEn && (s.inChan t e).isSome then some (t, e) else none

/-- The mailbox's end belongs to a tile that a pre-emption has saved: what arrives for it is held (R232). -/
def State.mboxSaved (s : State) (n : Nat) : Bool :=
  let e := (s.cfg.mbxEnd.extractLsb' (8 * n) 8).toNat
  s.cfg.mbxEn && s.saves.any (fun v => v.2.chans.any (fun c => c.2.cons == .tile s.cfg.mbxTile.toNat e))

/-- Writes held for a mailbox end that no active plane binds any more are dropped, with a fabric error to their writers (R264). -/
def State.dropUnbound (s : State) : State :=
  { s with mboxHeld := s.mboxHeld.filter (fun h => (s.mboxEnd h.n.toNat).isSome || s.mboxSaved h.n.toNat) }

/-- What a choosing element may do (R256 to R258): wait; diverge; or make a choice, already logged or consumed. `choice`
gives the CHOICE of each option, and `able` the options that are possible now. -/
inductive Choosing where
  | wait
  | diverge (choice : Double)
  | take (s : State)

/-- Make one choice under the tile's mode: recorded, or held to the log. -/
def State.chooseAs (s : State) (t kind elem : Nat) (choice : Double) : Choosing :=
  match s.rplMode t with
  | .off => .take s
  | .record =>
    match s.hindRecord t kind elem choice with
    | none => .wait
    | some s1 => .take s1
  | _ =>
    match s.hindLook t kind elem with
    | none => .wait
    | some c => if c == choice then .take (s.hindConsume t kind elem) else .wait

end Sys2Proof.Machine
end

