-- ==== Sys2Proof/Machine/Ecdsa.lean ====
section
/-!
DEFINITION. SHA-384 and ECDSA on the Brainpool 384-bit curve (spec/04 R68, spec/15 R266, R268, R271). The spec names the standards and fixes
the order of r and s and of their bytes; the functions are the published ones (FIPS 180-4, FIPS 186-5, RFC 5639 brainpoolP384r1: log entry 3).
-/
namespace Sys2Proof.Machine

/-! ### SHA-384 -/

/-- The 80 round constants. -/
def shaK : List Double :=
  [0x428A2F98D728AE22, 0x7137449123EF65CD, 0xB5C0FBCFEC4D3B2F, 0xE9B5DBA58189DBBC, 0x3956C25BF348B538,
   0x59F111F1B605D019, 0x923F82A4AF194F9B, 0xAB1C5ED5DA6D8118, 0xD807AA98A3030242, 0x12835B0145706FBE,
   0x243185BE4EE4B28C, 0x550C7DC3D5FFB4E2, 0x72BE5D74F27B896F, 0x80DEB1FE3B1696B1, 0x9BDC06A725C71235,
   0xC19BF174CF692694, 0xE49B69C19EF14AD2, 0xEFBE4786384F25E3, 0x0FC19DC68B8CD5B5, 0x240CA1CC77AC9C65] ++
  [0x2DE92C6F592B0275, 0x4A7484AA6EA6E483, 0x5CB0A9DCBD41FBD4, 0x76F988DA831153B5, 0x983E5152EE66DFAB,
   0xA831C66D2DB43210, 0xB00327C898FB213F, 0xBF597FC7BEEF0EE4, 0xC6E00BF33DA88FC2, 0xD5A79147930AA725,
   0x06CA6351E003826F, 0x142929670A0E6E70, 0x27B70A8546D22FFC, 0x2E1B21385C26C926, 0x4D2C6DFC5AC42AED,
   0x53380D139D95B3DF, 0x650A73548BAF63DE, 0x766A0ABB3C77B2A8, 0x81C2C92E47EDAEE6, 0x92722C851482353B] ++
  [0xA2BFE8A14CF10364, 0xA81A664BBC423001, 0xC24B8B70D0F89791, 0xC76C51A30654BE30, 0xD192E819D6EF5218,
   0xD69906245565A910, 0xF40E35855771202A, 0x106AA07032BBD1B8, 0x19A4C116B8D2D0C8, 0x1E376C085141AB53,
   0x2748774CDF8EEB99, 0x34B0BCB5E19B48A8, 0x391C0CB3C5C95A63, 0x4ED8AA4AE3418ACB, 0x5B9CCA4F7763E373,
   0x682E6FF3D6B2B8A3, 0x748F82EE5DEFB2FC, 0x78A5636F43172F60, 0x84C87814A1F0AB72, 0x8CC702081A6439EC] ++
  [0x90BEFFFA23631E28, 0xA4506CEBDE82BDE9, 0xBEF9A3F7B2C67915, 0xC67178F2E372532B, 0xCA273ECEEA26619C,
   0xD186B8C721C0C207, 0xEADA7DD6CDE0EB1E, 0xF57D4F7FEE6ED178, 0x06F067AA72176FBA, 0x0A637DC5A2C898A6,
   0x113F9804BEF90DAE, 0x1B710B35131C471B, 0x28DB77F523047D84, 0x32CAAB7B40C72493, 0x3C9EBE0A15C9BEBC,
   0x431D67C49C100D4C, 0x4CC5D4BECB3E42B6, 0x597F299CFC657E2A, 0x5FCB6FAB3AD6FAEC, 0x6C44198C4A475817]

/-- The initial hash value. -/
def shaInit : List Double :=
  [0xCBBB9D5DC1059ED8, 0x629A292A367CD507, 0x9159015A3070DD17, 0x152FECD8F70E5939,
   0x67332667FFC00B31, 0x8EB44A8768581511, 0xDB0C2E0D64F98FA7, 0x47B5481DBEFA4FA4]

def shaBig0 (x : Double) : Double := x.rotateRight 28 ^^^ x.rotateRight 34 ^^^ x.rotateRight 39
def shaBig1 (x : Double) : Double := x.rotateRight 14 ^^^ x.rotateRight 18 ^^^ x.rotateRight 41
def shaSmall0 (x : Double) : Double := x.rotateRight 1 ^^^ x.rotateRight 8 ^^^ (x >>> 7)
def shaSmall1 (x : Double) : Double := x.rotateRight 19 ^^^ x.rotateRight 61 ^^^ (x >>> 6)

/-- The message schedule, newest word first: `n` more words. -/
def shaSchedule : Nat → List Double → List Double
  | 0, ws => ws
  | n + 1, ws => shaSchedule n ((shaSmall1 (ws.getD 1 0) + ws.getD 6 0 + shaSmall0 (ws.getD 14 0) + ws.getD 15 0) :: ws)

/-- One round on the eight working words. -/
def shaRound (v : List Double) (k w : Double) : List Double :=
  let g (i : Nat) : Double := v.getD i 0
  let t1 := g 7 + shaBig1 (g 4) + ((g 4 &&& g 5) ^^^ (~~~(g 4) &&& g 6)) + k + w
  let t2 := shaBig0 (g 0) + ((g 0 &&& g 1) ^^^ (g 0 &&& g 2) ^^^ (g 1 &&& g 2))
  [t1 + t2, g 0, g 1, g 2, g 3 + t1, g 4, g 5, g 6]

/-- Bytes as a number, most significant first. -/
def bytesBig (bs : List Byte) : Nat := bs.foldl (fun n b => n * 256 + b.toNat) 0

/-- A number as `n` bytes, most significant first. -/
def bigBytes (n v : Nat) : List Byte := (List.range n).map (fun i => BitVec.ofNat 8 (v / 256 ^ (n - 1 - i)))

/-- One block of 128 bytes. -/
def shaBlock (h : List Double) (bs : List Byte) : List Double :=
  let m := (List.range 16).map (fun i => BitVec.ofNat 64 (bytesBig ((bs.drop (8 * i)).take 8)))
  let ws := (shaSchedule 64 m.reverse).reverse
  List.zipWith (· + ·) h ((List.zip shaK ws).foldl (fun v kw => shaRound v kw.1 kw.2) h)

/-- The padding of a message of n bytes. -/
def shaPad (n : Nat) : List Byte := 0x80 :: List.replicate ((239 - n % 128) % 128) 0 ++ bigBytes 16 (8 * n)

def shaBlocks : Nat → List Double → List Byte → List Double
  | 0, h, _ => h
  | n + 1, h, bs => shaBlocks n (shaBlock h (bs.take 128)) (bs.drop 128)

/-- SHA-384 of a message, as the number that its 48 bytes spell. -/
def sha384 (bs : List Byte) : Nat :=
  let m := bs ++ shaPad bs.length
  ((shaBlocks (m.length / 128) shaInit m).take 6).foldl (fun n w => n * 2 ^ 64 + w.toNat) 0

/-! ### The curve (RFC 5639, brainpoolP384r1) -/

def curveP : Nat := 0x8CB91E82A3386D280F5D6F7E50E641DF152F7109ED5456B412B1DA197FB71123ACD3A729901D1A71874700133107EC53
def curveA : Nat := 0x7BC382C63D8C150C3C72080ACE05AFA0C2BEA28E4FB22787139165EFBA91F90F8AA5814A503AD4EB04A8C7DD22CE2826
def curveB : Nat := 0x04A8C7DD22CE28268B39B55416F0447C2FB77DE107DCD2A62E880EA53EEB62D57CB4390295DBC9943AB78696FA504C11
/-- The order of the base point. -/
def curveQ : Nat := 0x8CB91E82A3386D280F5D6F7E50E641DF152F7109ED5456B31F166E6CAC0425A7CF3AB6AF6B7FC3103B883202E9046565
def curveG : Nat × Nat :=
  (0x1D1C64F068CF45FFA2A63A81B7C13F6B8847A3E77EF14FE3DB7FCAFE0CBD10E8E826E03436D646AAEF87B2E247D4AF1E,
   0x8ABE1D7520F9C2A45CB1EB8E95CFD55262B70B29FEEC5864E19C054FF99129280E4646217791811142820341263C5315)

/-- b^e mod m over the low n bits of e. -/
def powMod (m : Nat) : Nat → Nat → Nat → Nat
  | 0, _, _ => 1
  | n + 1, b, e =>
    let h := powMod m n (b * b % m) (e / 2)
    if e % 2 = 1 then h * b % m else h

/-- The inverse modulo a prime of 384 bits. -/
def invMod (m a : Nat) : Nat := powMod m 384 (a % m) (m - 2)

/-- A point of the curve: none at infinity. -/
abbrev CurvePt := Option (Nat × Nat)

/-- The third point of a line of slope l through (x1, y1) and a point of abscissa x2, mirrored. -/
def curveThird (l x1 y1 x2 : Nat) : CurvePt :=
  let x := (l * l + 2 * curveP - x1 - x2) % curveP
  some (x, (l * (x1 + curveP - x) + curveP - y1) % curveP)

def curveAdd (a b : CurvePt) : CurvePt :=
  match a, b with
  | none, q => q
  | p, none => p
  | some (x1, y1), some (x2, y2) =>
    if x1 = x2 then
      if (y1 + y2) % curveP = 0 then none
      else curveThird ((3 * x1 * x1 + curveA) * invMod curveP (2 * y1) % curveP) x1 y1 x1
    else curveThird ((y2 + curveP - y1) * invMod curveP (x2 + curveP - x1) % curveP) x1 y1 x2

/-- k times a point, over the low n bits of k. -/
def curveMul : Nat → Nat → CurvePt → CurvePt
  | 0, _, _ => none
  | n + 1, k, p =>
    let h := curveMul n (k / 2) (curveAdd p p)
    if k % 2 = 1 then curveAdd p h else h

/-- A public key is a point of the curve with coordinates in the field. -/
def keyOnCurve (x y : Nat) : Bool :=
  decide (x < curveP) && decide (y < curveP) && (y * y) % curveP == (x * x * x + curveA * x + curveB) % curveP

/-! ### ECDSA with SHA-384 -/

/-- Whether a signature of 96 bytes, r then s, over a message verifies under a public key of 96 bytes, x then y. -/
def ecdsaVerify (key msg sig : List Byte) : Bool :=
  let x := bytesBig (key.take 48)
  let y := bytesBig (key.drop 48)
  let r := bytesBig (sig.take 48)
  let t := bytesBig (sig.drop 48)
  if sig.length ≠ 96 ∨ r = 0 ∨ curveQ ≤ r ∨ t = 0 ∨ curveQ ≤ t ∨ !keyOnCurve x y then false
  else
    let w := invMod curveQ t
    match curveAdd (curveMul 384 (sha384 msg * w % curveQ) (some curveG)) (curveMul 384 (r * w % curveQ) (some (x, y))) with
    | none => false
    | some p => p.1 % curveQ == r

/-- The public key of a private scalar, as 96 bytes. -/
def publicKey (d : Nat) : List Byte :=
  match curveMul 384 d (some curveG) with
  | some p => bigBytes 48 p.1 ++ bigBytes 48 p.2
  | none => List.replicate 96 0

/-- A signature with a secret number k, if k gives one. -/
def ecdsaWith (d k : Nat) (msg : List Byte) : Option (List Byte) :=
  match curveMul 384 k (some curveG) with
  | none => none
  | some p =>
    let r := p.1 % curveQ
    let t := invMod curveQ k * (sha384 msg + r * d) % curveQ
    if r = 0 ∨ t = 0 then none else some (bigBytes 48 r ++ bigBytes 48 t)

/-- The part's private identity scalar, derived from fuses (R268): any number from 1 to q - 1. -/
def identityScalar : Nat := Config.identitySecret % (curveQ - 1) + 1

/-- A signature under the identity key (R271): the first of the secret numbers that gives one; which numbers are tried is free. -/
def identitySign (tick : Nat) (msg : List Byte) : List Byte :=
  match (List.range 16).findSome? (fun i => ecdsaWith identityScalar (Config.signSecret tick i % (curveQ - 1) + 1) msg) with
  | some g => g
  | none => List.replicate 96 0

end Sys2Proof.Machine
end

