-- ==== Sys2Proof/Machine/Security.lean ====
section
/-!
DEFINITION. Key commands (spec/02 R31, R32), the memory event log (R35, R37), the full-memory checkpoint (R42 to R45), and the security
and power commands, boot and recovery (spec/15 R266 to R274).
-/
namespace Sys2Proof.Machine

def State.modCfg (s : State) (f : Regs → Regs) : State := { s with cfg := f s.cfg }

/-! ### Keys (R31, R32) -/

/-- Some access accepted under a key id has not completed: a thread's, or a bank-side unit's. -/
def State.keyInUse (s : State) (k : BitVec 12) : Bool :=
  s.toCome.any (fun a => match a.2.loc with
    | .dev _ key => key == k
    | _ => false) ||
  s.units.any (fun u => (u.2.ent.getD 0 0).extractLsb' 52 12 == k &&
    (u.2.loads.any (fun l => l.2.any (fun x => x.val.isNone)) || u.2.stores.any (fun l => !l.2.isEmpty))) ||
  s.units.any (fun u => u.2.wbuf.any (fun w => w.key == k))

/-- A key id becomes invalid for new accesses; those already accepted keep its pair. -/
def State.dropKey (s : State) (k : BitVec 12) : State :=
  match SMap.look s.keys k.toNat with
  | none => s
  | some p => { s with keys := s.keys.erase k.toNat,
                       oldKeys := if s.keyInUse k then s.oldKeys.insert k.toNat p else s.oldKeys }

/-- A key command (R31): `none` is a refusal, which sets ERR. It acts on its own KEYID until it completes, whatever KEYID is written meanwhile. -/
def State.keyCommand (s : State) (op : BitVec 2) (k : BitVec 12) : Option State :=
  let c := s.cfg
  if c.keyBusy || c.ckptBusy || k == 0 || op == 3 || c.keyData1 == c.keyData2 then none
  else some ((s.dropKey k).modCfg (fun c =>
    { c with keyBusy := true, keyId := k, keyAct := k, keyPend := if op == 1 then some (c.keyData1, c.keyData2) else none }))

/-- A write of KEYCMD (R31): with OP 00 it writes KEYID, a command in progress or not. Off, nothing is written (R273). Only a write of 1 clears ERR (log entry 41,
DESIGN CHOICE). -/
def State.writeKeycmd (s : State) (w : Double) : State × Bool :=
  let s1 := s.modCfg (fun c => { c with keyErr := c.keyErr && !w.getLsbD 62 })
  let k := w.extractLsb' 0 12
  if s.cfg.pwr == 3 then (s, true)
  else if w.extractLsb' 56 2 == 0 then (s1.modCfg (fun c => { c with keyId := k }), false)
  else
    match s1.keyCommand (w.extractLsb' 56 2) k with
    | some s2 => (s2, false)
    | none => (s1.modCfg (fun c => { c with keyErr := true }), true)

/-- KEY_COMMAND_COMPLETE (R32): once no access under the id is outstanding, a pair to load is installed, and the key data are
cleared. -/
def State.keyComplete (s : State) : State :=
  if !s.cfg.keyBusy || s.keyInUse s.cfg.keyAct then s
  else
    let k := s.cfg.keyAct.toNat
    let s1 := { s with oldKeys := s.oldKeys.erase k,
                       keys := match s.cfg.keyPend with
                         | some p => s.keys.insert k (p.2 ++ p.1)
                         | none => s.keys }
    s1.modCfg (fun c => { c with keyBusy := false, keyPend := none, keyData1 := 0, keyData2 := 0 })

/-! ### The memory event log (R35, R37) -/

/-- Append a record; a full ring overwrites the oldest unread one: 255 unread records fill it, for WR = RD is empty, and RD goes on past the record
that is lost. A held bank holds the record and those that follow it (R33). The ring's own lines are written whatever their poison (log entry 48,
DESIGN CHOICE). -/
def State.logPut (s : State) (w0 w1 : Double) : State :=
  let c := s.cfg
  let a := c.logBase.toNat * 4096 + 16 * c.logWr.toNat
  if s.bankHeld a || s.ringHeld.any RingWrite.log then { s with ringHeld := s.ringHeld ++ [⟨true, 0, w0, w1, 0, 0⟩] }
  else
  let s1 := (s.writePlain a w0).writePlain (a + 8) w1
  let full := c.logWr + 1 == c.logRd
  s1.modCfg (fun c => { c with logWr := c.logWr + 1, logRd := if full then c.logRd + 1 else c.logRd,
                               logLost := c.logLost || full })

/-- Records that waited for a held bank are written, in order, as far as their banks are free (R33). -/
def State.flushRings (s : State) : State :=
  s.ringHeld.foldl (fun s h => if h.log then s.logPut h.w0 h.w1 else s.regionRecord h.region h.w0 h.w1 h.w2 h.w3) { s with ringHeld := [] }

/-- A record that names a channel (R35); row and bank are for diagnosis. -/
def State.logEvent (s : State) (kind : Nat) (bsu : Bool) (row : Word) (bank chan : Nat) : State :=
  s.logPut (BitVec.ofNat 8 kind ++ (0 : BitVec 6) ++ BitVec.ofBool bsu ++ row ++ (0 : BitVec 3) ++ BitVec.ofNat 5 bank ++
    BitVec.ofNat 9 chan) (s.free 10)

/-- The code of a storage unit (R35). -/
def unitCode : Unit5 → Nat
  | .memoryTile => 0
  | .lvs => 1
  | .acs => 2
  | .operand => 3
  | .pool => 4

/-- A latent fault in a tile that no region holds (R35, R240). -/
def State.logLatent (s : State) (t : Nat) (u : Unit5) (off : Nat) : State :=
  s.logPut (BitVec.ofNat 8 7 ++ BitVec.ofNat 10 t ++ BitVec.ofNat 3 (unitCode u) ++ BitVec.ofNat 21 off ++ (0 : BitVec 22)) (s.free 11)

/-- The log's address while a line of it is written: events of a channel's corrections, once for every 4,096 (R27). -/
def State.corrected (s : State) (chan : Nat) : State :=
  let n := SMap.get 0 s.corr chan + 1
  let s1 := { s with corr := SMap.put 0 s.corr chan n }
  if n % 4096 = 0 then s1.logEvent 2 false 0 0 chan else s1

/-! ### The checkpoint (R42 to R45) -/

def gib : Nat := 2 ^ 30

/-- Every byte of a range of the tier window is persistent and its link is up. -/
def concatPersist (r : Regs) : List Nat → Nat → Nat → Nat → Bool
  | [], _, lo, hi => decide (hi ≤ lo)
  | p :: ps, base, lo, hi =>
    let top := base + r.portBytes p
    (decide (top ≤ lo ∨ hi ≤ base) || (r.tierPersist.getLsbD p && r.tierUp.getLsbD p)) && concatPersist r ps top (max lo top) hi

def Regs.persistRange (r : Regs) (pa n : Nat) : Bool :=
  if pa < tierBase then false
  else
    let off := pa - tierBase
    if r.tierMode then
      decide (off + n ≤ (r.ports.map r.portBytes).sum) && r.ports.all (fun p => r.tierPersist.getLsbD p && r.tierUp.getLsbD p)
    else concatPersist r r.ports 0 off (off + n)

def Regs.ckptAddr (r : Regs) : Nat := r.ckptDst.toNat * 65536

/-- A command of a copy engine (R86, R167). -/
def isCopy : Instr → Bool
  | .cpIn .. => true
  | .cpOut .. => true
  | .cpLocal .. => true
  | .cpPush .. => true
  | .cpPushz .. => true
  | .cpPop .. => true
  | .cpPopd .. => true
  | .slotFill .. => true
  | _ => false

/-- Some copy engine or the near-memory queue holds work; a bank-side unit that holds a graph, faulted or paused too,
counts with the queue (R43; log entry 48, DESIGN CHOICE). -/
def State.copying (s : State) : Bool :=
  s.cfg.nmqHead != s.cfg.nmqTail || !s.nmq.isEmpty || s.units.any (fun u => u.2.st != .idle) ||
    s.tiles.any (fun t => match t.2.active with
      | some p => p.sets.any (fun v => v.2.queue.any (fun c => isCopy c.i))
      | none => false)

/-- Why a save or restore is refused (R43). -/
def State.ckptRefusal (s : State) : Option (BitVec 8) :=
  if s.cfg.ckptBusy then some 4
  else if s.regions.any (fun r => match r.2.st with
      | .running => true
      | .preempting _ => true
      | _ => false) || s.copying then some 1
  else if !s.cfg.persistRange s.cfg.ckptAddr (1539 * gib) then some 2
  else none

/-- A write of CKPTCTL (R42). Off, nothing is written (R273). DONE, ERR and ECODE of an earlier operation stand until they are written or a later one sets them (log entry 41,
DESIGN CHOICE). -/
def State.writeCkptctl (s : State) (w : Double) : State × Bool :=
  let s1 := s.modCfg (fun c => { c with ckptDone := c.ckptDone && !w.getLsbD 62, ckptErr := c.ckptErr && !w.getLsbD 61 })
  let op := w.extractLsb' 0 2
  if s.cfg.pwr == 3 then (s, true)
  else if op == 0 || op == 3 then (s1, false)
  else
    match s1.ckptRefusal with
    | some e => (s1.modCfg (fun c => { c with ckptErr := true, ckptEcode := e }), true)
    | none => (s1.modCfg (fun c => { c with ckptBusy := true, ckptRestore := op == 2, ckptProgress := 0 }), false)

/-- The bitmap byte of eight lines (R43). -/
def State.poisonByte (s : State) (i : Nat) : Byte :=
  (List.range 8).foldl (fun b k => setBit b k (s.linePoison (8 * i + k))) 0

/-- Device memory copied as stored, line by line where `did` says that a line has been copied, poisoned lines as zeros, with their bitmap,
whose lines count on from those of the memory. Nothing older than what has been copied comes back: a save ends with a fence of device scope
(R43). -/
def State.saveAll (s : State) (dst : Nat) (did : Nat → Bool) : State :=
  let last := devEnd / 64
  let kept := s.mem.filter (fun c : Nat × Byte => !(dst ≤ c.1 && c.1 < dst + devEnd && did ((c.1 - dst) / 64)))
  let lines := s.mem.filter (fun c : Nat × Byte => c.1 < devEnd && did (c.1 / 64) && !s.linePoison (c.1 / 64))
  let copied := lines.foldl (fun m c => Memory.write m (dst + c.1) c.2) kept
  let bits := ((List.range (devEnd / 512)).filter (fun i => did (last + i / 64))).foldl (fun m i => Memory.write m (dst + devEnd + i) (s.poisonByte i)) copied
  { s with mem := bits, fresh := s.fresh.filter (fun f => !(dst ≤ 8 * f.1 && 8 * f.1 < dst + 1539 * gib && did (f.1 / 8 - dst / 64))),
           poison := s.poison.filter (fun l => !(dst ≤ l * 64 && l * 64 < dst + 1539 * gib && did (l - dst / 64))) }

/-- Every line where `did` says so written back to its own address, and poisoned where its bit is set. -/
def State.restoreAll (s : State) (src : Nat) (did : Nat → Bool) : State :=
  let kept := s.mem.filter (fun c : Nat × Byte => devEnd ≤ c.1 || !did (c.1 / 64))
  let lines := s.mem.filter (fun c : Nat × Byte => src ≤ c.1 && c.1 < src + devEnd && did ((c.1 - src) / 64))
  let back := lines.foldl (fun m c => Memory.write m (c.1 - src) c.2) kept
  let bad := (List.range (devEnd / 64)).filter (fun l =>
    if did l then (Memory.read s.mem (src + devEnd + l / 8)).getLsbD (l % 8) else NSet.has s.poison l)
  { s with mem := back, poison := bad ++ s.poison.filter (fun l => devEnd ≤ l * 64) }

/-- CHECKPOINT_DONE (R43, R45): the operation in progress ends, or fails part way when its memory is no longer there; which lines have been
copied by then, and how many GiB PROGRESS shows, is not stated, and is free (log entry 4). A restore whose source goes down ends with ECODE 0x03,
and poisoned lines of the source are copied back as data (R45; log entry 48, DESIGN CHOICE). The copy goes to CKPTDST as it stands now: a write of
it while BUSY is 1 moves the destination or the source of the operation, unchecked (log entry 48, DESIGN CHOICE). It waits while a bank is held
(R33). -/
def State.ckptFinish (s : State) : State :=
  let c := s.cfg
  let move (did : Nat → Bool) : State := if c.ckptRestore then s.restoreAll c.ckptAddr did else s.saveAll c.ckptAddr did
  if !c.ckptBusy || !s.holds.isEmpty then s
  else if c.persistRange c.ckptAddr (1539 * gib) then
    (move (fun _ => true)).modCfg (fun c => { c with ckptBusy := false, ckptDone := true, ckptProgress := 1536 })
  else
    let n := s.choose 12 1536
    (move (fun l => Config.freeBit s.tick (2 ^ 44 + l))).modCfg (fun c =>
      { c with ckptBusy := false, ckptErr := true, ckptEcode := 3, ckptProgress := BitVec.ofNat 16 n })

/-! ### Security commands (R268 to R272) -/

/-- Whether a signature of 96 bytes over bytes verifies under the sealing key (R68, R268). -/
def State.sealed (s : State) (bs sig : List Byte) : Bool :=
  match s.cfg.sealKey with
  | none => false
  | some k => ecdsaVerify k bs sig

/-- IDENT and SECST (R19, R269). -/
def State.ident (s : State) : Double :=
  (0 : BitVec 24) ++ s.cfg.step ++ (0x5308 : BitVec 16) ++ (0x4C46 : BitVec 16)

def Regs.secst (c : Regs) : Double :=
  (0 : BitVec 16) ++ c.bootst ++ c.svn ++ (0 : BitVec 26) ++ c.sec ++ c.dbg ++ c.pwr

/-- Whether the table of R272 lets a debug level be held: refused, only by a token, or freely. -/
inductive Held where
  | refused | token | free
  deriving DecidableEq, Repr

def held (sec dbg pwr : BitVec 2) : Held :=
  match sec.toNat, dbg.toNat, pwr.toNat with
  | _, 0, _ => .free
  | 0, 2, 2 => .refused
  | 0, _, _ => .free
  | 1, 2, 2 => .refused
  | 1, 2, _ => .token
  | 1, _, _ => .free
  | _, 1, _ => .token
  | _, _, _ => .refused

/-- The 32 bytes of a debug token agree with a level (R270). -/
def tokenShape (bs : List Byte) (lvl : BitVec 2) : Bool :=
  (bs.getD 8 0) == lvl.setWidth 8 && (bs.drop 9).all (· == 0)

/-- What a security command answers: an error code, or the state it makes. -/
inductive SecRes where
  | err (code : BitVec 6)
  | ok (s : State)

/-- The buffer lies in device memory and no line of it is poisoned. -/
def State.bufOk (s : State) (a n : Nat) : Bool := decide (a + n ≤ devEnd) && !s.rangePoison a n

/-- Another nonce than before: free, but never the same (R269). -/
def State.newNonce (s : State) : State :=
  s.modCfg (fun c => { c with nonce := if s.free 13 == c.nonce then c.nonce + 1 else s.free 13 })

/-- Enrol (R270, R272). -/
def State.secEnrol (s : State) (node a : Nat) : SecRes :=
  if s.cfg.sec != 0 || s.cfg.dbg != 0 then .err 1
  else if !s.bufOk a 96 then .err 5
  else .ok (s.modCfg (fun c => { c with sec := 1, sealKey := some (Memory.bytes s.mem a 96), enrolledHost := some node }))

/-- Double k of a firmware image. -/
def fwDouble (bs : List Byte) (k : Nat) : Double := BitVec.ofNat 64 (bytesNat ((bs.drop (8 * k)).take 8))

/-- The bytes that a firmware image's LENGTH gives it. -/
def fwBytes (bs : List Byte) : List Byte := bs.take ((fwDouble bs 1).extractLsb' 0 32).toNat

/-- Attest (R270 to R272): the report at 0x040 of the buffer. -/
def State.secAttest (s : State) (a : Nat) : SecRes :=
  if s.cfg.sec == 0 || s.cfg.dbg == 2 || (s.cfg.sec == 1 && s.cfg.dbg != 0) then .err 1
  else if !s.bufOk a 0x140 then .err 5
  else
    let s1 := s.modCfg (fun c => { c with sec := 2 })
    let fw := match s.cfg.fwHash with
      | some h => h.toNat
      | none => sha384 (fwBytes (Config.flashImage 0))
    let body := natBytes 8 s.ident.toNat ++ natBytes 8 s1.cfg.secst.toNat ++ bigBytes 48 fw ++
      bigBytes 48 (sha384 (s.cfg.sealKey.getD [])) ++ Memory.bytes s.mem a 48
    let s2 := { s1 with mem := Memory.writeBytes s1.mem (a + 0x40) (body ++ identitySign s.tick body) }
    .ok s2.newNonce

/-- Set debug level (R270, R272). -/
def State.secDebug (s : State) (lvl : BitVec 2) (a : Nat) : SecRes :=
  let c := s.cfg
  let done := (s.modCfg (fun c => { c with dbg := lvl })).newNonce
  if lvl == 3 then .err 5
  else
    match held c.sec lvl c.pwr with
    | .refused => .err 1
    | .free => .ok done
    | .token =>
      if lvl < c.dbg then .ok done
      else if !s.bufOk a 128 then .err 5
      else
        let tok := Memory.bytes s.mem a 32
        if !tokenShape tok lvl then .err 5
        else if !s.sealed tok (Memory.bytes s.mem (a + 32) 96) then .err 2
        else if BitVec.ofNat 64 (bytesNat (tok.take 8)) != c.nonce then .err 3
        else .ok done

/-- Release (R270): every key id invalid, a pair that waits to be installed dropped, the sealing key erased. -/
def State.secRelease (s : State) : State :=
  let s1 := s.keys.foldl (fun s k => s.dropKey (BitVec.ofNat 12 k.1)) s
  (s1.modCfg (fun c => { c with sec := 0, dbg := 0, keyPend := none, sealKey := none, enrolledHost := none })).newNonce

/-- No region is placed. -/
def State.noRegion (s : State) : Bool := s.regions.all (fun r => r.2.st == .complete)

/-- Configuration as a boot finds it: the tier's devices are those that were there (R41). -/
def Regs.rebooted (c : Regs) : Regs :=
  { Regs.reset with tierPop := c.tierPop, tierMode := c.tierMode, tierCap := c.tierCap, tierPersist := c.tierPersist, tierUp := c.tierUp }

/-- What a loss of power leaves: persistent memory of the tier, with its poison; all on-die state, every key and every other byte are lost. -/
def State.unpowered (s : State) (c : Regs) : State :=
  { State.reset with
    cfg := c, mem := s.persistent, agenda := s.agenda, tick := s.tick, nextId := s.nextId,
    poison := s.poison.filter (fun l => match s.cfg.place (64 * l) with
      | .tier p => s.cfg.tierPersist.getLsbD p
      | _ => false) }

/-- Entry to Off (R273, R274): a release, then the supplies are removed. -/
def State.powerOff (s : State) : State := s.unpowered { s.cfg.rebooted with pwr := 3 }

/-- A power request (R273): a request leaves Active or Idle, never Retain, which only a doorbell or an I3C request leaves, nor Off, which only
power-on reset leaves (log entry 49, DEDUCED). -/
def State.secPower (s : State) (p : BitVec 2) : SecRes :=
  match s.cfg.pwr.toNat, p.toNat with
  | 3, _ => .err 1
  | _, 3 => .ok s.powerOff
  | 2, _ => .err 1
  | _, 1 => if s.noRegion then .ok (s.modCfg (fun c => { c with pwr := 1 })) else .err 1
  | _, 2 => if s.noRegion && !s.cfg.ckptBusy && s.cfg.dbg != 2 then .ok (s.modCfg (fun c => { c with pwr := 2 })) else .err 1
  | _, _ => .err 1

/-- A command of SECCMD, from a node. -/
def State.secCommand (s : State) (op arg : BitVec 4) (buf : BitVec 42) (node : Nat) : SecRes :=
  let a := buf.toNat * 64
  match op.toNat with
  | 1 => s.secEnrol node a
  | 2 => s.secAttest a
  | 3 => if arg.extractLsb' 2 2 != 0 then .err 5 else s.secDebug (arg.extractLsb' 0 2) a
  | 4 => .ok s.secRelease
  | 5 => if arg.extractLsb' 2 2 != 0 then .err 5 else s.secPower (arg.extractLsb' 0 2)
  | _ => .err 5

/-- A write of SECCMD (R269): ERR is cleared by writing 1, ARG and BUF are kept unless a command is refused, and a non-zero OP acts. A command's
effects come at once, and BUSY may stay set for a time that the spec does not state, during which another is refused (log entry 49, DESIGN
CHOICE). Off, nothing is written. -/
def State.writeSeccmd (s : State) (w : Double) (node : Nat) : State × Bool :=
  if s.cfg.pwr == 3 then (s, true)
  else
    let s1 := s.modCfg (fun c => { c with secErr := c.secErr && !w.getLsbD 62 })
    let kept (s : State) : State := s.modCfg (fun c => { c with secArg := w.extractLsb' 48 4, secBuf := w.extractLsb' 6 42 })
    let bad (e : BitVec 6) : State × Bool := (s1.modCfg (fun c => { c with secErr := true, secEcode := e }), true)
    if w.extractLsb' 52 4 == 0 then (kept s1, false)
    else if s1.cfg.secBusy then bad 4
    else
      match s1.secCommand (w.extractLsb' 52 4) (w.extractLsb' 48 4) (w.extractLsb' 6 42) node with
      | .ok s2 => (if s2.cfg.pwr == 3 then s2 else (kept s2).modCfg (fun c => { c with secBusy := Config.freeBit s.tick 21 }), false)
      | .err e => bad e

/-! ### Boot and recovery (R266, R267) -/

/-- A firmware image is accepted: its signature ends its LENGTH bytes (R266). -/
def fwOk (svn : BitVec 8) (bs : List Byte) : Bool :=
  let d := fwDouble bs
  let len := ((d 1).extractLsb' 0 32).toNat
  let n := len - 96
  decide (112 ≤ len) && decide (len ≤ bs.length) && (d 0).extractLsb' 0 32 == 0x57464B4C && (d 0).extractLsb' 48 16 == 0 && (d 1).extractLsb' 32 32 == 0 &&
    decide (svn.toNat ≤ ((d 0).extractLsb' 32 16).toNat) && ecdsaVerify Config.firmwareKey (bs.take n) ((bs.drop n).take 96)

/-- A write of RECOVADDR (R267): while the ROM waits, a non-zero address makes it read and verify an image; the bytes of another node
are free. -/
def State.recover (s : State) (addr : BitVec 58) : State :=
  let s1 := s.modCfg (fun c => { c with recovAddr := addr })
  if addr == 0 || (s.cfg.bootst != 1 && s.cfg.bootst != 2) then s1
  else
    let pa := (addr.extractLsb' 0 48).toNat
    let mine := addr.extractLsb' 48 10 == s.cfg.devid
    let len := (Memory.readLE s.mem (pa + 8) 8) % 2 ^ 32
    let ok := if mine then !s.memFaults pa (max len 16) false && fwOk s.cfg.svn (Memory.bytes s.mem pa len)
      else Config.freeBit s.tick 14
    let h : BitVec 384 := if mine then BitVec.ofNat 384 (sha384 (Memory.bytes s.mem pa len)) else (s.free 15).setWidth 384
    s1.modCfg (fun c => if ok then { c with bootst := 3, fwHash := some h } else { c with bootst := 2 })

/-- Firmware runs (R267). -/
def Regs.booted (c : Regs) : Bool := c.bootst == 0 || c.bootst == 3

/-- Power-on reset (R267, R274): the ROM verifies the image that flash holds; what flash holds is free, and so is which of the tier's links come
up (log entry 3). -/
def State.powerOn (s : State) : State :=
  let img := Config.flashImage s.tick
  let ok := fwOk s.cfg.svn img
  s.unpowered { s.cfg.rebooted with
    bootst := if ok then 0 else 1, nonce := s.free 13, tierUp := s.cfg.tierPop &&& (s.free 16).extractLsb' 0 8,
    fwHash := if ok then some (BitVec.ofNat 384 (sha384 (fwBytes img))) else none }

/-- A doorbell write or a launch wakes the part from Idle; from Retain a doorbell or an I3C request returns it to Idle
(R273). -/
def State.wake (s : State) : State :=
  match s.cfg.pwr.toNat with
  | 1 => s.modCfg (fun c => { c with pwr := 0 })
  | 2 => s.modCfg (fun c => { c with pwr := 1 })
  | _ => s

end Sys2Proof.Machine
end

