-- ==== Sys2Proof/Machine/ConfigSpace.lean ====
section
/-!
DEFINITION. Mailboxes and doorbells (spec/15 R263 to R265), and configuration space: what a read of a double gives and what a
write does (spec/01 R19 to R22, and the capability records of the owning chapters).
-/
namespace Sys2Proof.Machine

/-! ### Mailboxes (R264) -/

/-- The region of a tile is not running: it is being pre-empted. -/
def State.inflowHeld (s : State) (t : Nat) : Bool :=
  match (s.regionOf t).bind s.region? with
  | some r => r.st != .running
  | none => false

/-- Push a token at an input end that is fed from outside the region. -/
def State.feed (s : State) (t e : Nat) (k : Token) : State :=
  match s.inChan t e with
  | some (n, c) => s.putChan n { c.note none with free := c.free - 1, fly := c.fly ++ [k] }
  | none => s

/-- A free slot at an input end that is fed from outside. -/
def State.feedRoom (s : State) (t e : Nat) : Bool :=
  match s.inChan t e with
  | some (_, c) => decide (0 < c.free)
  | none => false

/-- Deliver one host token at a bound end: it waits while the end is full, what it releases is not performed (R265), or the log holds it back; a
full segment stalls it (R257), or a divergence stops it. -/
inductive Deliver where
  | wait
  | stall (s : State)
  | diverged (s : State)
  | done (s : State)

def State.deliver (s : State) (t e : Nat) (tag : BitVec 3) (val : Word) (rel : List Need) : Deliver :=
  if !s.feedRoom t e || s.inflowHeld t || !rel.all s.met then .wait
  else
    let choice : Double := (0 : BitVec 29) ++ tag ++ val
    match s.rplMode t with
    | .off => .done (s.feed t e ⟨tag, val, rel⟩)
    | .record =>
      match s.hindRecord t 4 e choice with
      | none => .stall (s.segmentStall t (s.endSet t e))
      | some s1 => .done (s1.feed t e ⟨tag, val, rel⟩)
    | _ =>
      match s.hindLook t 4 e with
      | none => .wait
      | some w =>
        if w == choice then .done ((s.hindConsume t 4 e).feed t e ⟨tag, val, rel⟩)
        else .diverged (s.diverge t (s.endSet t e) 0 4 e .none (s.node t 1 e) (s.setInvoc t (s.endSet t e)) w 1)

/-- The writes of another node that its doorbell releases (R265): those that are still to be performed. -/
def State.inboundIds (s : State) (node : Nat) : List Need := deepNeeds 4 ((s.toCome.filter (fun a => a.2.tile == 1024 + node)).map Prod.fst)

/-- A write of MBOXn from a node (R264): delivered, held, or dropped with a fabric error (log entry 30, DEDUCED). -/
def State.mailbox (s : State) (node n : Nat) (w : Double) : State × Bool :=
  let s0 := s.wake
  if n == 3 || !s0.cfg.booted || w.extractLsb' 35 29 != 0 then (s0, true)
  else
    let tag := w.extractLsb' 32 3
    let val := w.extractLsb' 0 32
    let rel := s0.inboundIds node
    let hold := { s0 with mboxHeld := s0.mboxHeld ++ [⟨BitVec.ofNat 2 n, node, tag, val, rel⟩] }
    match s0.mboxEnd n with
    | none => if s0.mboxSaved n then (hold, false) else (s0, true)
    | some (t, e) =>
      if s0.mboxHeld.any (fun h => h.n.toNat == n) then (hold, false)
      else
        match s0.deliver t e tag val rel with
        | .done s1 => (s1, false)
        | .wait => (hold, false)
        | .stall s1 => ({ s1 with mboxHeld := hold.mboxHeld }, false)
        | .diverged s1 => ({ s1 with mboxHeld := s1.mboxHeld ++ [⟨BitVec.ofNat 2 n, node, tag, val, rel⟩] }, false)

/-- Remove the first write held for a mailbox. -/
def dropHeld (n : Nat) : List MboxHeld → List MboxHeld
  | [] => []
  | h :: hs => if h.n.toNat == n then hs else h :: dropHeld n hs

/-- The oldest held write of a mailbox is delivered once a slot frees, or dropped when its end is no longer bound. -/
def State.mailboxNext (s : State) (n : Nat) : State :=
  match s.mboxHeld.find? (fun h => h.n.toNat == n) with
  | none => s
  | some h =>
    let rest := { s with mboxHeld := dropHeld n s.mboxHeld }
    match s.mboxEnd n with
    | none => if s.mboxSaved n then s else rest
    | some (t, e) =>
      match rest.deliver t e h.tag h.val h.rel with
      | .done s1 => s1
      | .wait => s
      | .stall s1 => { s1 with mboxHeld := s.mboxHeld }
      | .diverged s1 => { s1 with mboxHeld := s.mboxHeld }

/-- The oldest held doorbell is pushed on mailbox 3 (R231, R264): bits [43:12] of the ring's address. -/
def State.bellNext (s : State) : State :=
  match s.bells, s.mboxEnd 3 with
  | a :: rest, some (t, e) =>
    match s.deliver t e 0 (BitVec.ofNat 32 (a / 4096)) [] with
    | .done s1 => { s1 with bells := rest }
    | .wait => s
    | .stall s1 => s1
    | .diverged s1 => s1
  | _, _ => s

/-- MAILBOX_WRITE. -/
def execMailboxWrite (node : Nat) (n : BitVec 2) (data : BitVec 64) (s : State) : Host.Outcome State Fault Refusal :=
  .next (s.mailbox node n.toNat data).1

/-- MAILBOX_DELIVERY. -/
def execMailboxDelivery (n : BitVec 2) (s : State) : Host.Outcome State Fault Refusal :=
  .next (if n == 3 then s.bellNext else s.mailboxNext n.toNat)

/-- FAULT_DOORBELL. -/
def execFaultDoorbell (s : State) : Host.Outcome State Fault Refusal := .next s.bellNext

/-! ### Reading configuration space -/

/-- Lengths of the twelve records, in id order. -/
def capLens : List Nat := [14, 18, 10, 10, 8, 4, 2, 2, 2, 2, 2, 29]

/-- The record (0 to 11) that holds an offset, with the double's index in it. -/
def Regs.capAt (c : Regs) (o : Nat) : Option (Nat × Nat) :=
  (List.range 12).findSome? (fun i =>
    let a := c.capOff.getD i 0
    if a ≤ o ∧ o < a + 8 * capLens.getD i 0 then some (i, (o - a) / 8) else none)

/-- The lowest record offset above `a`, or 0. -/
def Regs.capNext (c : Regs) (a : Nat) : Nat :=
  (c.capOff.filter (fun b => a < b)).foldl (fun m b => if m = 0 ∨ b < m then b else m) 0

/-- A mask of flags as a double: bit k of double d is element 64 d + k. -/
def maskDouble (f : Nat → Bool) (d : Nat) : Double :=
  (List.range 64).foldl (fun w k => setBit w k (f (64 * d + k))) 0

def Regs.healthy (c : Regs) (t : Nat) : Bool := SMap.get true c.health t

def nat8 (n : Nat) : BitVec 8 := BitVec.ofNat 8 n

/-- A record's header (R20). -/
def Regs.capHeader (c : Regs) (i : Nat) : Double :=
  BitVec.ofNat 32 (c.capNext (c.capOff.getD i 0)) ++ nat8 (capLens.getD i 0) ++ nat8 1 ++ BitVec.ofNat 16 (i + 1)

/-- Doubles of the records, index 1 upward. -/
def State.capGrid (s : State) (d : Nat) : Double :=
  if d = 1 then s.cfg.gridGen ++ nat8 32 ++ nat8 0 ++ nat8 16 ++ nat8 16 ++ nat8 24 ++ nat8 2
  else maskDouble (fun n => s.cfg.healthy n) (d - 2)

def State.capMemory (s : State) (d : Nat) : Double :=
  let c := s.cfg
  if d = 1 then c.memGen ++ c.cmapver ++ nat8 16 ++ nat8 24 ++ nat8 16 ++ nat8 0
  else if d ≤ 7 then maskDouble (NSet.has c.retired) (d - 2)
  else if d ≤ 13 then maskDouble (NSet.has c.narrowed) (d - 8)
  else if d = 14 then (0 : BitVec 16) ++ c.ckptDst ++ (0 : BitVec 16)
  else if d = 15 then
    let p := if c.ckptBusy then BitVec.ofNat 16 (s.choose 17 1537) else c.ckptProgress
    BitVec.ofBool c.ckptBusy ++ BitVec.ofBool c.ckptDone ++ BitVec.ofBool c.ckptErr ++ (0 : BitVec 5) ++ c.ckptEcode ++ p ++ (0 : BitVec 32)
  else if d = 16 then (0 : BitVec 16) ++ c.logBase ++ (0 : BitVec 12)
  else BitVec.ofBool c.logLost ++ (0 : BitVec 47) ++ c.logWr ++ c.logRd

def State.capCrypto (s : State) (d : Nat) : Double :=
  if d = 1 then BitVec.ofBool s.cfg.keyBusy ++ BitVec.ofBool s.cfg.keyErr ++ (0 : BitVec 50) ++ s.cfg.keyId else 0

def State.capTier (s : State) (d : Nat) : Double :=
  let c := s.cfg
  if d = 1 then c.tierGen ++ c.tierPop ++ (0 : BitVec 7) ++ BitVec.ofBool c.tierMode ++ (0 : BitVec 32)
  else
    let p := d - 2
    (0 : BitVec 24) ++ BitVec.ofNat 24 (SMap.get 0 c.tierCap p) ++ (0 : BitVec 14) ++ BitVec.ofBool (c.tierPersist.getLsbD p) ++
      BitVec.ofBool (c.tierUp.getLsbD p)

def State.capNukan (s : State) (d : Nat) : Double :=
  let c := s.cfg
  if d = 1 then (0 : BitVec 14) ++ c.portUp ++ nat8 8 ++ BitVec.ofNat 6 18 ++ (0 : BitVec 8) ++ c.devid
  else if d = 6 then (0 : BitVec 6) ++ c.mbxTile ++ c.mbxEnd.extractLsb' 24 8 ++ c.mbxEnd.extractLsb' 16 8 ++ c.mbxEnd.extractLsb' 8 8 ++
    c.mbxEnd.extractLsb' 0 8 ++ (0 : BitVec 15) ++ BitVec.ofBool c.mbxEn
  else if d = 7 then c.peerSize ++ c.peerBase ++ (0 : BitVec 30)
  else 0

def State.capBankside (s : State) (d : Nat) : Double :=
  let c := s.cfg
  if d = 1 then (0 : BitVec 32) ++ nat8 8 ++ nat8 16 ++ BitVec.ofNat 16 384
  else if d = 2 then (0 : BitVec 16) ++ c.nmqBase ++ (0 : BitVec 12)
  else (0 : BitVec 50) ++ c.nmqTail ++ (0 : BitVec 2) ++ c.nmqHead

/-- TEMP and DRAW are measurements: free values, DRAW at or below CAP (R275; log entry 4). -/
def State.capPower (s : State) : Double :=
  (s.free 18).extractLsb' 0 16 ++ BitVec.ofNat 16 ((s.free 19).toNat % (s.cfg.powerCap.toNat + 1)) ++ (0 : BitVec 16) ++ s.cfg.powerCap

def State.capSecurity (s : State) (d : Nat) : Double :=
  let c := s.cfg
  if d = 1 then c.secst
  else if d = 2 then BitVec.ofBool c.secBusy ++ BitVec.ofBool c.secErr ++ c.secEcode ++ (0 : BitVec 4) ++ c.secArg ++ c.secBuf ++ (0 : BitVec 6)
  else if d = 3 then (0 : BitVec 6) ++ c.recovAddr
  else if d = 4 then c.nonce
  else if d ≤ 16 then BitVec.ofNat 64 (bytesBig (((publicKey identityScalar).drop (8 * (d - 5))).take 8))
  else Config.mfgSignature.extractLsb' (64 * (28 - d)) 64

/-- A double of configuration space; offsets without a register read as zero (R391). -/
def State.cfgRead (s : State) (o : Nat) : Double :=
  if o = 0 then s.ident
  else if o = 8 then BitVec.ofNat 64 (s.cfg.capNext 0)
  else
    match s.cfg.capAt o with
    | none => 0
    | some (i, 0) => s.cfg.capHeader i
    | some (i, d) =>
      match i with
      | 0 => s.capGrid d
      | 1 => s.capMemory d
      | 2 => s.capCrypto d
      | 3 => s.capTier d
      | 4 => s.capNukan d
      | 5 => s.capBankside d
      | 6 => (0 : BitVec 16) ++ nat8 2 ++ nat8 128 ++ nat8 8 ++ nat8 6 ++ nat8 128 ++ nat8 32
      | 7 => (0 : BitVec 24) ++ nat8 48 ++ nat8 0xFE ++ BitVec.ofNat 4 15 ++ BitVec.ofNat 4 7 ++ BitVec.ofNat 4 15 ++ (0 : BitVec 12)
      | 8 => (0 : BitVec 16) ++ nat8 8 ++ nat8 64 ++ nat8 64 ++ nat8 128 ++ nat8 40 ++ nat8 32
      | 9 => (0 : BitVec 40) ++ nat8 16 ++ nat8 30 ++ nat8 8
      | 10 => s.capPower
      | _ => s.capSecurity d

/-! ### Writing configuration space -/

/-- One double of a 256-bit key replaced. -/
def putKeyDouble (k : BitVec 256) (i : Nat) (w : Double) : BitVec 256 :=
  let m : BitVec 256 := (0xFFFFFFFFFFFFFFFF : BitVec 256) <<< (64 * i)
  (k &&& ~~~m) ||| ((w.setWidth 256) <<< (64 * i))

/-- CAP is held to 800 to 3,200 (R275). -/
def clampCap (w : BitVec 16) : BitVec 16 := if w.toNat < 800 then 800 else if 3200 < w.toNat then 3200 else w

/-- Write a double by its map (R6, R392): `sv` says that the writer's SV fields count (R262), `node` who writes. The result says whether
the double's own rule refused the write. -/
def State.cfgWrite (s : State) (o : Nat) (w : Double) (sv : Bool) (node : Nat) : State × Bool :=
  match s.cfg.capAt o with
  | some (1, 14) => (if sv then s.modCfg (fun c => { c with ckptDst := w.extractLsb' 16 32 }) else s, false)
  | some (1, 15) => s.writeCkptctl (if sv then w else w &&& ~~~(3 : Double))
  | some (1, 16) => (if sv then s.modCfg (fun c => { c with logBase := w.extractLsb' 12 36 }) else s, false)
  | some (1, 17) =>
    (s.modCfg (fun c => { c with logLost := c.logLost && !w.getLsbD 63, logRd := if sv then w.extractLsb' 0 8 else c.logRd }), false)
  | some (2, 1) =>
    if sv then s.writeKeycmd w else (s.modCfg (fun c => { c with keyErr := c.keyErr && !w.getLsbD 62 }), false)
  | some (2, d) =>
    if 2 ≤ d && d ≤ 5 then (s.modCfg (fun c => { c with keyData1 := putKeyDouble c.keyData1 (d - 2) w }), false)
    else if 6 ≤ d then (s.modCfg (fun c => { c with keyData2 := putKeyDouble c.keyData2 (d - 6) w }), false)
    else (s, false)
  | some (4, 6) =>
    (if sv then s.modCfg (fun c => { c with mbxTile := w.extractLsb' 48 10, mbxEnd := w.extractLsb' 16 32, mbxEn := w.getLsbD 0 }) else s, false)
  | some (4, 7) => (if sv then s.modCfg (fun c => { c with peerSize := w.extractLsb' 48 16, peerBase := w.extractLsb' 30 18 }) else s, false)
  | some (4, d) => if 2 ≤ d && d ≤ 5 then s.mailbox node (d - 2) w else (s, false)
  | some (5, 2) => (if sv then s.modCfg (fun c => { c with nmqBase := w.extractLsb' 12 36 }) else s, false)
  | some (5, 3) => (if sv then s.modCfg (fun c => { c with nmqTail := w.extractLsb' 8 6 }) else s, false)
  | some (10, 1) => (if sv then s.modCfg (fun c => { c with powerCap := clampCap (w.extractLsb' 0 16) }) else s, false)
  | some (11, 2) =>
    if sv then s.writeSeccmd w node else (s.modCfg (fun c => { c with secErr := c.secErr && !w.getLsbD 62 }), false)
  | some (11, 3) => (if sv then s.recover (w.extractLsb' 0 58) else s, false)
  | _ => (s, false)

end Sys2Proof.Machine
end

