-- ==== Sys2Proof/Machine/Flow.lean ====
section
/-!
DEFINITION. Branches, exits, loops, thread creation, groups and barriers (spec/19 R345 to R350 and R361 to R364, spec/11 R186 to
R192).
-/
namespace Sys2Proof.Machine

/-! ### Instructions that act on the machine with the values of their sources -/

/-- Serve one thread of an instruction whose effect is not one value: its sources are read and popped as R286 lays down, `dst`
is pushed or written by the effect itself, and an effect that does not go on pops nothing (log entry 43, DEDUCED). -/
def serveActs (c : Ctx) (s : State) (srcs : List Operand) (dst : Option Operand) (k : State → List Double → Serve) : Serve :=
  match s.set? c.tile c.set with
  | none => .gone s
  | some v =>
    let sp : LaneSpec := { srcs := srcs, dst := dst, f := fun _ => (0, Exc.none) }
    let pend := v.pendingOn c.tid sp.watched
    if !pend.isEmpty then .park s (.groups pend)
    else
      let ins := popEnds v.ent srcs
      let out := dst.bind (fun x => (x.o.outEnd v.ent).map (fun e => (e, x)))
      if ins.any (fun p => s.boundByCube c.tile c.set v.ent true p.1) || out.any (fun p => s.boundByCube c.tile c.set v.ent false p.1) then
        .setFault s { code := Code.chTag }
      else
        match s.pops c.tile [] ins with
        | .wait e n => .park s (.chan [.head e n])
        | .refuse =>
          if out.any (fun p => s.roomAt c.tile p.1 == 0) then .park s (.chan (out.toList.map (fun p => .room p.1)))
          else .setFault s { code := Code.chTag }
        | .take ks =>
          if out.any (fun p => s.roomAt c.tile p.1 == 0) then .park s (.chan (out.toList.map (fun p => .room p.1)))
          else
            match srcs.findSome? (fun x => s.opdPoison c v.ent x.wide x.o) with
            | some w => .fault s (lvsFault w)
            | none =>
              match k s (srcValues c s srcs ks) with
              | .ok s1 m => .ok (ins.foldl (fun s p => s.popAt c.tile p.1) s1) m
              | r => r

/-- A word source of an instruction without a type. -/
def acts1 (c : Ctx) (s : State) (a : Opd) (k : State → Word → Serve) : Serve :=
  serveActs c s [{ o := a }] none (fun s vs => k s ((vs.headD 0).extractLsb' 0 32))

/-! ### Branches (R345, R346) -/

/-- The block indices name thread blocks of the set. -/
def chkBlocks (bs : List (BitVec 12)) (v : SetState) (_ : Ctx) : Option (BitVec 8) :=
  if bs.all (fun b => (v.blocks[b.toNat]?).any (fun x => x.mode == .thread)) then none else some Code.reservedField

def State.setNext (s : State) (c : Ctx) (b : BitVec 12) : State :=
  s.modThread c.tile c.set c.tid (fun th => { th with next := some b.toNat })

/-- br (R346): legal in thread blocks. -/
def execBr (g : Guard) (tgt : BitVec 12) (s : State) : Host.Outcome State Fault Refusal :=
  withPass s g (chkAll [chkBlocks [tgt], chkType allTypes [.thread]]) [] (fun c s => .ok (s.setNext c tgt) none)

/-- br.c (R346). -/
def execBrC (g : Guard) (cond : Opd) (tgt other : BitVec 12) (s : State) : Host.Outcome State Fault Refusal :=
  withPass s g (chkAll [chkBlocks [tgt, other], chkType allTypes [.thread]]) [] (fun c s =>
    acts1 c s cond (fun s w => .ok (s.setNext c (if w == 1 then tgt else other)) none))

/-! ### Exits (R187, R347) -/

/-- One thread exits: it parks while a return group of it is pending; the anchor parks also while the queue holds unissued
commands, or abandons them. -/
def serveExit (abandon : Bool) (c : Ctx) (s : State) : Serve :=
  match s.set? c.tile c.set with
  | none => .gone s
  | some v =>
    let pend := v.groupsOf c.tid
    let queued := v.queue.filter (fun x => x.at' == .queued)
    if !pend.isEmpty then .park s (.groups pend)
    else if c.tid != 0 then .gone (s.retire c.tile c.set c.tid)
    else if abandon then
      let v1 := { v.unqueue (fun x => x.at' != .queued) s.tick with abandoned := BitVec.ofNat 5 queued.length }
      .gone ((s.putSet c.tile c.set v1).retire c.tile c.set 0)
    else if !queued.isEmpty then .park s .exitQueue
    else .gone (s.retire c.tile c.set 0)

/-- exit (R187, R347). -/
def execExit (g : Guard) (s : State) : Host.Outcome State Fault Refusal :=
  withPass s g chkNone [] (serveExit false)

/-- exit.abandon (R187, R347): in a thread other than the anchor it acts as exit. -/
def execExitAbandon (g : Guard) (s : State) : Host.Outcome State Fault Refusal :=
  withPass s g chkNone [] (serveExit true)

/-! ### Loops (R348, R349) -/

/-- The last body index lies after the loop instruction and within the block. -/
def chkLoop (last : BitVec 6) (v : SetState) (c : Ctx) : Option (BitVec 8) :=
  if c.idx < last.toNat && last.toNat < ((v.blocks[c.blk]?).map Block.len).getD 0 then none else some Code.reservedField

/-- Set a loop level of the running sweep: a count of 0 leaves it inactive and skips the body. -/
def Sweep.startLoop (w : Sweep) (n : BitVec 2) (count last : Nat) : Sweep :=
  { w with loops := w.loops.put n.toNat ⟨count, w.idx + 1, last⟩, jump := if count = 0 then some (last + 1) else none }

/-- A loop instruction acts on the sweep, when it issues to the first remaining pass. -/
def loopExec (n : BitVec 2) (last : BitVec 6) (count : Ctx → Nat) (serve : Ctx → State → Serve) (s : State) :
    Host.Outcome State Fault Refusal :=
  match s.focus? with
  | none => .fault .noSweep
  | some (v, w, p) =>
    let c := focusCtx s v w p
    match withPass s ⟨false, 7⟩ (chkLoop last) [] serve with
    | .next s1 =>
      if (w.passes.take w.cur).all (fun p => p.tids.isEmpty) && (chkLoop last v c).isNone then
        .next (s1.modSet s.focusTile s.focusSet (fun v => { v with sweep := v.sweep.map (fun x => x.startLoop n (count c) last.toNat) }))
      else .next s1
    | r => r

/-- loop (R348). -/
def execLoop (n : BitVec 2) (count : BitVec 19) (last : BitVec 6) (s : State) : Host.Outcome State Fault Refusal :=
  loopExec n last (fun _ => count.toNat) (fun _ s => .ok s none) s

/-- loop.r (R348): the count is s[31:0] of the first remaining pass. -/
def execLoopR (n : BitVec 2) (st : BitVec 4) (last : BitVec 6) (s : State) : Host.Outcome State Fault Refusal :=
  loopExec n last (fun c => ((c.s st.toNat).extractLsb' 0 32).toNat) (fun c s => acts1 c s (.s st) (fun s _ => .ok s none)) s

/-! ### Threads and groups (R361, R362) -/

/-- thr.new (R186, R361): the new tid, or all ones. -/
def execThrNew (g : Guard) (d a : Opd) (blk : BitVec 12) (s : State) : Host.Outcome State Fault Refusal :=
  withPass s g (chkAll [chkEnds [a] [d], chkBlocks [blk]]) [] (fun c s =>
    serveActs c s [{ o := a }] (some { o := d }) (fun s vs =>
      let r := s.newThread c.tile c.set c.tid blk.toNat ((vs.headD 0).extractLsb' 0 32)
      .ok (writeOpd c r.1 false 0 d (BitVec.ofNat 64 r.2)) none))

/-- grp.join (R189, R362). -/
def execGrpJoin (g : Guard) (a : Opd) (s : State) : Host.Outcome State Fault Refusal :=
  withPass s g (chkEnds [a] []) [] (fun c s => acts1 c s a (fun s w =>
    match s.join c.tile c.set c.tid (w.extractLsb' 0 16) with
    | none => .fault s { code := Code.groupFull }
    | some s1 => .ok s1 none))

/-- grp.leave (R189, R362). -/
def execGrpLeave (g : Guard) (a : Opd) (s : State) : Host.Outcome State Fault Refusal :=
  withPass s g (chkEnds [a] []) [] (fun c s => acts1 c s a (fun s w => .ok (s.leave c.tile c.set c.tid (w.extractLsb' 0 16)) none))

/-! ### Barriers (R190, R363, R364) -/

/-- A region barrier that the image's table does not have (R363). -/
def State.noBarrier (s : State) (t : Nat) (region : Bool) (n : BitVec 5) : Bool :=
  region &&
    match (s.regionOf t).bind s.region? with
    | some r => decide (r.nbars ≤ n.toNat)
    | none => true

/-- bar.set (R364). -/
def execBarSet (g : Guard) (region : Bool) (n : BitVec 5) (a : Opd) (s : State) : Host.Outcome State Fault Refusal :=
  withPass s g (chkEnds [a] []) [] (fun c s => acts1 c s a (fun s w =>
    if s.noBarrier c.tile region n || 8191 < w.toNat then .fault s { code := Code.barMisuse }
    else
      match s.barSet c.tile region n.toNat w.toNat with
      | none => .fault s { code := Code.barMisuse }
      | some s1 => .ok s1 none))

/-- bar.bind (R364). -/
def execBarBind (g : Guard) (region : Bool) (n : BitVec 5) (a : Opd) (s : State) : Host.Outcome State Fault Refusal :=
  withPass s g (chkEnds [a] []) [] (fun c s => acts1 c s a (fun s w =>
    if s.noBarrier c.tile region n then .fault s { code := Code.barMisuse }
    else
      match s.barBind c.tile region n.toNat (w.extractLsb' 0 16) with
      | none => .fault s { code := Code.barMisuse }
      | some s1 => .ok s1 none))

/-- One thread arrives (R190): it parks at the next instruction, or is held. -/
def serveArrive (region : Bool) (n : BitVec 5) (c : Ctx) (s : State) : Serve :=
  if s.noBarrier c.tile region n then .fault s { code := Code.barMisuse }
  else
    let after := c.loops.after c.idx
    match s.arrive ⟨c.tile, c.set, c.tid, c.mode == .trap⟩ region n.toNat with
    | .misuse => .fault s { code := Code.barMisuse }
    | .parked s1 => .gone ((s1.parkAt c after.2 after.1 (.barrier region n.toNat)).barCheck c.tile region n.toNat)
    | .held s1 => .gone (s1.parkAt c after.2 after.1 (.held region n.toNat c.idx))

/-- bar.arrive (R190, R364). -/
def execBarArrive (g : Guard) (region : Bool) (n : BitVec 5) (s : State) : Host.Outcome State Fault Refusal :=
  withPass s g chkNone [] (serveArrive region n)

end Sys2Proof.Machine
end

