-- ==== Sys2Proof/Machine/Select.lean ====
section
/-!
DEFINITION. The selector and the sequencer (spec/12 R208 to R214, spec/11 R185, spec/19 R344 to R350): which blocks are ready, which
is taken, how a sweep is formed, how issue moves from pass to pass and instruction to instruction, and what happens at
block end.
-/
namespace Sys2Proof.Machine

/-! ### What clears a parked thread (R213, R358) -/

/-- A channel permits what a parked thread waits for. -/
def State.needMet (s : State) (t : Nat) : ChNeed → Bool
  | .head e n => (s.tokenAt t e n).isSome
  | .data e n => (s.tokenAt t e n).any (fun k => !k.isCtl)
  | .anyData es => es.any (fun e => (s.headAt t e).any (fun k => !k.isCtl))
  | .room e => decide (0 < s.roomAt t e)

/-- The cause of a parking has cleared. -/
def State.causeClear (s : State) (t : Nat) (v : SetState) : Cause → Bool
  | .groups ids => ids.all (fun g => (v.groups.look g).isNone)
  | .chan needs => needs.all (s.needMet t)
  | .barrier _ _ => false
  | .held _ _ _ => false
  | .exitQueue => v.queue.all (fun c => c.at' != .queued)
  | .queueFull => decide (v.queue.length < 16)
  | .event n => decide (0 < SMap.get 0 (s.tile t).eq n)
  | .command q => v.queue.all (fun c => c.seq != q)
  | .clear => true

/-! ### Readiness (R184, R185, R209, R393) -/

def SetEntry.chInN (e : SetEntry) (n : Nat) : Nat := e.chin.getD n 255
def SetEntry.chOutN (e : SetEntry) (n : Nat) : Nat := e.chout.getD n 255

/-- An input condition of a header holds: a control token satisfies it only where tag 111 is required (R185). -/
def State.trigIn (s : State) (t : Nat) (e : SetEntry) (x : Option TrigIn) : Bool :=
  match x with
  | none => true
  | some i =>
    match s.headAt t (e.chInN i.ch) with
    | none => false
    | some k =>
      match i.tag with
      | some g => k.tag == g
      | none => !k.isCtl

/-- The guard of a block holds. -/
def State.guardHolds (s : State) (t : Nat) (v : SetState) (b : Block) : Bool :=
  s.trigIn t v.ent b.in1 && s.trigIn t v.ent b.in2 &&
    (match b.out with
      | none => true
      | some n => decide (0 < s.roomAt t (v.ent.chOutN n))) &&
    (v.k &&& b.kmask) == b.kval && (!b.qroom || decide (v.queue.length < 16))

/-- The threads in a block's waiting vector. -/
def SetState.waitingIn (v : SetState) (blk : Nat) : List Nat :=
  (v.threads.filter (fun x => x.2.place == .waiting blk)).map Prod.fst

/-- The eligible threads of a block's resume vector, with their resume indices (R209). -/
def State.resumable (s : State) (t : Nat) (v : SetState) (blk : Nat) : List (Nat × Nat × Thread) :=
  v.threads.filterMap (fun x =>
    match x.2.place with
    | .parked b i why => if b == blk && s.causeClear t v why then some (x.1, i, x.2) else none
    | _ => none)

/-- A block is ready (R185). -/
def State.readyBlk (s : State) (t : Nat) (v : SetState) (n : Nat) (b : Block) : Bool :=
  match b.mode with
  | .thread => s.guardHolds t v b && (!(v.waitingIn n).isEmpty || !(s.resumable t v n).isEmpty)
  | .token =>
    match v.threads.look 0 with
    | none => false
    | some th =>
      th.trap.isNone &&
        match th.place with
        | .idle => s.guardHolds t v b
        | .waiting _ => s.guardHolds t v b
        | .parked m _ why => m == n && s.causeClear t v why
        | _ => false
  | .trap =>
    match v.threads.look 0 with
    | none => false
    | some th =>
      match th.trap with
      | some (m, _, why) => m == n && s.causeClear t v why
      | none => s.guardHolds t v b && v.faulted.any (fun f => !f.forwarded)

/-- The ready blocks of a set, in block order. -/
def State.readyBlocks (s : State) (t : Nat) (v : SetState) : List Nat :=
  (List.range v.blocks.length).filter (fun n => (v.blocks[n]?).any (fun b => s.readyBlk t v n b))

/-! ### Which block is taken (R210) -/

/-- What the selector remembers of a ready block at this selection. -/
def SetState.readiness (v : SetState) (n : Nat) : Ready := (v.ready.look n).getD ⟨0, v.selections, none⟩

/-- A block passed over at each of the last 256 selections. -/
def Ready.starved (r : Ready) : Bool := decide (256 ≤ r.passings)

/-- Least by a key, the first in the list among equals. -/
def leastBy (key : Nat → Nat) : List Nat → Option Nat
  | [] => none
  | n :: l =>
    match leastBy key l with
    | none => some n
    | some m => if key m < key n then some m else some n

/-- The rules of R210 over the ready blocks. -/
def SetState.pick (v : SetState) (ready : List Nat) : Option Nat :=
  let starved := ready.filter (fun n => (v.readiness n).starved)
  if !starved.isEmpty then leastBy (fun n => ((v.readiness n).qual.getD 0)) starved
  else
    let pri (n : Nat) : Nat := ((v.blocks[n]?).map Block.pri).getD 0
    let top := (ready.map pri).foldl max 0
    leastBy (fun n => (v.readiness n).since) (ready.filter (fun n => pri n == top))

/-- The bookkeeping of a selection: the block taken starts anew, a ready block passed over counts one more, and a block
not ready is forgotten. -/
def SetState.afterPick (v : SetState) (ready : List Nat) (taken : Nat) : SMap Ready :=
  ready.filterMap (fun n =>
    if n == taken then none
    else
      let r := v.readiness n
      let p := r.passings + 1
      some (n, ⟨p, r.since, if p == 256 then some v.selections else r.qual⟩))

/-! ### Forming a sweep (R211, R230, R350) -/

/-- Insert into a rising list of thread numbers. -/
def sortTids (l : List Nat) : List Nat := l.foldl NSet.add []

/-- Passes lane by lane: pass p holds the p-th taken thread of each lane, in slot order (R211). -/
def formPasses (w : Nat) (tids : List Nat) : List Pass :=
  let ts := sortTids tids
  let lanes := (List.range w).filter (fun l => ts.any (fun t => t % w == l))
  (List.range 16).filterMap (fun p =>
    let l := lanes.filterMap (fun l => (ts.filter (fun t => t % w == l))[p]?)
    if l.isEmpty then none else some ⟨p, l⟩)

/-- Move the taken threads into the sweep. A fresh sweep's next-block index becomes "none" as the thread passes index 0 (`passBegin`):
a store that the thread made at the end of its last block may still fault, and it resumes there with the index it had (R345, R453). -/
def SetState.take (v : SetState) (passes : List Pass) : SetState :=
  (passes.flatMap Pass.tids).foldl (fun v tid =>
    match v.threads.look tid with
    | none => v
    | some th => v.putThread tid { th with place := .sweep, solo := false }) v

/-- The sweep of a thread block: a resume sweep of the lowest index, or a fresh one. -/
def State.threadSweep (s : State) (t : Nat) (v : SetState) (blk : Nat) : SetState :=
  let res := s.resumable t v blk
  match res with
  | [] =>
    let ps := formPasses v.ent.width (v.waitingIn blk)
    { v.take ps with sweep := some ⟨blk, .thread, 0, ps, 0, none, .zero, [], none⟩ }
  | _ =>
    let low := (res.map (fun x => x.2.1)).foldl min 64
    let at' := res.filter (fun x => x.2.1 == low)
    match at'.find? (fun x => x.2.2.solo) with
    | some x =>
      let ps : List Pass := [⟨0, [x.1]⟩]
      { v.take ps with sweep := some ⟨blk, .thread, low, ps, 0, none, x.2.2.loops, [], some low⟩ }
    | none =>
      match at' with
      | [] => v
      | x :: _ =>
        let same := at'.filter (fun y => y.2.2.loops == x.2.2.loops && (low == 0 || y.2.2.next == x.2.2.next))
        let ps := formPasses v.ent.width (same.map Prod.fst)
        { v.take ps with sweep := some ⟨blk, .thread, low, ps, 0, none, x.2.2.loops, [], none⟩ }

/-- The sweep of a token block: one pass that holds the anchor, which starts or continues. -/
def SetState.tokenSweep (v : SetState) (blk : Nat) : SetState :=
  match v.threads.look 0 with
  | none => v
  | some th =>
    let (idx, loops, home) := match th.place with
      | .parked _ i _ => (i, th.loops, th.home)
      | .waiting b => (0, Loops.zero, some b)
      | _ => (0, Loops.zero, none)
    { v.putThread 0 { th with place := .sweep, solo := false, home := home } with
      sweep := some ⟨blk, .token, idx, [⟨0, [0]⟩], 0, none, loops, [], none⟩ }

/-- The sweep of a trap block, which leaves the anchor's own place alone (R185). -/
def SetState.trapSweep (v : SetState) (blk : Nat) : SetState :=
  match v.threads.look 0 with
  | none => v
  | some th =>
    let (idx, loops) := match th.trap with
      | some (_, i, _) => (i, th.trapLoops)
      | none => (0, Loops.zero)
    { v.putThread 0 { th with trap := none } with sweep := some ⟨blk, .trap, idx, [⟨0, [0]⟩], 0, none, loops, [], none⟩ }

def State.formSweep (s : State) (t : Nat) (v : SetState) (blk : Nat) (b : Block) : SetState :=
  match b.mode with
  | .thread => s.threadSweep t v blk
  | .token => v.tokenSweep blk
  | .trap => v.trapSweep blk

/-! ### Block end (R187, R214, R345) -/

/-- A thread exits at an index: it parks while a return group is pending, the anchor also while the queue holds unissued
commands, and otherwise it retires (R187). -/
def State.exitThread (s : State) (t o tid blk idx : Nat) : State :=
  match s.set? t o with
  | none => s
  | some v =>
    let pend := v.groupsOf tid
    let parkWith (why : Cause) : State :=
      (s.modThread t o tid (fun th => { th with place := .parked blk idx why, loops := .zero })).modSet t o (fun v => v.count 0x06 1)
    if !pend.isEmpty then parkWith (.groups pend)
    else if tid == 0 && v.queue.any (fun c => c.at' == .queued) then parkWith .exitQueue
    else s.retire t o tid

/-- A thread at the end of a thread block takes its branch or exits. -/
def State.endThread (s : State) (t o blk len tid : Nat) : State :=
  match s.thread? t o tid with
  | none => s
  | some th =>
    let s1 := s.leaveBar t o tid false
    match (if len = 0 then none else th.next), th.retiring with
    | some b, false => s1.modThread t o tid (fun th => { th with place := .waiting b })
    | _, _ => s1.exitThread t o tid blk len

/-- The sweep ends at block end. -/
def State.blockEnd (s : State) (t o : Nat) (w : Sweep) (len : Nat) : State :=
  let s1 := s.modSet t o (fun v => { v with sweep := none })
  match w.mode with
  | .thread => (w.passes.flatMap Pass.tids).foldl (fun s tid => s.endThread t o w.blk len tid) s1
  | .token =>
    if ((s.thread? t o 0).map Thread.retiring).getD false then s1.exitThread t o 0 w.blk len
    else (s1.leaveBar t o 0 false).modThread t o 0 (fun th => { th with place := (th.home.map Place.waiting).getD .idle })
  | .trap => s1.leaveBar t o 0 true

/-- A sweep that stands past its last instruction ends at once: a thread that resumed at block end (R229, R345). -/
def State.endIfPast (s : State) (t o : Nat) : State :=
  match s.set? t o with
  | none => s
  | some v =>
    match v.sweep with
    | none => s
    | some w =>
      let len := ((v.blocks[w.blk]?).map Block.len).getD 0
      if len ≤ w.idx then s.blockEnd t o w len else s

/-- After an instruction has been issued to a pass (R212, R349): the next pass, or the next instruction, or block end. A set
that has stopped stands as it is (R224). -/
def State.advance (s : State) (t o : Nat) : State :=
  match s.set? t o with
  | none => s
  | some v =>
    match v.sweep with
    | none => s
    | some w =>
      if v.stopped then s
      else if w.cur + 1 < w.passes.length then
        s.putSet t o { v with sweep := some { w with cur := w.cur + 1, done := [] } }
      else
        let ps := w.passes.filter (fun p => !p.tids.isEmpty)
        if ps.isEmpty then s.putSet t o { v with sweep := none }
        else
          let (loops, idx) := match w.jump with
            | some j => (w.loops, j)
            | none => w.loops.after w.idx
          (s.putSet t o { v with sweep := some ⟨w.blk, w.mode, idx, ps, 0, none, loops, [], none⟩ }).endIfPast t o

/-! ### SELECTION (R210) -/

/-- A block's header tests the tag of a token at an end that the tile's cube binding holds for the set (R378). -/
def State.testsBound (s : State) (t o : Nat) (v : SetState) (b : Block) : Bool :=
  (b.in1.toList ++ b.in2.toList).any (fun i =>
    let e := v.ent.chInN i.ch
    s.boundByCube t o v.ent true e && (s.headAt t e).isSome)

/-- The conditions of a block's header that Gust can name (R253). -/
def State.blockConds (s : State) (t : Nat) (v : SetState) (b : Block) : List FireCond :=
  (b.in1.map (fun i => s.condIn t 0 (v.ent.chInN i.ch))).toList ++ (b.in2.map (fun i => s.condIn t 1 (v.ent.chInN i.ch))).toList ++
    (b.out.map (fun n => s.condOut t (v.ent.chOutN n))).toList ++ (if b.qroom then [{ code := 3, since := v.roomSince }] else []) ++
    (if b.kmask == 0 then [] else
      [{ code := 4, since := ((List.range 8).map (fun n => if b.kmask.getLsbD n then SMap.get 0 v.kSince n else 0)).foldl max 0 }])

/-- The note of the firing that a selection of a token or trap block makes. -/
def State.blockNote (s : State) (t o : Nat) (v : SetState) (blk : Nat) (b : Block) : Note :=
  s.noteOf t o blk 0 (blockKey o blk) v.eoiInvoc (s.blockConds t v b)

/-- The event that a selection is: a firing of a token or trap block, or a sweep. -/
def State.selEvent (s : State) (t o : Nat) (v : SetState) (blk : Nat) (b : Block) (w : Sweep) : TraceEv :=
  match b.mode with
  | .thread =>
    let n := (w.passes.flatMap Pass.tids).length
    ⟨t, o, blk, s.blockNode t o blk, v.eoiInvoc, 2, .sweep, BitVec.ofNat 32 (w.passes.length + 32 * n), 0, none⟩
  | _ => fireEvent t (s.blockNote t o v blk b)

/-- The anchor is parked in a block: a selection of it goes on with the firing that is under way (R209). -/
def SetState.underWay (v : SetState) (blk : Nat) (b : Block) : Bool :=
  match v.threads.look 0 with
  | none => false
  | some th =>
    match b.mode, th.place with
    | .trap, _ => th.trap.isSome
    | .token, .parked m _ _ => m == blk
    | _, _ => false

/-- What a selection observes, once it is no longer held: a firing that goes on is no new one. -/
def State.selObserve (s : State) (t o : Nat) (v : SetState) (n : Nat) (b : Block) (w : Sweep) : State :=
  if v.underWay n b then s
  else
    let s1 := s.observe (s.selEvent t o v n b w)
    if b.mode == .thread then s1
    else
      let note := s.blockNote t o v n b
      (s1.noteFiring t 0 (blockKey o n) note).probeFiring t note

/-- A set's selector takes a ready block and forms its sweep (R208 to R211); an armed breakpoint halts the region before the
first instruction issues (R244), and a lossless full Drift stalls the selection (R251). While the region comes to a halt, only an element
that matches as well is selected, and stops there (R245). -/
def State.select (s : State) (t o : Nat) : State :=
  match s.set? t o with
  | none => s
  | some v0 =>
    if v0.sweep.isSome || v0.stopped || !v0.fwd.isEmpty || !(s.runs t || s.halting t) then s
    else if v0.driftHeld then s.perturbed t o
    else
      let v := { v0 with regs := { v0.regs with bkptOn := v0.regs.bkpt } }
      let ready := s.readyBlocks t v
      match v.blocks.findIdx? (s.testsBound t o v) with
      | some n => if s.runs t then s.setFaultAt t o { code := Code.chTag } 0 n 0 else s
      | none =>
      match v.pick ready with
      | none => s
      | some n =>
        match v.blocks[n]? with
        | none => s
        | some b =>
          let v1 := s.formSweep t v n b
          match v1.sweep with
          | none => s
          | some w =>
            let hit := if v.underWay n b then none else s.bkptHit v (s.blockNode t o n) v.eoiInvoc (b.mode != .thread)
            if !s.runs t && hit.isNone then s
            else if !v.underWay n b && s.traceStalls (s.selEvent t o v n b w) then s.driftStall t o
            else
              let v2 := { v1 with ready := v.afterPick ready n, selections := v.selections + 1 }.count 0x02 1
              let s1 := (s.putSet t o v2).selObserve t o v n b w
              let s2 := match hit, s.regionOf t with
                | some k, some r => s1.halt r (.block t o n) (BitVec.ofNat 8 k)
                | _, _ => s1
              s2.endIfPast t o

end Sys2Proof.Machine
end

