-- ==== Sys2Proof/Machine/Issue.lean ====
section
/-!
DEFINITION. Fetching and issuing (spec/12 R212, spec/16 R278): the pool word that a set's sweep issues next, the traps of a word that
does not decode, and what stands around the execution of an instruction.
-/
namespace Sys2Proof.Machine

/-- The pool word of instruction `idx` of a block, within the tile's pool (R183, R184). -/
def poolWord (o : Nat) (b : Block) (idx : Nat) : Nat := o * 2048 + b.pool + 1 + idx

/-- What a set issues next: nothing (perhaps held by a full Drift); a pass that traps; or an instruction. -/
inductive Fetch where
  | stall (s : State)
  | trap (s : State)
  | run (i : Instr) (s : State)

/-- The event of a mark for one thread (R407). -/
def State.markEvent (s : State) (t o : Nat) (v : SetState) (w : Sweep) (val : Word) : TraceEv :=
  ⟨t, o, w.blk, s.blockNode t o w.blk, v.eoiInvoc, 4, .mark, val,
    BitVec.ofNat 16 w.loops.l3.c ++ BitVec.ofNat 16 w.loops.l2.c ++ BitVec.ofNat 16 w.loops.l1.c ++ BitVec.ofNat 16 w.loops.l0.c, none⟩

/-- A set's sequencer takes a word for a pass (R212): threads released from a barrier leave it as they issue (R190), and those that begin a
block forget the block that brought them there, unless a store group holds them back (R345, R453). A trap block leaves the anchor's own state
alone (R185). -/
def State.atIssue (s : State) (t o : Nat) (v : SetState) (trap : Bool) (idx : Nat) (p : Pass) : State :=
  (p.tids.foldl (fun (s : State) tid =>
    let s1 := s.leaveBar t o tid trap
    if !trap && (v.storePending tid).isEmpty then s1.passBegin t o idx tid else s1) { s with focusTile := t, focusSet := o }).modSet t o (fun v => v.count 0x01 1)

/-- Fetch for a set: its current pass issues the word at its sweep's index. A poisoned pool word is a set fault (R239), once a thread issues it (R453). -/
def State.fetch (s : State) (t o : Nat) : Fetch :=
  match s.set? t o with
  | none => .stall s
  | some v =>
    match v.sweep with
    | none => .stall s
    | some w =>
      match w.passes[w.cur]?, v.blocks[w.blk]? with
      | some p, some b =>
        if v.stopped || !s.runs t then .stall s
        else if v.driftHeld then .stall (s.perturbed t o)
        else
          let a := poolWord o b w.idx
          let tid := p.tids.headD 0
          let held := p.tids.filter (fun tid => !(v.storePending tid).isEmpty)
          if NSet.has (s.tile t).poolPoison a && held.length < p.tids.length then
            .trap (s.setFaultAt t o { code := Code.hwDetected, elem := 0x05 } tid w.blk w.idx)
          else
            let s2 := s.atIssue t o v (w.mode == .trap) w.idx p
            let c := focusCtx s2 v w p
            let trap (code : BitVec 8) : Fetch :=
              .trap ((p.tids.foldl (trapPass c code) ⟨s2, [], [], [], 0, false⟩).close c [])
            match decodeWord (SMap.get 0 (s.tile t).pool a) with
            | .error .reservedField => trap Code.reservedField
            | .error _ => trap Code.illegalOp
            | .ok i => .run i s2
      | _, _ => .stall s

/-- The anchor is parked in the firing that its sweep was making: the firing is still under way (R209). -/
def State.midFiring (s : State) (t o : Nat) (w : Sweep) : Bool :=
  match s.thread? t o 0 with
  | none => false
  | some th =>
    match w.mode, th.trap, th.place with
    | .trap, some _, _ => true
    | .token, _, .parked b _ _ => b == w.blk
    | _, _, _ => false

/-- After execution: the sequencer advances, and a region that steps has made its step (R248). A pass that a full Drift stalls issues again
when there is room, and is one issue all the same (R251, R409). -/
def State.issued (s : State) (t o : Nat) : State :=
  let s1 := s.advance t o
  match s.set? t o with
  | none => s1
  | some v =>
    match v.sweep with
    | none => s1
    | some w =>
      if v.driftHeld then s.modSet t o (fun v => v.count 0x01 (2 ^ 48 - 1))
      else if w.mode == .thread then s1.stepDone t (.block t o w.blk)
      else if ((s1.set? t o).bind SetState.sweep).isSome || s1.midFiring t o w then s1
      else s1.stepDone t (.block t o w.blk)

end Sys2Proof.Machine
end

