-- ==== Sys2Proof/Machine/Slots.lean ====
section
/-!
DEFINITION. Operand slots (spec/10 R166 to R168, spec/20 R366, R367): states, owners and readers, and the claim and release commands.
-/
namespace Sys2Proof.Machine

def State.slot (s : State) (t n : Nat) : Slot := SMap.get Slot.reset (s.tile t).slots n

def State.putSlot (s : State) (t n : Nat) (x : Slot) : State :=
  let y := s.tile t
  s.putTile t { y with slots := SMap.put Slot.reset y.slots n x }

/-- What a command does to one slot (R167): fault, wait, or go on. -/
inductive SlotAct where
  | fault | wait | go
  deriving DecidableEq, Repr

/-- The rows of R167. -/
inductive SlotCmd where
  | claim | fill | use | release
  deriving DecidableEq, Repr

/-- The table of R167 for a slot, with CLEARING and ownership; a held tile's slots belong to another set (R233). -/
def State.slotAct (s : State) (t o n : Nat) (k : SlotCmd) : SlotAct :=
  let x := s.slot t n
  if (s.tile t).heldFor.isSome then .fault
  else if x.st != .free && x.owner != o then .fault
  else
    match x.st, k with
    | .clearing, _ => .wait
    | .free, .claim => .go
    | _, .claim => .fault
    | .free, _ => .fault
    | .claimed, .fill => .go
    | .claimed, .use => .fault
    | .claimed, .release => .go
    | .filling, _ => .wait
    | .ready, _ => .go
    | .inUse, .use => .go
    | .inUse, _ => .wait

/-- A run taken all or nothing (R367). -/
def State.runAct (s : State) (t o : Nat) (k : SlotCmd) (run : List Nat) : SlotAct :=
  if run.any (fun n => s.slotAct t o n k == .fault) then .fault
  else if run.any (fun n => s.slotAct t o n k == .wait) then .wait
  else .go

def State.setRun (s : State) (t o : Nat) (run : List Nat) (st : SlotSt) : State := s.putTile t ((s.tile t).setRun o run st)

/-- Slots become FREE. -/
def State.freeRun (s : State) (t : Nat) (run : List Nat) : State := run.foldl (fun s n => s.putSlot t n Slot.reset) s

/-- A cube command or binding reads slots, and stops reading them. -/
def State.useRun (s : State) (t : Nat) (run : List Nat) : State :=
  run.foldl (fun s n => let x := s.slot t n
    s.putSlot t n { x with st := .inUse, readers := x.readers + 1 }) s

def State.unuseRun (s : State) (t : Nat) (run : List Nat) : State :=
  run.foldl (fun s n => let x := s.slot t n
    if x.st != .inUse then s else s.putSlot t n { x with st := if x.readers ≤ 1 then .ready else .inUse, readers := x.readers - 1 }) s

def slotFault (c : Cmd) : FaultInfo := { code := Code.slotState, ac := c.ac }

/-- Commands of the set that issued earlier and have not retired. -/
def SetState.earlier (v : SetState) (seq : Nat) : List Cmd := v.queue.takeWhile (fun c => c.at' != CmdAt.queued && c.seq != seq)

/-- A fill of the set that issued earlier, has not stopped and has not yet taken its run, names a slot of this run: the slots are taken in
issue order (R215, R370; log entry 39, DEDUCED). -/
def SetState.fillBefore (v : SetState) (seq : Nat) (run : List Nat) : Bool :=
  (v.earlier seq).any (fun k => match k.i with
    | .slotFill _ f n _ _ => k.at' == CmdAt.issued && decide (k.stage ≤ 1) && (slotRun f.toNat n.toNat).any run.contains
    | _ => false)

/-- slot.claim under way (R167, R367): CLEARING at once, done when every slot is CLAIMED. -/
def State.claimStep (s : State) (t o : Nat) (v : SetState) (c : Cmd) (run : List Nat) : State :=
  if c.stage = 0 then
    match if v.fillBefore c.seq run then .wait else s.runAct t o .claim run with
    | .fault => s.stopCmd t o c (slotFault c)
    | .wait => s
    | .go => (s.setRun t o run .clearing).modCmd t o c.seq (fun c => { c with stage := 2 })
  else if run.any (fun n => (s.slot t n).st == .clearing) then s
  else s.cmdDone t o c.seq

/-- slot.rel under way. -/
def State.relStep (s : State) (t o : Nat) (v : SetState) (c : Cmd) (run : List Nat) : State :=
  match if v.fillBefore c.seq run then .wait else s.runAct t o .release run with
  | .fault => s.stopCmd t o c (slotFault c)
  | .wait => s
  | .go => (s.freeRun t run).cmdDone t o c.seq

def isBarrier : Instr → Bool
  | .engBar _ => true
  | _ => false

/-- nmq.sub under way (R404): the value captured from the register is the new TAIL. -/
def State.nmqSubStep (s : State) (t o : Nat) (c : Cmd) : State :=
  if c.addr.extractLsb' 6 58 != 0 then s.stopCmd t o c { code := Code.cfgImage, ac := c.ac }
  else { s with cfg := { s.cfg with nmqTail := c.addr.extractLsb' 0 6 } }.cmdDone t o c.seq

/-- What acts at issue: a claim or a release takes every slot of its run, or faults, or waits (R367), and a submission writes TAIL (R404). -/
def State.actAtIssue (s : State) (t o : Nat) (v : SetState) (c : Cmd) : State :=
  match c.i with
  | .nmqSub _ _ => s.nmqSubStep t o c
  | .slotClaim _ f k => s.claimStep t o v c (slotRun f.toNat k.toNat)
  | .slotRel _ f k => s.relStep t o v c (slotRun f.toNat k.toNat)
  | _ => s

/-- ENGINE_QUEUE_ISSUE (R215, R219, R316, R367): the head of a set's queue issues. -/
def execEngineQueueIssue (t o : Nat) (s : State) : Host.Outcome State Fault Refusal :=
  match s.set? t o with
  | none => .next s
  | some v =>
    match splitQueue v.queue with
    | (_, none) => .next s
    | (before, some (c, rest)) =>
      let token := match (c.i.com?).bind SCom.wq with
        | some n => decide (0 < SMap.get 0 (s.tile t).eq n.toNat)
        | none => true
      let accepts := !c.i.onCopyEngine || decide (s.copyLoad t < 4)
      let gated := !c.gate.all s.met
      if v.driftHeld then .next (s.perturbed t o)
      else if v.stopped || !s.runs t || !token || !accepts || gated || !v.portsFree c.i || (isBarrier c.i && !before.isEmpty) then .next s
      else
        let k := { c with at' := .issued, seq := v.cmdSeq.toNat, invoc := v.eoiInvoc }
        let s1 := s.putSet t o { v with queue := before ++ k :: rest, cmdSeq := v.cmdSeq + 1 }
        let x := s1.tile t
        let s2 := match (c.i.com?).bind SCom.wq with
          | some n => s1.putTile t { x with eq := SMap.put 0 x.eq n.toNat (SMap.get 0 x.eq n.toNat - 1) }
          | none => s1
        let s3 := (s2.reach t o k).actAtIssue t o { v with queue := before ++ k :: rest } k
        if isBarrier c.i then .next ((s3.cmdDone t o k.seq).retireCmd t o v k) else .next s3

/-- Bytes of operand memory become zero, and sound. -/
def State.zeroSlot (s : State) (t n : Nat) : State :=
  let x := s.tile t
  let lo := n * 16384
  s.putTile t { x with opmem := x.opmem.filter (fun p : Nat × Byte => !(lo ≤ p.1 && p.1 < lo + 16384)),
                       opPoison := x.opPoison.filter (fun d => !(lo ≤ d * 8 && d * 8 < lo + 16384)) }

/-- A claim clears the slots of its run one after another (R367): this slot is the next. -/
def State.nextClear (s : State) (t n : Nat) : Bool :=
  let x := s.slot t n
  x.st == .clearing &&
    match s.set? t x.owner with
    | none => true
    | some v =>
      v.queue.all (fun c => match c.i with
        | .slotClaim _ f m =>
          let run := slotRun f.toNat m.toNat
          !(c.stage == 2 && run.contains n) || run.all (fun k => n ≤ k || (s.slot t k).st != .clearing)
        | _ => true)

/-- SLOT_CLEAR_DONE (R167, R367). -/
def execSlotClearDone (t n : Nat) (s : State) : Host.Outcome State Fault Refusal :=
  if s.nextClear t n then .next ((s.zeroSlot t n).putSlot t n { s.slot t n with st := .claimed }) else .next s

/-- slot.claim (R366). -/
def execSlotClaim (m : SCom) (first countM1 : BitVec 4) (s : State) : Host.Outcome State Fault Refusal :=
  enterExec (.slotClaim m first countM1) m none false false s

/-- slot.rel (R366). -/
def execSlotRel (m : SCom) (first countM1 : BitVec 4) (s : State) : Host.Outcome State Fault Refusal :=
  enterExec (.slotRel m first countM1) m none false false s

end Sys2Proof.Machine
end

