-- ==== Sys2Proof/Machine/CubeShape.lean ====
section
/-!
DEFINITION. The cube's descriptor (spec/20 R371, R372), the slots that a command names (spec/10 R168, R178), and the binding in force
(R175, R377), which fault handling also ends.
-/
namespace Sys2Proof.Machine

/-! ### The descriptor (R371, R372) -/

/-- MODE (R170). -/
inductive CubeMode where
  | mm | gate | spread | fold
  deriving DecidableEq, Repr

def CubeMode.code : CubeMode → Nat
  | .mm => 0
  | .gate => 1
  | .spread => 2
  | .fold => 3

structure CubeDesc where
  mode : CubeMode
  bind : Bool
  cls : Nat
  fa : BitVec 6
  fb : BitVec 6
  fg : BitVec 6
  sca : Bool
  scb : Bool
  scg : Bool
  gface : Bool
  acc : Bool
  coop : Bool
  bl : Nat
  m : Nat
  n : Nat
  k : Nat
  l : Nat
  j : Nat
  r : Nat
  mpM1 : Nat
  a0 : Nat
  b0 : Nat
  g0 : Nat
  row0 : Nat
  col0 : Nat
  deriving DecidableEq, Repr

def cubeDesc (mode : CubeMode) (bind : Bool) (ds : List Double) : CubeDesc :=
  let d0 := ds.getD 0 0
  let d1 := ds.getD 1 0
  let d2 := ds.getD 2 0
  { mode := mode, bind := bind, cls := (d0.extractLsb' 62 2).toNat, fa := d0.extractLsb' 56 6, fb := d0.extractLsb' 50 6,
    fg := d0.extractLsb' 44 6, sca := d0.getLsbD 43, scb := d0.getLsbD 42, scg := d0.getLsbD 41, gface := d0.getLsbD 40,
    acc := d0.getLsbD 39, coop := d0.getLsbD 38, bl := (d0.extractLsb' 30 8).toNat, m := (d1.extractLsb' 54 10).toNat,
    n := (d1.extractLsb' 45 9).toNat, k := (d1.extractLsb' 35 10).toNat, l := (d1.extractLsb' 31 4).toNat, j := (d1.extractLsb' 25 6).toNat,
    r := (d1.extractLsb' 16 9).toNat, mpM1 := (d1.extractLsb' 12 4).toNat, a0 := (d2.extractLsb' 60 4).toNat, b0 := (d2.extractLsb' 56 4).toNat,
    g0 := (d2.extractLsb' 52 4).toNat, row0 := (d2.extractLsb' 39 9).toNat, col0 := (d2.extractLsb' 31 8).toNat }

/-- Element size of the class (R165). -/
def CubeDesc.z (d : CubeDesc) : Nat :=
  match d.cls with
  | 0 => 1
  | 1 => 2
  | _ => 4

/-- A plane format code that R372 gives a meaning. -/
def CubeDesc.fmtOk (d : CubeDesc) (f : BitVec 6) : Bool :=
  if d.cls = 0 then (if f.getLsbD 5 then f.extractLsb' 1 4 == 0 else f.extractLsb' 2 3 != 0) else f == 0

def CubeDesc.scaled (d : CubeDesc) : Bool := d.sca || d.scb || d.scg

/-- RESERVED_FIELD (R372): a reserved bit, a code without meaning, or a field that the mode does not use. -/
def CubeDesc.badField (d : CubeDesc) (ds : List Double) : Bool :=
  let d2 := ds.getD 2 0
  (ds.getD 0 0).extractLsb' 0 30 != 0 || (ds.getD 1 0).extractLsb' 0 12 != 0 || d2.extractLsb' 48 4 != 0 || d2.extractLsb' 0 31 != 0 ||
    ds.getD 3 0 != 0 || d.cls == 3 || !d.fmtOk d.fa || !d.fmtOk d.fb || (d.bl != 0 && (!d.scaled || d.mode == .fold)) || (!d.bind && d.mpM1 != 0) ||
    match d.mode with
    | .mm => d.fg != 0 || d.scg || d.gface || d.g0 != 0 || d.l != 0 || d.j != 0 || d.r != 0 || (d.bind && d.m != 0)
    | .gate => !d.fmtOk d.fg || d.l != 0 || d.j != 0 || d.r != 0 || (d.bind && d.m != 0)
    | .spread => !d.fmtOk d.fg || d.gface || d.j != 0 || d.r != 0
    | .fold => !d.fmtOk d.fg || d.gface || d.n != 0 || d.k != 0

/-- Rows and columns of the output region (R170, R377). -/
def CubeDesc.rows (d : CubeDesc) : Nat := if d.bind then 32 * (d.mpM1 + 1) else d.m

def CubeDesc.cols (d : CubeDesc) : Nat :=
  match d.mode with
  | .spread => d.l * d.n
  | .fold => d.r
  | _ => d.n

/-- The slot runs that a command names (R168): first slot and count of A or X, of B, and of G or C. -/
def CubeDesc.runA (d : CubeDesc) : Nat × Nat :=
  if d.bind then (d.a0, 2)
  else
    match d.mode with
    | .fold => (d.a0, if d.cls = 2 then 2 else 1)
    | _ => (d.a0, d.m / 32)

def CubeDesc.runB (d : CubeDesc) : Nat × Nat :=
  match d.mode with
  | .fold => (d.b0, d.r / 32)
  | _ => (d.b0, d.n / 32)

def CubeDesc.runG (d : CubeDesc) : Nat × Nat :=
  match d.mode with
  | .mm => (d.g0, 0)
  | .gate => (d.g0, if d.gface then d.n / 32 else d.m / 32)
  | .spread => (d.g0, 1)
  | .fold => (d.g0, d.r / 32)

/-! ### Cooperative membership (R177, R178) -/

def State.cubegrp (s : State) (t : Nat) : Double := ((s.tile t).active.map Plane.cubegrp).getD 0

def grpEn (g : Double) : Bool := g.getLsbD 63
def grpGid (g : Double) : Nat := (g.extractLsb' 50 6).toNat
def grpRid (g : Double) : Nat := (g.extractLsb' 48 2).toNat
def grpCid (g : Double) : Nat := (g.extractLsb' 46 2).toNat

/-- Which planes a member sources: A, B and G. -/
def CubeDesc.sources (d : CubeDesc) (g : Double) : Bool × Bool × Bool :=
  if !d.coop then (true, true, true)
  else
    let a := grpCid g == 0
    let b := grpRid g == 0
    (a, b, if d.gface then b else a)

/-- The slot runs that a command takes on its own tile. -/
def CubeDesc.ownRuns (d : CubeDesc) (g : Double) : List (Nat × Nat) :=
  let w := d.sources g
  (if w.1 then [d.runA] else []) ++ (if w.2.1 then [d.runB] else []) ++ (if w.2.2 then [d.runG] else [])

def CubeDesc.ownSlots (d : CubeDesc) (g : Double) : List Nat :=
  ((d.ownRuns g).flatMap (fun r : Nat × Nat => (List.range r.2).map (r.1 + ·))).eraseDups

/-- The members of a tile's group: the tiles of its region on its die that carry its GID. -/
def State.groupTiles (s : State) (t : Nat) : List Nat :=
  let g := s.cubegrp t
  match (s.regionOf t).bind s.region? with
  | some r => r.tiles.filter (fun u => dieOf u == dieOf t && grpEn (s.cubegrp u) && grpGid (s.cubegrp u) == grpGid g)
  | none => [t]

/-- What the n-th command of a group member holds of its sources, in its `aux` after the count: 16 × plane + slot for each plane (0 A, 1 B, 2 G)
that another member sources and whose slots are IN USE for it. -/
def Cmd.grant (c : Cmd) (plane : Nat) : Option Nat := (c.aux.tail.find? (fun g => g / 16 == plane)).map (· % 16)

/-- The member of a tile's group that sources its row's planes, or its column's (R178): itself, or the member at the edge. -/
def State.sourceTile (s : State) (t : Nat) (d : CubeDesc) (row : Bool) : Nat :=
  let g := s.cubegrp t
  if !d.coop || (if row then grpCid g else grpRid g) == 0 then t
  else
    ((s.groupTiles t).find? (fun u =>
      let h := s.cubegrp u
      if row then grpCid h == 0 && grpRid h == grpRid g else grpRid h == 0 && grpCid h == grpCid g)).getD t

/-- The planes of a command: the number, whether the row's member sources it, and the run, were it one's own. -/
def CubeDesc.planes (d : CubeDesc) : List (Nat × Bool × (Nat × Nat)) :=
  [(0, true, d.runA), (1, false, d.runB)] ++ (if d.mode == .mm then [] else [(2, !d.gface, d.runG)])

/-- The slots that a command reads on other members' tiles. -/
def State.lentSlots (s : State) (t : Nat) (d : CubeDesc) (c : Cmd) : List (Nat × List Nat) :=
  d.planes.filterMap (fun p => (c.grant p.1).map (fun f => (s.sourceTile t d p.2.1, (List.range p.2.2.2).map (f + ·))))

/-- A command stops reading its slots: its own, once it has taken them, and those of other members. -/
def State.leaveSlots (s : State) (t : Nat) (d : CubeDesc) (c : Cmd) : State :=
  let s1 := if c.stage = 3 ∨ c.stage = 4 then s.unuseRun t (d.ownSlots (s.cubegrp t)) else s
  (s1.lentSlots t d c).foldl (fun s x => s.unuseRun x.1 x.2) s1

/-! ### Panels (R174) -/

/-- Stage groups of a command. -/
def CubeDesc.groups (d : CubeDesc) : Nat :=
  match d.mode with
  | .mm => d.k / 8
  | .gate => d.k / 8
  | .spread => d.k
  | .fold => d.j

/-- MODE of a slot-mode command. -/
def cubeMode? : Instr → Option CubeMode
  | .cubeMm .. => some .mm
  | .cubeGate .. => some .gate
  | .cubeSpread .. => some .spread
  | .cubeFold .. => some .fold
  | _ => none

/-- A cube command stands within a panel, at whose boundary a pre-emption or a halt stops it (R181). -/
def Cmd.midPanel (c : Cmd) : Bool :=
  match cubeMode? c.i with
  | some m => c.at' == .issued && c.stage == 3 && c.pos % (cubeDesc m false c.ds).groups != 0
  | none => false

/-- The cube of some tile of a region is within a panel. -/
def State.midPanel (s : State) (x : Region) : Bool := x.tiles.any (fun t => (s.setsOf t).any (fun v => v.2.queue.any Cmd.midPanel))

/-! ### The binding in force (R175, R377) -/

def Binding.desc (b : Binding) : CubeDesc := cubeDesc (if b.gate then .gate else .mm) true b.ds

def Binding.slots (b : Binding) : List Nat := b.desc.ownSlots 0

/-- End a binding: its slots return, and what its buffers hold is discarded. -/
def State.endBinding (s : State) (t : Nat) : State :=
  let x := s.tile t
  match x.cube.binding with
  | none => s
  | some b => (s.putTile t { x with cube := { x.cube with binding := none } }).unuseRun t b.slots

def State.modBinding (s : State) (t : Nat) (f : Binding → Binding) : State :=
  let x := s.tile t
  s.putTile t { x with cube := { x.cube with binding := x.cube.binding.map f } }

/-! ### Abandoning a command (R229) -/

/-- What a command that leaves its queue before its end leaves behind: an abandoned fill that was moving leaves its run READY (R370), and
a cube command stops reading its slots. -/
def State.abandonUnits (s : State) (t o : Nat) (c : Cmd) : State :=
  match c.i, cubeMode? c.i with
  | .slotFill _ f n _ _, _ => if 2 ≤ c.stage then s.setRun t o (slotRun f.toNat n.toNat) .ready else s
  | _, some m => s.leaveSlots t (cubeDesc m false c.ds) c
  | _, none => s

end Sys2Proof.Machine
end

