-- ==== Sys2Proof/Machine/Handle.lean ====
section
/-!
DEFINITION. What handles a fault (spec/13 R228 to R230, spec/21 R393 to R396): the six actions of FLTCMD, which trap blocks make on
their own set's records, and the forwarding of a record.
-/
namespace Sys2Proof.Machine

/-- The fault record of a thread or command in the vector; `view` counts only those not forwarded. -/
def SetState.entry? (v : SetState) (eng : Bool) (who : Nat) (view : Bool) : Option FaultEntry :=
  v.faulted.find? (fun e => e.eng == eng && e.who == who && (!view || !e.forwarded))

/-- A command leaves its queue and every unit that knows it. -/
def State.dropCmd (s : State) (t o seq : Nat) : State :=
  let s1 := (s.forgetWalks t o seq).modSet t o (fun v => v.unqueue (fun c => c.at' == .queued || c.seq != seq) s.tick)
  let x := s1.tile t
  s1.putTile t { x with cube := { x.cube with cmds := x.cube.cmds.filter (· != (o, seq)) },
                        arrs := x.arrs.map (fun a => (a.1, { a.2 with cmds := a.2.cmds.filter (· != (o, seq)) })) }

/-- Resume a thread (R229, R230). -/
def State.fltResume (s : State) (t o tid : Nat) (view : Bool) : Option State :=
  match s.set? t o, s.thread? t o tid with
  | some v, some th =>
    if v.setFault || (v.entry? false tid view).isNone then none
    else
      match th.place with
      | .faulted blk idx => some (s.putSet t o (v.resumeAt tid blk idx))
      | _ => none
  | _, _ => none

/-- Skip: resume one instruction on; refused past block end. -/
def State.fltSkip (s : State) (t o tid : Nat) (view : Bool) : Option State :=
  match s.set? t o, s.thread? t o tid with
  | some v, some th =>
    if v.setFault || (v.entry? false tid view).isNone then none
    else
      match th.place with
      | .faulted blk idx =>
        if ((v.blocks[blk]?).map Block.len).getD 0 < idx + 1 then none else some (s.putSet t o (v.resumeAt tid blk (idx + 1)))
      | _ => none
  | _, _ => none

/-- Retire as by exit (R187). -/
def State.fltRetire (s : State) (t o tid : Nat) (view : Bool) : Option State :=
  match s.set? t o, s.thread? t o tid with
  | some v, some th =>
    if v.setFault || (v.entry? false tid view).isNone then none
    else
      match th.place with
      | .faulted blk _ =>
        let s1 := s.putSet t o ((v.putThread tid { th with retiring := true, next := none }).dropRecord false tid)
        some (s1.exitThread t o tid blk (((v.blocks[blk]?).map Block.len).getD 0))
      | _ => none
  | _, _ => none

/-- The tile's cube binding of a set is stopped at a fault, and this is the number of the command that made it (R378). -/
def State.stoppedBinding (s : State) (t o seq : Nat) : Bool :=
  (s.tile t).cube.binding.any (fun b => b.set == o && b.seq == seq && b.fault)

/-- Resume a command from its stop point; one of the copy engine goes on once fewer than four run there (R87). A stopped binding's record is in the region's queue and in no view (R378, R395). -/
def State.fltResumeCommand (s : State) (t o seq : Nat) (view : Bool) : Option State :=
  match s.set? t o with
  | some v =>
    if v.setFault then none
    else if !view && s.stoppedBinding t o seq then some (s.modBinding t (fun b => { b with fault := false }))
    else if (v.entry? true seq view).isNone then none
    else
      some (s.putSet t o ({ v with queue := v.queue.map (fun c : Cmd =>
        if c.seq == seq && c.at' == CmdAt.stopped then
          { c with at' := if c.i.onCopyEngine then .resuming else .issued, ds := if c.stage = 0 then [] else c.ds }
        else c) }.dropRecord true seq))
  | none => none

/-- Abandon a command: it retires without Post, and what it has done stands. A read stream leaves once the tokens before its stop have flowed
on (R57). -/
def State.fltAbandonCommand (s : State) (t o seq : Nat) (view : Bool) : Option State :=
  match s.set? t o with
  | some v =>
    if v.setFault then none
    else if !view && s.stoppedBinding t o seq then some (s.endBinding t)
    else if (v.entry? true seq view).isNone then none
    else
      let s1 := match v.cmd? seq with
        | some c => s.abandonUnits t o c
        | none => s
      if (v.cmd? seq).any Cmd.flows then
        some ((s1.modSet t o (fun v => v.dropRecord true seq)).modCmd t o seq (fun c => { c with at' := .issued, stage := flowStage }))
      else some (((s1.modSet t o (fun v => v.dropRecord true seq)).dropCmd t o seq).modSet t o (fun v => v.count 0x09 1))
  | none => none

/-- Resume a set: the held sweep goes on where it stands. -/
def State.fltResumeSet (s : State) (t o : Nat) : Option State :=
  match s.set? t o with
  | some v => if v.setFault then some (s.putSet t o { v with stopped := false, setFault := false }) else none
  | none => none

/-- The action of an OP; `none` is a refusal. -/
def State.fltAct (s : State) (t o : Nat) (op : BitVec 3) (id : Nat) (view : Bool) : Option State :=
  match op.toNat with
  | 1 => s.fltResume t o id view
  | 2 => s.fltSkip t o id view
  | 3 => s.fltRetire t o id view
  | 4 => s.fltResumeCommand t o id view
  | 5 => s.fltAbandonCommand t o id view
  | 6 => s.fltResumeSet t o
  | _ => none

/-- A write of FLTCMD (R229): ERR is cleared by writing 1, ID is kept, and a non-zero OP acts at once, or sets ERR. The result
says whether the write was refused (log entry 41, DESIGN CHOICE). -/
def State.writeFltcmd (s : State) (t o : Nat) (w : Double) : State × Bool :=
  let op := w.extractLsb' 56 3
  let id := w.extractLsb' 0 12
  let s1 := s.modSet t o (fun v => { v with regs := { v.regs with fltErr := v.regs.fltErr && !w.getLsbD 62 } })
  if op == 0 then (s1.modSet t o (fun v => { v with regs := { v.regs with fltId := id } }), false)
  else
    match s1.fltAct t o op id.toNat false with
    | some s2 => (s2.modSet t o (fun v => { v with regs := { v.regs with fltId := id } }), false)
    | none => (s1.modSet t o (fun v => { v with regs := { v.regs with fltErr := true } }), true)

/-! ### The event rows -/

def fltEvent (s : State) (t o : Nat) (op : BitVec 3) (id : Nat) : Host.Outcome State Fault Refusal :=
  .next (s.writeFltcmd t o ((0 : BitVec 5) ++ op ++ (0 : BitVec 44) ++ BitVec.ofNat 12 id)).1

/-- FLTCMD resume (R229). -/
def execFltResume (t o tid : Nat) (s : State) : Host.Outcome State Fault Refusal := fltEvent s t o 1 tid

/-- FLTCMD skip. -/
def execFltSkip (t o tid : Nat) (s : State) : Host.Outcome State Fault Refusal := fltEvent s t o 2 tid

/-- FLTCMD retire. -/
def execFltRetire (t o tid : Nat) (s : State) : Host.Outcome State Fault Refusal := fltEvent s t o 3 tid

/-- FLTCMD resume command. -/
def execFltResumeCommand (t o seq : Nat) (s : State) : Host.Outcome State Fault Refusal := fltEvent s t o 4 seq

/-- FLTCMD abandon command. -/
def execFltAbandonCommand (t o seq : Nat) (s : State) : Host.Outcome State Fault Refusal := fltEvent s t o 5 seq

/-- FLTCMD resume set. -/
def execFltResumeSet (t o : Nat) (s : State) : Host.Outcome State Fault Refusal := fltEvent s t o 6 0

/-! ### Trap blocks (R393 to R396) -/

/-- The oldest record of the view. -/
def SetState.oldest (v : SetState) : Option FaultEntry := v.faulted.find? (fun e => !e.forwarded)

/-- Mark the oldest record of the view forwarded. -/
def markForwarded : List FaultEntry → List FaultEntry
  | [] => []
  | e :: es => if e.forwarded then e :: markForwarded es else { e with forwarded := true } :: es

/-- Forward the oldest record to the region fault queue; a record that the ring drops still counts. -/
def State.forward (s : State) (t o : Nat) : Option State :=
  match s.set? t o with
  | none => none
  | some v =>
    match v.oldest with
    | none => none
    | some e => some ((s.putSet t o { v with faulted := markForwarded v.faulted }).tileRecord t e.w0 e.w1 e.w2 e.w3)

end Sys2Proof.Machine
end

