-- ==== Sys2Proof/Machine/Debug.lean ====
section
/-!
DEFINITION. Halting, stepping, and the debugger's reads and writes (spec/14 R243 to R248).
-/
namespace Sys2Proof.Machine

/-- A command of DBGCMD is in progress: a halt or a step that has not ended. -/
def Region.dbgBusy (x : Region) : Bool :=
  x.halt == .stepping || (x.halt == .halting && x.hits.any (fun h => h.2 == 0xFF || h.2 == 0xFE))

/-- A region goes on from a halt: where a strict divergence has stopped it, without enforcement and with FREE set (R259). -/
def Region.goOn (x : Region) (h : HaltSt) : Region :=
  { x with halt := h, free := x.free || x.rplHeld, rplOff := x.rplOff || x.rplHeld, rplHeld := false }

/-- The set whose lanes hold an LVS word, and the thread whose x0 it is. -/
def State.threadOfWord (s : State) (t w : Nat) : Option (Nat × Nat) :=
  if w % 32 ≠ 0 then none
  else
    let lane := w / 1024
    match (s.setsOf t).find? (fun v => v.2.ent.oct * 8 ≤ lane && lane < v.2.ent.oct * 8 + v.2.ent.width) with
    | none => none
    | some (o, v) =>
      let tid := (w % 1024) / 32 * v.ent.width + (lane - v.ent.oct * 8)
      if (v.threads.look tid).isSome then some (o, tid) else none

/-- Where a debugger access goes (R246). -/
inductive DbgPlace where
  | lvs (w : Nat)
  | sreg (o n : Nat)
  | k (o : Nat)
  | flags (o tid : Nat)
  | loops (o : Nat)
  | acs (w : Nat)
  | mem (a : Nat)

/-- Resolve SPACE and ADDR in a tile; `none` is misaligned or out of range. -/
def State.dbgPlace (s : State) (space : BitVec 3) (t a : Nat) : Option DbgPlace :=
  let set? (o : Nat) : Bool := (s.set? t o).isSome
  match space.toNat with
  | 0 => if a % 4 = 0 ∧ a < 524288 then some (.lvs (a / 4)) else none
  | 1 => if set? (a / 16) then some (.sreg (a / 16) (a % 16)) else none
  | 2 => if set? a then some (.k a) else none
  | 3 =>
    if a % 4 ≠ 0 then none
    else (s.threadOfWord t (a / 4)).map (fun p => .flags p.1 p.2)
  | 4 => if set? a then some (.loops a) else none
  | 5 => if a % 4 = 0 ∧ a < 524288 then some (.acs (a / 4)) else none
  | 6 => if a % 8 = 0 ∧ a < 2097152 then some (.mem a) else none
  | _ => none

def Loops.pack (l : Loops) : Double :=
  BitVec.ofNat 16 l.l3.c ++ BitVec.ofNat 16 l.l2.c ++ BitVec.ofNat 16 l.l1.c ++ BitVec.ofNat 16 l.l0.c

def Loops.unpack (l : Loops) (w : Double) : Loops :=
  ⟨{ l.l0 with c := (w.extractLsb' 0 16).toNat }, { l.l1 with c := (w.extractLsb' 16 16).toNat },
   { l.l2 with c := (w.extractLsb' 32 16).toNat }, { l.l3 with c := (w.extractLsb' 48 16).toNat }⟩

/-- What a debugger read gives, and whether it met poison. -/
def State.dbgGet (s : State) (t : Nat) (p : DbgPlace) : Double × Bool :=
  let x := s.tile t
  match p with
  | .lvs w => if NSet.has x.lvsPoison w then (0, true) else ((s.lvs t w).setWidth 64, false)
  | .sreg o n => (((s.set? t o).map (fun v => v.s n)).getD 0, false)
  | .k o => ((((s.set? t o).map SetState.k).getD 0).setWidth 64, false)
  | .flags o tid =>
    match s.thread? t o tid with
    | some th => ((th.q ++ (0 : BitVec 3) ++ th.ff).setWidth 64, false)
    | none => (0, false)
  | .loops o => (((((s.set? t o).bind SetState.sweep).map Sweep.loops).getD .zero).pack, false)
  | .acs w => if NSet.has x.acsPoison w then (0, true) else ((SMap.get 0 x.acs w).setWidth 64, false)
  | .mem a => if NSet.has x.memPoison (a / 8) then (0, true) else (BitVec.ofNat 64 (Memory.readLE x.mem a 8), false)

/-- A debugger write; a full word clears poison. -/
def State.dbgPut (s : State) (t : Nat) (p : DbgPlace) (w : Double) : State :=
  let x := s.tile t
  match p with
  | .lvs n => s.putLvs t n (w.extractLsb' 0 32)
  | .sreg o n => s.modSet t o (fun v => v.putS n w)
  | .k o => s.modSet t o (fun v => (List.range 8).foldl (fun v n => v.putK n (w.getLsbD n) s.tick) v)
  | .flags o tid => s.modThread t o tid (fun th => { th with q := w.extractLsb' 8 7, ff := w.extractLsb' 0 5 })
  | .loops o => s.modSet t o (fun v => { v with sweep := v.sweep.map (fun y => { y with loops := y.loops.unpack w }) })
  | .acs n => s.putTile t { x with acs := SMap.put 0 x.acs n (w.extractLsb' 0 32), acsPoison := NSet.drop x.acsPoison n }
  | .mem a => s.putTile t { x with mem := Memory.writeLE x.mem a 8 w.toNat, memPoison := NSet.drop x.memPoison (a / 8) }

/-- A command of DBGCMD (R246 to R248); `none` is a refusal. -/
def State.dbgCommand (s : State) (r : Nat) (x : Region) (op : BitVec 4) (space : BitVec 3) (t a : Nat) : Option State :=
  let halted := x.halt == .halted
  if !s.dbgControl || space == 7 || x.dbgBusy then none
  else
    match op.toNat with
    | 1 => if halted || !(x.st == .running || x.st == .complete) then none else some (s.halt r .none 0xFF)
    | 2 =>
      if !halted then none
      else some (s.modRegion r (fun x => x.goOn .none))
    | 3 => if !halted then none else some (s.modRegion r (fun x => x.goOn .stepping))
    | 4 =>
      if !halted || !x.tiles.contains t then none
      else
        match s.dbgPlace space t a with
        | none => none
        | some p =>
          let v := s.dbgGet t p
          some (s.modRegion r (fun x => { x with dbgData := v.1, dbgErr := x.dbgErr || v.2 }))
    | 5 =>
      if !halted || !x.tiles.contains t then none
      else (s.dbgPlace space t a).map (fun p => s.dbgPut t p x.dbgData)
    | _ => none

/-- A write of DBGCMD. -/
def State.writeDbgcmd (s : State) (r : Nat) (w : Double) : State × Bool :=
  let s1 := s.modRegion r (fun x => { x with dbgErr := x.dbgErr && !w.getLsbD 62 })
  let keep (s : State) : State := s.modRegion r (fun x =>
    { x with dbgSpace := w.extractLsb' 50 3, dbgTile := w.extractLsb' 40 10, dbgAddr := w.extractLsb' 0 21 })
  match s1.region? r with
  | none => (s, true)
  | some x =>
    if w.extractLsb' 53 4 == 0 then (keep s1, false)
    else
      match s1.dbgCommand r x (w.extractLsb' 53 4) (w.extractLsb' 50 3) (w.extractLsb' 40 10).toNat (w.extractLsb' 0 21).toNat with
      | some s2 => (keep s2, false)
      | none => (s1.modRegion r (fun x => { x with dbgErr := true }), true)

/-- DBGCMD as read. -/
def Region.dbgcmd (x : Region) : Double :=
  BitVec.ofBool x.dbgBusy ++ BitVec.ofBool x.dbgErr ++ BitVec.ofBool (x.halt == .halted) ++ (0 : BitVec 8) ++ x.dbgSpace ++ x.dbgTile ++
    (0 : BitVec 19) ++ x.dbgAddr

/-- The word of a command. -/
def dbgWord (op : BitVec 4) (space : BitVec 3) (t : Nat) (a : BitVec 21) : Double :=
  (0 : BitVec 7) ++ op ++ space ++ BitVec.ofNat 10 t ++ (0 : BitVec 19) ++ a

def execDbgHalt (r : Nat) (s : State) : Host.Outcome State Fault Refusal := .next (s.writeDbgcmd r (dbgWord 1 0 0 0)).1
def execDbgResume (r : Nat) (s : State) : Host.Outcome State Fault Refusal := .next (s.writeDbgcmd r (dbgWord 2 0 0 0)).1
def execDbgStep (r : Nat) (s : State) : Host.Outcome State Fault Refusal := .next (s.writeDbgcmd r (dbgWord 3 0 0 0)).1

/-- Debugger read (R246): the value goes to DBGDATA. -/
def execDbgRead (r : Nat) (space : BitVec 3) (t : Nat) (a : BitVec 21) (s : State) : Host.Outcome State Fault Refusal :=
  .next (s.writeDbgcmd r (dbgWord 4 space t a)).1

/-- Debugger write (R246, R247): the value comes from DBGDATA. -/
def execDbgWrite (r : Nat) (space : BitVec 3) (t : Nat) (a : BitVec 21) (s : State) : Host.Outcome State Fault Refusal :=
  .next (s.writeDbgcmd r (dbgWord 5 space t a)).1

end Sys2Proof.Machine
end

