-- ==== Sys2Proof/Machine/Sregs.lean ====
section
/-!
DEFINITION. Supervisor registers (spec/21 R387 to R390): targets, reads, writes and refusals, with what a write of XINVCMD, XFSVC and
STRAYCMD does (spec/03 R54, R55, spec/11 R199, R200).
-/
namespace Sys2Proof.Machine

/-! ### Targets (R388) -/

/-- A resolved target: tile, set and plane (0 active, 2 S0, 3 S1). -/
structure Target where
  tile : Nat
  set : Nat
  pl : Nat
  deriving DecidableEq, Repr

def Tile.plane? (x : Tile) (pl : Nat) : Option Plane :=
  match pl with
  | 0 => x.active
  | 2 => x.s0
  | _ => x.s1

def Tile.putPlane (x : Tile) (pl : Nat) (p : Plane) : Tile :=
  match pl with
  | 0 => { x with active := some p }
  | 2 => { x with s0 := some p }
  | _ => { x with s1 := some p }

/-- The save of a pre-empted region that stands for the active plane of a tile that has none: its registers are written there, before the
region is restored (R257; log entry 21, DEDUCED). -/
def State.savedAt (s : State) (t : Nat) : Option (Nat × Saved) :=
  if (s.tile t).active.isSome then none else s.saves.find? (fun v => v.2.tile == t)

/-- The plane of a target. -/
def State.tplane? (s : State) (g : Target) : Option Plane :=
  match (s.tile g.tile).plane? g.pl with
  | some p => some p
  | none => if g.pl = 0 then (s.savedAt g.tile).bind (fun v => v.2.tileState.active) else none

/-- The set of a target's plane. -/
def State.tset? (s : State) (g : Target) : Option SetState := (s.tplane? g).bind (fun p => p.sets.look g.set)

def State.putTplane (s : State) (g : Target) (p : Plane) : State :=
  match (s.tile g.tile).plane? g.pl, s.savedAt g.tile with
  | none, some (a, v) => { s with saves := s.saves.insert a { v with tileState := { v.tileState with active := some p } } }
  | _, _ => s.putTile g.tile ((s.tile g.tile).putPlane g.pl p)

def State.modTset (s : State) (g : Target) (f : SetState → SetState) : State :=
  match s.tplane? g with
  | none => s
  | some p =>
    match p.sets.look g.set with
    | none => s
    | some v => s.putTplane g (p.putSet g.set (f v))

def State.modRegs (s : State) (g : Target) (f : SetRegs → SetRegs) : State :=
  s.modTset g (fun v => { v with regs := f v.regs })

inductive RegScope where
  | set | tile | region
  deriving DecidableEq, Repr

end Sys2Proof.Machine

namespace Sys2Proof
open Machine

def SReg.scope : SReg → RegScope
  | .eqcnt0 => .tile
  | .eqcnt1 => .tile
  | .cubegrp => .tile
  | .straycmd => .tile
  | .trgstart => .tile
  | .trgstop => .tile
  | .dbgcmd => .region
  | .dbgdata => .region
  | _ => .set

/-- A register that a plane carries (R197, R387, R454). -/
def SReg.planed : SReg → Bool
  | .xctx => true
  | .rfqbase => true
  | .spmap => true
  | .cubegrp => true
  | .bkpt _ => true
  | .trcbase => true
  | .trcctl => true
  | .rplbase => true
  | .rplctl => true
  | _ => false

end Sys2Proof

namespace Sys2Proof.Machine

/-- Resolve a target word for a set: `none` faults TILE_RANGE. -/
def State.resolve (s : State) (t o : Nat) (w : Word) (r : SReg) : Option Target :=
  if !w.getLsbD 31 then (if w == 0 then some ⟨t, o, 0⟩ else none)
  else
    let g : Target := ⟨(w.extractLsb' 6 10).toNat, (w.extractLsb' 2 4).toNat, (w.extractLsb' 0 2).toNat⟩
    if w.extractLsb' 16 15 != 0 || 768 ≤ g.tile || g.pl == 1 then none
    else if (r.scope != .set && g.set != 0) || (g.pl != 0 && !r.planed) then none
    else
      match r.scope with
      | .region => if (s.regionAt g.tile).isSome then some g else none
      | .tile => if g.pl != 0 && ((s.tile g.tile).plane? g.pl).isNone then none else some g
      | .set => if (s.tset? g).isSome then some g else none

/-- The target's plane is active in a running region. -/
def State.targetRuns (s : State) (g : Target) : Bool :=
  g.pl == 0 &&
    match (s.regionOf g.tile).bind s.region? with
    | some x => x.st == .running
    | none => false

/-! ### Stray tokens (R199, R200, R437) -/

/-- The planes loaded at a tile. -/
def Tile.loaded (x : Tile) : List Nat := [x.active, x.s0, x.s1].filterMap (fun p => p.map Plane.pid)

/-- A port node that writes takes its tokens from an input end (R97). -/
def PortNode.input (p : PortNode) : Option Nat := if 2 ≤ p.dir then some p.endNo else none

/-- The input ends that a tile's sets, circuits and port nodes bind (R196, R430). A cube binding, copies and fills use ends of their sets. -/
def State.inputs (s : State) (t : Nat) : List Nat :=
  ((s.setsOf t).flatMap (fun v => (v.2.ent.chin ++ v.2.ent.pcin).filter (· != 255)) ++
    (s.tile t).arrs.filterMap (fun a =>
      let e := ((a.2.hdr.getD 2 0).extractLsb' 0 8).toNat
      if a.2.holds && e != 255 then some e else none) ++
    (s.tile t).ports.filterMap PortNode.input).eraseDups

/-- An input has been passed: DRN was popped from it, or it is a source end of a set that is complete (R195). -/
def State.passedAt (s : State) (t e : Nat) : Bool :=
  NSet.has (s.tile t).passed e ||
    (match s.inChan t e with
      | some (_, c) => c.prod == .none && (s.setsOf t).all (fun v => v.2.completed || !(v.2.ent.chin ++ v.2.ent.pcin).contains e)
      | none => false)

/-- DRN has passed every input of the tile, and, where it has only source ends or none, its sets are complete: the tile is drained and
its input ends are closed (R196). -/
def State.drained (s : State) (t : Nat) : Bool :=
  (s.tile t).active.isSome && (s.inputs t).all (s.passedAt t) &&
    ((s.inputs t).any (fun e => NSet.has (s.tile t).passed e) || (s.setsOf t).all (fun v => v.2.completed))

/-- A token that arrives now comes late: the source end is closed, or the plane is a shadow whose end number is that of a closed end of the
active plane. R442 lets such a token be stray or wait for the swap, where R437 has it wait: which, is free (log entry 53, DESIGN CHOICE). -/
def State.arrivesLate (s : State) (c : Chan) : Bool :=
  match c.cons with
  | .tile t e =>
    let x := s.tile t
    if x.active.any (fun p => p.pid == c.pid) then c.prod == .none && s.drained t
    else
      x.loaded.contains c.pid && (s.inputs t).contains e && (s.drained t || NSet.has x.passed e) &&
        (decide (0 < c.late) || Config.freeBit s.tick 17)
  | _ => false

/-- A token enters a channel's buffer. -/
def State.enterBuf (s : State) (c : Chan) (k : Token) : Chan :=
  { c with buf := c.buf ++ [k], late := if s.arrivesLate c then c.late + 1 else c.late }

/-- How many tokens of a channel, the last of its buffer, are stray at its consumer tile: its end is passed or closed, or its plane is not
loaded. At a source end that no DRN has passed, and in a shadow plane, only those count that came late; the others go with the plane, or wait
for its swap (R199, R264, R437). -/
def State.strayCount (s : State) (c : Chan) : Nat :=
  match c.cons with
  | .tile t e =>
    let x := s.tile t
    let late := min c.late c.buf.length
    if x.active.any (fun p => p.pid == c.pid) then
      if NSet.has x.passed e then c.buf.length
      else if s.drained t then (if c.prod == .none then late else c.buf.length)
      else 0
    else if x.loaded.contains c.pid then late
    else if c.prod == .none then late else c.buf.length
  | _ => 0

/-- Some token of a channel is stray. -/
def State.isStray (s : State) (c : Chan) : Bool := decide (0 < s.strayCount c)

def Chan.consTile (c : Chan) : Option (Nat × Nat) :=
  match c.cons with
  | .tile t e => some (t, e)
  | _ => none

/-- STRAYS: stray tokens standing in a tile's channels. -/
def State.strays (s : State) (t : Nat) : Nat :=
  ((s.chans.filter (fun c => (c.2.consTile.map Prod.fst) == some t)).map (fun c => s.strayCount c.2)).sum

/-- Some stray token stands at an end of a tile. -/
def State.strayAt (s : State) (t e : Nat) : Bool :=
  s.chans.any (fun c => c.2.consTile == some (t, e) && s.isStray c.2)

/-- Remove stray tokens as pops would, at one end or everywhere in the tile. The discard is in progress until the producers have received
their slot returns, which come behind those already on their way (R200). -/
def State.discard (s : State) (t : Nat) (at? : Option Nat) : State :=
  let hit (c : Chan) : Bool := (c.consTile.map Prod.fst) == some t && s.isStray c && at?.all (fun e => c.consTile == some (t, e))
  let s1 := s.putTile t { s.tile t with strayRets := (s.chans.filter (fun c => hit c.2)).foldl (fun m c => SMap.insert m c.1 (c.2.rets + s.strayCount c.2)) [] }
  { s1 with chans := s.chans.map (fun c =>
      let k := s.strayCount c.2
      if hit c.2 then
        (c.1, { c.2 with buf := c.2.buf.take (c.2.buf.length - k), rets := c.2.rets + k, popped := c.2.popped + k, strays := 0, late := 0 })
      else c) }

/-- BUSY of STRAYCMD. -/
def Tile.strayBusy (x : Tile) : Bool := !x.strayRets.isEmpty

/-- A write of STRAYCMD (R200). -/
def State.writeStraycmd (s : State) (t : Nat) (w : Double) : State × Bool :=
  let mod (s : State) (f : Tile → Tile) : State := s.putTile t (f (s.tile t))
  let s1 := mod s (fun x => { x with strayErr := x.strayErr && !w.getLsbD 62 })
  let e := (w.extractLsb' 0 8).toNat
  let bad := (mod s1 (fun x => { x with strayErr := true }), true)
  match (w.extractLsb' 56 2).toNat with
  | 0 => (mod s1 (fun x => { x with strayEnd := w.extractLsb' 0 8 }), false)
  | 1 =>
    if (s.tile t).strayBusy || 191 < e || !s.strayAt t e then bad
    else (mod (s1.discard t (some e)) (fun x => { x with strayEnd := w.extractLsb' 0 8 }), false)
  | 2 =>
    if (s.tile t).strayBusy then bad
    else (mod (s1.discard t none) (fun x => { x with strayEnd := w.extractLsb' 0 8 }), false)
  | _ => bad

/-- STRAY_DISCARD_END and STRAY_DISCARD_ALL. -/
def execStrayDiscardEnd (t e : Nat) (s : State) : Host.Outcome State Fault Refusal :=
  .next (s.writeStraycmd t (BitVec.ofNat 8 1 ++ (0 : BitVec 48) ++ BitVec.ofNat 8 e)).1

def execStrayDiscardAll (t : Nat) (s : State) : Host.Outcome State Fault Refusal :=
  .next (s.writeStraycmd t (BitVec.ofNat 8 2 ++ (0 : BitVec 56))).1

/-- STRAY_TOKEN (R199): the next stray token of a channel that has no record yet gets one. -/
def execStrayToken (n : Nat) (s : State) : Host.Outcome State Fault Refusal :=
  match s.chans.look n with
  | none => .next s
  | some c =>
    match c.cons with
    | .tile t e =>
      if c.strays < s.strayCount c then
        let o := s.endSet t e
        let s1 := s.putChan n { c with strays := c.strays + 1 }
        .next (s1.notice t o 0 (s.node t 1 e) (((s.set? t o).map SetState.eoiInvoc).getD 0) { notice := true }
          { code := Code.strayToken, elem := BitVec.ofNat 48 e })
      else .next s
    | _ => .next s

/-! ### Invalidation and fault service (R54, R55) -/

/-- A page of a virtual address falls under a cached leaf. -/
def Xlat.covers (x : Xlat) (va : Nat) : Bool := va / 2 ^ pageBits x.level * 2 ^ pageBits x.level == x.base

/-- Accesses already translated that may have used a dropped entry: those of sets with the address space, or all. -/
def State.translated (s : State) (asid : Option (BitVec 16)) : List Nat :=
  (s.toCome.filter (fun a => decide (a.2.tile < 1024) &&
    (match a.2.loc with
      | .dev _ _ => true
      | .peer _ _ => true
      | _ => false) &&
    asid.all (fun i => match s.set? a.2.tile a.2.set with
      | some v => xctxAsid v.regs.xctx == i
      | none => true))).map Prod.fst

/-- Drop what an invalidation names, at every level and on both dies. -/
def State.invalidate (s : State) (op : BitVec 3) (key : BitVec 12) (asid : BitVec 16) (va : Nat) : State :=
  match op.toNat with
  | 1 => { s with xlat := [], wcache := [], coal := [] }
  | 2 => { s with xlat := s.xlat.filter (fun x => x.asid != asid), wcache := s.wcache.filter (fun x => x.asid != asid),
                  coal := s.coal.filter (fun x => x.asid != asid) }
  | 3 => { s with xlat := s.xlat.filter (fun x => !(x.asid == asid && x.covers va)),
                  wcache := s.wcache.filter (fun x => x.asid != asid), coal := s.coal.filter (fun x => x.asid != asid) }
  | _ => { s with xlat := s.xlat.filter (fun x => leafKey x.leaf != key), coal := [] }

/-- A write of XINVCMD (R55): with OP 000 it writes KEYID and ASID, an invalidation in progress or not. -/
def State.writeXinvcmd (s : State) (g : Target) (w : Double) : State × Bool :=
  let op := w.extractLsb' 56 3
  let key := w.extractLsb' 44 12
  let asid := w.extractLsb' 0 16
  let s1 := s.modRegs g (fun x => { x with xinvErr := x.xinvErr && !w.getLsbD 62 })
  let busy := ((s.tset? g).map (fun v => v.regs.xinvBusy)).getD false
  if op == 0 then
    (s1.modRegs g (fun x => { x with xinvKeyid := key, xinvAsid := asid }), false)
  else if 4 < op.toNat || busy then (s1.modRegs g (fun x => { x with xinvErr := true }), true)
  else
    let va := (((s.tset? g).map (fun v : SetState => v.regs.xinvAddr)).getD 0).toNat
    let wait := s.translated (if op == 2 || op == 3 then some asid else none)
    ((s1.invalidate op key asid va).modRegs g (fun x =>
      { x with xinvBusy := true, xinvKeyid := key, xinvAsid := asid, xinvWait := wait }), false)

/-- BUSY clears once every access translated through a dropped entry has completed. -/
def State.xinvDone (s : State) (g : Target) : State :=
  s.modRegs g (fun x =>
    if x.xinvBusy && x.xinvWait.all s.done then { x with xinvBusy := false, xinvWait := [] } else x)

/-- A write of XFSVC (R54): the key of the target set's address space leaves both coalescing tables. -/
def State.writeXfsvc (s : State) (g : Target) (w : Double) : State :=
  match s.tset? g with
  | none => s
  | some v =>
    { s with coal := s.coal.filter (fun c =>
        !(c.asid == xctxAsid v.regs.xctx && c.vpn == (w.extractLsb' 16 40).toNat && c.wr == w.getLsbD 0)) }

/-! ### Reading (R389) -/

def packCounts (x : Tile) (base : Nat) : Double :=
  (List.range 8).foldl (fun w i => w ||| (BitVec.ofNat 64 (SMap.get 0 x.eq (base + i)) <<< (8 * i))) 0

def SetState.complete (v : SetState) : Bool := v.threads.isEmpty && v.queue.isEmpty

def SetState.setstat (v : SetState) : Double :=
  BitVec.ofBool v.complete ++ (0 : BitVec 7) ++ v.eoiInvoc ++ (0 : BitVec 11) ++ v.abandoned ++ (0 : BitVec 3) ++
    BitVec.ofNat 13 v.threads.length

/-- A supervisor register's 64 bits. -/
def State.sregRead (s : State) (g : Target) (r : SReg) : Double :=
  let x := s.tile g.tile
  let reg (f : SetRegs → Double) : Double := ((s.tset? g).map (fun v => f v.regs)).getD 0
  match r with
  | .xctx => reg SetRegs.xctx
  | .xinvcmd => reg (fun y => BitVec.ofBool y.xinvBusy ++ BitVec.ofBool y.xinvErr ++ (0 : BitVec 6) ++ y.xinvKeyid ++ (0 : BitVec 28) ++ y.xinvAsid)
  | .xinvaddr => reg SetRegs.xinvAddr
  | .xfsvc => 0
  | .rfqbase => reg SetRegs.rfqbase
  | .spmap => reg SetRegs.spmap
  | .setstat => ((s.tset? g).map SetState.setstat).getD 0
  | .eqcnt0 => packCounts x 0
  | .eqcnt1 => packCounts x 8
  | .fltcmd => reg (fun y => (0 : BitVec 1) ++ BitVec.ofBool y.fltErr ++ (0 : BitVec 50) ++ y.fltId)
  | .cubegrp => ((x.plane? g.pl).map Plane.cubegrp).getD 0
  | .straycmd =>
    BitVec.ofBool x.strayBusy ++ BitVec.ofBool x.strayErr ++ (0 : BitVec 14) ++ BitVec.ofNat 16 (s.strays g.tile) ++ (0 : BitVec 24) ++ x.strayEnd
  | .bkpt n => reg (fun y => SMap.get 0 y.bkpt n.toNat)
  | .dbgcmd => (((s.regionAt g.tile).bind s.region?).map Region.dbgcmd).getD 0
  | .dbgdata => (((s.regionAt g.tile).bind s.region?).map Region.dbgData).getD 0
  | .trgstart => x.trgStart
  | .trgstop => x.trgStop
  | .trcbase => reg SetRegs.trcbase
  | .trcctl => reg SetRegs.trcctl
  | .rplbase => reg SetRegs.rplbase
  | .rplctl =>
    let free := g.pl == 0 && (((s.regionOf g.tile).bind s.region?).map Region.free).getD false
    reg (fun y => y.rplctl ||| (if free then 0x2000000000000000 else 0))
  | .perturb => reg (fun y => if y.perturb == 0 then 0 else ((s.free 20).extractLsb' 0 48).setWidth 64)

/-- A read clears RC fields (R6): PERTURB. -/
def State.sregReadClears (s : State) (g : Target) (r : SReg) : State :=
  match r with
  | .perturb => s.modRegs g (fun y => { y with perturb := 0 })
  | _ => s

/-! ### Writing -/

/-- The fields that a write sets, with W1C bits apart. -/
def svMask (r : SReg) : Double :=
  match r with
  | .xctx => 0xFFFFFFFFFFFFE001
  | .xinvaddr => 0x00FFFFFFFFFF0000
  | .rfqbase => 0x000FFFFFFFFFF001
  | .trcbase => 0x000FFFFFFFFFF001
  | .spmap => 0xFF8000FF0000FFFF
  | .cubegrp => 0x80FFFC0000000000
  | .bkpt _ => 0xF0FFFFFFFFFFFFFF
  | .dbgdata => 0xFFFFFFFFFFFFFFFF
  | .trgstart => 0xF0000000FFFFFFFF
  | .trgstop => 0xF0000000FFFFFFFF
  | .trcctl => 0xC0FEFFFFFF000001
  | .rplbase => 0x000FFFFFFFFF0000
  | .rplctl => 0xC0FF000000000000
  | _ => 0

/-- The ring of a base register lies wholly within device memory (R231). -/
def ringFits (w : Double) : Bool := decide (ringAddr w + 64 + 32 * ringSize w ≤ devEnd)

/-- The register's own refusals and those of the debug level (R47, R162, R177, R231, R243, R250, R257), for a set whose plane is active in
a running region or is not. -/
def State.regRefuses (s : State) (run sup : Bool) (r : SReg) (w old : Double) : Bool :=
  let ring := if run then (w &&& svMask r) != (old &&& svMask r)
    else 10 < (w.extractLsb' 48 4).toNat || !ringFits w
  match r with
  | .xctx => run || (!w.getLsbD 0 && !sup)
  | .rfqbase => ring
  | .trcbase => ring
  | .spmap => run
  | .cubegrp => run
  | .bkpt _ => w.getLsbD 63 && !s.dbgControl
  | .trgstart => w.getLsbD 63 && !s.dbgObserve
  | .trgstop => w.getLsbD 63 && !s.dbgObserve
  | .trcctl =>
    let sper := (w.extractLsb' 40 8).toNat
    let sync := (w.extractLsb' 24 8).toNat
    25 ≤ sper || (1 ≤ sync && sync ≤ 9) || 31 ≤ sync || (w.getLsbD 63 && !s.dbgObserve)
  | .rplbase => run || 10 < (w.extractLsb' 48 4).toNat
  | .rplctl =>
    let mode := (w.extractLsb' 62 2).toNat
    let bound := (w.extractLsb' 48 8).toNat
    run || (mode != 0 && (bound < 8 || 30 < bound)) || (mode == 1 && !s.dbgObserve) || (2 ≤ mode && !s.dbgControl)
  | _ => false

def State.sregRefuses (s : State) (g : Target) (r : SReg) (w old : Double) : Bool :=
  s.regRefuses (s.targetRuns g) (((s.tset? g).map (fun v => v.ent.sup)).getD false) r w old

/-- A plain register with its fields written by its map. -/
def State.sregPut (s : State) (g : Target) (r : SReg) (v : Double) : State :=
  let tile (f : Tile → Tile) : State := s.putTile g.tile (f (s.tile g.tile))
  match r with
  | .xctx => s.modRegs g (fun y => { y with xctx := v })
  | .xinvaddr => s.modRegs g (fun y => { y with xinvAddr := v })
  | .rfqbase => s.modRegs g (fun y => { y with rfqbase := v })
  | .spmap => s.modRegs g (fun y => { y with spmap := v })
  | .bkpt n => s.modRegs g (fun y => { y with bkpt := SMap.put 0 y.bkpt n.toNat v })
  | .trcbase => s.modRegs g (fun y => { y with trcbase := v })
  | .trcctl => s.modRegs g (fun y => { y with trcctl := v })
  | .rplbase => s.modRegs g (fun y => { y with rplbase := v })
  | .rplctl => s.modRegs g (fun y => { y with rplctl := v })
  | .trgstart => tile (fun x => { x with trgStart := v })
  | .trgstop => tile (fun x => { x with trgStop := v })
  | .cubegrp =>
    tile (fun x => match x.plane? g.pl with
      | some p => x.putPlane g.pl { p with cubegrp := v }
      | none => x)
  | .dbgdata =>
    match s.regionAt g.tile with
    | some n => s.modRegion n (fun x => { x with dbgData := v })
    | none => s
  | _ => s

/-- Write a supervisor register by its map; the result says whether its own rule refused the write (R389). -/
def State.sregWrite (s : State) (g : Target) (r : SReg) (w : Double) : State × Bool :=
  match r with
  | .xinvcmd => s.writeXinvcmd g w
  | .xfsvc => (s.writeXfsvc g w, false)
  | .fltcmd => s.writeFltcmd g.tile g.set w
  | .straycmd => s.writeStraycmd g.tile w
  | .dbgcmd =>
    match s.regionAt g.tile with
    | some n => s.writeDbgcmd n w
    | none => (s, true)
  | r =>
    let old := s.sregRead g r
    if s.sregRefuses g r w old then (s, true)
    else
      let m := svMask r
      let w1c : Double := match r with
        | .rfqbase => 2
        | .trcbase => 2
        | _ => 0
      if m == 0 then (s, false) else (s.sregPut g r (((old &&& ~~~m) &&& ~~~(w &&& w1c)) ||| (w &&& m)), false)

/-! ### Event rows -/

/-- A set of the active plane. -/
def tgt (t o : Nat) : Target := ⟨t, o, 0⟩

def xinvWord (op : BitVec 3) (key : BitVec 12) (asid : BitVec 16) : Double :=
  (0 : BitVec 5) ++ op ++ key ++ (0 : BitVec 28) ++ asid

/-- XINV_ALL, XINV_ASID, XINV_PAGE and XINV_KEYID (R55). -/
def execXinvAll (t o : Nat) (s : State) : Host.Outcome State Fault Refusal := .next (s.writeXinvcmd (tgt t o) (xinvWord 1 0 0)).1
def execXinvAsid (t o : Nat) (asid : BitVec 16) (s : State) : Host.Outcome State Fault Refusal :=
  .next (s.writeXinvcmd (tgt t o) (xinvWord 2 0 asid)).1
def execXinvPage (t o : Nat) (asid : BitVec 16) (s : State) : Host.Outcome State Fault Refusal :=
  .next (s.writeXinvcmd (tgt t o) (xinvWord 3 0 asid)).1
def execXinvKeyid (t o : Nat) (key : BitVec 12) (s : State) : Host.Outcome State Fault Refusal :=
  .next (s.writeXinvcmd (tgt t o) (xinvWord 4 key 0)).1

/-- INVALIDATION_COMPLETE (R55). -/
def execInvalidationComplete (t o : Nat) (s : State) : Host.Outcome State Fault Refusal := .next (s.xinvDone (tgt t o))

/-- XFSVC_WRITE (R54). -/
def execXfsvcWrite (t o : Nat) (w : BitVec 64) (s : State) : Host.Outcome State Fault Refusal := .next (s.writeXfsvc (tgt t o) w)

/-- PERTURB_READ (R6, R251): the read clears the register. -/
def execPerturbRead (t o : Nat) (s : State) : Host.Outcome State Fault Refusal := .next (s.sregReadClears (tgt t o) .perturb)

end Sys2Proof.Machine
end

