-- ==== Sys2Proof/Machine/System.lean ====
section
/-!
DEFINITION. The system instructions that a pass executes (spec/21 R386 to R409): supervisor registers, configuration space, trap
blocks, plane selection, the near-memory poll, marks and counters; and register writes from outside (R6).
-/
namespace Sys2Proof.Machine

/-! ### sreg.rd and sreg.wr (R387 to R390) -/

/-- The register number of R387, with the target word, names the register that an access is made to. -/
def sregTag : SReg → Nat
  | .xctx => 0x010
  | .xinvcmd => 0x011
  | .xinvaddr => 0x012
  | .xfsvc => 0x013
  | .rfqbase => 0x014
  | .spmap => 0x018
  | .setstat => 0x019
  | .eqcnt0 => 0x01A
  | .eqcnt1 => 0x01B
  | .fltcmd => 0x01C
  | .cubegrp => 0x020
  | .straycmd => 0x021
  | .bkpt n => 0x030 + n.toNat
  | .dbgcmd => 0x038
  | .dbgdata => 0x039
  | .trgstart => 0x03A
  | .trgstop => 0x03B
  | .trcbase => 0x03C
  | .trcctl => 0x03D
  | .rplbase => 0x03E
  | .rplctl => 0x03F
  | .perturb => 0x040

/-- An access to a register or to configuration space, in every alias class (R390, R392). Accesses of a thread to one register
stay in issue order, and those of one pass in lane order. -/
def State.regAccess (s : State) (c : Ctx) (write : Bool) (which data : Double) : State × Nat :=
  let same := (s.toCome.filter (fun a => a.2.tile == c.tile && a.2.set == c.set && (a.2.tid == c.tid || c.base ≤ a.1) && a.2.loc == .reg && a.2.va == which)).map
    (fun a => (⟨a.1, 4, false⟩ : Need))
  s.issueAcc
    { tile := c.tile, set := c.set, tid := c.tid, kind := if write then .reg else .load, loc := .reg, va := which, bytes := 8,
      data := data, cls := 0xFFFF, ac := 0, acq := false, rel := false, checked := false,
      after := (s.orderNeeds c.tile c.set c.tid 0xFFFF write none ++ same).eraseDups, blk := c.blk, idx := c.idx }

/-- The fault of a target word that names no register (R388). -/
def targetFault (w : Word) : FaultInfo := { code := Code.tileRange, w1 := w.setWidth 64 }

/-- The one register that a resolved target names, however it was named: its number with its set and plane, its tile and plane, or its
region (R387, R388). -/
def State.whichReg (s : State) (g : Target) (r : SReg) : Double :=
  BitVec.ofNat 32 (sregTag r) ++ BitVec.ofNat 32 (match r.scope with
    | .region => ((s.regionAt g.tile).map (· + 1)).getD 0
    | .tile => g.tile * 64 + g.pl
    | .set => g.tile * 64 + g.set * 4 + g.pl)

/-- The snapshots of the event queues order nothing (R220, R451). -/
def isSnapshot (r : SReg) : Bool :=
  match r with
  | .eqcnt0 => true
  | .eqcnt1 => true
  | _ => false

/-- sreg.rd (R389): a named target needs a supervisor set; the value is read when it returns. -/
def execSregRd (g : Guard) (d : Reg) (a : Opd) (r : SReg) (s : State) : Host.Outcome State Fault Refusal :=
  withPass s g chkNone ((d.opd.cover true).map Mark.opd) (fun c s =>
    serveActs c s [{ o := a }] (some { o := d.opd, wide := true }) (fun s vs =>
      let w := (vs.headD 0).extractLsb' 0 32
      if w.getLsbD 31 && !((s.set? c.tile c.set).map SetState.supervisor).getD false then .fault s { code := Code.privilege }
      else
        match s.resolve c.tile c.set w r with
        | none => .fault s (targetFault w)
        | some t =>
        let p : State × Option Nat := if isSnapshot r then (s, none) else
          let q := s.regAccess c false (s.whichReg t r) 0
          (q.1, some q.2)
        .ok p.1 (some ⟨c.tid, some d.opd, true, 0, 0, .sregRd w r p.2, false⟩)))

/-- sreg.wr (R389): the write is made when its status returns (R390). -/
def execSregWr (g : Guard) (d a b : Opd) (r : SReg) (s : State) : Host.Outcome State Fault Refusal :=
  withPass s g chkSup ((d.cover false).map Mark.opd) (fun c s =>
    serveActs c s [{ o := a }, { o := b, wide := true }] (some { o := d }) (fun s vs =>
      let w := (vs.headD 0).extractLsb' 0 32
      match s.resolve c.tile c.set w r with
      | none => .fault s (targetFault w)
      | some t =>
        let v := vs.getD 1 0
        let p := s.regAccess c true (s.whichReg t r) v
        .ok p.1 (some ⟨c.tid, some d, false, 0, 0, .sregWr w r v p.2, false⟩)))

/-! ### cap.rd and cap.wr (R391, R392) -/

/-- An offset of configuration space: the fault of one past its end, or misaligned. -/
def capCheck (o : Nat) : Option FaultInfo :=
  if 65536 ≤ o then some { code := Code.memPoison, kind := 6, w1 := BitVec.ofNat 64 (cfgBase + o) }
  else if o % 8 ≠ 0 then some { code := Code.align, kind := 6, w1 := BitVec.ofNat 64 (cfgBase + o) }
  else none

/-- cap.rd (R391). -/
def execCapRd (g : Guard) (d : Reg) (a : Opd) (off : BitVec 16) (s : State) : Host.Outcome State Fault Refusal :=
  withPass s g chkNone ((d.opd.cover true).map Mark.opd) (fun c s =>
    serveActs c s [{ o := a }] (some { o := d.opd, wide := true }) (fun s vs =>
      let o := ((vs.headD 0).extractLsb' 0 32).toNat + off.toNat
      match capCheck o with
      | some f => .fault s f
      | none => .ok s (some ⟨c.tid, some d.opd, true, 0, 0, .capRd o, false⟩)))

/-- cap.wr (R392). -/
def execCapWr (g : Guard) (d a b : Opd) (off : BitVec 16) (s : State) : Host.Outcome State Fault Refusal :=
  withPass s g chkSup ((d.cover false).map Mark.opd) (fun c s =>
    serveActs c s [{ o := a }, { o := b, wide := true }] (some { o := d }) (fun s vs =>
      let o := ((vs.headD 0).extractLsb' 0 32).toNat + off.toNat
      match capCheck o with
      | some f => .fault s f
      | none =>
        let v := vs.getD 1 0
        let p := s.regAccess c true (BitVec.ofNat 64 (cfgBase + o)) v
        .ok p.1 (some ⟨c.tid, some d, false, 0, 0, .capWr o v p.2, false⟩)))

/-! ### Trap blocks (R393 to R396) -/

/-- trap.rd (R394): the oldest record of the view, or zeros. -/
def execTrapRd (g : Guard) (n : BitVec 4) (s : State) : Host.Outcome State Fault Refusal :=
  let regs := (List.range 4).map (fun i => Mark.opd (.s (n + BitVec.ofNat 4 i)))
  withPass s g (chkType allTypes [.trap]) [] (fun c s =>
    match s.set? c.tile c.set with
    | none => .gone s
    | some v =>
      let pend := v.pendingOn c.tid regs
      if !pend.isEmpty then .park s (.groups pend)
      else
        let w : Double × Double × Double × Double := match v.oldest with
          | some e => (e.w0, e.w1, e.w2, e.w3)
          | none => (0, 0, 0, 0)
        .ok (s.putSet c.tile c.set ((((v.putS n.toNat w.1).putS (n.toNat + 1) w.2.1).putS (n.toNat + 2) w.2.2.1).putS (n.toNat + 3) w.2.2.2)) none)

def trapCode : TrapOp → BitVec 3
  | .resume => 1
  | .skip => 2
  | .retire => 3
  | .cmdResume => 4
  | .cmdAbandon => 5

/-- What a trap block's accesses come after, and they themselves: what the anchor knows, and the accesses of the set's trap blocks. -/
def State.trapAccs (s : State) (t o : Nat) : List Need :=
  match s.set? t o with
  | none => []
  | some v => (deepNeeds 1 ((s.accs.filter (fun a => a.2.tile == t && a.2.set == o && (v.blocks[a.2.blk]?).any (fun b => b.mode == .trap))).map Prod.fst) ++
      s.known t o 0 0xFFFF 1).eraseDups

/-- trap.act (R395): status 0 and the action, or status 1 and no change. A resumed thread's retried access comes after
the trap block's earlier ones. -/
def execTrapAct (g : Guard) (op : TrapOp) (d a : Opd) (s : State) : Host.Outcome State Fault Refusal :=
  withPass s g (chkAll [chkEnds [a] [], chkType allTypes [.trap]]) [] (fun c s =>
    serveActs c s [{ o := a }] (some { o := d }) (fun s vs =>
      let w := (vs.headD 0).extractLsb' 0 32
      let id := (w.extractLsb' 0 12).toNat
      let done := if w.extractLsb' 12 20 != 0 then none else s.fltAct c.tile c.set (trapCode op) id true
      match done with
      | none => .ok (writeOpd c s false 0 d 1) none
      | some s1 =>
        let s2 := if op == .resume || op == .skip then
            s1.acquire c.tile c.set id (s1.trapAccs c.tile c.set)
          else s1
        .ok (writeOpd c s2 false 0 d 0) none))

/-- trap.fwd (R396). -/
def execTrapFwd (g : Guard) (d : Opd) (s : State) : Host.Outcome State Fault Refusal :=
  withPass s g (chkType allTypes [.trap]) [] (fun c s =>
    serveActs c s [] (some { o := d }) (fun s _ =>
      match s.forward c.tile c.set with
      | none => .ok (writeOpd c s false 0 d 1) none
      | some s1 => .ok (writeOpd c s1 false 0 d 0) none))

/-! ### cfg.sel (R397) -/

/-- Latch a selection at a tile, or clear it. -/
def State.select? (s : State) (t : Nat) (p : PlaneSel) : State :=
  s.putTile t { s.tile t with latch := match p with
    | .s0 => some Latch.s0
    | .s1 => some Latch.s1
    | .none => none }

/-- cfg.sel: of the issuing tile, or, for a supervisor set, of the tile that A names. -/
def execCfgSel (g : Guard) (p : PlaneSel) (other : Bool) (a : Opd) (s : State) : Host.Outcome State Fault Refusal :=
  withPass s g (chkAll ((if other then [chkEnds [a] [], chkSup] else []) ++ [chkType allTypes [.token]])) [] (fun c s =>
    if other then
      acts1 c s a (fun s w =>
        if 768 ≤ w.toNat then .fault s { code := Code.tileRange } else .ok (s.select? w.toNat p) none)
    else .ok (s.select? c.tile p) none)

/-! ### nmq.poll (R405) -/

/-- The physical address of double 2 of a command slot. -/
def Regs.slotAddr (c : Regs) (slot : Nat) : Nat := c.nmqBase.toNat * 4096 + 64 * slot + 16

/-- D of nmq.poll: DONE, STATUS and CHANNEL of double 2 (R72). -/
def pollWord (w : Double) : Word := w.extractLsb' 63 1 ++ (0 : BitVec 7) ++ w.extractLsb' 48 8 ++ (0 : BitVec 7) ++ w.extractLsb' 0 9

/-- The fault of a slot that memory does not give: poisoned, in a hole or behind a link that is down (R25; log entry 18, DEDUCED). -/
def pollFault (pa : Nat) : FaultInfo := { code := Code.memPoison, kind := 0, w1 := BitVec.ofNat 64 pa }

def execNmqPoll (g : Guard) (d a : Opd) (s : State) : Host.Outcome State Fault Refusal :=
  withPass s g (chkAll [chkEnds [a] [d], chkSup, chkType [.ag] allModes]) ((d.cover false).map Mark.opd) (fun c s =>
    serveActs c s [{ o := a }] (some { o := d }) (fun s vs =>
      let slot := ((vs.headD 0).extractLsb' 0 6).toNat
      let pa := s.cfg.slotAddr slot
      if s.memFaults pa 8 false then .fault s (pollFault pa)
      else
        let s1 := match (s.set? c.tile c.set).bind (fun v => d.outEnd v.ent) with
          | some e => s.reserve c.tile e
          | none => s
        .ok s1 (some ⟨c.tid, some d, false, 0, 0, .nmq slot, false⟩)))

/-! ### mark and perf.rd (R407, R409) -/

/-- mark (R407). -/
def execMark (g : Guard) (a : Opd) (s : State) : Host.Outcome State Fault Refusal :=
  withPass s g (chkEnds [a] []) [] (fun c s =>
    acts1 c s a (fun s w =>
      match s.set? c.tile c.set with
      | none => .gone s
      | some v =>
        match v.sweep with
        | none => .gone s
        | some x =>
          let ev := s.markEvent c.tile c.set v x w
          if s.traceStalls ev then .stall (s.driftStall c.tile c.set) else .ok (s.observe ev) none))

/-- The counters that count cycles, or cycles of a kind: their values are times (log entries 4 and 8, DESIGN CHOICE). -/
def timed (n : Nat) : Bool := [0x00, 0x04, 0x05, 0x0B, 0x0C, 0x10, 0x11, 0x13].contains n

/-- perf.rd (R409) (log entry 44, DEDUCED). -/
def execPerfRd (g : Guard) (d : Reg) (n : BitVec 6) (s : State) : Host.Outcome State Fault Refusal :=
  withPass s g chkNone [] (fun c s =>
    serveActs c s [] (some { o := d.opd, wide := true }) (fun s _ =>
      match s.set? c.tile c.set with
      | none => .gone s
      | some v =>
        let k := n.toNat
        let x : Double := if timed k then ((s.free (64 + k)).extractLsb' 0 48).setWidth 64
          else if k < 16 then BitVec.ofNat 64 (SMap.get 0 v.perf k) else BitVec.ofNat 64 (SMap.get 0 (s.tile c.tile).perf k)
        .ok (writeOpd c s true 0 d.opd x) none))

/-! ### REGISTER_WRITE (R6) -/

/-- A register written by system software of this part; Off, there is none (R273). -/
def execRegisterWrite (r : RegName) (v : BitVec 64) (s : State) : Host.Outcome State Fault Refusal :=
  if s.cfg.pwr == 3 then .next s
  else
  match r with
  | .config o => .next (s.cfgWrite o v true s.cfg.devid.toNat).1
  | .sreg t o r => .next (s.sregWrite (tgt t o) r v).1

end Sys2Proof.Machine
end

