-- ==== Sys2Proof/Machine/Returns.lean ====
section
/-!
DEFINITION. How issued accesses are performed and how their results return (spec/09 R160 and R161, spec/17 R298 to R303 and R453, spec/05
R94 to R96, spec/03 R50 and R52, spec/15 R262): return groups, stores, the atomic pipeline, walks.
-/
namespace Sys2Proof.Machine

/-! ### Performing one access -/

/-- A value as a set sees it, with the stores over its bytes that only narrower scopes see yet (R305). -/
def State.withShown (s : State) (a : Access) (bs : List Byte) : Nat := bytesNat ((s.shown a).foldl (fun bs b => b.2.over a.loc.addr bs) bs)

/-- One of some steps before which a read may see memory, or none. -/
def State.pickStep (s : State) (l : List Nat) : Option Nat := (none :: l.map some).getD (s.choose 26 (l.length + 1)) none

/-- The step before which a load sees memory, if not as it is now: a load may have seen it at any time since the last event that orders the load
after others, for nothing later is ordered before it (R449; log entry 7). -/
def State.readStep (s : State) (a : Access) : Option Nat :=
  s.pickStep (match a.early, a.loc with
    | some since, .dev pa _ => pastSteps since (s.pastOf (pa / 8))
    | some since, .tile x => pastSteps since (SMap.get [] (s.tile a.tile).past (x / 8))
    | _, _ => [])

/-- The bytes of a load, or the code it faults with when it reaches memory. A peer's data is free (log entry 42, DESIGN CHOICE). -/
def State.accRead (s : State) (a : Access) (at' : Option Nat) : Except (BitVec 8) Nat :=
  match a.loc with
  | .tile x =>
    match tileCheck (s.tile a.tile) x a.bytes false false with
    | some code => .error code
    | none => .ok (s.withShown a (Memory.bytes (at'.elim (s.tile a.tile).mem ((s.tile a.tile).memAt x)) x a.bytes))
  | .dev pa key =>
    match s.cfg.place pa with
    | .config => .ok (s.cfgRead (pa - cfgBase)).toNat
    | _ =>
      if s.memFaults pa a.bytes false then .error Code.memPoison
      else
        .ok (s.withShown a ((at'.elim s (s.lineAt (pa / 64))).readKey key pa a.bytes))
  | .peer _ _ => if Config.freeBit s.tick 30 then .error Code.memPoison else .ok ((s.free 31).toNat % 2 ^ (8 * a.bytes))
  | _ => .ok 0

/-- Write bytes of one double of the tile's own memory; a double written whole is no longer poisoned (R83). `ok` says whether a read may still
see what the double held. -/
def State.tileWrite (s : State) (t a n : Nat) (v : Nat) (ok : Bool) : State :=
  let x := s.tile t
  let l := (SMap.get [] x.past (a / 8)).filter (fun p => s.horizonAt t s.tick < p.tick)
  s.putTile t { x with mem := Memory.writeLE x.mem a n v, memPoison := if n = 8 then NSet.drop x.memPoison (a / 8) else x.memPoison,
                       past := x.past.insert (a / 8) (⟨s.tick, BitVec.ofNat 64 (Memory.readLE x.mem (a / 8 * 8) 8), ok⟩ :: l) }

/-- A load may see memory as it was before a write, unless only some parties had seen the write or a reader takes order from it. -/
def State.plainWrite (s : State) (a : Access) : Bool :=
  a.lvl == 0 && (s.live a.after).isEmpty &&
    !s.accs.any (fun b => !b.2.pending && b.2.writes && placeClash b.2.loc a.loc b.2.bytes a.bytes)

/-- What the history of memory notes of a store (R41, R449). Another node's write to device memory, and its write of a whole line, need no fence;
which fence covers its narrower write to persistent memory the spec does not say, and here none does (log entry 7, DESIGN CHOICE). -/
def State.freshOf (s : State) (i : Nat) (a : Access) : Fresh where
  was := ⟨0, 0, s.plainWrite a⟩
  acc := i
  tile := a.tile
  set := a.set
  tid := a.tid
  cls := a.cls
  waits := match a.loc with
    | .line _ _ => some []
    | .dev pa _ => if 1024 ≤ a.tile && s.cfg.place pa == .device then some [] else a.dur
    | _ => a.dur

/-- A store takes effect. A write that has been accepted and meets poison or a lost link since then changes nothing. -/
def State.accWrite (s : State) (i : Nat) (a : Access) : State :=
  match a.loc with
  | .tile x => if NSet.has (s.tile a.tile).memPoison (x / 8) && a.bytes != 8 then s else s.tileWrite a.tile x a.bytes a.data.toNat (s.plainWrite a)
  | .dev pa key =>
    match s.cfg.place pa with
    | .config =>
      let sup := ((s.set? a.tile a.set).map SetState.supervisor).getD false
      (s.cfgWrite (pa - cfgBase) a.data sup s.cfg.devid.toNat).1
    | _ =>
      if s.memFaults pa a.bytes false then s
      else (s.noteBytes key pa a.bytes (s.freshOf i a)).writeKey key pa (natBytes a.bytes a.data.toNat)
  | .line l w =>
    if s.memFaults (64 * l) 64 true then s
    else
      let s1 := s.noteBytes 0 (64 * l) 64 (s.freshOf i a)
      { s1 with mem := Memory.writeLE s1.mem (64 * l) 64 w.toNat, poison := NSet.drop s1.poison l }
  | .acs w =>
    let x := s.tile a.tile
    s.putTile a.tile { x with acs := SMap.put 0 x.acs w (a.data.extractLsb' 0 32), acsPoison := NSet.drop x.acsPoison w }
  | _ => s

/-- The values of performed writes that a store writes over whole are read no more. -/
def State.supersede (s : State) (i : Nat) (a : Access) : State :=
  { s with accs := s.accs.map (fun b =>
      if b.1 != i && !b.2.pending && placeClash b.2.loc a.loc b.2.bytes a.bytes && decide (a.loc.addr ≤ b.2.loc.addr ∧
          b.2.loc.addr + b.2.bytes ≤ a.loc.addr + a.bytes) then (b.1, { b.2 with bytes := 0 })
      else b) }

/-- A read of a thread has seen memory at a step; what follows an acquire sees nothing older. -/
def State.sawAt (s : State) (t o tid at' : Nat) (acq : Bool) : State :=
  s.modThread t o tid (fun th => { th with seen := max th.seen at', since := if acq then max th.since at' else th.since })

/-- The number that stands for an array in the tid of its port accesses, and the set number: none (log entry 40, DESIGN CHOICE). -/
def cirTid (a : Nat) : Nat := 16384 + a
def cirSet : Nat := 16

/-- A port write of a circuit has been performed: its port reads see nothing older (R113). -/
def State.portSaw (s : State) (a : Access) : State :=
  if a.set == cirSet then
    let x := s.tile a.tile
    s.putTile a.tile { x with arrs := x.arrs.map (fun r => if cirTid r.1 == a.tid then (r.1, { r.2 with since := s.tick }) else r) }
  else s

/-- A store whose order allows it is performed for the whole part (R299, R300): later loads of its thread see nothing older. -/
def State.performAcc (s : State) (i : Nat) : State :=
  match SMap.look s.accs i with
  | none => s
  | some a =>
    if a.kind == .store && a.pending && s.accReady a && !s.overShown i a then
      ((((s.accWrite i a).supersede i a).finish i []).sawAt a.tile a.set a.tid s.tick true).portSaw a
    else s

/-- A thread's store is performed at the level of its set, tile or region: what it is ordered after there has been performed at that level
(R305). Tile-local memory has no scope between the set's and the tile's. -/
def State.narrowAcc (s : State) (i lvl : Nat) : State :=
  match SMap.look s.accs i with
  | none => s
  | some a =>
    let fits : Bool := match a.loc with
      | .tile _ => lvl == 1
      | .dev pa _ => decide (lvl ≤ 3) && s.cfg.place pa != .config
      | _ => false
    if a.kind == .store && a.tile < 1024 && a.tid < 8192 && a.lvl < lvl && fits && a.after.all (s.metFor lvl) && !s.overShown i a then
      { s with accs := s.accs.insert i { a with lvl := lvl } }
    else s

/-! ### Return groups (R160, R161) -/

/-- A token enters a channel whose slot its instruction took at issue (R322). -/
def State.sendAt (s : State) (src : Option (Nat × Nat)) (t e : Nat) (k : Token) : State :=
  match s.outChan t e with
  | some (n, c) => s.putChan n ({ c with fly := c.fly ++ [k] }.note src)
  | none => s

/-- One member of a group has been answered. -/
def Group.answer (g : Group) (tid : Nat) : Group :=
  { g with members := g.members.map (fun m => if m.tid == tid then { m with done := true } else m) }

def State.answer (s : State) (t o g tid : Nat) : State :=
  s.modSet t o (fun v => { v with groups := match v.groups.look g with
    | some x => v.groups.insert g (x.answer tid)
    | none => v.groups })

/-- A member whose access has faulted counts as returned and writes nothing (R161). -/
def Group.refuse (g : Group) (tid : Nat) : Group :=
  { g with members := g.members.map (fun m => if m.tid == tid then { m with dst := none } else m) }

/-- A higher lane of the group has already written the shared register that a member writes: that lane's value stands (R9, R156). -/
def Group.overtaken (g : Group) (m : Member) : Bool :=
  m.dst.any (fun d => (Mark.opd d).isShared) &&
    ((g.members.dropWhile (fun x => x.tid != m.tid)).drop 1).any (fun x => x.done && x.dst == m.dst)

/-- The context in which a late result is written. -/
def lateCtx (t o tid : Nat) (v : SetState) (g : Group) : Ctx :=
  ⟨t, o, g.blk, g.idx, if g.inTrap then .trap else .thread, 0, g.loops, tid, v.sreg, v.k, 0⟩

/-- A member's datum is written, with its flags (R152, R160, R322). -/
def State.deliverDatum (s : State) (t o : Nat) (v : SetState) (g : Group) (gid : Nat) (m : Member) (val : Double) : State :=
  let s1 := match m.dst with
    | none => s
    | some d =>
      match d.outEnd v.ent with
      | some e =>
        match d with
        | .pc _ => s.sendAt g.firing t e ⟨0, (val.extractLsb' 0 1).setWidth 32, []⟩
        | _ => s.sendAt g.firing t e ⟨m.tag, val.extractLsb' 0 32, []⟩
      | none => if g.overtaken m then s else writeOpd (lateCtx t o m.tid v g) s m.wide m.tag d val
  (s1.modThread t o m.tid (fun th => th.setFlags false m.flags)).answer t o gid m.tid

/-- A thread leaves the running sweep. -/
def SetState.outOfSweep (v : SetState) (tid : Nat) : SetState :=
  { v with sweep := v.sweep.map (fun w => { w with passes := w.passes.map (fun p => { p with tids := p.tids.filter (· != tid) }) }) }

/-- A member's access faults when it reaches memory: it writes nothing, counts as returned, and its thread goes to the faulted vector
(R161, R223). -/
def State.lateFault (s : State) (t o gid : Nat) (g : Group) (tid : Nat) (f : FaultInfo) : State :=
  let s1 := (s.answer t o gid tid).modSet t o (fun v => { v with groups := match v.groups.look gid with
    | some x => v.groups.insert gid (x.refuse tid)
    | none => v.groups })
  let s2 := if g.inTrap then s1 else s1.modSet t o (fun v => v.outOfSweep tid)
  s2.threadFault t o tid g.blk g.idx g.loops g.inTrap f

/-- The fault of an access that fails at memory. -/
def State.accFault (_ : State) (a : Access) (code : BitVec 8) : FaultInfo :=
  { code := code, kind := if a.writes then 1 else 0, w1 := a.va, ac := a.ac,
    key := match a.loc with
      | .dev _ k => k
      | _ => 0 }

/-- A register write's status: refused, or the register's target gone, is 1 (R389). -/
def State.lateSregWr (s : State) (t o : Nat) (w : Word) (r : SReg) (v : Double) : State × Bool :=
  match s.resolve t o w r with
  | none => (s, true)
  | some g => s.sregWrite g r v

/-- What a member's return gives: not yet; a place, for a load that had none; a fault; or a value, with the state after its access. -/
inductive Datum where
  | wait (s : State)
  | placed (s : State) (l : Late)
  | fault (s : State) (f : FaultInfo)
  | value (s : State) (v : Double)

def State.accDatum (s : State) (i : Nat) (size : LdSize) : Datum :=
  match SMap.look s.accs i with
  | none => .wait s
  | some a =>
    if !s.accReady a then .wait s
    else
      let at' := s.readStep a
      match s.accRead a at' with
      | .error code => .fault (s.dropAcc i) (s.accFault a code)
      | .ok v => .value ((s.finish i (s.readOrder a)).sawAt a.tile a.set a.tid (at'.elim s.tick (· - 1)) a.acq) (extendLoad size v)

/-- A register access, or a read of the accumulator store, has been performed. -/
def State.answered (s : State) (i : Nat) : State :=
  match SMap.look s.accs i with
  | none => s
  | some a => (s.finish i (s.readOrder a)).sawAt a.tile a.set a.tid s.tick false

def State.memberDatum (s : State) (t o : Nat) (m : Member) : Datum :=
  let ready (i : Nat) : Bool := (SMap.look s.accs i).all s.accReady
  match m.late with
  | .value v => .value s v
  | .load i size => s.accDatum i size
  | .place i size =>
    match SMap.look s.accs i with
    | none => .wait s
    | some a =>
      match s.placeAcc i a with
      | .fault s1 f => .fault s1 f
      | .wait s1 _ => .wait s1
      | .ok s1 x => .placed s1 (if x.mtype == .peer then .peer i size else .load i size)
  | .peer i size => s.accDatum i size
  | .check i =>
    match SMap.look s.accs i with
    | some a =>
      match a.loc with
      | .virt =>
        match s.placeAcc i a with
        | .fault s1 f => .fault s1 f
        | .wait s1 _ => .wait s1
        | .ok s1 x => if x.mtype == .peer then .wait s1 else .value s1 0
      | .peer _ _ => if Config.freeBit s.tick 30 then .fault (s.dropAcc i) (s.accFault a Code.memPoison) else .value s 0
      | _ => .value s 0
    | none => .value s 0
  | .atom _ => .wait s
  | .reply v => .value s v
  | .acs w i =>
    if !ready i then .wait s
    else if NSet.has (s.tile t).acsPoison w then .fault (s.dropAcc i) { code := Code.memPoison, kind := 0, w1 := BitVec.ofNat 64 (w * 4) }
    else .value (s.answered i) ((SMap.get 0 (s.tile t).acs w).setWidth 64)
  | .sregRd w r i =>
    if !i.all ready then .wait s
    else
      match s.resolve t o w r with
      | none => .fault (i.elim s s.dropAcc) (targetFault w)
      | some g =>
        let s1 := s.sregReadClears g r
        .value (i.elim s1 s1.answered) (s.sregRead g r)
  | .sregWr w r v i =>
    if !ready i then .wait s
    else
      let p := (s.answered i).lateSregWr t o w r v
      .value p.1 (if p.2 then 1 else 0)
  | .capRd a => .value s (s.cfgRead a)
  | .capWr a v i =>
    if !ready i then .wait s
    else
      let p := (s.answered i).cfgWrite a v true s.cfg.devid.toNat
      .value p.1 (if p.2 then 1 else 0)
  | .nmq slot =>
    let pa := s.cfg.slotAddr slot
    if s.bankHeld pa then .wait s
    else if s.memFaults pa 8 false then .fault s (pollFault pa)
    else .value s ((pollWord (s.readPlain pa)).setWidth 64)

/-- A member's load has its place. -/
def State.relate (s : State) (t o gid tid : Nat) (l : Late) : State :=
  s.modSet t o (fun v => { v with groups := match v.groups.look gid with
    | some g => v.groups.insert gid { g with members := g.members.map (fun m => if m.tid == tid then { m with late := l } else m) }
    | none => v.groups })

/-- RETURN_DATUM: one thread's datum of a group returns. -/
def execReturnDatum (t o gid tid : Nat) (s : State) : Host.Outcome State Fault Refusal :=
  match s.set? t o with
  | none => .next s
  | some v =>
    match v.groups.look gid with
    | none => .next s
    | some g =>
      match g.members.find? (fun m => m.tid == tid && !m.done) with
      | none => .next s
      | some m =>
        match s.memberDatum t o m with
        | .wait s1 => .next s1
        | .placed s1 l => .next (s1.relate t o gid tid l)
        | .fault s1 f => .next (s1.lateFault t o gid g tid f)
        | .value s1 x => .next (s1.deliverDatum t o v g gid m x)

/-- RETURN_GROUP_COMPLETE (R160): the marks of a group clear when its last datum has been written. -/
def execReturnGroupComplete (t o gid : Nat) (s : State) : Host.Outcome State Fault Refusal :=
  match s.set? t o with
  | none => .next s
  | some v =>
    match v.groups.look gid with
    | none => .next s
    | some g => .next (if g.members.all Member.done then s.putSet t o { v with groups := v.groups.erase gid } else s)

/-- PEER_TIMEOUT (R262): the reply to a thread's access to another node has not come. -/
def execPeerTimeout (t o tid : Nat) (s : State) : Host.Outcome State Fault Refusal :=
  match s.set? t o with
  | none => .next s
  | some v =>
    let waits (m : Member) : Option (Nat × Access) :=
      let i? := match m.late with
        | .peer i _ => some i
        | .check i => some i
        | _ => none
      i?.bind (fun i => (SMap.look s.accs i).bind (fun a => match a.loc with
        | .peer _ _ => if m.tid == tid && !m.done then some (i, a) else none
        | _ => none))
    match v.groups.findSome? (fun g => (g.2.members.findSome? waits).map (fun x => (g.1, g.2, x.1, x.2))) with
    | none => .next s
    | some (gid, g, i, a) => .next ((s.dropAcc i).lateFault t o gid g tid (s.accFault a Code.memPoison))

/-! ### Walks (R50 to R52) -/

/-- TRANSLATION_WALK. -/
def execTranslationWalk (w : Nat) (s : State) : Host.Outcome State Fault Refusal := .next (s.doWalk w)

/-- The die of a translation cache. -/
def XlAt.dieNo : XlAt → Nat
  | .set t _ => dieOf t
  | .tile t => dieOf t
  | .die d => d

/-- A cached leaf enters the other caches of its die that a set of the same address space finds it in (R52). -/
def State.spreadXlat (s : State) (i t o : Nat) : State :=
  match s.xlat[i]? with
  | none => s
  | some x =>
    if dieOf t != x.at'.dieNo || ((s.set? t o).map (fun v => xctxAsid v.regs.xctx)) != some x.asid then s
    else (s.cachesOf t o).foldl (fun s k => s.cacheLeaf { x with at' := k }) s

/-! ### The atomic pipeline (R94, R95) -/

/-- The value that an atomic writes, with the flags of an f32 add. -/
def atomNew (op : AtomOp) (ty : ATy) (old v cmp : Double) : Double × Exc :=
  let m : Double := if ty.wide then 0xFFFFFFFFFFFFFFFF else 0xFFFFFFFF
  let o := old &&& m
  let x := v &&& m
  let lt : Bool := match ty with
    | .i32 => (loWord o).toInt < (loWord x).toInt
    | _ => (loWord o).toNat < (loWord x).toNat
  match op with
  | .add => if ty == .f32 then f32Add .rne o x else ((o + x) &&& m, Exc.none)
  | .min => if ty == .f32 then ((f32MinMax false o x).1, Exc.none) else (if lt then o else x, Exc.none)
  | .max => if ty == .f32 then ((f32MinMax true o x).1, Exc.none) else (if lt then x else o, Exc.none)
  | .and => (o &&& x, Exc.none)
  | .or => (o ||| x, Exc.none)
  | .xor => (o ^^^ x, Exc.none)
  | .xchg => (x, Exc.none)
  | .cas => (if o == cmp &&& m then x else o, Exc.none)

/-- Tile-local address of an access. -/
def Access.tileAddr (a : Access) : Nat :=
  match a.loc with
  | .tile x => x
  | _ => 0

/-- The tile's memory as the requests still in the pipeline leave it: the value of the request accepted last at an address is forwarded. -/
def State.pipeMem (s : State) (t : Nat) : Memory :=
  ([2, 1, 0].flatMap (fun k => (s.tile t).atomQ.filter (fun r => r.age == some k))).foldl (fun m r =>
    match SMap.look s.accs r.acc with
    | some a => Memory.writeLE m a.tileAddr a.bytes r.new.toNat
    | none => m) (s.tile t).mem

/-- One cycle older: a write is performed three cycles after its acceptance. -/
def State.pipeAge (s : State) (t : Nat) : State :=
  let q := (s.tile t).atomQ.map (fun r => { r with age := r.age.map (· + 1) })
  let out := q.filter (fun r => r.age == some 3)
  let s1 := s.putTile t { s.tile t with atomQ := q.filter (fun r => r.age != some 3) }
  out.foldl (fun s r =>
    match SMap.look s.accs r.acc with
    | some a => (((s.tileWrite t a.tileAddr a.bytes r.new.toNat (s.plainWrite a)).supersede r.acc a).finish r.acc []).sawAt t a.set a.tid s.tick true
    | none => s) s1

/-! ### Port nodes as requesters (R95, R97) -/

/-- The numbers that stand for a port node in the set and tid of its adds: none. -/
def portSet : Nat := 17
def portTid (k : Nat) : Nat := 20480 + k

/-- The port node that a request belongs to. -/
def State.portOf (s : State) (a : Access) : Option PortNode :=
  if a.set == portSet then (s.tile a.tile).ports.find? (fun p => portTid p.port == a.tid) else none

/-- An add of a port node is still to be performed. -/
def State.portAdds (s : State) (t k : Nat) : Bool := s.toCome.any (fun a => a.2.tile == t && a.2.set == portSet && a.2.tid == portTid k)

def State.modPort (s : State) (t k : Nat) (f : PortNode → PortNode) : State :=
  s.putTile t { s.tile t with ports := (s.tile t).ports.map (fun p => if p.port == k then f p else p) }

/-- A fault of a port node: it stops at its element, and its record goes to its region (R97, R222). -/
def State.portFault (s : State) (t : Nat) (p : PortNode) (f : FaultInfo) : State :=
  (s.modPort t p.port (fun p => { p with fault := true })).tileRecord t
    (recWord0 { f with ac := p.ac } { node := true } t p.set 0 0 0) f.w1 (recWord2 (s.node t 5 p.port) p.invoc) (recWord3 { f with ac := p.ac })

/-- The requester and address of a request, as Hindcast logs it (R256): a thread that has retired keeps its tid (`noTid`). -/
def State.atomChoice (s : State) (a : Access) : Double :=
  match s.portOf a with
  | some p => (1 : BitVec 1) ++ BitVec.ofNat 4 p.port ++ (0 : BitVec 12) ++ BitVec.ofNat 21 a.tileAddr ++ p.atoms
  | none =>
    (0 : BitVec 1) ++ BitVec.ofNat 4 a.set ++ BitVec.ofNat 12 (a.tid % 4096) ++ BitVec.ofNat 21 a.tileAddr ++
      ((s.set? a.tile a.set).map SetState.atomCount).getD 0

/-- The group and thread that a request's fault goes to: that of its value, or of its check if it has not been answered (R453). -/
def SetState.awaits (v : SetState) (i : Nat) : Option (Nat × Group × Nat) :=
  v.groups.findSome? (fun g => (g.2.members.find? (fun m => (m.late == .atom i && m.dst.isSome) || (m.late == .check i && !m.done))).map (fun m =>
    (g.1, g.2, m.tid)))

/-- The pipeline answers a request: its old value returns, with the flags of an f32 add. -/
def SetState.reply (v : SetState) (i : Nat) (old : Double) (flags : BitVec 5) : SetState :=
  { v with groups := v.groups.map (fun g =>
      (g.1, { g.2 with members := g.2.members.map (fun m => if m.late == .atom i then { m with late := .reply old, flags := flags } else m) })) }

/-- A port node's request has been accepted. -/
def State.countPort (s : State) (t : Nat) (a : Access) : State :=
  match s.portOf a with
  | some p => s.modPort t p.port (fun p => { p with atoms := p.atoms + 1 })
  | none => s

/-- The token of a port node's add leaves when its request is accepted. -/
def State.takePort (s : State) (t : Nat) (a : Access) : State :=
  match s.portOf a with
  | some p => (s.popAt t p.endNo).modPort t p.port (fun p => { p with pos := a.idx + 1, headed := false })
  | none => s

/-- Accept one request: its old value returns, its new value is on its way to memory. A request whose array or double has gone bad since its
check faults its own thread (R96). -/
def State.acceptAtom (s : State) (t i : Nat) (a : Access) : State :=
  match a.kind with
  | .atom op ty cmp _ =>
    let s0 := (s.modSet t a.set (fun v => { v with atomCount := v.atomCount + 1 })).countPort t a
    match tileCheck (s.tile t) a.tileAddr a.bytes true true with
    | some code =>
      let s1 := (s0.putTile t { s0.tile t with atomQ := (s0.tile t).atomQ.filter (fun r => r.acc != i) }).dropAcc i
      match s.portOf a, (s0.set? t a.set).bind (fun v => v.awaits i) with
      | some p, _ => s1.portFault t p { s.accFault a code with kind := 5, elem := BitVec.ofNat 48 a.idx }
      | none, some (gid, g, tid) => (s1.lateFault t a.set gid g tid (s.accFault a code)).modSet t a.set (fun v => v.reply i 0 Exc.none)
      | none, none => s1.modSet t a.set (fun v => v.reply i 0 Exc.none)
    | none =>
      let old : Double := BitVec.ofNat 64 (Memory.readLE (s.pipeMem t) a.tileAddr a.bytes)
      let r := atomNew op ty old a.data cmp
      let flags := if a.checked then Exc.none else r.2
      let s1 := s0.putTile t { s0.tile t with atomQ := (s0.tile t).atomQ.map (fun q => if q.acc == i then { q with age := some 0, new := r.1 } else q) }
      let s2 := (s1.takePort t a).modSet t a.set (fun v => v.reply i old flags)
      { s2 with accs := s2.accs.insert i { a with after := a.after ++ s.readOrder a } }.sawAt t a.set a.tid s.tick false
  | _ => s

/-- The requests of the queue that have not been accepted, with their accesses, in input order. -/
def State.atomWaiting (s : State) (t : Nat) : List (Nat × Access) :=
  (s.tile t).atomQ.filterMap (fun r => if r.age.isNone then (SMap.look s.accs r.acc).map (fun a => (r.acc, a)) else none)

/-- What an atomic is ordered after has been performed, or is an atomic accepted before it. -/
def State.atomReady (s : State) (t : Nat) (a : Access) : Bool :=
  a.after.all (fun n => (s.upTo [n]).all (fun i => decide (n.lvl ≤ s.lvlOf i) || (s.tile t).atomQ.any (fun r => r.acc == i && r.age.isSome)))

/-- The request that may be accepted next: the oldest, or, in replay, the logged requester's (R258). -/
inductive AtomNext where
  | none
  | diverge (choice : Double)
  | one (i : Nat) (a : Access)

def State.atomNext (s : State) (t : Nat) : AtomNext :=
  let q := s.atomWaiting t
  match s.rplMode t with
  | .strict => pick q
  | .advisory => pick q
  | _ =>
    match q with
    | [] => .none
    | p :: _ => .one p.1 p.2
where
  /-- The logged requester's oldest request; another address than the logged one is a divergence (R259). -/
  pick (q : List (Nat × Access)) : AtomNext :=
    match s.hindLook t 2 0 with
    | Option.none => .none
    | some w =>
      match q.find? (fun p : Nat × Access => (s.atomChoice p.2).extractLsb' 47 17 == w.extractLsb' 47 17) with
      | Option.none => .none
      | some p =>
        if p.2.tileAddr == (w.extractLsb' 26 21).toNat then .one p.1 p.2
        else if s.rplHeld t then .none else .diverge w

/-- Accept requests of one cycle: up to four, to different arrays, in order. -/
def State.pipeTake (s : State) (t : Nat) : Nat → List Nat → State
  | 0, _ => s
  | fuel + 1, banks =>
    match s.atomNext t with
    | .none => s
    | .diverge w => s.diverge t 0 0 2 0 .none 0xFFFFFFFF 0 w 1
    | .one i a =>
      let bank := a.tileAddr / 65536
      if banks.contains bank || !s.atomReady t a || s.overShown i a then s
      else
        match s.chooseAs t 2 0 (s.atomChoice a) with
        | .take s1 => (s1.acceptAtom t i a).pipeTake t fuel (bank :: banks)
        | _ => s.segmentStall t a.set

/-- ATOMIC_PIPELINE_CYCLE. -/
def execAtomicPipelineCycle (t : Nat) (s : State) : Host.Outcome State Fault Refusal := .next ((s.pipeAge t).pipeTake t 4 [])

end Sys2Proof.Machine
end

