-- ==== Sys2Proof/Machine/Streams.lean ====
section
/-!
DEFINITION. Stream commands (spec/17 R309 to R316) and what streams, copies and fills share: the ranges that order commands of one set
(spec/05 R87), a command's writes, and the end-of-invocation token at either end.
-/
namespace Sys2Proof.Machine

/-! ### The copy and fill descriptors (R317, R368) -/

/-- A range of bytes: of virtual addresses or of the memory tile, and whether it is written. -/
structure Span where
  tile : Bool
  lo : Int
  hi : Int
  wr : Bool

/-- The interval that a pattern's elements lie in. -/
def Pattern.span (p : Pattern) (wr : Bool) : List Span :=
  let ext (c : Nat) (s : Int) : Int := ((c : Int) - 1) * s
  let es := [ext p.c0 p.s0, ext p.c1 p.s1, ext p.c2 p.s2, ext p.c3 p.s3]
  let lo := (es.map (fun e => min 0 e)).sum
  let hi := (es.map (fun e => max 0 e)).sum
  let b : Int := (p.base.toNat : Int)
  ⟨false, b + lo, b + hi + (p.z : Int), wr⟩ ::
    (if p.scen then [⟨false, (p.scbase.toNat : Int), ((p.scbase.toNat + p.count / max p.bl 1 : Nat) : Int), wr⟩] else [])

def copySrc (ds : List Double) : Double := ds.getD 0 0
def copyDst (ds : List Double) : Double := ds.getD 1 0
def copyLen (ds : List Double) : Nat := ((ds.getD 2 0).extractLsb' 0 22).toNat
def copyEoi (ds : List Double) : Bool := (ds.getD 2 0).getLsbD 31
def copyTag (ds : List Double) : BitVec 3 := (ds.getD 2 0).extractLsb' 28 3
def copyRaw (ds : List Double) : Bool := (ds.getD 2 0).getLsbD 27

def fillKind (ds : List Double) : BitVec 2 := (ds.getD 1 0).extractLsb' 30 2
def fillTag (ds : List Double) : BitVec 3 := (ds.getD 1 0).extractLsb' 27 3
def fillEoi (ds : List Double) : Bool := (ds.getD 1 0).getLsbD 26
def fillOfs (ds : List Double) : Nat := ((ds.getD 1 0).extractLsb' 0 18).toNat
def fillLen (ds : List Double) : Nat := ((ds.getD 2 0).extractLsb' 0 19).toNat

def rangeSpan (tile : Bool) (a : Double) (n : Nat) (wr : Bool) : Span := ⟨tile, (a.toNat : Int), ((a.toNat + n : Nat) : Int), wr⟩

/-- The ranges of a stream, copy or fill (R87, R315, R370). -/
def cmdSpans (c : Cmd) : List Span :=
  let n := copyLen c.ds
  match c.i with
  | .strmRd .. => (pattern c.ds).span false
  | .strmWr .. => (pattern c.ds).span true
  | .cpIn .. => [rangeSpan false (copySrc c.ds) n false, rangeSpan true (copyDst c.ds) n true]
  | .cpOut .. => [rangeSpan true (copySrc c.ds) n false, rangeSpan false (copyDst c.ds) n true]
  | .cpLocal .. => [rangeSpan true (copySrc c.ds) n false, rangeSpan true (copyDst c.ds) n true]
  | .cpPush .. => [rangeSpan true (copySrc c.ds) n false]
  | .cpPushz .. => [rangeSpan true (copySrc c.ds) n false]
  | .cpPop .. => [rangeSpan true (copyDst c.ds) n true]
  | .cpPopd .. => [rangeSpan true (copyDst c.ds) n true]
  | .slotFill .. =>
    if fillKind c.ds == 0 then [rangeSpan false (copySrc c.ds) (fillLen c.ds) false]
    else if fillKind c.ds == 1 then [rangeSpan true (copySrc c.ds) (fillLen c.ds) false]
    else []
  | .cirSched .. => [rangeSpan true c.addr 1056 false]
  | .cirPageout .. => [rangeSpan true c.addr 8192 true]
  | .cirPagein .. => [rangeSpan true c.addr 8192 false]
  | _ => []

def Span.clash (a b : Span) : Bool := a.tile == b.tile && (a.wr || b.wr) && decide (a.lo < b.hi ∧ b.lo < a.hi)

/-- A command whose accesses R87 and R315 order; the image transfers of circuit commands are among them (R383). -/
def movesData : Instr → Bool
  | .strmRd .. => true
  | .strmWr .. => true
  | .cirSched .. => true
  | .cirPageout .. => true
  | .cirPagein .. => true
  | i => i.onCopyEngine

/-- An earlier command of the set holds this one back: their ranges overlap and one of them writes there, or its descriptor is
still being fetched (R87, R315). A command stopped at its fetch has no ranges, and holds none back (R225, R308). -/
def SetState.heldBack (v : SetState) (c : Cmd) : Bool :=
  (v.earlier c.seq).any (fun k => movesData k.i && k.stage != flowStage &&
    (if k.ds.isEmpty && (k.i.array?).isNone then k.at' != CmdAt.stopped else (cmdSpans k).any (fun a => (cmdSpans c).any a.clash)))

/-! ### A command's writes and its EOI -/

/-- A write to translated memory (R91, R314): earlier writes of the command to the same bytes are performed before it. -/
def State.cmdWrite (s : State) (t o : Nat) (c : Cmd) (x : Xl) (va : Double) (n : Nat) (val : Nat) : State :=
  let loc := x.loc
  let same := (s.toCome.filter (fun a => a.2.tile == t && a.2.set == o && a.2.tid == cmdTid c.seq && placeClash a.2.loc loc a.2.bytes n)).map
    (fun a => (⟨a.1, 4, false⟩ : Need))
  (s.issueAcc { tile := t, set := o, tid := cmdTid c.seq, kind := .store, loc := loc, va := va, bytes := n, data := BitVec.ofNat 64 val,
                cls := classBit c.ac, ac := c.ac, acq := false, rel := false, checked := true, after := same, blk := c.blk, idx := 0 }).1

/-- Ends of the command's channel. -/
def SetState.endOf (v : SetState) (isIn : Bool) (n : BitVec 3) : Nat := if isIn then v.ent.chIn n else v.ent.chOut n

/-- The last act of a pushing command: an EOI if its descriptor asks for one (R313, R319). -/
def State.pushEnd (s : State) (t o : Nat) (c : Cmd) (e : Nat) (eoi : Bool) : State :=
  if !eoi then s.cmdDone t o c.seq
  else if s.roomAt t e = 0 then s
  else (s.pushAt t e (ctlToken 1 c.invoc)).cmdDone t o c.seq

/-- A wrong head stops a popping command where it stands; the token stays (R122). -/
def tagFault (c : Cmd) (elem : Nat) : FaultInfo := { code := Code.chTag, elem := BitVec.ofNat 48 elem, ac := c.ac }

/-- The last act of a popping command: exactly one EOI, of any ARG, if its descriptor asks for one (R314, R319). -/
def State.popEnd (s : State) (t o : Nat) (c : Cmd) (e : Nat) (eoi : Bool) (elem : Nat) : State :=
  if !eoi then s.cmdDone t o c.seq
  else
    match s.headAt t e with
    | none => s
    | some k => if k.isCtl && !k.badCtl && k.sub == 1 then (s.popAt t e).cmdDone t o c.seq else s.stopCmd t o c (tagFault c elem)

/-- The fault of an element (R57). -/
def atElem (f : FaultInfo) (e : Nat) : FaultInfo := { f with elem := BitVec.ofNat 48 e }

/-! ### strm.rd (R313) -/

/-- What a read stream may read next, in element order: a scale counts just before its block's first element. -/
def Pattern.wanted (p : Pattern) (c : Cmd) : List (Bool × Nat) :=
  (List.range (min 64 (p.count - c.pos))).flatMap (fun i =>
    let e := c.pos + i
    (if p.scen && e % p.bl == 0 && !(i == 0 && c.aux == [1]) && (SMap.look c.held (scaleKey (e / p.bl))).isNone then [(true, e)] else []) ++
      (if (SMap.look c.held e).isNone then [(false, e)] else []))

/-- Read one element or scale ahead: only the lowest one outstanding can stop the stream (R57). -/
def State.strmRead (s : State) (t o : Nat) (v : SetState) (c : Cmd) (p : Pattern) : State :=
  let w := p.wanted c
  let k := s.choose 21 w.length
  match w[k]? with
  | none => s
  | some (sc, e) =>
    let va := if sc then p.scaleAddr (e / p.bl) else p.addr e
    let n := if sc then 1 else p.z
    match s.engTranslate t o v c va n n 2 false with
    | .wait s1 _ => s1
    | .fault s1 f =>
      if k ≠ 0 then s
      else
        let keep := c.held.filter (fun h : Nat × Nat => h.1 < e || (2 ^ 60 ≤ h.1 && h.1 - 2 ^ 60 ≤ e / max p.bl 1))
        (s1.modCmd t o c.seq (fun c => { c with held := keep })).stopCmd t o { c with held := keep } (atElem f e)
    | .ok s1 x =>
      let val := bytesNat (s1.xlRead x n)
      s1.modCmd t o c.seq (fun c => { c with stage := 2, held := c.held.insert (if sc then scaleKey (e / p.bl) else e) val })

/-- While a read stream stands stopped at an element, the whole tokens of the elements before it flow on (R57). -/
def State.strmFlow (s : State) (t o : Nat) (v : SetState) (c : Cmd) (n : BitVec 3) : State :=
  let e := v.endOf false n
  match if c.stage < 2 || (SMap.look c.held c.pos).isNone then none else (pattern c.ds).ready c with
  | some (k, c1) => if s.roomAt t e = 0 then s else (s.pushAt t e k).modCmd t o c.seq (fun _ => c1)
  | none => s

/-- strm.rd under way. -/
def State.strmRdStep (s : State) (t o : Nat) (v : SetState) (c : Cmd) (n : BitVec 3) : State :=
  let e := v.endOf false n
  if c.stage = 0 then
    s.fetchDesc t o v c 8 64 (fun s ds =>
      if e == 255 || (pattern ds).bad ds (s.fmtOut t e) then s.stopCmd t o c (badDesc c)
      else s.modCmd t o c.seq (fun c => { c with stage := 1, ds := ds }))
  else if c.stage = flowStage then (if c.flows then s.strmFlow t o v c n else s.leaveQueue t o c)
  else if v.heldBack c then s
  else
    let p := pattern c.ds
    if c.pos = p.count then s.pushEnd t o c e p.eoi
    else
      match p.ready c with
      | none => s.strmRead t o v c p
      | some (k, c1) =>
        if s.roomAt t e = 0 || (s.choose 22 2 = 1 && !(p.wanted c).isEmpty) then s.strmRead t o v c p
        else (s.pushAt t e k).modCmd t o c.seq (fun _ => c1)

/-! ### strm.wr (R314) -/

/-- Write one byte group of a write stream, or stop it at its element. -/
def State.strmWrite (s : State) (t o : Nat) (v : SetState) (c : Cmd) (va : Double) (n e val : Nat) (k : State → State) : State :=
  match s.engTranslate t o v c va n n 3 true with
  | .wait s1 _ => s1
  | .fault s1 f => s1.stopCmd t o c (atElem f e)
  | .ok s1 x => k (s1.cmdWrite t o c x va n val)

/-- strm.wr under way: the head is checked at every pop, and is popped once its last element is written. -/
def State.strmWrStep (s : State) (t o : Nat) (v : SetState) (c : Cmd) (n : BitVec 3) : State :=
  let e := v.endOf true n
  if c.stage = 0 then
    s.fetchDesc t o v c 8 64 (fun s ds =>
      if e == 255 || (pattern ds).bad ds (s.fmtIn t e) then s.stopCmd t o c (badDesc c)
      else s.modCmd t o c.seq (fun c => { c with stage := 1, ds := ds }))
  else if v.heldBack c then s
  else
    let p := pattern c.ds
    if c.pos = p.count then s.popEnd t o c e p.eoi c.pos
    else
      match s.headAt t e with
      | none => s
      | some k =>
        if p.scen && c.pos % p.bl == 0 && c.aux != [1] then
          if k.tag != 6 || k.val != (scaleHeader (p.lastBlock c.pos) p.bl ((k.val.extractLsb' 0 8).toNat)).val then
            s.stopCmd t o c (tagFault c c.pos)
          else
            s.strmWrite t o v c (p.scaleAddr (c.pos / p.bl)) 1 c.pos (k.val.extractLsb' 0 8).toNat (fun s =>
              (s.popAt t e).modCmd t o c.seq (fun c => { c with stage := 2, aux := [1] }))
        else if k.tag != p.tag then s.stopCmd t o c (tagFault c c.pos)
        else
          let j := c.pos % p.per
          s.strmWrite t o v c (p.addr c.pos) p.z c.pos (k.val.toNat / 2 ^ (8 * p.z * j) % 2 ^ (8 * p.z)) (fun s =>
            (if j + 1 = p.per then s.popAt t e else s).modCmd t o c.seq (fun c => { c with stage := 2, pos := c.pos + 1, aux := [] }))

/-! ### The instructions -/

/-- strm.rd (R312, R313). -/
def execStrmRd (m : SCom) (port : BitVec 3) (desc : BitVec 4) (s : State) : Host.Outcome State Fault Refusal :=
  enterExec (.strmRd m port desc) m (some desc) false false s

/-- strm.wr (R312, R314). -/
def execStrmWr (m : SCom) (port : BitVec 3) (desc : BitVec 4) (s : State) : Host.Outcome State Fault Refusal :=
  enterExec (.strmWr m port desc) m (some desc) false false s

/-- eng.bar (R316). -/
def execEngBar (m : SCom) (s : State) : Host.Outcome State Fault Refusal := enterExec (.engBar m) m none false false s

end Sys2Proof.Machine
end

