-- ==== Sys2Proof/Machine/Copies.lean ====
section
/-!
DEFINITION. Copies and slot fills (spec/05 R86 to R93, spec/17 R317 to R319, spec/20 R368 to R370).
-/
namespace Sys2Proof.Machine

/-! ### Sides (R86) -/

/-- One side of a moving copy: the memory tile, a translated range, or operand memory. -/
inductive Side where
  | tile (a : Nat)
  | va (a : Double)
  | op (a : Nat)

def Side.addr : Side → Nat
  | .tile a => a
  | .va a => a.toNat
  | .op a => a

/-- A range of the memory tile checked whole (R89): past its end, or in an array in circuit mode. -/
def Tile.rangeCheck (x : Tile) (a n : Nat) : Option (BitVec 8) :=
  if x.heldFor.isSome || 2097152 < a + n then some Code.tileRange
  else if n = 0 then none
  else if (List.range ((a + n - 1) / 65536 - a / 65536 + 1)).any (fun i => ((x.arrs.look (a / 65536 + i)).getD Arr.reset).mode != .storage) then
    some Code.arrayMode
  else none

/-- A piece of bytes read from a side, within one double. -/
inductive Piece where
  | wait (s : State)
  | fault (s : State) (f : FaultInfo)
  | ok (s : State) (bs : List Byte)

/-- The array of a byte of the memory tile is no longer in STORAGE: a copy that has made its range check stops there (R89, R102; log entry 39,
DEDUCED). -/
def Tile.closed (x : Tile) (a : Nat) : Bool := ((x.arrs.look (a / 65536)).getD Arr.reset).mode != .storage

def State.readSide (s : State) (t o : Nat) (v : SetState) (c : Cmd) (sd : Side) (ofs n : Nat) : Piece :=
  match sd with
  | .tile a =>
    if (s.tile t).closed (a + ofs) then .fault s { code := Code.arrayMode, kind := 4, w1 := BitVec.ofNat 64 (a + ofs), ac := c.ac }
    else if NSet.has (s.tile t).memPoison ((a + ofs) / 8) then .fault s { code := Code.memPoison, kind := 4, w1 := BitVec.ofNat 64 (a + ofs), ac := c.ac }
    else .ok s (Memory.bytes (s.tile t).mem (a + ofs) n)
  | .va a =>
    match s.engTranslate t o v c (a + BitVec.ofNat 64 ofs) n 1 4 false with
    | .wait s1 _ => .wait s1
    | .fault s1 f => .fault s1 f
    | .ok s1 x => .ok s1 (s1.xlRead x n)
  | .op a => .ok s (Memory.bytes (s.tile t).opmem (a + ofs) n)

/-- Write a piece, within one double of the destination. Each piece is a request of its own: none covers a whole line of device memory, so that
none clears a poisoned line (R28; log entry 39, DESIGN CHOICE). -/
def State.writeSide (s : State) (t o : Nat) (v : SetState) (c : Cmd) (sd : Side) (ofs : Nat) (bs : List Byte) : Piece :=
  let n := bs.length
  match sd with
  | .tile a =>
    if (s.tile t).closed (a + ofs) then .fault s { code := Code.arrayMode, kind := 5, w1 := BitVec.ofNat 64 (a + ofs), ac := c.ac }
    else if NSet.has (s.tile t).memPoison ((a + ofs) / 8) && n != 8 then
      .fault s { code := Code.memPoison, kind := 5, w1 := BitVec.ofNat 64 (a + ofs), ac := c.ac }
    else .ok (s.tileWrite t (a + ofs) n (bytesNat bs) true) []
  | .va a =>
    match s.engTranslate t o v c (a + BitVec.ofNat 64 ofs) n 1 5 true with
    | .wait s1 _ => .wait s1
    | .fault s1 f => .fault s1 f
    | .ok s1 x => .ok (s1.cmdWrite t o c x (a + BitVec.ofNat 64 ofs) n (bytesNat bs)) []
  | .op a =>
    let x := s.tile t
    .ok (s.putTile t { x with opmem := Memory.writeBytes x.opmem (a + ofs) bs,
                              opPoison := if n = 8 then NSet.drop x.opPoison ((a + ofs) / 8) else x.opPoison }) []

/-! ### Moving bytes (R86, R88 to R90) -/

/-- How many bytes follow in order within one double, from an offset of a side. -/
def pieceLen (base ofs len : Nat) (desc : Bool) : Nat :=
  if desc then min (ofs + 1) ((base + ofs) % 8 + 1) else min (len - ofs) (8 - (base + ofs) % 8)

/-- Move bytes of a copy of `len` bytes: read ahead by doubles of the source, write by doubles of the destination, in the
order of progress; a fault stops it at the first byte that it reaches, every byte before having been written. -/
def State.moveStep (s : State) (t o : Nat) (v : SetState) (c : Cmd) (src dst : Side) (len : Nat) (desc : Bool) : State :=
  let ofs (j : Nat) : Nat := if desc then len - 1 - j else j
  let n := pieceLen dst.addr (ofs c.pos) len desc
  let put (n : Nat) : State :=
    let bs := c.buf.take n
    let lo := if desc then ofs c.pos + 1 - n else ofs c.pos
    match s.writeSide t o v c dst lo (if desc then bs.reverse else bs) with
    | .wait s1 => s1
    | .fault s1 f => s1.stopCmd t o c (atElem f (ofs c.pos))
    | .ok s1 _ =>
      (s1.modCmd t o c.seq (fun c => { c with stage := 3, pos := c.pos + n, buf := c.buf.drop n })).countTile t 0x12 n
  if n ≤ c.buf.length then put n
  else
    let j := c.pos + c.buf.length
    let m := pieceLen src.addr (ofs j) len desc
    match s.readSide t o v c src (if desc then ofs j + 1 - m else ofs j) m with
    | .wait s1 => s1
    | .ok s1 bs => s1.modCmd t o c.seq (fun c => { c with stage := 3, buf := c.buf ++ (if desc then bs.reverse else bs) })
    | .fault s1 f => if c.buf.isEmpty then s1.stopCmd t o c (atElem f (ofs j)) else put c.buf.length

/-! ### Copies (R317 to R319) -/

/-- What each copy kind's descriptor must hold (R317, R318). -/
structure CopyRule where
  srcTile : Bool := false
  dstTile : Bool := false
  srcZero : Bool := false
  dstZero : Bool := false
  eoi : Bool := false
  tag : Bool := false
  zf : Bool := false
  mult : Nat := 1
  most : Nat := 2097152

def copyRule : Instr → CopyRule
  | .cpIn .. => { dstTile := true }
  | .cpOut .. => { srcTile := true }
  | .cpLocal .. => { srcTile := true, dstTile := true }
  | .cpPush .. => { srcTile := true, dstZero := true, eoi := true, tag := true, mult := 4 }
  | .cpPushz .. => { srcTile := true, dstZero := true, eoi := true, zf := true, mult := 2, most := 65536 }
  | .cpPop .. => { srcZero := true, dstTile := true, eoi := true, tag := true, mult := 4 }
  | .cpPopd .. => { srcZero := true, dstTile := true, eoi := true, mult := 2, most := 65536 }
  | _ => {}

def CopyRule.bad (r : CopyRule) (ds : List Double) : Bool :=
  let d2 := ds.getD 2 0
  let far (a : Double) : Bool := a.extractLsb' 21 43 != 0
  d2.extractLsb' 32 32 != 0 || d2.extractLsb' 22 5 != 0 || ds.getD 3 0 != 0 || (r.srcTile && far (copySrc ds)) ||
    (r.dstTile && far (copyDst ds)) || (r.srcZero && copySrc ds != 0) || (r.dstZero && copyDst ds != 0) || (!r.eoi && copyEoi ds) ||
    (if r.tag then 4 < (copyTag ds).toNat else copyTag ds != 0) || (!r.zf && copyRaw ds) || r.most < copyLen ds ||
    copyLen ds % r.mult != 0

/-- The channel end of a copy, if it has one. -/
def SetState.copyEnd (v : SetState) (i : Instr) : Option Nat :=
  match i.ports with
  | (isIn, n) :: _ => some (v.endOf isIn n)
  | [] => none

/-- The checks of a copy's stages 2 and 3: alignment of a channel kind's tile-local address, then the whole memory-tile range, of the source before
the destination (log entry 52, DESIGN CHOICE). -/
def Tile.copyCheck (x : Tile) (i : Instr) (ds : List Double) : Option FaultInfo :=
  let r := copyRule i
  let n := copyLen ds
  let sides := (if r.srcTile then [((4 : BitVec 3), (copySrc ds).toNat)] else []) ++ (if r.dstTile then [((5 : BitVec 3), (copyDst ds).toNat)] else [])
  match if r.eoi then sides.find? (fun a : BitVec 3 × Nat => a.2 % r.mult ≠ 0) else none with
  | some a => some { code := Code.align, kind := a.1, w1 := BitVec.ofNat 64 a.2 }
  | none =>
    sides.findSome? (fun a : BitVec 3 × Nat => (x.rangeCheck a.2 n).map (fun code =>
      ({ code := code, kind := a.1, w1 := BitVec.ofNat 64 a.2 } : FaultInfo)))

/-- Fetch and check a copy's descriptor; a copy of length 0 is done. -/
def State.copyStart (s : State) (t o : Nat) (v : SetState) (c : Cmd) : State :=
  s.fetchDesc t o v c 4 32 (fun s ds =>
    if (copyRule c.i).bad ds || v.copyEnd c.i == some 255 then s.stopCmd t o c (badDesc c)
    else
      match (s.tile t).copyCheck c.i ds with
      | some f => s.stopCmd t o c { f with ac := c.ac }
      | none => if copyLen ds = 0 then s.cmdDone t o c.seq else s.modCmd t o c.seq (fun c => { c with stage := 1, ds := ds }))

/-- A copy between two ranges. -/
def State.plainCopyStep (s : State) (t o : Nat) (v : SetState) (c : Cmd) (src dst : Side) (desc : Bool) : State :=
  if c.pos = copyLen c.ds then s.cmdDone t o c.seq else s.moveStep t o v c src dst (copyLen c.ds) desc

/-- What a push reads of the memory tile, or the fault it meets there. -/
def Tile.pushBytes (x : Tile) (c : Cmd) (a n : Nat) : Except FaultInfo Nat :=
  let bad (code : BitVec 8) : FaultInfo := { code := code, kind := 4, w1 := BitVec.ofNat 64 a, elem := BitVec.ofNat 48 c.pos, ac := c.ac }
  if x.closed a then .error (bad Code.arrayMode)
  else if NSet.has x.memPoison (a / 8) then .error (bad Code.memPoison)
  else .ok (Memory.readLE x.mem a n)

/-- A dense push of 4 bytes (R86, R319): channel copies access the memory tile by token or element (log entry 52, DESIGN CHOICE). -/
def State.pushStep (s : State) (t o : Nat) (c : Cmd) (e : Nat) : State :=
  if c.pos = copyLen c.ds then s.pushEnd t o c e (copyEoi c.ds)
  else
    match (s.tile t).pushBytes c ((copySrc c.ds).toNat + c.pos) 4 with
    | .error f => s.stopCmd t o c f
    | .ok x =>
      if s.roomAt t e = 0 then s
      else
        ((s.pushAt t e ⟨copyTag c.ds, BitVec.ofNat 32 x, []⟩).modCmd t o c.seq (fun c =>
          { c with stage := 3, pos := c.pos + 4 })).countTile t 0x12 4

/-- One element of a row with its zeros removed (R92). -/
def State.pushzStep (s : State) (t o : Nat) (c : Cmd) (e : Nat) : State :=
  let len := copyLen c.ds
  if c.pos = len then s.pushEnd t o c e (copyEoi c.ds)
  else
    match (s.tile t).pushBytes c ((copySrc c.ds).toNat + c.pos) 2 with
    | .error f => s.stopCmd t o c f
    | .ok n =>
      let x : Half := BitVec.ofNat 16 n
      let last := c.pos + 2 = len
      let zero := x == 0 || (!copyRaw c.ds && x == 0x8000)
      let next (s : State) : State := (s.modCmd t o c.seq (fun c => { c with stage := 3, pos := c.pos + 2 })).countTile t 0x12 2
      if zero && !last then next s
      else if s.roomAt t e = 0 then s
      else next (s.pushAt t e ⟨5, BitVec.ofBool last ++ BitVec.ofNat 15 (c.pos / 2) ++ x, []⟩)

/-- A dense pop of 4 bytes to a destination (R86, R319, R370). -/
def State.popStep (s : State) (t o : Nat) (v : SetState) (c : Cmd) (e : Nat) (dst : Side) (tag : BitVec 3) (len : Nat) : State :=
  match s.headAt t e with
  | none => s
  | some k =>
    if k.tag != tag then s.stopCmd t o c (tagFault c c.pos)
    else
      match s.writeSide t o v c dst c.pos (natBytes 4 k.val.toNat) with
      | .wait s1 => s1
      | .fault s1 f => s1.stopCmd t o c (atElem f c.pos)
      | .ok s1 _ =>
        if len ≤ c.pos then s
        else ((s1.popAt t e).modCmd t o c.seq (fun c => { c with stage := 3, pos := c.pos + 4 })).countTile t 0x12 4

/-- Densify a row (R93): pop its tokens into the command, then write every element. `aux` counts the tokens popped and holds the
next coordinate allowed; stage 4 writes. -/
def State.popdStep (s : State) (t o : Nat) (v : SetState) (c : Cmd) (e : Nat) : State :=
  let n := copyLen c.ds / 2
  if c.stage < 4 then
    match s.headAt t e with
    | none => s
    | some k =>
      let pos := c.aux.getD 0 0
      let coord := (k.val.extractLsb' 16 15).toNat
      if k.tag != 5 then s.stopCmd t o c (tagFault c pos)
      else if n ≤ coord || coord < c.aux.getD 1 0 then
        s.stopCmd t o c { code := Code.tileRange, elem := BitVec.ofNat 48 pos, ac := c.ac }
      else
        (s.popAt t e).modCmd t o c.seq (fun c =>
          { c with stage := if k.val.getLsbD 31 then 4 else 3, aux := [pos + 1, coord + 1],
                   held := c.held.insert coord (k.val.extractLsb' 0 16).toNat })
  else if c.pos = copyLen c.ds then s.popEnd t o c e (copyEoi c.ds) c.pos
  else
    let a := (copyDst c.ds).toNat
    let m := pieceLen a c.pos (copyLen c.ds) false
    let byte (i : Nat) : Byte := BitVec.ofNat 8 (SMap.get 0 c.held (i / 2) / (if i % 2 = 0 then 1 else 256))
    match s.writeSide t o v c (.tile a) c.pos ((List.range m).map (fun i => byte (c.pos + i))) with
    | .wait s1 => s1
    | .fault s1 f => s1.stopCmd t o c (atElem f c.pos)
    | .ok s1 _ => (s1.modCmd t o c.seq (fun c => { c with pos := c.pos + m })).countTile t 0x12 m

/-- A copy under way. -/
def State.copyStep (s : State) (t o : Nat) (v : SetState) (c : Cmd) : State :=
  if c.stage = 0 then s.copyStart t o v c
  else if v.heldBack c then s
  else
    let sa := copySrc c.ds
    let da := copyDst c.ds
    let e := (v.copyEnd c.i).getD 255
    match c.i with
    | .cpIn .. => s.plainCopyStep t o v c (.va sa) (.tile da.toNat) false
    | .cpOut .. => s.plainCopyStep t o v c (.tile sa.toNat) (.va da) false
    | .cpLocal .. => s.plainCopyStep t o v c (.tile sa.toNat) (.tile da.toNat) (decide (sa.toNat < da.toNat))
    | .cpPush .. => s.pushStep t o c e
    | .cpPushz .. => s.pushzStep t o c e
    | .cpPop .. =>
      if c.pos = copyLen c.ds then s.popEnd t o c e (copyEoi c.ds) c.pos else s.popStep t o v c e (.tile da.toNat) (copyTag c.ds) (copyLen c.ds)
    | .cpPopd .. => s.popdStep t o v c e
    | _ => s

/-! ### Fills (R368 to R370) -/

/-- Malformed (R368), or a channel flag that does not agree with the source kind, or an unbound channel (R369). -/
def fillBad (ds : List Double) (countM1 : Nat) (chan : Option Nat) : Bool :=
  let d1 := ds.getD 1 0
  let k := fillKind ds
  d1.extractLsb' 32 32 != 0 || d1.extractLsb' 18 8 != 0 || (ds.getD 2 0).extractLsb' 19 45 != 0 || ds.getD 3 0 != 0 || k == 3 ||
    (if k == 2 then 4 < (fillTag ds).toNat || copySrc ds != 0 || fillOfs ds % 4 != 0 || fillLen ds % 4 != 0
     else fillTag ds != 0 || fillEoi ds || (k == 1 && (copySrc ds).extractLsb' 21 43 != 0)) ||
    (countM1 + 1) * 16384 < fillOfs ds + fillLen ds || (k == 2) != chan.isSome || chan == some 255

/-- A fill is done: its run becomes READY when it retires, or at once where its length is 0 (R167, R370). -/
def State.fillDone (s : State) (t o : Nat) (c : Cmd) (run : List Nat) : State :=
  (if fillLen c.ds = 0 then s.setRun t o run .ready else s).cmdDone t o c.seq

/-- slot.fill under way: stage 1 has its descriptor, stage 2 has its run FILLING. -/
def State.fillStep (s : State) (t o : Nat) (v : SetState) (c : Cmd) (first countM1 : Nat) (chan : Option Nat) : State :=
  let run := slotRun first countM1
  if c.stage = 0 then
    s.fetchDesc t o v c 4 32 (fun s ds =>
      if fillBad ds countM1 chan then s.stopCmd t o c (badDesc c) else s.modCmd t o c.seq (fun c => { c with stage := 1, ds := ds }))
  else if c.stage = 1 then
    match if v.fillBefore c.seq run then .wait else s.runAct t o .fill run with
    | .fault => s.stopCmd t o c (slotFault c)
    | .wait => s
    | .go => (s.setRun t o run .filling).modCmd t o c.seq (fun c => { c with stage := 2 })
  else if v.heldBack c then s
  else
    let len := fillLen c.ds
    let dst : Side := .op (first * 16384 + fillOfs c.ds)
    if fillKind c.ds == 2 then
      let e := chan.getD 255
      if c.pos = len then
        if len = 0 || !fillEoi c.ds then s.fillDone t o c run
        else
          match s.headAt t e with
          | none => s
          | some k =>
            if k.isCtl && !k.badCtl && k.sub == 1 then (s.popAt t e).fillDone t o c run else s.stopCmd t o c (tagFault c c.pos)
      else s.popStep t o v c e dst (fillTag c.ds) len
    else if c.pos = len then s.fillDone t o c run
    else if fillKind c.ds == 1 then
      let a := (copySrc c.ds).toNat
      match if c.stage = 2 then (s.tile t).rangeCheck a len else none with
      | some code => s.stopCmd t o c { code := code, kind := 4, w1 := BitVec.ofNat 64 a, ac := c.ac }
      | none => s.moveStep t o v c (.tile a) dst len false
    else s.moveStep t o v c (.va (copySrc c.ds)) dst len false

/-! ### The instructions -/

/-- cp.in (R318, R319). -/
def execCpIn (m : SCom) (desc : BitVec 4) (s : State) : Host.Outcome State Fault Refusal :=
  enterExec (.cpIn m desc) m (some desc) false false s

/-- cp.out. -/
def execCpOut (m : SCom) (desc : BitVec 4) (s : State) : Host.Outcome State Fault Refusal :=
  enterExec (.cpOut m desc) m (some desc) false false s

/-- cp.local (R88). -/
def execCpLocal (m : SCom) (desc : BitVec 4) (s : State) : Host.Outcome State Fault Refusal :=
  enterExec (.cpLocal m desc) m (some desc) false false s

/-- cp.push. -/
def execCpPush (m : SCom) (port : BitVec 3) (desc : BitVec 4) (s : State) : Host.Outcome State Fault Refusal :=
  enterExec (.cpPush m port desc) m (some desc) false false s

/-- cp.pushz (R92). -/
def execCpPushz (m : SCom) (port : BitVec 3) (desc : BitVec 4) (s : State) : Host.Outcome State Fault Refusal :=
  enterExec (.cpPushz m port desc) m (some desc) false false s

/-- cp.pop. -/
def execCpPop (m : SCom) (port : BitVec 3) (desc : BitVec 4) (s : State) : Host.Outcome State Fault Refusal :=
  enterExec (.cpPop m port desc) m (some desc) false false s

/-- cp.popd (R93). -/
def execCpPopd (m : SCom) (port : BitVec 3) (desc : BitVec 4) (s : State) : Host.Outcome State Fault Refusal :=
  enterExec (.cpPopd m port desc) m (some desc) false false s

/-- slot.fill (R369). -/
def execSlotFill (m : SCom) (first countM1 : BitVec 4) (chan : Option (BitVec 3)) (desc : BitVec 4) (s : State) :
    Host.Outcome State Fault Refusal :=
  enterExec (.slotFill m first countM1 chan desc) m (some desc) false false s

end Sys2Proof.Machine
end

