-- ==== Sys2Proof/Machine/CubeUnit.lean ====
section
/-!
DEFINITION. The cube (spec/10 R165 to R182, spec/20 R373 to R378): shapes, what a command computes panel by panel and stage
group by stage group, cooperative groups, stream bindings, and the accumulator store's poison.
-/
namespace Sys2Proof.Machine

/-! ### Checks (R172, R173, R377) -/

def within (x lo hi step : Nat) : Bool := decide (lo ≤ x ∧ x ≤ hi ∧ x % step = 0)

/-- The shape is legal (R172), for a binding with R377. -/
def CubeDesc.shapeOk (d : CubeDesc) (g : Double) : Bool :=
  (match d.mode with
    | .mm => (d.bind || within d.m 32 512 32) && within d.n 32 256 32 && within d.k 8 (512 / d.z) 8
    | .gate => (d.bind || within d.m 32 512 32) && within d.n 32 256 32 && within d.k 8 (512 / d.z) 8
    | .spread => within d.m 32 512 32 && within d.n 32 256 32 && within d.k 1 (512 / d.z) 1 && within d.l 1 8 1 && decide (d.l * d.n ≤ 256)
    | .fold => d.m == 32 && within d.j 1 32 1 && within d.l 1 8 1 && within d.r 32 256 32 && !d.scaled) &&
  d.row0 % 32 == 0 && d.col0 % 32 == 0 && decide (d.row0 + d.rows ≤ 512 ∧ d.col0 + d.cols ≤ 256) &&
  (!d.scaled || (d.cls == 0 && within d.bl 8 248 8 && d.k % d.bl == 0 && decide (d.k ≤ 480 ∧ d.k / d.bl ≤ 32))) &&
  (d.ownRuns g).all (fun r : Nat × Nat => decide (r.1 + r.2 ≤ 16)) &&
  (!d.coop || (grpEn g && !d.bind && (d.mode == .mm || d.mode == .gate))) &&
  (!(d.bind && d.mode == .gate) || d.gface)

/-- A word of the store, by row and column (R169). -/
def acsWord (row col : Nat) : Nat := row * 256 + col

/-- A column of the store that a spill map of the active plane lends (R163). -/
def State.lentCol (s : State) (t col : Nat) : Bool :=
  (s.setsOf t).any (fun v =>
    let l := lentCols v.2.regs.spmap v.2.ent
    decide (l.1 ≤ col ∧ col < l.1 + l.2))

/-- The words of the output region, in rising order. -/
def CubeDesc.region (d : CubeDesc) : List Nat :=
  (List.range d.rows).flatMap (fun i => (List.range d.cols).map (fun j => acsWord (d.row0 + i) (d.col0 + j)))

/-- A cube fault: kind 111, no class (R182). -/
def cubeFault (code : BitVec 8) (word : Nat) (panel : Nat) : FaultInfo :=
  { code := code, w1 := BitVec.ofNat 64 (word * 4), elem := BitVec.ofNat 48 panel }

/-- Checks 3 and 4 of R173: lent columns and slots, and poison under ACC. -/
def State.cubeStateCheck (s : State) (t o : Nat) (d : CubeDesc) : Option FaultInfo :=
  let lent := (List.range d.cols).any (fun j => s.lentCol t (d.col0 + j))
  if lent || (s.tile t).heldFor.isSome || (d.ownSlots (s.cubegrp t)).any (fun n => s.slotAct t o n .use == .fault) then some (cubeFault Code.slotState 0 0)
  else if d.acc then
    (d.region.find? (fun w => NSet.has (s.tile t).acsPoison w)).map (fun w => cubeFault Code.memPoison w 0)
  else none

/-- Every check of R173 in order. -/
def State.cubeCheck (s : State) (t o : Nat) (d : CubeDesc) (ds : List Double) : Option FaultInfo :=
  if d.badField ds then some (cubeFault Code.reservedField 0 0)
  else if !d.shapeOk (s.cubegrp t) then some (cubeFault Code.cubeShape 0 0)
  else s.cubeStateCheck t o d

/-! ### Operands (R168, R170) -/

/-- An element of the class at its exact value. -/
def cubeElem (cls : Nat) (f : BitVec 6) (v : Nat) : Exact :=
  match cls with
  | 0 =>
    if f.getLsbD 5 then Exact.ofInt (if f.getLsbD 0 then (v : Int) else (BitVec.ofNat 8 v).toInt)
    else readB8 (b8Dec (f.extractLsb' 0 5)) (BitVec.ofNat 8 v)
  | 1 => readBf16 (BitVec.ofNat 16 v)
  | _ => readF32 (BitVec.ofNat 32 v)

/-- The operand-memory byte of line u, within a run. -/
def lineAddr (slot u : Nat) : Nat := slot * 16384 + u / 32 * 16384 + u % 32 * 512

/-- A plane: the operand memory that holds it, its poisoned doubles, its first slot, its format, and whether it is scaled. -/
structure CubePlane where
  mem : Memory
  poison : NSet
  slot : Nat
  fmt : BitVec 6
  scaled : Bool

/-- Element (u, v) of a plane, times its block scale (R147). -/
def CubePlane.at (p : CubePlane) (d : CubeDesc) (u v : Nat) : Exact :=
  let a := lineAddr p.slot u
  let x := cubeElem d.cls p.fmt (Memory.readLE p.mem (a + v * d.z) d.z)
  if p.scaled then (Exact.mul x (readE8 (Memory.read p.mem (a + 480 + v / d.bl)))).1 else x

/-- Element (i, j, l) of X in FOLD. -/
def CubePlane.foldX (p : CubePlane) (d : CubeDesc) (i j l : Nat) : Exact :=
  cubeElem d.cls p.fmt (Memory.readLE p.mem (p.slot * 16384 + ((i * 8 + l) * 32 + j) * d.z) d.z)

/-- A poisoned double is among the bytes that elements v0 onward, `n` of them, of `lines` lines from u0 are read from (R168). -/
def CubePlane.hit (p : CubePlane) (d : CubeDesc) (u0 lines v0 n : Nat) : Bool :=
  p.poison.any (fun q =>
    let r := q * 8 - p.slot * 16384
    let o := r % 512
    decide (p.slot * 16384 ≤ q * 8 ∧ u0 ≤ r / 512 ∧ r / 512 < u0 + lines) &&
      (decide (v0 * d.z < o + 8 ∧ o < (v0 + n) * d.z) ||
        (p.scaled && decide (480 + v0 / d.bl < o + 8 ∧ o ≤ 480 + (v0 + n - 1) / d.bl))))

/-- The same of the elements (i, j, l) of X in FOLD, for one j. -/
def CubePlane.hitX (p : CubePlane) (d : CubeDesc) (j : Nat) : Bool :=
  p.poison.any (fun q =>
    let r := q * 8 - p.slot * 16384
    decide (p.slot * 16384 ≤ q * 8) && (List.range (8 / d.z)).any (fun k =>
      let e := r / d.z + k
      e % 32 == j && decide (e / 32 % 8 < d.l ∧ e / 256 < 32)))

def Exact.mul3 (x y w : Exact) : Exact := (Exact.mul (Exact.mul x y).1 w).1

/-- The exact products of stage group g for output (i, j, l), where j is the output column in FOLD (R170). -/
def cubeProducts (d : CubeDesc) (a b c : CubePlane) (i j l g : Nat) : List Exact :=
  match d.mode with
  | .mm => (List.range 8).map (fun x => (Exact.mul (a.at d i (8 * g + x)) (b.at d j (8 * g + x))).1)
  | .gate => (List.range 8).map (fun x =>
      let k := 8 * g + x
      (a.at d i k).mul3 (b.at d j k) (if d.gface then c.at d j k else c.at d i k))
  | .spread => [(a.at d i g).mul3 (b.at d j g) (c.at d l g)]
  | .fold => (List.range d.l).map (fun x => (a.foldX d i g x).mul3 (b.at d j g) (c.at d j x))

/-- Stage 1 (R171): the exact sum of the products, rounded once. -/
def cubeSum : List Exact → Exact
  | [] => Exact.zero
  | x :: xs => xs.foldl (fun a y => (Exact.add .rne a y).1) x

def cubeStage1 (ps : List Exact) : Word := (roundF32 .rne (cubeSum ps)).1

/-- Stage 2 (R171). -/
def cubeStage2 (acc s1 : Word) : Word := (roundF32 .rne (Exact.add .rne (readF32 acc) (readF32 s1)).1).1

/-! ### Panels (R174) -/

def CubeDesc.panels (d : CubeDesc) : Nat :=
  match d.mode with
  | .fold => d.r / 32
  | _ => d.m / 32 * (d.n / 32)

/-- The outputs of a panel: their word of the store and their indices (i, j, l). -/
def CubeDesc.panelWords (d : CubeDesc) (p : Nat) : List (Nat × Nat × Nat × Nat) :=
  let cells (i0 j0 : Nat) (ls : List Nat) : List (Nat × Nat × Nat × Nat) :=
    (List.range 32).flatMap (fun i => (List.range 32).flatMap (fun j => ls.map (fun l =>
      (acsWord (d.row0 + i0 + i) (d.col0 + l * d.n + j0 + j), i0 + i, j0 + j, l))))
  match d.mode with
  | .fold => cells 0 (32 * p) [0]
  | .spread => cells (32 * (p / (d.n / 32))) (32 * (p % (d.n / 32))) (List.range d.l)
  | _ => cells (32 * (p / (d.n / 32))) (32 * (p % (d.n / 32))) [0]

/-- The first word of a panel. -/
def CubeDesc.panelFirst (d : CubeDesc) (p : Nat) : Nat := ((d.panelWords p).map Prod.fst).headD 0

/-- Stage group g of panel p reads a poisoned double of its operands (R168, R239). -/
def cubePoison (d : CubeDesc) (a b c : CubePlane) (p g : Nat) : Bool :=
  let i0 := 32 * (p / (d.n / 32))
  let j0 := 32 * (p % (d.n / 32))
  match d.mode with
  | .mm => a.hit d i0 32 (8 * g) 8 || b.hit d j0 32 (8 * g) 8
  | .gate => a.hit d i0 32 (8 * g) 8 || b.hit d j0 32 (8 * g) 8 || (if d.gface then c.hit d j0 32 (8 * g) 8 else c.hit d i0 32 (8 * g) 8)
  | .spread => a.hit d i0 32 g 1 || b.hit d j0 32 g 1 || c.hit d 0 d.l g 1
  | .fold => a.hitX d g || b.hit d (32 * p) 32 g 1 || c.hit d (32 * p) 32 0 d.l

/-- A word of the store written by the cube: rewritten, it is no longer poisoned (R179). -/
def Tile.putAcs (x : Tile) (w : Nat) (v : Word) : Tile :=
  { x with acs := SMap.put 0 x.acs w v, acsPoison := NSet.drop x.acsPoison w }

/-- One stage group of a panel. The first starts from +0 or from the start values; every word is then the next partial sum. -/
def Tile.cubeGroup (x : Tile) (d : CubeDesc) (a b c : CubePlane) (ws : List (Nat × Nat × Nat × Nat)) (g : Nat) (start : SMap Nat) : Tile :=
  ws.foldl (fun y w =>
    let acc : Word :=
      if g ≠ 0 then SMap.get 0 y.acs w.1
      else if d.acc then (match SMap.look start w.1 with
        | some v => BitVec.ofNat 32 v
        | none => SMap.get 0 y.acs w.1)
      else 0
    y.putAcs w.1 (cubeStage2 acc (cubeStage1 (cubeProducts d a b c w.2.1 w.2.2.1 w.2.2.2 g)))) x

/-- Every word of a region is poisoned until it is rewritten (R179). -/
def State.poisonRegion (s : State) (t : Nat) (d : CubeDesc) : State :=
  let x := s.tile t
  s.putTile t { x with acsPoison := d.region.foldl NSet.add x.acsPoison, cube := { x.cube with bad := false } }

/-! ### Commands at the cube (R169, R178, R374) -/

/-- The command that an entry of the cube's order stands for. -/
def State.cubeCmd (s : State) (t : Nat) (e : Nat × Nat) : Option Cmd := (s.set? t e.1).bind (fun v => v.cmd? e.2)

/-- Stages of a cube command: 0 before its checks, 1 waiting for digests, 2 waiting for its turn, 3 computing, 4 stopped within a panel. An
issued command that has not finished its work counts in the order. -/
def Cmd.inLine (c : Cmd) : Bool := c.at' == CmdAt.issued && c.stage != doneStage

/-- It is a command's turn: no binding is in force, none computes, and it is the first of those that are not stopped. -/
def State.cubeTurn (s : State) (t o seq : Nat) : Bool :=
  let line := (s.tile t).cube.cmds.filterMap (fun e => (s.cubeCmd t e).bind (fun c => if c.inLine then some (e, c.stage) else none))
  (s.tile t).cube.binding.isNone && !line.any (fun x : (Nat × Nat) × Nat => x.2 == 3) && (line.map Prod.fst).head? == some (o, seq)

/-- The descriptor of every command that reached the cube earlier is known, so that cooperative commands can be counted. -/
def State.cubeCounted (s : State) (t o seq : Nat) : Bool :=
  ((s.tile t).cube.cmds.takeWhile (· != (o, seq))).all (fun e => (s.cubeCmd t e).all (fun c => c.stage != 0 || c.at' == .stopped || !c.i.atCube))

/-- What a member broadcasts of its command (R178); 0 marks a failed check. -/
def cubeDigest (d : CubeDesc) (ds : List Double) : Nat :=
  (d.mode.code * 2 ^ 64 + (ds.getD 0 0).toNat) * 2 ^ 64 + (ds.getD 1 0).toNat + 1

def State.putDigest (s : State) (t n v : Nat) : State :=
  let x := s.tile t
  s.putTile t { x with cube := { x.cube with digest := x.cube.digest.insert n v } }

/-- Take the count of a cooperative command: the next one of its tile (R178). -/
def State.takeCount (s : State) (t o : Nat) (c : Cmd) : State × Nat :=
  match c.aux with
  | n :: _ => (s, n)
  | [] =>
    let x := s.tile t
    let n := x.cube.coop
    ((s.putTile t { x with cube := { x.cube with coop := n + 1 } }).modCmd t o c.seq (fun c => { c with aux := [n] }), n)

/-- Fetch and check a cube command; a cooperative one broadcasts its digest. -/
def State.cubeStart (s : State) (t o : Nat) (v : SetState) (c : Cmd) (mode : CubeMode) : State :=
  s.fetchDesc t o v c 4 32 (fun s ds =>
    let d := cubeDesc mode false ds
    let g := s.cubegrp t
    let bad := s.cubeCheck t o d ds
    if !d.badField ds && d.shapeOk g && v.fillBefore c.seq (d.ownSlots g) then s
    else if d.coop && grpEn g then
      if !s.cubeCounted t o c.seq then s
      else
        let p := s.takeCount t o c
        match bad with
        | some f => (p.1.putDigest t p.2 0).stopCmd t o c f
        | none => (p.1.putDigest t p.2 (cubeDigest d ds)).modCmd t o c.seq (fun c => { c with stage := 1, ds := ds })
    else
      match bad with
      | some f => s.stopCmd t o c f
      | none => s.modCmd t o c.seq (fun c => { c with stage := 2, ds := ds }))

/-- The n-th cooperative command of a tile, with its set. -/
def State.coopCmd (s : State) (t n : Nat) : Option (Nat × Cmd) :=
  (s.tile t).cube.cmds.findSome? (fun e => (s.cubeCmd t e).bind (fun c => if c.aux.head? == some n && c.stage != 0 then some (e.1, c) else none))

/-- The planes of a command: those of its own tile, and those that it has been granted on a source member's (R178). -/
def State.cubePlanes (s : State) (t : Nat) (d : CubeDesc) (c : Cmd) : CubePlane × CubePlane × CubePlane :=
  let at' (row : Bool) (plane own : Nat) : CubePlane → CubePlane := fun p =>
    let x := s.tile (s.sourceTile t d row)
    { p with mem := x.opmem, poison := x.opPoison, slot := (c.grant plane).getD own }
  (at' true 0 d.a0 ⟨[], [], 0, d.fa, d.sca⟩, at' false 1 d.b0 ⟨[], [], 0, d.fb, d.scb⟩, at' (!d.gface) 2 d.g0 ⟨[], [], 0, d.fg, d.scg⟩)

/-- One stage group of a command under way; at the end of a panel the checksums are compared. A panel that stops is redone whole from its
start values (R181). -/
def State.cubePanel (s : State) (t o : Nat) (c : Cmd) (d : CubeDesc) : State :=
  let gs := d.groups
  let p := c.pos / gs
  let g := c.pos % gs
  let ws := d.panelWords p
  let x := s.tile t
  let pl := s.cubePlanes t d c
  let first := g = 0 && d.acc && c.held.isEmpty
  let stop (s : State) (held : SMap Nat) (code : BitVec 8) (w : Nat) : State :=
    (s.modCmd t o c.seq (fun c => { c with stage := 4, pos := p * gs, held := held })).stopCmd t o { c with stage := 4 } (cubeFault code w p)
  match if first then (ws.map Prod.fst).find? (fun w => NSet.has x.acsPoison w) else none with
  | some w => stop s c.held Code.memPoison w
  | none =>
    if cubePoison d pl.1 pl.2.1 pl.2.2 p g then stop s c.held Code.memPoison (d.panelFirst p)
    else
      let start : SMap Nat := if first then ws.foldl (fun m w => SMap.insert m w.1 (SMap.get 0 x.acs w.1).toNat) [] else c.held
      let s1 := s.putTile t (x.cubeGroup d pl.1 pl.2.1 pl.2.2 ws g start)
      if g + 1 < gs then s1.modCmd t o c.seq (fun c => { c with pos := c.pos + 1, held := start })
      else if x.cube.bad then stop (s1.poisonRegion t d) start Code.cubeCheck (d.panelFirst p)
      else s1.modCmd t o c.seq (fun c => { c with pos := c.pos + 1, held := [] })

/-- The members of the group whose n-th command is to read this one's slots (R178): they read them from the moment they are taken. -/
def State.grantSlots (s : State) (t n : Nat) (d : CubeDesc) : State :=
  let w := d.sources (s.cubegrp t)
  let own (plane : Nat) : Bool := if plane = 0 then w.1 else if plane = 1 then w.2.1 else w.2.2
  (s.groupTiles t).foldl (fun s u =>
    match if u == t then none else s.coopCmd u n with
    | none => s
    | some (o, c) =>
      d.planes.foldl (fun s p =>
        if own p.1 && s.sourceTile u d p.2.1 == t then
          (s.modCmd u o c.seq (fun c => { c with aux := c.aux ++ [16 * p.1 + p.2.2.1] })).useRun t ((List.range p.2.2.2).map (p.2.2.1 + ·))
        else s) s) s

/-- Every plane of a command that another member sources has been granted. -/
def State.granted (s : State) (t : Nat) (d : CubeDesc) (c : Cmd) : Bool :=
  d.planes.all (fun p => s.sourceTile t d p.2.1 == t || (c.grant p.1).isSome)

/-- A slot-mode command under way. A member of a group whose slots fail at its turn is checked again there. -/
def State.cubeStep (s : State) (t o : Nat) (v : SetState) (c : Cmd) (mode : CubeMode) : State :=
  let d := cubeDesc mode false c.ds
  let own := d.ownSlots (s.cubegrp t)
  match c.stage with
  | 0 => s.cubeStart t o v c mode
  | 2 =>
    if !s.cubeTurn t o c.seq then s
    else
      match s.cubeStateCheck t o d with
      | some f => if d.coop then s.stopCmd t o c f else (s.modCmd t o c.seq (fun c => { c with stage := 0 })).stopCmd t o c f
      | none =>
        if s.runAct t o .use own != .go then s
        else
          ((if d.coop then s.grantSlots t (c.aux.headD 0) d else s).useRun t own).modCmd t o c.seq (fun c => { c with stage := 3 })
  | 3 =>
    if !s.granted t d c then s
    else if c.pos = d.panels * d.groups then
      (s.leaveSlots t d c).modCmd t o c.seq (fun c => { c with stage := doneStage, aux := c.aux.take 1 })
    else s.cubePanel t o c d
  | 4 => if s.cubeTurn t o c.seq then s.modCmd t o c.seq (fun c => { c with stage := 3 }) else s
  | _ => s

/-! ### CUBE_DIGESTS_COMPLETE (R178) -/

/-- The members of a group command go on, or those that still wait fault CUBE_SHAPE. -/
def State.settle (s : State) (ts : List Nat) (n : Nat) : State :=
  let vals := ts.map (fun u => SMap.get 0 (s.tile u).cube.digest n)
  let good := vals.all (fun v => v != 0 && some v == vals.head?)
  let s1 := ts.foldl (fun s u =>
    match s.coopCmd u n with
    | some (o, c) =>
      if c.stage != 1 || c.at' != CmdAt.issued then s
      else if good then s.modCmd u o c.seq (fun c => { c with stage := 2 })
      else s.stopCmd u o c (cubeFault Code.cubeShape 0 0)
    | none => s) s
  ts.foldl (fun s u => let x := s.tile u
    s.putTile u { x with cube := { x.cube with digest := x.cube.digest.erase n } }) s1

def execCubeDigestsComplete (die gid : Nat) (s : State) : Host.Outcome State Fault Refusal :=
  .next (s.regions.foldl (fun s r =>
    match r.2.tiles.filter (fun u => dieOf u == die && grpEn (s.cubegrp u) && grpGid (s.cubegrp u) == gid) with
    | [] => s
    | u :: us =>
      match (s.tile u).cube.digest.find? (fun x : Nat × Nat => us.all (fun w => (SMap.look (s.tile w).cube.digest x.1).isSome)) with
      | some x => s.settle (u :: us) x.1
      | none => s) s)

/-! ### Bindings (R175, R176, R377, R378) -/

/-- cube.bind under way. -/
def State.bindStep (s : State) (t o : Nat) (v : SetState) (c : Cmd) (gate : Bool) (chI chO : BitVec 3) : State :=
  let mode : CubeMode := if gate then .gate else .mm
  if c.stage = 0 then
    s.fetchDesc t o v c 4 32 (fun s ds =>
      let d := cubeDesc mode true ds
      if d.badField ds then s.stopCmd t o c (cubeFault Code.reservedField 0 0)
      else if !d.shapeOk (s.cubegrp t) then s.stopCmd t o c (cubeFault Code.cubeShape 0 0)
      else if v.ent.chIn chI == 255 || v.ent.chOut chO == 255 then s.stopCmd t o c (badDesc c)
      else if v.fillBefore c.seq (d.ownSlots 0) then s
      else s.modCmd t o c.seq (fun c => { c with stage := 2, ds := ds }))
  else if !s.cubeTurn t o c.seq then s
  else
    let d := cubeDesc mode true c.ds
    match s.cubeStateCheck t o d with
    | some f => (s.modCmd t o c.seq (fun c => { c with stage := 0 })).stopCmd t o c f
    | none =>
      match s.runAct t o .use (d.ownSlots 0) with
      | .go =>
        let s1 := s.useRun t (d.ownSlots 0)
        let x := s1.tile t
        (s1.putTile t { x with cube := { x.cube with binding := some ⟨o, c.seq, c.blk, gate, chI, chO, c.ds, 0, 0, false, false, false, []⟩ } }).cmdDone t o c.seq
      | _ => s

/-- cube.unbind under way: behind earlier commands of its own set at the cube, never behind the binding that it ends. -/
def State.unbindStep (s : State) (t o : Nat) (c : Cmd) : State :=
  let before := (s.tile t).cube.cmds.takeWhile (· != (o, c.seq))
  if before.any (fun e => e.1 == o && (s.cubeCmd t e).any Cmd.inLine) then s
  else
    match (s.tile t).cube.binding with
    | some b => if b.set == o then (s.endBinding t).cmdDone t o c.seq else s.cmdDone t o c.seq
    | none => s.cmdDone t o c.seq

/-- A fault of the cube node (R176, R182): the binding stops, and its record goes to the region fault queue. -/
def State.bindingFault (s : State) (t : Nat) (b : Binding) (f : FaultInfo) : State :=
  let invoc := ((s.set? t b.set).map SetState.eoiInvoc).getD 0
  (s.modBinding t (fun b => { b with fault := true })).notice t b.set 0 (s.node t 4 0) invoc { node := true } f

/-- The tag of the bound class (R119). -/
def CubeDesc.tag (d : CubeDesc) : BitVec 3 :=
  match d.cls with
  | 0 => if d.fa.getLsbD 5 then 4 else 3
  | 1 => 2
  | _ => 1

/-- Put n bytes into operand memory, whose doubles stay as they were beyond them. -/
def State.opWrite (s : State) (t a n v : Nat) : State :=
  let x := s.tile t
  s.putTile t { x with opmem := Memory.writeLE x.opmem a n v }

/-- A fault of a binding at panel n (R182): word 1 names the first word of the panel's rows, word 3 the panel. -/
def Binding.faultAt (b : Binding) (n : Nat) (code : BitVec 8) : FaultInfo :=
  cubeFault code (acsWord (b.desc.row0 + 32 * (n % (b.desc.mpM1 + 1))) b.desc.col0) n

/-- Take one token into a binding's buffers, or stop at it. -/
def State.bindTake (s : State) (t : Nat) (b : Binding) (e : Nat) (k : Token) : State :=
  let d := b.desc
  let panel := 32 * d.k
  let at' := b.fill % panel
  let bad (code : BitVec 8) : State := s.bindingFault t b (b.faultAt (b.panel + b.fill / panel) code)
  let row := at' / d.k
  let col := at' % d.k
  let slot := d.a0 + (if b.odd == (b.fill / panel == 0) then 1 else 0)
  if k.isCtl then
    if at' ≠ 0 || b.headed then bad Code.cubeShape
    else if k.badCtl || k.sub == 0 || k.sub == 4 || k.sub == 5 then bad Code.chTag
    else s
  else if d.sca && col % d.bl == 0 && !b.headed then
    if k.tag != 6 || k.val.extractLsb' 17 15 != 0 then bad Code.chTag
    else if (k.val.extractLsb' 8 8).toNat != d.bl || k.val.getLsbD 16 != (col + d.bl == d.k) then bad Code.cubeShape
    else
      ((s.popAt t e).opWrite t (lineAddr slot row + 480 + col / d.bl) 1 (k.val.extractLsb' 0 8).toNat).modBinding t (fun b => { b with headed := true })
  else if k.tag != d.tag || (k.tag == 3 && s.fmtIn t e != some (b8Dec (d.fa.extractLsb' 0 5))) then
    bad Code.chTag
  else
    let n := 4 / d.z
    let next := b.fill + n
    ((s.popAt t e).opWrite t (lineAddr slot row + col * d.z) 4 k.val.toNat).modBinding t (fun b =>
      { b with fill := next, whole := if next % panel = 0 then b.whole ++ [((s.condIn t 0 e).pops, s.tick)] else b.whole, headed := b.headed && d.sca && (col + n) % d.bl != 0 })

/-- The event of a firing of an element other than a block. -/
def State.nodeEvent (s : State) (t o : Nat) (ek : BitVec 3) (elem : Nat) (invoc : BitVec 24) (conds : List FireCond) : TraceEv :=
  fireEvent t (s.noteOf t o 0 ek elem invoc conds)

/-- Breakpoints at an element other than a block (R244): the state in which its region halts, unless the element goes on from that halt. -/
def State.nodeHalt (s : State) (t : Nat) (v : SetState) (e : Elem) (node : Word) (invoc : BitVec 24) : Option State :=
  match (s.regionOf t).bind (fun r => (s.region? r).map (fun x => (r, x))) with
  | none => none
  | some (r, x) =>
    if x.passing.contains e then none else (s.bkptHit v node invoc true).map (fun k => s.halt r e (BitVec.ofNat 8 k))

/-- An element has gone on from its halt, or made its step. -/
def State.nodeFired (s : State) (t : Nat) (e : Elem) : State :=
  match s.regionOf t with
  | none => s
  | some r => (s.modRegion r (fun x => { x with passing := x.passing.filter (· != e) })).stepDone t e

/-- An element other than a block has fired (R249, R253): its record, its note and its step. -/
def State.nodeNoted (s : State) (t : Nat) (ek : BitVec 3) (elem : Nat) (e : Elem) (ev : TraceEv) : State :=
  let s1 := s.observe ev
  (match ev.note with
    | some n => s1.noteFiring t ek elem n
    | none => s1).nodeFired t e

/-- The condition that the panel to be fired is whole: its last token made it so (R253). -/
def Binding.panelCond (b : Binding) (e : Nat) : FireCond := { code := 0, inEnd := some e, since := (b.whole.headD (0, 0)).2, pops := (b.whole.headD (0, 0)).1 }

/-- A firing of a binding for the panel that is whole (R175): its rows of the store, then one token with the first row's number, which is a
release of those writes. A mismatch of the checksums writes no token. -/
def State.bindFire (s : State) (t : Nat) (v : SetState) (b : Binding) (eo : Nat) : State :=
  let d := b.desc
  let row := d.row0 + 32 * (b.panel % (d.mpM1 + 1))
  let one := { d with m := 32, row0 := row, bind := false }
  let slot := d.a0 + (if b.odd then 1 else 0)
  let x := s.tile t
  let ev := s.nodeEvent t b.set 4 0 v.eoiInvoc [b.panelCond (v.ent.chIn b.chI), s.condOut t eo]
  let ws := (List.range one.panels).flatMap (fun p => one.panelWords p)
  let pa : CubePlane := ⟨x.opmem, x.opPoison, slot, d.fa, d.sca⟩
  let pb : CubePlane := ⟨x.opmem, x.opPoison, d.b0, d.fb, d.scb⟩
  let pg : CubePlane := ⟨x.opmem, x.opPoison, d.g0, d.fg, d.scg⟩
  let bad := if d.acc then (ws.map Prod.fst).find? (fun w => NSet.has x.acsPoison w) else none
  if s.halting t then (s.nodeHalt t v (.cube t) (s.node t 4 0) v.eoiInvoc).getD s
  else if s.traceStalls ev then s.driftStall t b.set
  else
    match bad with
    | some w => s.bindingFault t b (cubeFault Code.memPoison w b.panel)
    | none =>
      if (List.range one.panels).any (fun p => (List.range d.groups).any (cubePoison one pa pb pg p)) then
        s.bindingFault t b (b.faultAt b.panel Code.memPoison)
      else if x.cube.bad then (s.poisonRegion t d).bindingFault t b (b.faultAt b.panel Code.cubeCheck)
      else
        match s.nodeHalt t v (.cube t) (s.node t 4 0) v.eoiInvoc with
        | some s1 => s1
        | none =>
          let y := (List.range d.groups).foldl (fun y g => y.cubeGroup one pa pb pg ws g []) x
          let s1 := ((s.putTile t y).pushFrom (ev.note.map (fun n => (elemKey 4 0, n.num))) t eo ⟨0, BitVec.ofNat 32 row, []⟩).modBinding t (fun b =>
            { b with panel := b.panel + 1, fill := b.fill - 32 * d.k, odd := !b.odd, whole := b.whole.drop 1 })
          s1.nodeNoted t 4 0 (.cube t) ev

/-- CUBE_STREAM_FIRING (R175, R176): the binding takes the next token, or fires for the panel that is whole. -/
def execCubeStreamFiring (t : Nat) (s : State) : Host.Outcome State Fault Refusal :=
  match (s.tile t).cube.binding with
  | none => .next s
  | some b =>
    match s.set? t b.set with
    | none => .next s
    | some v =>
      if b.fault || !(s.runs t || s.halting t) then .next s
      else
        let e := v.ent.chIn b.chI
        let eo := v.ent.chOut b.chO
        let panel := 32 * b.desc.k
        let fires := decide (panel ≤ b.fill ∧ 0 < s.roomAt t eo)
        match s.headAt t e with
        | some k =>
          if s.runs t && decide (b.fill < 2 * panel) && (!fires || s.choose 23 2 = 1) then .next (s.bindTake t b e k)
          else .next (if fires then s.bindFire t v b eo else s)
        | none => .next (if fires then s.bindFire t v b eo else s)

/-- CUBE_CONTROL_FORWARD (R176): between panels, once every earlier firing has pushed. EOI resets n; DRN, which releases the tile's accesses, ends
the binding. -/
def execCubeControlForward (t : Nat) (s : State) : Host.Outcome State Fault Refusal :=
  match (s.tile t).cube.binding with
  | none => .next s
  | some b =>
    match s.set? t b.set with
    | none => .next s
    | some v =>
      let e := v.ent.chIn b.chI
      let eo := v.ent.chOut b.chO
      match s.headAt t e with
      | none => .next s
      | some k =>
        let ctl := k.isCtl && !k.badCtl && (k.sub == 1 || k.sub == 2 || k.sub == 3)
        if (k.isDrn && s.tileAccs t) || !ctl || b.fault || b.headed || b.fill ≠ 0 || !s.runs t || s.roomAt t eo = 0 then .next s
        else
          let s1 := (s.popAt t e).pushAt t eo { k with rel := if k.isDrn then s.tileNeeds t else [] }
          .next (match k.sub with
            | 1 => s1.modBinding t (fun b => { b with panel := 0 })
            | 2 => s1.modSet t b.set (fun v => { v with eosOut := NSet.add v.eosOut eo })
            | _ => ((s1.acquireSet t b.set k.rel).modSet t b.set (fun v => { v with drnOut := NSet.add v.drnOut eo })).endBinding t)

/-! ### The instructions -/

/-- cube.mm (R373, R374). -/
def execCubeMm (m : SCom) (desc : BitVec 4) (s : State) : Host.Outcome State Fault Refusal :=
  enterExec (.cubeMm m desc) m (some desc) false false s

/-- cube.gate. -/
def execCubeGate (m : SCom) (desc : BitVec 4) (s : State) : Host.Outcome State Fault Refusal :=
  enterExec (.cubeGate m desc) m (some desc) false false s

/-- cube.spread. -/
def execCubeSpread (m : SCom) (desc : BitVec 4) (s : State) : Host.Outcome State Fault Refusal :=
  enterExec (.cubeSpread m desc) m (some desc) false false s

/-- cube.fold. -/
def execCubeFold (m : SCom) (desc : BitVec 4) (s : State) : Host.Outcome State Fault Refusal :=
  enterExec (.cubeFold m desc) m (some desc) false false s

/-- cube.bind (R376, R377). -/
def execCubeBind (m : SCom) (gate : Bool) (chI chO : BitVec 3) (desc : BitVec 4) (s : State) : Host.Outcome State Fault Refusal :=
  enterExec (.cubeBind m gate chI chO desc) m (some desc) false false s

/-- cube.unbind (R376, R378). -/
def execCubeUnbind (m : SCom) (s : State) : Host.Outcome State Fault Refusal := enterExec (.cubeUnbind m) m none false false s

end Sys2Proof.Machine
end

