-- ==== Sys2Proof/Machine/Acs.lean ====
section
/-!
DEFINITION. The accumulator-store moves (spec/20 R379 to R381): accesses in every alias class at tile scope.
-/
namespace Sys2Proof.Machine

/-- Set types and block modes of the moves (R379). -/
def chkAcs : SetState → Ctx → Option (BitVec 8) := chkType [.cp, .rd] [.thread, .token]

/-- The word that a move names, or its fault (R380). -/
def State.acsIndex (s : State) (c : Ctx) (a : Double) (off : BitVec 16) (kind : BitVec 3) : Except FaultInfo Nat :=
  let idx := (a.extractLsb' 0 32).toNat + off.toNat
  let f (code : BitVec 8) : FaultInfo := { code := code, kind := kind, w1 := BitVec.ofNat 64 (idx * 4) }
  if 131072 ≤ idx then .error (f Code.tileRange)
  else if (s.tile c.tile).heldFor.isSome || s.lentCol c.tile (idx % 256) then .error (f Code.slotState)
  else .ok idx

/-- A move as an access. -/
def acsAccess (c : Ctx) (kind : AccKind) (idx : Nat) (data : Double) (after : List Need) : Access :=
  { tile := c.tile, set := c.set, tid := c.tid, kind := kind, loc := .acs idx, va := BitVec.ofNat 64 (idx * 4), bytes := 4, data := data,
    cls := 0xFFFF, ac := 0, acq := false, rel := false, checked := false, after := after, blk := c.blk, idx := c.idx }

/-- acs.ld (R379, R380): the word returns late, and its poison is tested then where an earlier acs.st clears it first; a channel destination holds its slot from issue. -/
def execAcsLd (g : Guard) (d a : Opd) (off : BitVec 16) (s : State) : Host.Outcome State Fault Refusal :=
  withPass s g (chkAll [chkEnds [] [d], chkAcs]) ((d.cover false).map Mark.opd) (fun c s =>
    serveActs c s [{ o := a }] (some { o := d, tag := 1 }) (fun s vs =>
      match s.acsIndex c (vs.headD 0) off 0 with
      | .error f => .fault s f
      | .ok idx =>
        let needs := s.orderNeeds c.tile c.set c.tid 0xFFFF false none
        if NSet.has (s.tile c.tile).acsPoison idx && !s.clearsFirst needs (.acs idx) 4 then
          .fault s { code := Code.memPoison, kind := 0, w1 := BitVec.ofNat 64 (idx * 4) }
        else
          let p := s.issueAcc (acsAccess c .load idx 0 needs)
          let s1 := match (s.set? c.tile c.set).bind (fun v => d.outEnd v.ent) with
            | some e => p.1.reserve c.tile e
            | none => p.1
          .ok s1 (some ⟨c.tid, some d, false, 1, 0, .acs idx p.2, false⟩)))

/-- acs.st (R379, R380): the word's poison is cleared. -/
def execAcsSt (g : Guard) (a b : Opd) (off : BitVec 16) (s : State) : Host.Outcome State Fault Refusal :=
  withPass s g (chkAll [chkEnds [b] [], chkAcs]) [] (fun c s =>
    serveActs c s [{ o := a }, { o := b, tag := 1 }] none (fun s vs =>
      match s.acsIndex c (vs.headD 0) off 1 with
      | .error f => .fault s f
      | .ok idx =>
        let after := (s.orderNeeds c.tile c.set c.tid 0xFFFF true none ++ s.passStores c.tile c.set c.base s.nextId (.acs idx) 4).eraseDups
        .ok (s.issueAcc (acsAccess c .store idx (vs.getD 1 0) after)).1 none))

end Sys2Proof.Machine
end

