-- ==== Sys2Proof/Machine/PackedLane.lean ====
section
/-!
DEFINITION. Packed BF16 and binary8, OPC 0x11 (spec/18 R335, R336).
-/
namespace Sys2Proof.Machine

/-- Halves and bytes of a word. -/
def half (w : Word) (k : Nat) : Half := w.extractLsb' (16 * k) 16
def byteOf (w : Word) (k : Nat) : Byte := w.extractLsb' (8 * k) 8

def ofHalves (l h : Half × Exc) : Double × Exc := (ofWord (h.1 ++ l.1), l.2 ||| h.2)

def ofBytes (a b c d : Byte × Exc) : Double × Exc := (ofWord (d.1 ++ c.1 ++ b.1 ++ a.1), a.2 ||| b.2 ||| c.2 ||| d.2)

/-- Round an exact element to BF16 or binary8, with the flags raised on the way. -/
def bfRes (rm : RM) (r : Exact × Exc) : Half × Exc :=
  let v := roundBf16 rm r.1
  (v.1, v.2 ||| r.2)

def b8Res (f : B8) (rm : RM) (sat : Sat) (r : Exact × Exc) : Byte × Exc :=
  let v := roundB8 f rm sat r.1
  (v.1, v.2 ||| r.2)

/-- An element-wise operation on exact values, rounded by type (R335). -/
def packed2 (ty : PTy) (rm : RM) (sat : Sat) (f : Exact → Exact → Exact × Exc) (x y : Double) : Double × Exc :=
  let a := loWord x
  let b := loWord y
  match ty with
  | .bf16 =>
    let e (k : Nat) : Half × Exc := bfRes rm (f (readBf16 (half a k)) (readBf16 (half b k)))
    ofHalves (e 0) (e 1)
  | .b8 t =>
    let e (k : Nat) : Byte × Exc := b8Res t rm sat (f (readB8 t (byteOf a k)) (readB8 t (byteOf b k)))
    ofBytes (e 0) (e 1) (e 2) (e 3)

def packed3 (ty : PTy) (rm : RM) (sat : Sat) (f : Exact → Exact → Exact → Exact × Exc) (x y z : Double) : Double × Exc :=
  let a := loWord x
  let b := loWord y
  let c := loWord z
  match ty with
  | .bf16 =>
    let e (k : Nat) : Half × Exc := bfRes rm (f (readBf16 (half a k)) (readBf16 (half b k)) (readBf16 (half c k)))
    ofHalves (e 0) (e 1)
  | .b8 t =>
    let e (k : Nat) : Byte × Exc :=
      b8Res t rm sat (f (readB8 t (byteOf a k)) (readB8 t (byteOf b k)) (readB8 t (byteOf c k)))
    ofBytes (e 0) (e 1) (e 2) (e 3)

/-- minimumNumber and maximumNumber of elements: an operand unchanged, or the canonical NaN of the format. -/
def bfPick (isMax : Bool) (x y : Half) : Half × Exc :=
  let a := readBf16 x
  let b := readBf16 y
  let nv := if a.isSnan || b.isSnan then Exc.nv else Exc.none
  if a.isNan && b.isNan then (0x7FC0, nv) else (if pickSecond isMax a b then y else x, nv)

def b8Pick (f : B8) (isMax : Bool) (x y : Byte) : Byte × Exc :=
  let a := readB8 f x
  let b := readB8 f y
  (if a.isNan && b.isNan then B8nan f else if pickSecond isMax a b then y else x, Exc.none)

def packedPick (ty : PTy) (isMax : Bool) (x y : Double) : Double × Exc :=
  let a := loWord x
  let b := loWord y
  match ty with
  | .bf16 =>
    let e (k : Nat) : Half × Exc := bfPick isMax (half a k) (half b k)
    ofHalves (e 0) (e 1)
  | .b8 t =>
    let e (k : Nat) : Byte × Exc := b8Pick t isMax (byteOf a k) (byteOf b k)
    ofBytes (e 0) (e 1) (e 2) (e 3)

/-- binary8 abs (R335). -/
def b8Abs (f : B8) (b : Byte) : Byte := if f.uns || b == 0x80 then b else b &&& 0x7F

/-- binary8 neg (R335): only unsigned formats round. -/
def b8Neg (f : B8) (rm : RM) (sat : Sat) (b : Byte) : Byte × Exc :=
  if f.uns then
    if b == 0 || b == 0xFF then (b, Exc.none) else roundB8 f rm sat (readB8 f b).neg
  else if b == 0 || b == 0x80 then (b, Exc.none) else (b ^^^ 0x80, Exc.none)

def packedAbs (ty : PTy) (x : Double) : Double × Exc :=
  let a := loWord x
  match ty with
  | .bf16 => (ofWord (a &&& 0x7FFF7FFF), Exc.none)
  | .b8 t =>
    let e (k : Nat) : Byte × Exc := (b8Abs t (byteOf a k), Exc.none)
    ofBytes (e 0) (e 1) (e 2) (e 3)

def packedNeg (ty : PTy) (rm : RM) (sat : Sat) (x : Double) : Double × Exc :=
  let a := loWord x
  match ty with
  | .bf16 => (ofWord (a ^^^ 0x80008000), Exc.none)
  | .b8 t =>
    let e (k : Nat) : Byte × Exc := b8Neg t rm sat (byteOf a k)
    ofBytes (e 0) (e 1) (e 2) (e 3)

/-- The exact sum of R336 with its NaN rules: a NaN among the terms, or infinities of both signs. -/
def dotSum (rm : RM) (c : Exact) (ps : List (Exact × Exc)) : Exact × Exc :=
  let terms := c :: ps.map Prod.fst
  let nv := ps.foldl (fun e p => e ||| p.2) (if c.isSnan then Exc.nv else Exc.none)
  let both := terms.any (fun t => t == .inf true) && terms.any (fun t => t == .inf false)
  if both then (.nan false, nv ||| Exc.nv)
  else if terms.any Exact.isNan then (.nan false, nv)
  else (ps.foldl (fun x p => (Exact.add rm x p.1).1) c, nv)

/-- dot2 (R336). -/
def dot2Val (rm : RM) (x y z : Double) : Double × Exc :=
  let a := loWord x
  let b := loWord y
  let p (k : Nat) : Exact × Exc := Exact.mul (readBf16 (half a k)) (readBf16 (half b k))
  fres rm (dotSum rm (fval z) [p 0, p 1])

/-- dot4 of binary8 quads (R336). -/
def dot4B8Val (f : B8) (rm : RM) (x y z : Double) : Double × Exc :=
  let a := loWord x
  let b := loWord y
  let p (k : Nat) : Exact × Exc := Exact.mul (readB8 f (byteOf a k)) (readB8 f (byteOf b k))
  fres rm (dotSum rm (fval z) [p 0, p 1, p 2, p 3])

/-- Operands of a packed type. -/
def pOpd (t : PTy) (o : Opd) : Operand :=
  match t with
  | .bf16 => { o := o, tag := 2 }
  | .b8 f => { o := o, tag := 3, fmt := some f }

def pk1 (g : Guard) (sf : Bool) (ty : PTy) (d a : Opd) (f : Double → Double × Exc) (s : State) :
    Host.Outcome State Fault Refusal :=
  laneExec g { srcs := [pOpd ty a], dst := some (pOpd ty d), sf := sf, f := effx1 f } s

def pk2Exec (g : Guard) (sf : Bool) (ty : PTy) (d a b : Opd) (f : Double → Double → Double × Exc) (s : State) :
    Host.Outcome State Fault Refusal :=
  laneExec g { srcs := [pOpd ty a, pOpd ty b], dst := some (pOpd ty d), sf := sf, f := effx2 f } s

/-- add packed (R335). -/
def execAddPacked (g : Guard) (sf : Bool) (rm : RM) (sat : Sat) (ty : PTy) (d a b : Opd) (s : State) :
    Host.Outcome State Fault Refusal :=
  pk2Exec g sf ty d a b (packed2 ty rm sat (Exact.add rm)) s

/-- sub packed (R335). -/
def execSubPacked (g : Guard) (sf : Bool) (rm : RM) (sat : Sat) (ty : PTy) (d a b : Opd) (s : State) :
    Host.Outcome State Fault Refusal :=
  pk2Exec g sf ty d a b (packed2 ty rm sat (fun x y => Exact.add rm x y.neg)) s

/-- mul packed (R335). -/
def execMulPacked (g : Guard) (sf : Bool) (rm : RM) (sat : Sat) (ty : PTy) (d a b : Opd) (s : State) :
    Host.Outcome State Fault Refusal :=
  pk2Exec g sf ty d a b (packed2 ty rm sat Exact.mul) s

/-- fma packed (R335): rounded once. -/
def execFmaPacked (g : Guard) (sf : Bool) (rm : RM) (sat : Sat) (ty : PTy) (d a b c : Opd) (s : State) :
    Host.Outcome State Fault Refusal :=
  laneExec g { srcs := [pOpd ty a, pOpd ty b, pOpd ty c], dst := some (pOpd ty d), sf := sf,
               f := effx3 (packed3 ty rm sat (Exact.fma rm)) } s

/-- min packed (R335). -/
def execMinPacked (g : Guard) (sf : Bool) (_rm : RM) (_sat : Sat) (ty : PTy) (d a b : Opd) (s : State) :
    Host.Outcome State Fault Refusal :=
  pk2Exec g sf ty d a b (packedPick ty false) s

/-- max packed (R335). -/
def execMaxPacked (g : Guard) (sf : Bool) (_rm : RM) (_sat : Sat) (ty : PTy) (d a b : Opd) (s : State) :
    Host.Outcome State Fault Refusal :=
  pk2Exec g sf ty d a b (packedPick ty true) s

/-- abs packed (R335). -/
def execAbsPacked (g : Guard) (sf : Bool) (_rm : RM) (_sat : Sat) (ty : PTy) (d a : Opd) (s : State) :
    Host.Outcome State Fault Refusal :=
  pk1 g sf ty d a (packedAbs ty) s

/-- neg packed (R335). -/
def execNegPacked (g : Guard) (sf : Bool) (rm : RM) (sat : Sat) (ty : PTy) (d a : Opd) (s : State) :
    Host.Outcome State Fault Refusal :=
  pk1 g sf ty d a (packedNeg ty rm sat) s

/-- dot2 (R336). -/
def execDot2 (g : Guard) (sf : Bool) (rm : RM) (d a b c : Opd) (s : State) : Host.Outcome State Fault Refusal :=
  laneExec g { srcs := [pOpd .bf16 a, pOpd .bf16 b, fOpd c], dst := some (fOpd d), sf := sf, f := effx3 (dot2Val rm) } s

/-- dot4 of binary8 quads (R336). -/
def execDot4B8 (g : Guard) (sf : Bool) (rm : RM) (f : B8) (d a b c : Opd) (s : State) : Host.Outcome State Fault Refusal :=
  laneExec g { srcs := [pOpd (.b8 f) a, pOpd (.b8 f) b, fOpd c], dst := some (fOpd d), sf := sf,
               f := effx3 (dot4B8Val f rm) } s

end Sys2Proof.Machine
end

