-- ==== Sys2Proof/Machine/Bank.lean ====
section
/-!
DEFINITION. Bank-side units and the near-memory queue (spec/04): the section and its checks, launch, resume, abort and query, node firing,
loads, stores and links, faults at the banks, alerts (spec/02 R33, R34), and nmq.sub (spec/21 R404).
-/
namespace Sys2Proof.Machine

/-! ### The unit's addresses (R60) -/

/-- The physical address of a channel offset. -/
def bsuAddr (n off : Nat) : Nat :=
  let q := off / 65536
  (384 * q + (((n : Int) - (q : Int)) % 384).toNat) * 65536 + off % 65536

/-! ### Node words and graph entries (R61, R62, R69) -/

/-- A node word's fields. -/
structure BNode where
  kind : Nat
  fmt : BitVec 3
  func : BitVec 4
  av : Bool
  asrc : Nat
  bv : Bool
  bsrc : Nat
  cv : Bool
  csrc : Nat
  bimm : Bool
  imm : Word
  deriving DecidableEq, Repr

def bnode (w : Double) : BNode :=
  ⟨(w.extractLsb' 59 5).toNat, w.extractLsb' 56 3, w.extractLsb' 52 4, w.getLsbD 51, (w.extractLsb' 47 4).toNat, w.getLsbD 46,
    (w.extractLsb' 42 4).toNat, w.getLsbD 41, (w.extractLsb' 37 4).toNat, w.getLsbD 36, w.extractLsb' 0 32⟩

/-- Inputs used, as (input number, source). -/
def BNode.ins (d : BNode) : List (Nat × Nat) :=
  (if d.av then [(0, d.asrc)] else []) ++ (if d.bv then [(1, d.bsrc)] else []) ++ (if d.cv then [(2, d.csrc)] else [])

/-- The access size of LDP and STP in bytes. -/
def BNode.size (d : BNode) : Nat := 2 ^ (d.func.extractLsb' 0 2).toNat

/-- The input combination of a kind (R62). -/
def BNode.shapeOk (d : BNode) : Bool :=
  let k := d.kind
  let two := d.av && (d.bv != d.bimm) && !d.cv
  let three := d.av && (d.bv != d.bimm) && d.cv
  if k = 0x01 || k = 0x10 || k = 0x13 then d.av && !d.bv && !d.cv && !d.bimm
  else if k = 0x02 then d.av && d.bv && !d.cv && !d.bimm
  else if k ≤ 0x0C || k = 0x0E then two
  else if k = 0x0D || k = 0x0F then three
  else if k = 0x11 then !d.bv && !d.cv && !d.bimm
  else k = 0x12 && !d.av && !d.bv && !d.cv && !d.bimm

/-- FMT and FUNC of a kind. -/
def BNode.fmtOk (d : BNode) : Bool :=
  let k := d.kind
  let any := decide (d.fmt.toNat ≤ 2)
  if k = 0x01 then (d.func.extractLsb' 0 2) != 3 && (d.fmt == 0 || (any && d.func.extractLsb' 0 2 == 2))
  else if k = 0x02 then any && (d.func.extractLsb' 0 2) != 3
  else if k ≤ 0x0A then d.fmt == 0
  else if k ≤ 0x0D then d.fmt == 1 || d.fmt == 2
  else if k = 0x0E then any && decide (d.func.toNat ≤ 5) && (decide (d.func.toNat ≤ 3) || d.fmt == 0)
  else if k = 0x11 then d.fmt == 0
  else any

/-- Bits of IMM that a kind does not use are zero. -/
def BNode.immOk (d : BNode) : Bool :=
  let k := d.kind
  if d.bimm || k = 0x01 || k = 0x02 || k = 0x10 || (k = 0x11 && !d.av) then true
  else if k = 0x12 || k = 0x13 then decide (d.imm.toNat < 8)
  else d.imm == 0

/-- A graph entry: its doubles, and fields of them. -/
def entWord (ent : List Double) (n : Nat) : Double := ent.getD (12 + n) 0
def entUsed (ent : List Double) (n : Nat) : Bool := ((ent.getD 0 0).extractLsb' 32 16).getLsbD n
def entChan (ent : List Double) : Nat := ((ent.getD 0 0).extractLsb' 0 9).toNat
def entKey (ent : List Double) : BitVec 12 := (ent.getD 0 0).extractLsb' 52 12

/-- A node word is well formed: kind, inputs, FMT, used IMM bits and reserved bits. FUNC bits and source fields that a kind does not use are
not looked at, those of OFF included (log entry 48, DESIGN CHOICE). -/
def nodeWordOk (ent : List Double) (n : Nat) : Bool :=
  let w := entWord ent n
  let d := bnode w
  w.extractLsb' 32 4 == 0 &&
    if d.kind = 0 then !entUsed ent n && d.ins.isEmpty && !d.bimm && decide (d.fmt.toNat ≤ 2) && d.imm == 0
    else entUsed ent n && d.shapeOk && d.fmtOk && d.immOk &&
      d.ins.all (fun x => entUsed ent x.2 && (bnode (entWord ent x.2)).kind != 0x13)

/-- Check 3 of R73 for one entry, but for its key id and its channel's being named once. -/
def graphOk (ent : List Double) : Bool :=
  let d0 := ent.getD 0 0
  let d1 := ent.getD 1 0
  let d2 := ent.getD 2 0
  d0.extractLsb' 48 4 == 0 && d0.extractLsb' 9 23 == 0 && decide (entChan ent < 384) && d1.extractLsb' 32 32 == 0 &&
    d2.extractLsb' 33 31 == 0 && ent.getD 3 0 == 0 && d1.extractLsb' 0 16 == 0 && d2.extractLsb' 0 16 == 0 && d1 < d2 &&
    decide (d2.toNat ≤ 2 ^ 32) && (List.range 16).all (nodeWordOk ent)

/-! ### Units -/

def BankUnit.node (u : BankUnit) (k : Nat) : BNode := bnode (entWord u.ent k)

/-- The arcs that a node's output feeds. -/
def BankUnit.feeds (u : BankUnit) (k : Nat) : List Nat :=
  (List.range 16).flatMap (fun m => ((u.node m).ins.filter (fun x => (u.node m).kind != 0 && x.2 == k)).map (fun x => 4 * m + x.1))

/-- Every arc that a node feeds is empty. -/
def BankUnit.clearOut (u : BankUnit) (k : Nat) : Bool := (u.feeds k).all (fun a => (SMap.look u.arcs a).isNone)

/-- The previous output of a node has been acknowledged: LNKO asks for window room (R63, R67). -/
def BankUnit.outFree (u : BankUnit) (k : Nat) : Bool :=
  if (u.node k).kind = 0x13 then decide ((SMap.get [] u.linkOut (u.node k).imm.toNat).length < 64) else u.clearOut k

/-- A node's output: onto its arcs, or its link; an EOI is counted (R75). -/
def BankUnit.emit (u : BankUnit) (k : Nat) (x : Token) : BankUnit :=
  let u1 := if x.isCtl && x.sub == 1 then { u with eois := SMap.put 0 u.eois k (SMap.get 0 u.eois k + 1) } else u
  if (u.node k).kind = 0x13 then
    let l := (u.node k).imm.toNat
    { u1 with linkOut := SMap.put [] u1.linkOut l (SMap.get [] u1.linkOut l ++ [x]) }
  else { u1 with arcs := (u.feeds k).foldl (fun m a => m.insert a x) u1.arcs }

/-- The EOI that a CNT node emits: its ARG is the number of the invocation that ends (R120). -/
def BankUnit.eoi (u : BankUnit) (k : Nat) : Token := ctlToken 1 (BitVec.ofNat 24 (SMap.get 0 u.eois k))

/-- A node has fired. -/
def BankUnit.fired (u : BankUnit) (k : Nat) : BankUnit := { u with firings := SMap.put 0 u.firings k (SMap.get 0 u.firings k + 1) }

/-- The token of an arc is taken; one that a fault put back behind it follows. -/
def BankUnit.takeArc (u : BankUnit) (a : Nat) : BankUnit :=
  match SMap.get [] u.back a with
  | [] => { u with arcs := u.arcs.erase a }
  | x :: rest => { u with arcs := u.arcs.insert a x, back := SMap.put [] u.back a rest }

/-- Tokens are taken from inputs of a node. -/
def BankUnit.take (u : BankUnit) (k : Nat) (is : List Nat) : BankUnit := is.foldl (fun u i => u.takeArc (4 * k + i)) u

/-- An arc gets a token back, in front of what it holds (R66). -/
def BankUnit.giveBack (u : BankUnit) (a : Nat) (x : Token) : BankUnit :=
  match SMap.look u.arcs a with
  | none => { u with arcs := u.arcs.insert a x }
  | some y => { u with arcs := u.arcs.insert a x, back := SMap.put [] u.back a (y :: SMap.get [] u.back a) }

/-- The accesses that an LDP or STP node has issued at a step or after it are not made: their tokens are on their arcs, and the firings do not
count (R66, log entry 25, DEDUCED). -/
def BankUnit.unfire (u : BankUnit) (since k : Nat) : BankUnit :=
  let d := u.node k
  let ls := SMap.get [] u.loads k
  let ws := SMap.get [] u.stores k
  let gone := (ls.filter (fun l => since ≤ l.at')).map (fun l => (l.off, none)) ++
    (ws.filter (fun w => since ≤ w.at')).map (fun w => (w.off, some w.data))
  let u1 := { u with loads := SMap.put [] u.loads k (ls.filter (fun l => l.at' < since)),
                     stores := SMap.put [] u.stores k (ws.filter (fun w => w.at' < since)),
                     firings := SMap.put 0 u.firings k (SMap.get 0 u.firings k - gone.length) }
  gone.reverse.foldl (fun u x =>
    let v := u.giveBack (4 * k) ⟨0, BitVec.ofNat 32 ((x.1 - d.imm.toNat) / d.size), []⟩
    match x.2 with
    | some w => v.giveBack (4 * k + 1) ⟨d.fmt, w, []⟩
    | none => v) u1

/-- The node of a terminal: an LNKO node, or one whose output feeds no input. -/
def BankUnit.terminal (u : BankUnit) (k : Nat) : Bool :=
  (u.node k).kind != 0 && ((u.node k).kind == 0x13 || (u.feeds k).isEmpty)

/-- The links on which packets arrive for a graph: those of its LNKI nodes. -/
def BankUnit.linksIn (u : BankUnit) : NSet :=
  (List.range 16).foldl (fun m k => if (u.node k).kind = 0x12 then NSet.add m (u.node k).imm.toNat else m) []

/-- A node holds a token: on one of its arcs, or, of an LNKI node, in the window of its link (R206). -/
def BankUnit.holdsToken (u : BankUnit) (k : Nat) : Bool :=
  u.arcs.any (fun a => a.1 / 4 == k) || ((u.node k).kind == 0x12 && !(SMap.get [] u.links (u.node k).imm.toNat).isEmpty)

/-- A graph is complete (R64). A packet that stands in the window of one of its LNKI nodes is one of its link packets: it has not been
acknowledged. -/
def BankUnit.complete (u : BankUnit) : Bool :=
  (List.range 16).all (fun k => !u.terminal k || 0 < SMap.get 0 u.eois k) && u.loads.isEmpty && u.stores.isEmpty && u.linkOut.isEmpty &&
    !u.links.any (fun l => NSet.has u.linksIn l.1 && !l.2.isEmpty)

/-! ### The links' channels and their region (R67, R79, R452) -/

/-- A channel belongs to a plane that a tile has loaded and not started. -/
def State.shadowed (s : State) (c : Chan) : Bool :=
  let at' (e : ChEnd) : Bool := match e with
    | .tile t _ => ((s.tile t).s0).any (fun p => p.pid == c.pid) || ((s.tile t).s1).any (fun p => p.pid == c.pid)
    | _ => false
  at' c.prod || at' c.cons

/-- The channel of a link that its plane has in force. -/
def State.linkChan (s : State) (e : ChEnd) (out : Bool) : Option (Nat × Chan) :=
  s.chans.find? (fun c => (if out then c.2.prod == e else c.2.cons == e) && !s.shadowed c.2)

/-- A channel with a link of a unit. -/
def Chan.ofUnit (c : Chan) (n : Nat) : Bool :=
  (match c.prod with
    | .link m _ => m == n
    | _ => false) ||
  (match c.cons with
    | .link m _ => m == n
    | _ => false)

/-- The channel of a link that a node of unit n's graph names. -/
def BankUnit.uses (u : BankUnit) (n : Nat) (c : Chan) : Bool :=
  let names (k : Nat) (l : Nat) : Bool := (List.range 16).any (fun m => (u.node m).kind == k && (u.node m).imm.toNat == l)
  (match c.prod with
    | .link m l => m == n && names 0x13 l
    | _ => false) ||
  (match c.cons with
    | .link m l => m == n && names 0x12 l
    | _ => false)

/-- The regions that own the links of a unit's graph (R78, R79): those of its LNKI and LNKO nodes. -/
def State.unitRegions (s : State) (n : Nat) : List Nat :=
  s.chans.filterMap (fun c =>
    if (s.unit n).uses n c.2 && !s.shadowed c.2 then
      match c.2.prod, c.2.cons with
      | .tile t _, _ => s.regionOf t
      | _, .tile t _ => s.regionOf t
      | _, _ => none
    else none)

/-- The unit is stopped with a region that owns its graph's links (R79). -/
def State.unitHeld (s : State) (n : Nat) : Bool :=
  s.saves.any (fun v => v.2.chans.any (fun c => (s.unit n).uses n c.2)) ||
    (s.unitRegions n).any (fun r => (s.region? r).any (fun x => x.st != .running))

/-- The unit fires nodes: clocks run in Active only (R273). -/
def State.unitRuns (s : State) (n : Nat) : Bool := (s.unit n).st == .running && !s.unitHeld n && !s.stopped && s.cfg.pwr == 0

/-! ### Status and the commands that wait for it (R72 to R74) -/

/-- A unit's status changes, for its own queries and for the commands that wait for it. -/
def State.unitStatus (s : State) (n : Nat) (st : BitVec 8) : State :=
  let s1 := s.putUnit n { s.unit n with status := st }
  { s1 with nmq := s1.nmq.map (fun c : NmqCmd =>
      match SMap.look c.chans n with
      | some x => if x == 0 || x == 8 then c else { c with chans := c.chans.insert n st }
      | none => c) }

/-- The oldest write that only its unit sees becomes visible to every party. -/
def State.drainOne (s : State) (n : Nat) : State :=
  match (s.unit n).wbuf with
  | [] => s
  | w :: rest => (s.writeKey w.key w.pa w.bytes).putUnit n { s.unit n with wbuf := rest }

/-- The state as a unit's own accesses see its memory. -/
def State.unitView (s : State) (n : Nat) : State := (s.unit n).wbuf.foldl (fun s w => s.writeKey w.key w.pa w.bytes) s

/-- A unit without a graph. -/
def BankUnit.freed (u : BankUnit) : BankUnit := { u with st := .idle, ent := [], arcs := [], back := [], acc := [], runs := [] }

/-- A graph that is complete, or whose abort has nothing left to wait for, leaves its unit free; other parties see its writes as R77 says. -/
def State.settleUnit (s : State) (n : Nat) : State :=
  let u := s.unit n
  let free (st : BitVec 8) : State := (s.putUnit n u.freed).unitStatus n st
  if u.st == .aborting && u.stores.isEmpty then free 8
  else if u.st == .running && u.complete then free 0
  else s

/-! ### Faults at the banks (R66, R75) -/

/-- The record of a bank-side fault; where it has a subcode (R226), that stands in the low byte of the firing count (log entry 48, DEDUCED). -/
def BankUnit.record (u : BankUnit) (n k : Nat) (code : BitVec 8) (kind : BitVec 3) (pa : Nat) (sub : Nat) : List Double :=
  let node : Word := let d := u.ent.getD (4 + k / 2) 0
    if k % 2 = 0 then d.extractLsb' 0 32 else d.extractLsb' 32 32
  [recWord0 { code := code, kind := kind } { bsu := true } n k 0 0 0, BitVec.ofNat 64 pa,
    recWord2 node (BitVec.ofNat 32 (SMap.get 0 u.eois k)),
    entKey u.ent ++ (0 : BitVec 4) ++
      (let count := BitVec.ofNat 48 (SMap.get 0 u.firings k)
       if sub = 0 then count else count.extractLsb' 8 40 ++ BitVec.ofNat 8 sub)]

/-- The graph stops: accesses issued at step `since` or after it, the faulting one among them, are put back on their arcs; those issued before
complete (R66). -/
def State.unitFault (s : State) (n k : Nat) (code : BitVec 8) (kind : BitVec 3) (pa : Nat) (sub : Nat) (since : Nat) : State :=
  let u := (List.range 16).foldl (fun (u : BankUnit) m => u.unfire since m) (s.unit n)
  (s.putUnit n { u with st := .faulted, fault := u.record n k code kind pa sub }).unitStatus n 6

/-- A graph stops with HW_DETECTED (R36, R239). Which node its record names is not stated: node 0 (log entry 27, DESIGN CHOICE). -/
def State.unitHw (s : State) (n sub : Nat) : State :=
  let u := s.unit n
  if u.st == .running || u.st == .paused then s.unitFault n 0 Code.hwDetected 7 0 sub s.tick else s

/-! ### Arithmetic (R62, R65) -/

/-- A real operation in FP32 or BF16 pairs. -/
def bsuFp (fmt : BitVec 3) (f : Double → Double → Double × Exc) (g : Double → Double → Double × Exc) (a b : Word) : Word :=
  loWord ((if fmt == 1 then f else g) (a.setWidth 64) (b.setWidth 64)).1

def bsuAdd (fmt : BitVec 3) (a b : Word) : Word :=
  if fmt == 0 then a + b else bsuFp fmt (f32Add .rne) (packed2 .bf16 .rne .max (Exact.add .rne)) a b

def bsuMul (fmt : BitVec 3) (a b : Word) : Word := bsuFp fmt (f32Mul .rne) (packed2 .bf16 .rne .max Exact.mul) a b

def bsuFma (fmt : BitVec 3) (a b c : Word) : Word :=
  loWord ((if fmt == 1 then f32Fma .rne else packed3 .bf16 .rne .max (Exact.fma .rne)) (a.setWidth 64) (b.setWidth 64) (c.setWidth 64)).1

/-- CMP: 1 or 0. Which of them, when the halves of BF16 pairs that hold no NaN compare differently, is not stated and free (log entry 26,
DESIGN CHOICE). -/
def State.bsuCmp (s : State) (d : BNode) (a b : Word) : Word :=
  let cond : Cond := match d.func.toNat with
    | 0 => .eq
    | 1 => .ne
    | 2 => .lt
    | 3 => .le
    | 4 => .lt
    | _ => .le
  let ty : Ty := if d.fmt == 1 then .f32 else if 4 ≤ d.func.toNat then .n32 else .i32
  if d.fmt == 2 then
    let half (i : Nat) (w : Word) : Double := (w.extractLsb' (16 * i) 16 ++ (0 : BitVec 16)).setWidth 64
    let holds (c : Cond) (i : Nat) (x y : Word) : Bool := loWord (cmpVal c .f32 (half i x) (half i y)).1 != 0
    let number (w : Word) : Bool := holds .eq 0 w w && holds .eq 1 w w
    let yes := if !number a || !number b then cond == .ne
      else if holds cond 0 a b == holds cond 1 a b then holds cond 0 a b
      else (s.free 33).getLsbD 0
    if yes then 1 else 0
  else loWord (cmpVal cond ty (a.setWidth 64) (b.setWidth 64)).1

/-- The value of a node of one of the kinds that compute, with its tag. -/
def State.bsuValue (s : State) (d : BNode) (a b c : Word) : Token :=
  let int (w : Word) : Token := ⟨0, w, []⟩
  let out (w : Word) : Token := ⟨d.fmt, w, []⟩
  match d.kind with
  | 0x03 => int (a + b)
  | 0x04 => int (a - b)
  | 0x05 => int (a * b)
  | 0x06 => int (a &&& b)
  | 0x07 => int (a ||| b)
  | 0x08 => int (a ^^^ b)
  | 0x09 => int (a <<< (b.toNat % 32))
  | 0x0A => int (a >>> (b.toNat % 32))
  | 0x0B => out (bsuAdd d.fmt a b)
  | 0x0C => out (bsuMul d.fmt a b)
  | 0x0D => out (bsuFma d.fmt a b c)
  | 0x0E => int (s.bsuCmp d a b)
  | _ => out (if a != 0 then b else c)

/-- The tag that a data token of an input must have (R65). -/
def BNode.expects (d : BNode) (i : Nat) : BitVec 3 :=
  match d.kind with
  | 0x01 => 0
  | 0x02 => if i = 0 then 0 else d.fmt
  | 0x0F => if i = 0 then 0 else d.fmt
  | 0x11 => 0
  | _ => d.fmt

/-! ### Firing (R63, R64) -/

/-- A load or store is issued, or faults before it is (R66). Word 1 of an XLATE_PERM record whose offset is 2^32 or more, which names no address of
the channel, holds what the formula of R60 gives (log entry 48, DESIGN CHOICE). -/
def State.bsuAccess (s : State) (n k : Nat) (a : Word) (store : Option Word) : State :=
  let u := s.unit n
  let d := u.node k
  let off := d.imm.toNat + a.toNat * d.size
  let kind : BitVec 3 := if store.isSome then 1 else 0
  let bad (code : BitVec 8) : State := s.unitFault n k code kind (bsuAddr n off) 0 s.tick
  let lo := ((u.ent.getD 1 0).extractLsb' 0 32).toNat
  let hi := ((u.ent.getD 2 0).extractLsb' 0 33).toNat
  if off % d.size ≠ 0 then bad Code.align
  else if off < lo ∨ hi < off + d.size then bad Code.xlatePerm
  else if !s.keyValid (entKey u.ent) then bad Code.xlateKey
  else if s.memFaults (bsuAddr n off) d.size false then bad Code.memPoison
  else
    let v := (u.take k (if store.isSome then [0, 1] else [0])).fired k
    match store with
    | none => s.putUnit n { v with loads := SMap.put [] v.loads k (SMap.get [] v.loads k ++ [⟨off, none, s.tick⟩]) }
    | some w => s.putUnit n { v with stores := SMap.put [] v.stores k (SMap.get [] v.stores k ++ [⟨off, w, s.tick⟩]) }

/-- A control token passes a node (R64): those that head inputs are consumed, and one copy goes on, behind what the loads and stores of the node
still have to emit; one that is not well formed is refused (R120). The sum that an ACC node emits at an EOI counts as a firing of its own, beside
the forwarding of the EOI (log entry 48, DESIGN CHOICE). -/
def State.bsuControl (s : State) (n k : Nat) (heads : List (Nat × Token)) (x : Token) : State :=
  let u := s.unit n
  let d := u.node k
  let ctl := (heads.filter (fun h => h.2.isCtl)).map Prod.fst
  let go (u : BankUnit) : State := s.putUnit n (((u.take k ctl).emit k x).fired k)
  if heads.any (fun h => h.2.badCtl) then s.unitFault n k Code.chTag 7 0 0 s.tick
  else if d.kind = 0x10 then
    let a := SMap.get ((0 : Word), 0, false) u.acc k
    let due := x.sub == 1 && (if d.imm != 0 then decide (0 < a.2.1) else !a.2.2)
    if due then s.putUnit n (({ u with acc := u.acc.insert k (0, 0, true) }.emit k ⟨d.fmt, a.1, []⟩).fired k)
    else go { u with acc := if x.sub == 1 then u.acc.erase k else u.acc }
  else if d.kind = 0x01 && !(SMap.get [] u.loads k).isEmpty then s
  else if d.kind = 0x02 && !(SMap.get [] u.stores k).isEmpty then s
  else go u

/-- Data at every used input (log entry 25, DEDUCED). -/
def State.bsuData (s : State) (n k : Nat) (heads : List (Nat × Token)) : State :=
  let u := s.unit n
  let d := u.node k
  let at' (i : Nat) : Word := match heads.find? (fun h => h.1 == i) with
    | some h => h.2.val
    | none => d.imm
  if heads.any (fun h => h.2.tag != d.expects h.1) then s.unitFault n k Code.chTag 7 0 0 s.tick
  else
    let taken := (u.take k (heads.map Prod.fst)).fired k
    match d.kind with
    | 0x01 => if (SMap.get [] u.loads k).length < 16 then s.bsuAccess n k (at' 0) none else s
    | 0x02 => if (u.feeds k).isEmpty || (SMap.get [] u.stores k).isEmpty then s.bsuAccess n k (at' 0) (some (at' 1)) else s
    | 0x10 =>
      let a := SMap.get ((0 : Word), 0, false) u.acc k
      let sum := bsuAdd d.fmt a.1 (at' 0)
      if d.imm != 0 && a.2.1 + 1 == d.imm.toNat then s.putUnit n ({ taken with acc := taken.acc.erase k }.emit k ⟨d.fmt, sum, []⟩)
      else s.putUnit n { taken with acc := taken.acc.insert k (sum, a.2.1 + 1, false) }
    | 0x11 =>
      let m := if (at' 0).getLsbD 31 then 0 else (at' 0).toNat
      if m = 0 then s.putUnit n (taken.emit k (u.eoi k))
      else s.putUnit n ({ taken with runs := taken.runs.insert k (1, m) }.emit k ⟨0, 0, []⟩)
    | 0x13 => s.putUnit n (taken.emit k ⟨d.fmt, at' 0, []⟩)
    | _ => s.putUnit n (taken.emit k (s.bsuValue d (at' 0) (at' 1) (at' 2)))

/-- The packet at the head of a link's window leaves it: its slot goes back to the producer (R67, R125). -/
def State.linkTake (s : State) (n l : Nat) : State :=
  let u := s.unit n
  let s1 := s.putUnit n { u with links := SMap.put [] u.links l (SMap.get [] u.links l).tail }
  match s1.linkChan (.link n l) false with
  | some (i, c) => s1.putChan i { c with rets := c.rets + 1 }
  | none => s1

/-- A node fires once. -/
def State.bsuFire (s : State) (n k : Nat) : State :=
  let u := s.unit n
  let d := u.node k
  if !s.unitRuns n || 16 ≤ k || d.kind = 0 || !u.outFree k then s
  else if d.kind = 0x12 then
    match SMap.get [] u.links d.imm.toNat with
    | [] => s
    | x :: _ =>
      if x.badCtl then s.unitFault n k Code.chTag 7 0 0 s.tick
      else
        let s1 := s.linkTake n d.imm.toNat
        s1.putUnit n (((s1.unit n).emit k { x with rel := [] }).fired k)
  else
    match SMap.look u.runs k with
    | some (c, m) =>
      if c < m then s.putUnit n (({ u with runs := u.runs.insert k (c + 1, m) }.emit k ⟨0, BitVec.ofNat 32 c, []⟩).fired k)
      else s.putUnit n (({ u with runs := u.runs.erase k }.emit k (u.eoi k)).fired k)
    | none =>
      let heads := d.ins.filterMap (fun i => (SMap.look u.arcs (4 * k + i.1)).map (fun x => (i.1, x)))
      if d.ins.isEmpty || heads.length != d.ins.length then s
      else
        match heads.find? (fun h => h.2.isCtl) with
        | some h => s.bsuControl n k heads h.2
        | none => s.bsuData n k heads

/-- BSU_NODE_FIRE. -/
def execBsuNodeFire (n k : Nat) (s : State) : Host.Outcome State Fault Refusal := .next ((s.bsuFire n k).settleUnit n)

/-! ### Loads and stores (R63, R66, R76) -/

/-- The code of an access that fails at the channel. -/
def State.bsuBad (s : State) (n off size : Nat) : Option (BitVec 8) :=
  let key := entKey (s.unit n).ent
  if key != 0 && (s.keysOf key).isNone then some Code.xlateKey
  else if s.memFaults (bsuAddr n off) size false then some Code.memPoison
  else none

/-- A load's element (R62). -/
def BNode.element (d : BNode) (v : Nat) : Word :=
  let neg := d.func.getLsbD 2
  match d.size with
  | 1 => if neg then (BitVec.ofNat 8 v).signExtend 32 else BitVec.ofNat 32 v
  | 2 => if neg then (BitVec.ofNat 16 v).signExtend 32 else BitVec.ofNat 32 v
  | _ => BitVec.ofNat 32 v

/-- The first load that has not been performed gets its value. -/
def fillLoad (v : Word) : List BsuLoad → List BsuLoad
  | [] => []
  | l :: ls => if l.val.isNone then { l with val := some v } :: ls else l :: fillLoad v ls

/-- The unit's accepted accesses go on while it does not fire: those issued before a fault. -/
def State.unitAccepts (s : State) (n : Nat) : Bool := (s.unit n).st != .idle && !s.stopped && s.cfg.pwr == 0

/-- An accepted access fails at the channel: the graph stops; where it is stopped already, the node's accesses from this one on are put back
without another record. -/
def State.unitLate (s : State) (n k : Nat) (code : BitVec 8) (kind : BitVec 3) (pa at' : Nat) : State :=
  if (s.unit n).st == .faulted then s.putUnit n ((s.unit n).unfire at' k) else s.unitFault n k code kind pa 0 at'

/-- Perform a node's next load. -/
def State.bsuLoad (s : State) (n k : Nat) (l : BsuLoad) : State :=
  let u := s.unit n
  let d := u.node k
  let pa := bsuAddr n l.off
  if !s.unitAccepts n || s.bankHeld pa then s
  else
    match s.bsuBad n l.off d.size with
    | some code => s.unitLate n k code 0 pa l.at'
    | none =>
      let v := d.element (bytesNat ((s.unitView n).readKey (entKey u.ent) pa d.size))
      s.putUnit n { u with loads := u.loads.insert k (fillLoad v (SMap.get [] u.loads k)) }

/-- BSU_LOAD_RETURN: a node's next load is performed, or its oldest result is emitted, in order. -/
def execBsuLoadReturn (n k : Nat) (s : State) : Host.Outcome State Fault Refusal :=
  let u := s.unit n
  let ls := SMap.get [] u.loads k
  let next := ls.find? (fun l => l.val.isNone)
  match ls with
  | ⟨_, some v, _⟩ :: rest =>
    if s.unitRuns n && u.clearOut k && (next.isNone || s.choose 25 2 == 0) then
      .next ((s.putUnit n ({ u with loads := SMap.put [] u.loads k rest }.emit k ⟨(u.node k).fmt, v, []⟩)).settleUnit n)
    else
      match next with
      | some l => .next (s.bsuLoad n k l)
      | none => .next s
  | _ =>
    match next with
    | some l => .next (s.bsuLoad n k l)
    | none => .next s

/-- BSU_STORE_PERFORMED: a node's oldest store is performed, for the accesses of the unit, and its zero emitted (R62); other parties see the write
later, when the unit's writes drain: on their own, or at the first fence of device scope after the graph's command has been answered (R77, log
entry 7). -/
def execBsuStorePerformed (n k : Nat) (s : State) : Host.Outcome State Fault Refusal :=
  let u := s.unit n
  match SMap.get [] u.stores k with
  | [] => .next s
  | w :: rest =>
    let d := u.node k
    let pa := bsuAddr n w.off
    if !s.unitAccepts n || s.bankHeld pa || (u.st != .aborting && !u.clearOut k) then .next s
    else
      let left := { u with stores := SMap.put [] u.stores k rest }
      match s.bsuBad n w.off d.size with
      | some code =>
        if u.st == .aborting then .next ((s.putUnit n left).settleUnit n) else .next (s.unitLate n k code 1 pa w.at')
      | none =>
        let done := { left with wbuf := left.wbuf ++ [⟨entKey u.ent, pa, natBytes d.size w.data.toNat⟩] }
        .next ((s.putUnit n (if u.st == .aborting then done else done.emit k ⟨0, 0, []⟩)).settleUnit n)

/-- BSU_LINK_ARRIVAL (R67, R74): a packet reaches the window of a link, or is dropped after an abort. -/
def execBsuLinkArrival (n l : Nat) (s : State) : Host.Outcome State Fault Refusal :=
  let u := s.unit n
  match s.chans.find? (fun c => c.2.cons == .link n l && !c.2.win.isEmpty && !s.shadowed c.2) with
  | none => .next s
  | some (i, c) =>
    match c.win with
    | [] => .next s
    | x :: rest =>
      let s1 := s.putChan i { c with win := rest, delivered := c.delivered + 1, rets := if NSet.has u.dropping l then c.rets + 1 else c.rets }
      if NSet.has u.dropping l then .next s1
      else if 64 ≤ (SMap.get [] u.links l).length then .next s
      else .next (s1.putUnit n { u with links := SMap.put [] u.links l (SMap.get [] u.links l ++ [{ x with rel := [] }]) })

/-! ### The near-memory queue (R71 to R74) -/

/-- The physical address of a slot. -/
def Regs.slotBase (c : Regs) (slot : Nat) : Nat := c.nmqBase.toNat * 4096 + 64 * slot

/-- A taken command whose outcome is settled, or that waits for units. -/
def State.nmqAdd (s : State) (slot : Nat) (fin : Option (BitVec 8 × Nat)) (ns : List Nat) : State :=
  { s with nmq := s.nmq ++ [⟨slot, fin, ns.foldl (fun m n => SMap.insert m n (9 : BitVec 8)) []⟩] }

/-- Take the next command, if its OP is one of `ops`; a slot of reserved bits that are not zero is malformed, and one on a poisoned line is
dropped (log entry 24, DEDUCED). A command that `waits` says needs a held bank waits for it (R33). -/
def State.nmqTake (s : State) (mine : Nat → Bool) (waits : Double → Bool) (f : Nat → Double → State → State) : State :=
  let h := s.cfg.nmqHead
  let a := s.cfg.slotBase h.toNat
  let d0 := s.seePlain a
  let bad := s.memFaults a 64 false
  if h == s.cfg.nmqTail || s.stopped || s.cfg.pwr != 0 || s.bankHeld a || (!bad && waits (s.seePlain (a + 8))) || !mine (if bad then 0 else (d0.extractLsb' 60 4).toNat) then s
  else
    let s1 := s.modCfg (fun c => { c with nmqHead := c.nmqHead + 1 })
    if bad then s1
    else if d0.extractLsb' 48 12 != 0 || d0.extractLsb' 0 32 != 0 then s1.nmqAdd h.toNat (some (5, 0)) []
    else f h.toNat (s.seePlain (a + 8)) s1

/-- A command that names one channel. -/
def nmqChan (d1 : Double) (f : Nat → State → State) (slot : Nat) (s : State) : State :=
  if d1.extractLsb' 9 55 != 0 || 384 ≤ (d1.extractLsb' 0 9).toNat then s.nmqAdd slot (some (5, 0)) [] else f (d1.extractLsb' 0 9).toNat s

/-- The checks of a launch (R73, R68): the status and channel of the refusal, or the entries. A section that memory does not give, or that does
not lie wholly in device memory, is not well formed; it is read as stored, with key id 0; while a checkpoint is busy every unit counts as busy
(R43) (log entry 24, DESIGN CHOICE). -/
def State.launchCheck (s : State) (pa : Nat) : Except (BitVec 8 × Nat) (List (List Double)) :=
  let bad (c : BitVec 8) (n : Nat) : Except (BitVec 8 × Nat) (List (List Double)) := .error (c, n)
  if s.cfg.ckptBusy then bad 3 0
  else if devEnd < pa + 32 || s.rangePoison pa 32 then bad 5 0
  else
    let h := doubles 4 (Memory.bytes s.mem pa 32)
    let d (i : Nat) : Double := h.getD i 0
    let graphs := ((d 1).extractLsb' 32 16).toNat
    let len := ((d 1).extractLsb' 0 32).toNat
    let sealed := (d 0).getLsbD 0
    if (d 0).extractLsb' 32 32 != 0x44535342 || (d 0).extractLsb' 1 15 != 0 || (d 1).extractLsb' 48 16 != 0 || d 2 != 0 || d 3 != 0 ||
        graphs = 0 || 384 < graphs || len != 32 + 224 * graphs + (if sealed then 96 else 0) || devEnd < pa + len || s.rangePoison pa len then
      bad 5 0
    else if !sealed || !s.sealed (Memory.bytes s.mem pa (len - 96)) (Memory.bytes s.mem (pa + (len - 96)) 96) then bad 1 0
    else if (d 0).extractLsb' 16 16 != s.cfg.cmapver then bad 2 0
    else
      let ents := (List.range graphs).map (fun g => doubles 28 (Memory.bytes s.mem (pa + 32 + 224 * g) 224))
      let ns := ents.map entChan
      if !ents.all graphOk || ns.eraseDups.length != ns.length || !ents.all (fun e => s.keyValid (entKey e)) then bad 5 0
      else
        match ns.find? (fun n => NSet.has s.cfg.retired n) with
        | some n => bad 4 n
        | none =>
          match ns.find? (fun n => (s.unit n).st != .idle) with
          | some n => bad 3 n
          | none => .ok ents

/-- A unit with a new graph: the runs of its CNT nodes without input start (R62). Packets that stand in the unit's link windows are the next
graph's (log entry 48, DESIGN CHOICE). -/
def BankUnit.launched (u : BankUnit) (ent : List Double) : BankUnit :=
  { BankUnit.reset with
    st := .running, ent := ent, links := u.links, linkOut := u.linkOut, wbuf := u.wbuf, alerts := u.alerts, dropping := u.dropping, status := 9,
    runs := (List.range 16).foldl (fun m k =>
      let d := bnode (entWord ent k)
      if d.kind == 0x11 && !d.av then SMap.insert m k (0, d.imm.toNat) else m) [] }

/-- A bank that holds part of the section of a launch is held. -/
def State.sectionHeld (s : State) (d1 : Double) : Bool :=
  let pa := (d1.extractLsb' 0 48).toNat
  s.rangeHeld pa 32 || s.rangeHeld pa (Memory.readLE s.mem (pa + 8) 4)

/-- BSU_LAUNCH. -/
def execBsuLaunch (s : State) : Host.Outcome State Fault Refusal :=
  .next (s.nmqTake (· == 1) s.sectionHeld (fun slot d1 s =>
    if d1.extractLsb' 48 16 != 0 then s.nmqAdd slot (some (5, 0)) []
    else
      match s.launchCheck (d1.extractLsb' 0 48).toNat with
      | .error r => s.nmqAdd slot (some r) []
      | .ok ents =>
        let s1 := ents.foldl (fun s e => s.putUnit (entChan e) ((s.unit (entChan e)).launched e)) (s.nmqAdd slot none (ents.map entChan))
        (ents.map entChan).foldl State.settleUnit s1))

/-- BSU_RESUME. -/
def execBsuResume (s : State) : Host.Outcome State Fault Refusal :=
  .next (s.nmqTake (· == 2) (fun _ => false) (fun slot d1 => nmqChan d1 (fun n s =>
    let u := s.unit n
    if u.st != .idle && s.unitHeld n then s.nmqAdd slot (some (3, n)) []
    else if u.st == .faulted || u.st == .paused then
      let s1 := s.putUnit n { u with st := .running, alerts := if u.st == .paused then [] else u.alerts }
      ((s1.unitStatus n 9).nmqAdd slot none [n]).settleUnit n
    else s.nmqAdd slot (some (u.status, n)) []) slot))

/-- Everything on the links of an aborted graph is acknowledged and dropped. -/
def State.dropLinks (s : State) (n : Nat) : State :=
  ((s.unit n).links.filter (fun l => NSet.has (s.unit n).linksIn l.1)).foldl (fun s l => l.2.foldl (fun s _ => s.linkTake n l.1) s) s

/-- A graph is aborted (R74, R79). -/
def State.abortUnit (s : State) (n : Nat) : State :=
  let s1 := s.dropLinks n
  let u := s1.unit n
  (s1.putUnit n { u with st := .aborting, arcs := [], back := [], acc := [], runs := [], loads := [],
                         dropping := u.linksIn.foldl (fun m l => if (s1.linkChan (.link n l) false).isSome then NSet.add m l else m) u.dropping }).settleUnit n

/-- The region of a channel that feeds a bank-side link is over: the link's packets no longer drop (R74). -/
def State.undropLink (s : State) (c : Chan) : State :=
  match c.cons with
  | .link n l => s.putUnit n { s.unit n with dropping := NSet.drop (s.unit n).dropping l }
  | _ => s

/-- What stands on the link of a channel that goes, goes with it. -/
def State.closeLink (s : State) (c : Chan) : State :=
  let s1 := match c.prod with
    | .link n l => s.putUnit n { s.unit n with linkOut := SMap.put [] (s.unit n).linkOut l [] }
    | _ => s
  let s2 := match c.cons with
    | .link n l => s1.putUnit n { s1.unit n with links := SMap.put [] (s1.unit n).links l [] }
    | _ => s1
  s2.undropLink c

/-- BSU_ABORT. -/
def execBsuAbort (s : State) : Host.Outcome State Fault Refusal :=
  .next (s.nmqTake (· == 3) (fun _ => false) (fun slot d1 => nmqChan d1 (fun n s =>
    if (s.unit n).st == .idle then s.nmqAdd slot (some ((s.unit n).status, n)) []
    else if s.unitHeld n then s.nmqAdd slot (some (3, n)) []
    else (s.nmqAdd slot none [n]).abortUnit n) slot))

/-- BSU_QUERY, and every OP that is not defined (R72). -/
def execBsuQuery (s : State) : Host.Outcome State Fault Refusal :=
  .next (s.nmqTake (fun op => op = 0 || 4 ≤ op) (fun _ => false) (fun slot d1 s =>
    let a := s.cfg.slotBase slot
    if (s.seePlain a).extractLsb' 60 4 != 4 then s.nmqAdd slot (some (5, 0)) []
    else nmqChan d1 (fun n s => s.nmqAdd slot (some (if (s.unit n).st != .idle && s.unitHeld n then 3 else (s.unit n).status, n)) []) slot s))

/-- What a taken command ends with, once it is settled: the lowest channel whose status is not 0x00 (R73). -/
def NmqCmd.outcome (c : NmqCmd) : Option (BitVec 8 × Nat) :=
  match c.fin with
  | some r => some r
  | none =>
    if c.chans.any (fun x : Nat × BitVec 8 => x.2 == 9) then none
    else
      match c.chans.find? (fun x : Nat × BitVec 8 => x.2 != 0) with
      | some x => some (x.2, x.1)
      | none => some (0, (c.chans.map Prod.fst).headD 0)

/-- Write a command's outcome into its slot, double 2 last. -/
def State.nmqWrite (s : State) (slot : Nat) (st : BitVec 8) (n : Nat) : State :=
  let a := s.cfg.slotBase slot
  let u := s.unit n
  let s1 := if st == 6 || st == 7 then
      (List.range 4).foldl (fun s i => s.writePlain (a + 24 + 8 * i) (u.fault.getD i 0)) s
    else s
  (s1.writePlain (a + 56) 0).writePlain (a + 16)
    ((1 : BitVec 1) ++ (0 : BitVec 7) ++ st ++ (0 : BitVec 39) ++ BitVec.ofNat 9 n)

/-- NMQ_COMMAND_DONE. The writes of the command's units may be seen later still: a fence of device scope that follows brings them (R77, R406). -/
def execNmqCommandDone (s : State) : Host.Outcome State Fault Refusal :=
  match s.nmq.find? (fun c : NmqCmd => c.outcome.isSome) with
  | none => .next s
  | some c =>
    match c.outcome with
    | none => .next s
    | some (st, n) =>
      let s1 := { s with nmq := s.nmq.filter (· != c) }
      if s.bankHeld (s.cfg.slotBase c.slot) then .next s
      else if s.memFaults (s.cfg.slotBase c.slot) 64 false then .next s1
      else .next (s1.nmqWrite c.slot st n)

/-- NMQ_TAIL_WRITE (R71). Off, nothing is written (R273). -/
def execNmqTailWrite (tail : BitVec 6) (s : State) : Host.Outcome State Fault Refusal :=
  .next (if s.cfg.pwr == 3 then s else s.modCfg (fun c => { c with nmqTail := tail }))

/-! ### nmq.sub (R404) -/

def execNmqSub (c : SCom) (desc : BitVec 4) (s : State) : Host.Outcome State Fault Refusal :=
  enterExec (.nmqSub c desc) c (some desc) true false s

/-! ### Alerts (R33, R34) -/

/-- A unit named as source pauses on the fourth of four alerts of which the first is fewer than 2^20 cycles older
(log entry 27, DEDUCED). -/
def State.alertUnit (s : State) (n : Nat) (now : Double) : State :=
  let u := s.unit n
  let hist := (u.alerts ++ [now.toNat])
  let last := hist.drop (hist.length - 4)
  let s1 := s.putUnit n { u with alerts := last }
  let close := last.length == 4 && (now - BitVec.ofNat 64 (last.headD 0)).toNat < 2 ^ 20
  if u.st == .running && close then
    let v := s1.unit n
    ((s1.putUnit n { v with st := .paused, fault := v.record n 0 Code.hwDetected 7 0 1 }).unitStatus n 7).logEvent 6 true 0 0 n
  else s1

/-- ACTIVATION_ALERT: row and bank are for diagnosis, and so is the cycle count (log entry 4). -/
def execActivationAlert (n bank : Nat) (bsu : Bool) (s : State) : Host.Outcome State Fault Refusal :=
  let s1 := { s with holds := NSet.add s.holds (n * 32 + bank % 32) }
  let s2 := s1.logEvent 1 bsu ((s.free 34).extractLsb' 0 32) (bank % 32) n
  .next (if bsu then s2.alertUnit n (s.free 10) else s2)

/-- MITIGATION_END. -/
def execMitigationEnd (n bank : Nat) (s : State) : Host.Outcome State Fault Refusal :=
  .next { s with holds := NSet.drop s.holds (n * 32 + bank % 32) }.flushRings

end Sys2Proof.Machine
end

