-- ==== Sys2Proof/Machine/ChanOps.lean ====
section
/-!
DEFINITION. Channel instructions, steer, merge, any-merge and loop generators (spec/19 R351 to R360).
-/
namespace Sys2Proof.Machine

/-- An input end is self-handled when a token-block header names it with required tag 111 (R194). -/
def SetState.selfHandled (v : SetState) (e : Nat) : Bool :=
  v.blocks.any (fun b => b.mode == .token && [b.in1, b.in2].any (fun x =>
    match x with
    | some i => i.tag == some 7 && v.ent.chInN i.ch == e
    | none => false))

/-! ### ch.push, ch.pop, ch.peek, ch.tag, ch.ctl (R351 to R354) -/

/-- The channel of an output end ends at a bank-side link, where a release orders nothing (R77, R132). -/
def State.linkEnd (s : State) (t e : Nat) : Bool :=
  (s.outChan t e).any (fun c => match c.2.cons with
    | .link _ _ => true
    | _ => false)

/-- The level of a .rel push and the .acq pop of its token (R132): the tile's where both ends lie in it, else the part's. -/
def State.pairLevel (s : State) (t e : Nat) : Nat :=
  if (s.outChan t e).any (fun c => match c.2.cons with
    | .tile u _ => u == t
    | _ => false) then 2 else 4

/-- ch.push (R352): a release names the thread's earlier accesses, with what is before them; its token enters the channel once they have been
performed at the pair's scope (`execTokenArrival`), later tokens behind it. -/
def execChPush (g : Guard) (tag : BitVec 3) (rel : Bool) (n : BitVec 3) (a : Opd) (s : State) :
    Host.Outcome State Fault Refusal :=
  withPass s g (chkEnds [a] [.ch n]) [] (fun c s =>
    serveActs c s [{ o := a }] (some { o := .ch n }) (fun s vs =>
      match s.set? c.tile c.set with
      | none => .gone s
      | some v =>
        let e := v.ent.chOut n
        let ns := if rel && !s.linkEnd c.tile e then s.known c.tile c.set c.tid 0xFFFF (s.pairLevel c.tile e) else []
        .ok (s.pushFrom (s.firingOf c.tile c.set c.blk) c.tile e ⟨tag, (vs.headD 0).extractLsb' 0 32, ns⟩) none))

/-- A read of the head of a channel (R352, R353): what is refused, and what is written. -/
structure HeadRead where
  tag : Option (BitVec 3)
  pops : Bool
  val : Token → Word
  acq : Bool := false

/-- Serve one thread of ch.pop, ch.peek or ch.tag. -/
def serveHead (h : HeadRead) (d : Opd) (n : BitVec 3) (c : Ctx) (s : State) : Serve :=
  match s.set? c.tile c.set with
  | none => .gone s
  | some v =>
    let e := v.ent.chIn n
    if h.pops && s.boundByCube c.tile c.set v.ent true e then .setFault s { code := Code.chTag }
    else
      serveActs c s [] (some { o := d }) (fun s _ =>
        match s.headAt c.tile e with
        | none => .park s (.chan [.head e])
        | some k =>
          if k.badCtl || (k.isCtl && h.pops && !v.selfHandled e) || h.tag.any (fun g => g != k.tag) then
            .setFault s { code := Code.chTag }
          else
            let s1 := if h.pops then s.popAt c.tile e else s
            let s2 := if h.pops && k.isDrn then s1.acquireSet c.tile c.set k.rel
              else if h.acq then s1.acquire c.tile c.set c.tid k.rel else s1
            .ok (writeOpd c s2 false 0 d ((h.val k).setWidth 64)) none)

/-- ch.pop (R352). An acquire orders every later access of the thread after those that the token's push released; after a plain pop later loads
may still see memory as it was before (R132, log entry 7). The pop of a DRN is an acquire of the whole set (R446). -/
def execChPop (g : Guard) (tag : Option (BitVec 3)) (acq : Bool) (d : Opd) (n : BitVec 3) (s : State) :
    Host.Outcome State Fault Refusal :=
  withPass s g (chkEnds [.ch n] [d]) [] (serveHead ⟨tag, true, Token.val, acq⟩ d n)

/-- ch.peek (R353). -/
def execChPeek (g : Guard) (tag : Option (BitVec 3)) (d : Opd) (n : BitVec 3) (s : State) : Host.Outcome State Fault Refusal :=
  withPass s g (chkEnds [.ch n] [d]) [] (serveHead { tag := tag, pops := false, val := Token.val } d n)

/-- ch.tag (R353): the head's tag. -/
def execChTag (g : Guard) (d : Opd) (n : BitVec 3) (s : State) : Host.Outcome State Fault Refusal :=
  withPass s g (chkEnds [.ch n] [d]) [] (serveHead { tag := none, pops := false, val := fun k => k.tag.setWidth 32 } d n)

/-- The subtype code of a control token (R120). -/
def ctlCode : CtlSub → Nat
  | .eoi => 1
  | .eos => 2
  | .drn => 3
  | .probe => 4
  | .sync => 5

def chNameOpd : ChName → Opd
  | .ch n => .ch n
  | .pc n => .pc n

/-- An end has already carried this subtype, which a set pushes there at most once (R194, R354). -/
def SetState.carried (v : SetState) (sub : CtlSub) (e : Nat) : Bool :=
  match sub with
  | .eos => NSet.has v.eosOut e
  | .drn => NSet.has v.drnOut e
  | _ => false

/-- What the set notes of a control token it pushes at an end. -/
def SetState.noteCtl (v : SetState) (sub : CtlSub) (e : Nat) : SetState :=
  match sub with
  | .eoi => { v with eoiInvoc := v.eoiInvoc + 1 }
  | .eos => { v with eosOut := NSet.add v.eosOut e }
  | .drn => { v with drnOut := NSet.add v.drnOut e }
  | _ => v

/-- Serve ch.ctl for the anchor (R354). -/
def serveCtl (sub : CtlSub) (dst : ChName) (a : Opd) (c : Ctx) (s : State) : Serve :=
  match s.set? c.tile c.set with
  | none => .gone s
  | some v =>
    let d := chNameOpd dst
    let e := (d.outEnd v.ent).getD 255
    let srcs : List Operand := match sub with
      | .eos => []
      | .drn => []
      | _ => [{ o := a }]
    if v.carried sub e then .ok s none
    else
      serveActs c s srcs (some { o := d }) (fun s vs =>
        let arg : BitVec 24 := match dst with
          | .pc _ => 0
          | .ch _ => (vs.headD 0).extractLsb' 0 24
        .ok ((s.pushFrom (s.firingOf c.tile c.set c.blk) c.tile e (ctlToken (ctlCode sub) arg)).modSet c.tile c.set (fun v => v.noteCtl sub e)) none)

/-- ch.ctl (R354): token blocks only. -/
def execChCtl (g : Guard) (sub : CtlSub) (dst : ChName) (a : Opd) (s : State) : Host.Outcome State Fault Refusal :=
  let srcs : List Opd := match sub with
    | .eos => []
    | .drn => []
    | _ => [a]
  withPass s g (chkAll [chkEnds srcs [chNameOpd dst], chkType allTypes [.token]]) [] (serveCtl sub dst a)

/-! ### Steer, merge, any-merge (R356 to R359) -/

/-- What the scoreboard watches of a service: the registers of its sources, and its destinations, channels among them, since a late push marks
its output channel (R161, R322). -/
def watchOf (srcs dsts : List Opd) : List Mark :=
  ({ srcs := srcs.map (fun o => { o := o }), dst := none, f := fun _ => (0, Exc.none) } : LaneSpec).watched ++
    dsts.flatMap (fun o => (o.cover false).map Mark.opd)

/-- What one routed value needs: the end its data is popped from, the end it is pushed on. -/
def routeNeeds (used : List Nat) (src dst : Option Nat) : List ChNeed :=
  (src.map (fun e => ChNeed.data e (used.count e))).toList ++ (dst.map ChNeed.room).toList

/-- The ends of a service that the tile's cube binding holds. -/
def State.anyBound (s : State) (c : Ctx) (v : SetState) (srcs dsts : List Opd) : Bool :=
  srcs.any (fun o => (o.inEnd v.ent).any (s.boundByCube c.tile c.set v.ent true)) ||
    dsts.any (fun o => (o.outEnd v.ent).any (s.boundByCube c.tile c.set v.ent false))

/-- Move one value from a source to a destination, once the predicate and the choice are settled: `used` are the ends already
popped by this service. -/
def routeValue (c : Ctx) (s : State) (v : SetState) (ty : Ty) (used : List Nat) (src dst : Opd) : Serve :=
  let se := src.inEnd v.ent
  let de := dst.outEnd v.ent
  let data := se.bind (fun e => s.popToken c.tile used e)
  if s.anyBound c v [src] [dst] then .setFault s { code := Code.chTag }
  else if (se.isSome && !data.any (fun k => !k.isCtl)) || de.any (fun e => s.roomAt c.tile e == 0) then
    .park s (.chan (used.map (fun e => ChNeed.data e) ++ routeNeeds used se de))
  else if data.any (fun k => match src with
      | .pc _ => false
      | _ => k.tag != ty.tag || (k.tag == 3 && ty.fmt.isSome && se.any (fun e => s.fmtIn c.tile e != ty.fmt))) ||
      de.any (fun e => ty.tag == 3 && ty.fmt.isSome && s.fmtOut c.tile e != ty.fmt) then
    .setFault s { code := Code.chTag }
  else
    match s.opdPoison c v.ent false src with
    | some w => .fault s (lvsFault w)
    | none =>
      let val : Double := match data with
        | some k => k.val.setWidth 64
        | none => readOpd c s false src
      let s1 := (used ++ se.toList).foldl (fun s e => s.popAt c.tile e) s
      .ok (writeOpd c s1 false ty.tag dst val) none

/-- Serve a steer or a merge: a predicate selects the source and the destination. -/
def serveRoute (inv : Bool) (ty : Ty) (p : Opd) (srcs dsts : List Opd) (pick : Bool → Opd × Opd) (c : Ctx) (s : State) : Serve :=
  match s.set? c.tile c.set with
  | none => .gone s
  | some v =>
    let pend := v.pendingOn c.tid (watchOf (p :: srcs) dsts)
    if !pend.isEmpty then .park s (.groups pend)
    else
      match p.inEnd v.ent with
      | none =>
        let r := pick (((readOpd c s false p).getLsbD 0) != inv)
        routeValue c s v ty [] r.1 r.2
      | some e =>
        match s.headAt c.tile e with
        | none => .park s (.chan [.data e])
        | some k =>
          if k.isCtl then .park s (.chan [.data e])
          else
            let r := pick ((k.val.getLsbD 0) != inv)
            routeValue c s v ty [e] r.1 r.2

/-- steer (R356, R357): to D when the predicate is 1, to F when it is 0. -/
def execSteer (g : Guard) (inv : Bool) (ty : Ty) (d a p f : Opd) (s : State) : Host.Outcome State Fault Refusal :=
  withPass s g (chkEnds [a, p] [d, f]) [] (serveRoute inv ty p [a] [d, f] (fun b => (a, if b then d else f)))

/-- merge (R356, R357): A when the predicate is 1, B when it is 0. -/
def execMerge (g : Guard) (inv : Bool) (ty : Ty) (d a b p : Opd) (s : State) : Host.Outcome State Fault Refusal :=
  withPass s g (chkEnds [a, b, p] [d]) [] (serveRoute inv ty p [a, b] [d] (fun x => (if x then a else b, d)))

/-- The inputs in the cyclic order that follows the one taken last. -/
def cyclicAfter (n : Nat) (last : Option Nat) : List Nat :=
  match last with
  | none => List.range n
  | some k => (List.range n).map (fun i => (k + 1 + i) % n)

/-- Serve an any-merge (R359): the choice is logged, or follows the log. -/
def serveAmerge (ty : Ty) (d : Opd) (ins : List (BitVec 3)) (c : Ctx) (s : State) : Serve :=
  match s.set? c.tile c.set with
  | none => .gone s
  | some v =>
    let pend := v.pendingOn c.tid (watchOf [] [d])
    if !pend.isEmpty then .park s (.groups pend)
    else if s.anyBound c v [] [d] then .setFault s { code := Code.chTag }
    else
      let elem := c.set * 4096 + c.blk
      let me := c.blk * 64 + c.idx
      let ends := ins.map v.ent.chIn
      let has (k : Nat) : Bool := s.needMet c.tile (.data (ends.getD k 255))
      let go (k : Nat) : Serve :=
        let made := (s.modSet c.tile c.set (fun v => { v with amLast := v.amLast.insert me k }))
        match routeValue c s v ty [] (.ch (ins.getD k 0)) d with
        | .ok _ _ =>
          match made.chooseAs c.tile 1 elem (BitVec.ofNat 64 k) with
          | .take s1 => routeValue c s1 v ty [] (.ch (ins.getD k 0)) d
          | _ => .park (s.segmentStall c.tile c.set) .clear
        | r => r
      match s.rplMode c.tile with
      | .off =>
        match (cyclicAfter ins.length (v.amLast.look me)).find? has with
        | none => .park s (.chan [.anyData ends])
        | some k => go k
      | .record =>
        match (cyclicAfter ins.length (v.amLast.look me)).find? has with
        | none => .park s (.chan [.anyData ends])
        | some k => go k
      | _ =>
        if s.halting c.tile then .park s .clear
        else
          match s.hindLook c.tile 1 elem with
          | none => .park s .clear
          | some w =>
            let k := w.toNat
            if ins.length ≤ k then
              .park (s.diverge c.tile c.set c.blk 1 elem (.block c.tile c.set c.blk) (s.blockNode c.tile c.set c.blk)
                (s.setInvoc c.tile c.set) w 1) .clear
            else if has k then go k
            else .park s (.chan [.data (ends.getD k 255)])

/-- amerge (R356, R357, R359). -/
def execAmerge (g : Guard) (ty : Ty) (d : Opd) (a b : BitVec 3) (e : Option (BitVec 3)) (s : State) :
    Host.Outcome State Fault Refusal :=
  let ins := [a, b] ++ e.toList
  withPass s g (chkEnds (ins.map Opd.ch) [d]) [] (serveAmerge ty d ins)

/-! ### Loop generators (R360) -/

/-- The state register of a generator. -/
def lgenWord (active : Bool) (rem : BitVec 31) (next : Word) : Double := BitVec.ofBool active ++ rem ++ next

/-- One firing: the bound if one is taken, then the index and predicates it pushes and the state after. -/
structure LgenFire where
  takes : Bool
  index : Option Word
  pred : Bool
  after : Double

def lgenFire (st : Double) (bound : Word) : LgenFire :=
  let active := st.getLsbD 63
  let n : Nat := if bound.toInt < 0 then 0 else bound.toNat
  let rem : BitVec 31 := if active then st.extractLsb' 32 31 else BitVec.ofNat 31 n
  let next : Word := if active then st.extractLsb' 0 32 else 0
  if rem = 0 then ⟨!active, none, false, lgenWord false rem next⟩
  else ⟨!active, some next, true, lgenWord true (rem - 1) (next + 1)⟩

/-- Serve a firing, whole or not at all. -/
def serveLgen (d : Option (BitVec 3)) (a : BitVec 3) (st : BitVec 4) (p : Option (BitVec 3)) (c : Ctx) (s : State) : Serve :=
  match s.set? c.tile c.set with
  | none => .gone s
  | some v =>
    let pend := v.pendingOn c.tid (watchOf [.s st] (d.toList.map Opd.ch ++ p.toList.map Opd.pc))
    if !pend.isEmpty then .park s (.groups pend)
    else
      let reg := c.s st.toNat
      let e := v.ent.chIn a
      let head := s.headAt c.tile e
      let takes := !reg.getLsbD 63
      if s.anyBound c v (if takes then [.ch a] else []) [] then .setFault s { code := Code.chTag }
      else if takes && !head.any (fun k => !k.isCtl) then .park s (.chan [.data e])
      else
        let f := lgenFire reg ((head.map Token.val).getD 0)
        let outs := (if f.index.isSome then (d.map v.ent.chOut).toList else []) ++ (p.map v.ent.pcOut).toList
        if s.anyBound c v [] (if f.index.isSome then d.toList.map Opd.ch else []) then .setFault s { code := Code.chTag }
        else if outs.any (fun e => s.roomAt c.tile e == 0) then
          .park s (.chan ((if takes then [ChNeed.data e] else []) ++ outs.map ChNeed.room))
        else if takes && head.any (fun k => k.tag != 0) then .setFault s { code := Code.chTag }
        else
          let src := s.firingOf c.tile c.set c.blk
          let s1 := if f.takes then s.popAt c.tile e else s
          let s2 := match f.index, d with
            | some i, some n => s1.pushFrom src c.tile (v.ent.chOut n) ⟨0, i, []⟩
            | _, _ => s1
          let s3 := match p with
            | some n => s2.pushFrom src c.tile (v.ent.pcOut n) ⟨0, (BitVec.ofBool f.pred).setWidth 32, []⟩
            | none => s2
          .ok (s3.modSet c.tile c.set (fun v => v.putS st.toNat f.after)) none

/-- lgen (R360): token blocks only. -/
def execLgen (g : Guard) (d : Option (BitVec 3)) (a : BitVec 3) (st : BitVec 4) (p : Option (BitVec 3)) (s : State) :
    Host.Outcome State Fault Refusal :=
  withPass s g (chkAll [chkEnds [.ch a] (d.toList.map Opd.ch ++ p.toList.map Opd.pc), chkType allTypes [.token]]) []
    (serveLgen d a st p)

end Sys2Proof.Machine
end

