-- ==== Sys2Proof/Machine/Circuits.lean ====
section
/-!
DEFINITION. Arrays as circuits (spec/06 R99 to R117, spec/20 R382 to R385): the circuit commands at their array, conversion, paging, the
steps of a running circuit, its forwarded control tokens, its faults, and the end of its plane.
-/
namespace Sys2Proof.Machine

/-! ### Arrays -/

def State.arr (s : State) (t a : Nat) : Arr := SMap.get Arr.reset (s.tile t).arrs a

def State.putArr (s : State) (t a : Nat) (r : Arr) : State :=
  s.putTile t { s.tile t with arrs := SMap.put Arr.reset (s.tile t).arrs a r }

def State.modArr (s : State) (t a : Nat) (f : Arr → Arr) : State := s.putArr t a (f (s.arr t a))

/-- Header fields of double 2 (R106); after a conversion they are zero (R102). -/
def Arr.h2 (r : Arr) : Double := r.hdr.getD 2 0
def Arr.ice (r : Arr) : Nat := (r.h2.extractLsb' 0 8).toNat
def Arr.oce (r : Arr) : Nat := (r.h2.extractLsb' 8 8).toNat
def Arr.start (r : Arr) : BitVec 7 := r.h2.extractLsb' 16 7
def Arr.pnb (r : Arr) : Bool := r.h2.getLsbD 24
def Arr.pac (r : Arr) : BitVec 4 := r.h2.extractLsb' 25 4
def Arr.iacq (r : Arr) : Bool := r.h2.getLsbD 29
def Arr.orel (r : Arr) : Bool := r.h2.getLsbD 30
def Arr.hev (r : Arr) : Bool := r.h2.getLsbD 31
def Arr.heq (r : Arr) : Nat := (r.h2.extractLsb' 32 4).toNat

/-- OSELj (R106). -/
def Arr.osel (r : Arr) (j : Nat) : Nat :=
  if j < 10 then ((r.hdr.getD 0 0).extractLsb' (6 * j) 6).toNat else ((r.hdr.getD 1 0).extractLsb' (6 * (j - 10)) 6).toNat

def Arr.exp (r : Arr) (k : Nat) : Nat := ((r.hdr.getD 1 0).extractLsb' (36 + 5 * k) 5).toNat

/-- A step of the schedule; after a conversion every step is as step 0: halt (R102). -/
def Arr.stepAt (r : Arr) (n : Nat) : Double := if r.sched.isEmpty then 0x8000000000000000 else r.sched.getD n 0

/-- The fields of a step (R107). -/
def stKind (w : Double) : Nat := (w.extractLsb' 62 2).toNat
def stCtx (w : Double) : Nat := (w.extractLsb' 55 7).toNat
def stPop (w : Double) : Bool := w.getLsbD 34
def stEmit (w : Double) : Bool := w.getLsbD 33
def stPort (w : Double) : Nat := (w.extractLsb' 30 2).toNat

/-- Bytes of page p of an array, LUT by LUT (R104). -/
def pageSpans (a p : Nat) : List Nat := (List.range 32).map (fun m => a * 65536 + m * 2048 + p * 256)

/-- A poisoned double in a range of bytes. -/
def Tile.poisonIn (x : Tile) (a n : Nat) : Option Nat :=
  (x.memPoison.find? (fun d => decide (a ≤ d * 8 ∧ d * 8 < a + n))).map (· * 8)

/-- A context word whose reserved bits are not zero, in a range of bytes (R102, R105). -/
def Tile.badContext (x : Tile) (a n : Nat) : Option Nat :=
  ((List.range (n / 16)).map (fun i => a + 16 * i)).find? (fun w => Memory.readLE x.mem (w + 8) 8 / 2 ^ 38 != 0)

/-! ### Circuit accesses (R113) -/

/-- Port writes of an array that are still to be performed. -/
def State.cirAccs (s : State) (t a : Nat) : List Nat :=
  (s.toCome.filter (fun x => x.2.tile == t && x.2.tid == cirTid a)).map Prod.fst

/-- What a circuit releases: its port writes and what its port accesses are ordered after, at the level of a scope. -/
def State.cirNeeds (s : State) (t a lvl : Nat) (r : Arr) : List Need :=
  deepNeeds lvl (s.idsOf (fun x => x.tile == t && x.tid == cirTid a)) ++ s.live r.knew

/-- A circuit's later port accesses are ordered after what is now performed and what some needs name (R113). -/
def State.cirAcquire (s : State) (t a : Nat) (ns : List Need) : State :=
  s.modArr t a (fun r => { r with knew := (s.live (r.knew ++ ns)).eraseDups, since := s.tick })

/-! ### Faults of a circuit (R115) -/

/-- The record of a circuit: set of the last RUN, array, step, tokens taken, class. -/
def State.cirRecord (s : State) (t a : Nat) (notice : Bool) (code : BitVec 8) (kind : BitVec 3) (w1 : Nat) : State :=
  let r := s.arr t a
  let f : FaultInfo := { code := code, kind := kind, w1 := BitVec.ofNat 64 w1, elem := r.taken, ac := r.pac }
  s.tileRecord t (recWord0 f { cir := true, notice := notice } t (r.lastSet.getD 0) a r.step.toNat 0) f.w1
    (recWord2 (s.node t 3 a) r.eoi) (recWord3 f)

/-- The circuit stops, HALTED with its step held. -/
def State.cirFault (s : State) (t a : Nat) (code : BitVec 8) (kind : BitVec 3) (w1 : Nat) : State :=
  (s.cirRecord t a false code kind w1).modArr t a (fun r => { r with mode := .halted, absent := false })

/-! ### Bindings (R106, R115, R117, R430) -/

/-- An end that a circuit names is bound to it in the active plane: a channel has it, no set names it, and no other array holds it. -/
def State.cirBound (s : State) (t a e : Nat) (isIn : Bool) : Bool :=
  e == 255 ||
    ((if isIn then s.inChan t e else s.outChan t e).isSome &&
      !(s.setsOf t).any (fun v => (v.2.ent.chin ++ v.2.ent.chout).contains e) &&
      !(s.tile t).arrs.any (fun x => x.1 != a && x.2.holds && (x.2.ice == e || x.2.oce == e)))

/-- The end of the plane that bound them: running arrays halt, posting nothing, and every array's bindings end (R117). -/
def State.planeEnd (s : State) (t : Nat) : State :=
  let x := s.tile t
  s.putTile t { x with arrs := x.arrs.map (fun r => (r.1, { r.2 with mode := if r.2.mode == .running then .halted else r.2.mode,
                                                                        holds := false, absent := false })) }

/-! ### Commands at their array (R100, R383, R384) -/

/-- A command acts on its array when it is the first of those there that are not stopped. -/
def State.arrTurn (s : State) (t o seq a : Nat) : Bool :=
  ((s.arr t a).cmds.filter (fun e => (s.cubeCmd t e).any (fun c => c.at' == CmdAt.issued && c.stage != doneStage))).head? == some (o, seq)

/-- The modes that admit a command (R101). -/
def admits : Instr → ArrMode → Bool
  | .cirConvert .., m => m == .storage
  | .cirSched .., m => m == .halted
  | .cirRunf .., m => m == .halted
  | .cirRun .., m => m == .halted || m == .running
  | .cirHalt .., m => m == .halted || m == .running
  | .cirRevert .., m => m == .halted || m == .running
  | .cirPageout .., m => m == .halted || m == .running
  | .cirPagein .., m => m == .halted || m == .running
  | _, _ => false

/-- The checks of an image address in order (R383). -/
def Tile.imageCheck (x : Tile) (c : Cmd) (n align : Nat) (kind : BitVec 3) : Option FaultInfo :=
  let f (code : BitVec 8) : Option FaultInfo := some { code := code, kind := kind, w1 := c.addr, ac := c.ac }
  if c.addr.extractLsb' 21 43 != 0 then f Code.tileRange
  else if c.addr.toNat % align ≠ 0 then f Code.align
  else (x.rangeCheck c.addr.toNat n).bind f

/-- The fault of a circuit command. -/
def cirCmdFault (c : Cmd) (code : BitVec 8) (kind : BitVec 3) (w1 : Nat) : FaultInfo :=
  { code := code, kind := kind, w1 := BitVec.ofNat 64 w1, ac := c.ac }

/-- A SCHED image that R106 or R107 calls illegal. -/
def stepBad (ice oce : Nat) (pen : Bool) (w : Double) : Bool :=
  stKind w == 3 || w.extractLsb' 0 29 != 0 || (stKind w == 2 && w.extractLsb' 0 62 != 0) || (stKind w != 1 && w.extractLsb' 35 13 != 0) ||
    stPort w == 3 || (stPort w != 0 && !pen) || (stPop w && ice == 255) || (stEmit w && oce == 255)

def schedBad (ds : List Double) : Bool :=
  let h2 := ds.getD 2 0
  let ice := (h2.extractLsb' 0 8).toNat
  let oce := (h2.extractLsb' 8 8).toNat
  (ds.getD 0 0).extractLsb' 60 4 != 0 || (ds.getD 1 0).extractLsb' 56 8 != 0 || h2.extractLsb' 36 28 != 0 || ds.getD 3 0 != 0 ||
    (127 < ice && ice != 255) || (127 < oce && oce != 255) || (ds.drop 4).any (stepBad ice oce (h2.getLsbD 23))

/-- An array lies within the window of a port node of the tile's active configuration (R97, R102). -/
def Tile.inWindow (x : Tile) (a : Nat) : Bool :=
  x.ports.any (fun p => decide (p.window < (a + 1) * 65536 ∧ a * 65536 < p.window + p.len))

/-- The page that a page move names. -/
def pageOf? : Instr → Option Nat
  | .cirPageout _ _ p _ => some p.toNat
  | .cirPagein _ _ p _ => some p.toNat
  | _ => none

/-- An earlier move of the same page has not retired (R384). -/
def State.pageBefore (s : State) (t o seq a p : Nat) : Bool :=
  ((s.arr t a).cmds.takeWhile (· != (o, seq))).any (fun e => (s.cubeCmd t e).any (fun c => pageOf? c.i == some p))

/-- Writes to an array that have been presented and not performed (R102); a copy's writes and a port node's are performed as they are
presented. -/
def State.writesInto (s : State) (t a : Nat) : Bool :=
  s.toCome.any (fun x => x.2.tile == t && x.2.writes && (match x.2.loc with
    | .tile u => u / 65536 == a
    | _ => false))

/-- Move a page between an array and its image (R104): offset of byte i of the image within the array. -/
def pageByte (a p i : Nat) : Nat := a * 65536 + i / 256 * 2048 + p * 256 + i % 256

/-- Copy 8 KiB, double by double, the destination's poison cleared. -/
def Tile.movePage (x : Tile) (src dst : Nat → Nat) : Tile :=
  (List.range 1024).foldl (fun y i =>
    let d := dst (8 * i)
    { y with mem := Memory.writeLE y.mem d 8 (Memory.readLE y.mem (src (8 * i)) 8), memPoison := NSet.drop y.memPoison (d / 8) }) x

/-- The page that the current step of a running circuit names, if it is not a halt step. -/
def Arr.page? (r : Arr) : Option Nat :=
  let w := r.stepAt r.step.toNat
  if stKind w = 2 then none else some (stCtx w / 16)

/-- A page move waits on a running circuit whose step is inside its page (R111, R112). -/
def Arr.pageWaits (r : Arr) (p : Nat) : Bool := r.mode == .running && r.page? == some p

/-- REVERT on a halted array (R103): absent pages become zero with sound check bits. -/
def Tile.revert (x : Tile) (a : Nat) (r : Arr) : Tile :=
  let gone := (List.range 8).filter (fun p => !r.present.getLsbD p)
  let y := gone.foldl (fun y p => (pageSpans a p).foldl (fun y b =>
    { y with mem := y.mem.filter (fun m : Nat × Byte => !(b ≤ m.1 && m.1 < b + 256)),
             memPoison := y.memPoison.filter (fun d => !(b ≤ d * 8 && d * 8 < b + 256)) }) y) x
  { y with arrs := SMap.put Arr.reset y.arrs a { Arr.reset with cmds := r.cmds } }

/-- What a circuit command does at its turn, after the checks of its mode and image address. -/
def State.cirAct (s : State) (t o : Nat) (c : Cmd) (a : Nat) : State :=
  let x := s.tile t
  let r := s.arr t a
  let done (s : State) : State := s.cmdDone t o c.seq
  let src := c.addr.toNat
  match c.i with
  | .cirConvert _ _ _ =>
    if x.inWindow a then s.stopCmd t o c (cirCmdFault c Code.arrayMode 7 0)
    else (s.putArr t a { r with mode := .converting }).modCmd t o c.seq (fun c => { c with stage := 2 })
  | .cirSched _ _ _ =>
    if 4 ≤ s.copyLoad t then s
    else
      match x.poisonIn src 1056 with
      | some d => s.stopCmd t o c (cirCmdFault c Code.memPoison 4 d)
      | none =>
        let ds := doubles 132 (Memory.bytes x.mem src 1056)
        let ends := [((ds.getD 2 0).extractLsb' 0 8).toNat, ((ds.getD 2 0).extractLsb' 8 8).toNat].filter (· != 255)
        if schedBad ds || x.arrs.any (fun y => y.1 != a && y.2.holds && ends.any (fun e => y.2.ice == e || y.2.oce == e)) then
          s.stopCmd t o c (cirCmdFault c Code.cfgImage 7 0)
        else done (s.putArr t a { r with hdr := ds.take 4, sched := ds.drop 4, holds := true })
  | .cirRun _ _ =>
    if r.mode == .running then done (s.cirAcquire t a c.after)
    else if !s.cirBound t a r.ice true || !s.cirBound t a r.oce false then s.stopCmd t o c (cirCmdFault c Code.cfgImage 7 0)
    else done ((s.putArr t a { r with mode := .running, lastSet := some o, holds := true, absent := false }).cirAcquire t a c.after)
  | .cirRunf _ _ =>
    if !s.cirBound t a r.ice true || !s.cirBound t a r.oce false then s.stopCmd t o c (cirCmdFault c Code.cfgImage 7 0)
    else
      done ((s.putArr t a { r with mode := .running, vals := 0, latch := 0, valid := false, pdata := 0, cycles := 0, first := true,
                                   step := r.start, lastSet := some o, holds := true, absent := false }).cirAcquire t a c.after)
  | .cirHalt _ _ =>
    let s1 := s.putArr t a { r with mode := .halted, absent := false }
    if (s.cirAccs t a).isEmpty then done s1 else s1
  | .cirRevert _ _ =>
    if r.mode == .running || !(s.cirAccs t a).isEmpty then s else done (s.putTile t (x.revert a r))
  | .cirPageout _ _ p _ =>
    let p := p.toNat
    if s.pageBefore t o c.seq a p then s
    else if !r.present.getLsbD p then done s
    else if r.pageWaits p || 4 ≤ s.copyLoad t then s
    else
      match (pageSpans a p).findSome? (fun b => x.poisonIn b 256) with
      | some d => s.stopCmd t o c (cirCmdFault c Code.memPoison 4 d)
      | none =>
        done ((s.putTile t (x.movePage (pageByte a p) (fun i => src + i))).modArr t a (fun r => { r with present := setBit r.present p false }))
  | .cirPagein _ _ p _ =>
    let p := p.toNat
    if s.pageBefore t o c.seq a p || (r.present.getLsbD p && r.pageWaits p) || 4 ≤ s.copyLoad t then s
    else
      match x.poisonIn src 8192 with
      | some d => s.stopCmd t o c (cirCmdFault c Code.memPoison 4 d)
      | none =>
        match x.badContext src 8192 with
        | some _ => s.stopCmd t o c (cirCmdFault c Code.cfgImage 7 0)
        | none =>
          done ((s.putTile t (x.movePage (fun i => src + i) (pageByte a p))).modArr t a (fun r =>
            { r with present := setBit r.present p true, absent := r.absent && r.page? != some p }))
  | _ => s

/-- The bytes and alignment of an image that a circuit command names, and whether it writes it. -/
def imageOf : Instr → Option (Nat × Nat × BitVec 3)
  | .cirSched .. => some (1056, 8, 4)
  | .cirPageout .. => some (8192, 8192, 5)
  | .cirPagein .. => some (8192, 8192, 4)
  | _ => none

/-- A circuit command under way (R383): at its turn, its checks in order, then its effect. -/
def State.cirStep (s : State) (t o : Nat) (v : SetState) (c : Cmd) (a : Nat) : State :=
  if c.stage = 2 || !s.arrTurn t o c.seq a || !s.cmdReady c then s
  else if (s.tile t).heldFor.isSome || !admits c.i (s.arr t a).mode then s.stopCmd t o c (cirCmdFault c Code.arrayMode 7 0)
  else
    match (imageOf c.i).bind (fun m => (s.tile t).imageCheck c m.1 m.2.1 m.2.2) with
    | some f => s.stopCmd t o c f
    | none => if (imageOf c.i).isSome && v.heldBack c then s else s.cirAct t o c a

/-- CONVERSION_COMPLETE (R102): the writes accepted before closing have been performed and the pages are checked; the array becomes
HALTED, or reopens with the command's fault: MEM_POISON where a page holds poison and a bad word alike, as for a page-in (log entry 52, DESIGN
CHOICE). Values that a conversion leaves open are free. -/
def execConversionComplete (t a : Nat) (s : State) : Host.Outcome State Fault Refusal :=
  let r := s.arr t a
  let x := s.tile t
  if r.mode != .converting || s.writesInto t a then .next s
  else
    match r.cmds.findSome? (fun e => (s.cubeCmd t e).bind (fun c => match c.i with
        | .cirConvert _ _ pm => if c.stage == 2 then some (e.1, c, pm) else none
        | _ => none)) with
    | none => .next s
    | some (o, c, pm) =>
      let pages := (List.range 8).filter (fun p => pm.getLsbD p)
      let spans := pages.flatMap (pageSpans a)
      let reopen (f : FaultInfo) : State :=
        ((s.putArr t a { r with mode := .storage }).modCmd t o c.seq (fun c => { c with stage := 0 })).stopCmd t o c f
      match spans.findSome? (fun b => x.poisonIn b 256) with
      | some d => .next (reopen (cirCmdFault c Code.memPoison 7 d))
      | none =>
        match spans.findSome? (fun b => x.badContext b 256) with
        | some _ => .next (reopen (cirCmdFault c Code.cfgImage 7 0))
        | none =>
          .next ((s.putArr t a { r with mode := .halted, present := pm, vals := (s.free 40).extractLsb' 0 32, step := 0,
                                        latch := (s.free 41).extractLsb' 0 32, valid := (s.free 42).getLsbD 0, pdata := 0, cycles := 0,
                                        first := false, hdr := [], sched := [], taken := 0, eoi := 0, absent := false, holds := false, knew := [], since := 0 }).cmdDone t o c.seq)

/-! ### A step (R105, R108) -/

/-- Export k of a neighbour: 0 from one in STORAGE (R105). -/
def Arr.export' (r : Arr) (k : Nat) : Bool :=
  (r.mode == .halted || r.mode == .running) && r.vals.getLsbD (r.exp k)

def Arr.exports (r : Arr) : List Bool := (List.range 4).map r.export'

/-- What the input pool reads at the start of a step (R105). -/
structure Pool where
  vals : BitVec 32
  data : Word
  exports : List Bool
  first : Bool
  valid : Bool
  room : Bool
  cycles : BitVec 40

def Pool.bit (p : Pool) (i : Nat) : Bool :=
  if i < 32 then p.vals.getLsbD i
  else if i < 48 then p.data.getLsbD (i - 32)
  else if i < 56 then p.exports.getD (i - 48) false
  else
    match i with
    | 56 => p.first
    | 57 => p.valid
    | 58 => p.room
    | 59 => p.cycles.getLsbD 0
    | 60 => p.cycles.getLsbD 1
    | 61 => p.cycles.getLsbD 2
    | 62 => false
    | _ => true

/-- A context word of a LUT: truth table and selects. -/
def Tile.context (x : Tile) (a lut ctx : Nat) : Double × Double :=
  let b := a * 65536 + lut * 2048 + ctx * 16
  (BitVec.ofNat 64 (Memory.readLE x.mem b 8), BitVec.ofNat 64 (Memory.readLE x.mem (b + 8) 8))

/-- The result of a LUT. -/
def Pool.lut (p : Pool) (w : Double × Double) : Bool :=
  let idx := ((List.range 6).map (fun k => if p.bit (w.2.extractLsb' (6 * k) 6).toNat then 2 ^ k else 0)).sum
  w.1.getLsbD idx

/-- The bits of a list, the first the lowest. -/
def bitsOf (w : Nat) (l : List Bool) : BitVec w := BitVec.ofNat w (l.foldr (fun b n => (if b then 1 else 0) + 2 * n) 0)

/-- The result of evaluating a step's context. -/
structure Evaluated where
  v : BitVec 32
  h : BitVec 32
  tok : Word
  next : BitVec 7

/-- Evaluate a step: every LUT, the held values after it, the output token, and the next step. -/
def Tile.evaluate (x : Tile) (a : Nat) (r : Arr) (p : Pool) (valid : Bool) (w : Double) : Evaluated :=
  let ws := (List.range 32).map (fun i => x.context a i (stCtx w))
  let v : BitVec 32 := bitsOf 32 (ws.map p.lut)
  let h : BitVec 32 := bitsOf 32 ((List.range 32).map (fun i =>
    let c := (ws.getD i (0, 0)).2
    if c.getLsbD 36 && (!c.getLsbD 37 || valid) then v.getLsbD i else r.vals.getLsbD i))
  let after := { p with vals := v }
  { v := v, h := h, tok := bitsOf 32 ((List.range 16).map (fun j => after.bit (r.osel j))),
    next := if stKind w = 1 && after.bit (w.extractLsb' 35 6).toNat then w.extractLsb' 41 7 else w.extractLsb' 48 7 }

/-- The neighbour of an array that its port reaches. -/
def portArray (a : Nat) (r : Arr) : Nat := if r.pnb then (a + 1) % 32 else (a + 31) % 32

/-- A step whose conditions hold, from its tag check on. `k` is the token that a POP takes. -/
def State.cirPerform (s : State) (t a : Nat) (r : Arr) (w : Double) (k : Option Token) (ev : TraceEv) : State :=
  let x := s.tile t
  if k.any (fun k => k.tag != 0) then s.cirFault t a Code.chTag 7 0
  else if (List.range 32).any (fun m => (x.poisonIn (a * 65536 + m * 2048 + stCtx w * 16) 16).isSome) then s.cirFault t a Code.memPoison 7 0
  else
    let latch := (k.map Token.val).getD r.latch
    let valid := k.isSome || r.valid
    let p : Pool :=
      { vals := r.vals, data := if w.getLsbD 29 then r.pdata else if valid then latch else 0,
        exports := SMap.get [] x.cirWas ((a + 31) % 32) ++ SMap.get [] x.cirWas ((a + 1) % 32), first := r.first, valid := r.valid,
        room := decide (0 < s.roomAt t r.oce) && r.oce != 255, cycles := r.cycles }
    let e := x.evaluate a r p valid w
    let port := portArray a r
    let addr := port * 65536 + 4 * (latch.extractLsb' 16 14).toNat
    let kind : BitVec 3 := if stPort w = 1 then 0 else 1
    if stPort w ≠ 0 && (s.arr t port).mode != .storage then s.cirFault t a Code.arrayMode kind addr
    else if stPort w ≠ 0 && NSet.has x.memPoison (addr / 8) then s.cirFault t a Code.memPoison kind addr
    else
      let take : Choosing := if k.isSome then s.chooseAs t 5 a (r.cycles.setWidth 64) else .take s
      match take with
      | .take s0 =>
        let s1 := if k.isSome then s0.popAt t r.ice else s0
        let took := if r.iacq then ((k.map Token.rel).getD []) else []
        let rd := s.pickStep (pastSteps r.since (SMap.get [] x.past (addr / 8)))
        let s2 := s1.putArr t a { r with vals := e.h, latch := latch, valid := valid && !w.getLsbD 32, step := e.next,
                                         pdata := if stPort w = 1 then BitVec.ofNat 32 (Memory.readLE (rd.elim x.mem (x.memAt addr)) addr 4) else r.pdata,
                                         cycles := r.cycles + 1, first := false, taken := if k.isSome then r.taken + 1 else r.taken,
                                         absent := false }
        let s3 := if r.iacq && k.isSome then s2.cirAcquire t a took else s2
        let own := (s3.cirAccs t a).map (fun i => (⟨i, 4, false⟩ : Need)) ++ s3.live (s3.arr t a).knew
        let s4 := if stPort w = 2 then
            (s3.issueAcc { tile := t, set := cirSet, tid := cirTid a, kind := .store, loc := .tile addr, va := BitVec.ofNat 64 addr, bytes := 4,
                           data := e.tok.setWidth 64, cls := classBit r.pac, ac := r.pac, acq := false, rel := false, checked := true,
                           after := own, blk := 0, idx := 0 }).1
          else s3
        let s5 := if stEmit w then
            s4.pushFrom (ev.note.map (fun n => (elemKey 3 a, n.num))) t r.oce ⟨0, e.tok, if r.orel then s4.cirNeeds t a 2 (s4.arr t a) else []⟩
          else s4
        (s5.countTile t 0x14 1).nodeNoted t 3 a (.array t a) ev
      | _ => s.segmentStall t ev.set

/-- A step must wait: its POP has no data token at the head, its EMIT has no free slot, or its port read comes after a port write that is not
performed. -/
def State.cirHolds (s : State) (t a : Nat) (r : Arr) (w : Double) : Bool :=
  (stPop w && !(s.headAt t r.ice).any (fun k => !k.isCtl)) || (stEmit w && s.roomAt t r.oce == 0) ||
    (stPort w == 1 && !(s.cirAccs t a).isEmpty)

/-- The FIRE event of a step. -/
def State.cirEvent (s : State) (t a : Nat) (r : Arr) (w : Double) : TraceEv :=
  s.nodeEvent t (r.lastSet.getD 0) 3 a (r.eoi.setWidth 24) ((if stPop w then [s.condIn t 0 r.ice] else []) ++ (if stEmit w then [s.condOut t r.oce] else []))

/-- A breakpoint matches at a step that could be made now (R244, R245). -/
def State.cirMatch (s : State) (t a : Nat) (r : Arr) (ev : TraceEv) : Option State :=
  (s.set? t ev.set).bind (fun v => s.nodeHalt t v (.array t a) ev.node (r.eoi.setWidth 24))

/-! ### The circuit cycle (R16, R108) -/

/-- A circuit makes a step in a circuit cycle that begins now. -/
def State.cirAble (s : State) (t a : Nat) (r : Arr) : Bool :=
  let w := r.stepAt r.step.toNat
  r.mode == .running && s.runs t && stKind w != 2 && r.present.getLsbD (stCtx w / 16) && !s.cirHolds t a r w && !s.traceStalls (s.cirEvent t a r w)

/-- A circuit's turn in the present circuit cycle: circuits that are not held step together, each on the exports that the others had at the start
of the cycle, and a new cycle begins when none of them is left to step (log entry 50, DEDUCED). -/
def State.cirTurn? (s : State) (t a : Nat) : Option State :=
  let x := s.tile t
  let turn (now : NSet) (was : SMap (List Bool)) : State := s.putTile t { x with cirTurn := NSet.drop now a, cirWas := was }
  if NSet.has x.cirTurn a then some (turn x.cirTurn x.cirWas)
  else if x.arrs.any (fun r => NSet.has x.cirTurn r.1 && s.cirAble t r.1 r.2) then none
  else some (turn ((x.arrs.filter (fun r => s.cirAble t r.1 r.2)).foldl (fun k r => NSet.add k r.1) []) (x.arrs.map (fun r => (r.1, r.2.exports))))

/-- CIRCUIT_STEP (R108 to R110, R115). While its region comes to a halt, a circuit only matches. -/
def execCircuitStep (t a : Nat) (s : State) : Host.Outcome State Fault Refusal :=
  let r := s.arr t a
  let w := r.stepAt r.step.toNat
  if r.mode == .running && s.halting t && stKind w != 2 && r.present.getLsbD (stCtx w / 16) && !s.cirHolds t a r w then
    .next ((s.cirMatch t a r (s.cirEvent t a r w)).getD s)
  else if r.mode != .running || !s.runs t then .next s
  else if stKind w = 2 then
    let s1 := s.putArr t a { r with mode := .halted, absent := false }
    if !r.hev then .next s1
    else if !(s.cirAccs t a).isEmpty then .next s
    else
      match s1.post t r.heq with
      | some s2 => .next s2
      | none => .next s
  else if !r.present.getLsbD (stCtx w / 16) then
    .next (if r.absent then s else (s.cirRecord t a true Code.ctxAbsent 7 0).putArr t a { r with absent := true })
  else
    if s.cirHolds t a r w then .next s
    else
      let ev := s.cirEvent t a r w
      if s.traceStalls ev then .next (s.driftStall t ev.set)
      else
        match s.cirMatch t a r ev with
        | some s1 => .next s1
        | none =>
          match s.cirTurn? t a with
          | none => .next s
          | some s1 => .next (s1.cirPerform t a r w (if stPop w then s1.headAt t r.ice else none) ev)

/-- CIRCUIT_CONTROL_FORWARD (R108): a control token heading a POP step's input is forwarded, or dropped when there is no output; an EOI that
is forwarded counts (R115). With OREL the push releases the port writes, and a DRN does so at device scope; a DRN taken acquires (R113, R446). -/
def execCircuitControlForward (t a : Nat) (s : State) : Host.Outcome State Fault Refusal :=
  let r := s.arr t a
  let w := r.stepAt r.step.toNat
  if r.mode != .running || !s.runs t || stKind w = 2 || !stPop w || !r.present.getLsbD (stCtx w / 16) then .next s
  else
    match s.headAt t r.ice with
    | none => .next s
    | some k =>
      if !k.isCtl then .next s
      else if k.badCtl then .next (s.cirFault t a Code.chTag 7 0)
      else if r.oce != 255 && s.roomAt t r.oce = 0 then .next s
      else
        let s0 := s.popAt t r.ice
        let s1 := if r.iacq || k.isDrn then s0.cirAcquire t a k.rel else s0
        let rel := if k.isDrn then s1.cirNeeds t a 4 (s1.arr t a) else if r.orel then s1.cirNeeds t a 2 (s1.arr t a) else []
        let s2 := if r.oce != 255 then s1.pushAt t r.oce { k with rel := rel } else s1
        .next (if k.sub = 1 && r.oce != 255 then s2.modArr t a (fun r => { r with eoi := r.eoi + 1 }) else s2)

/-! ### The instructions (R382) -/

/-- cir.convert (R101, R102). -/
def execCirConvert (m : SCom) (arr : BitVec 5) (pmask : BitVec 8) (s : State) : Host.Outcome State Fault Refusal :=
  enterExec (.cirConvert m arr pmask) m none false false s

/-- cir.sched (R106). -/
def execCirSched (m : SCom) (arr : BitVec 5) (desc : BitVec 4) (s : State) : Host.Outcome State Fault Refusal :=
  enterExec (.cirSched m arr desc) m (some desc) false false s

/-- cir.run. -/
def execCirRun (m : SCom) (arr : BitVec 5) (s : State) : Host.Outcome State Fault Refusal :=
  enterExec (.cirRun m arr) m none false false s

/-- cir.runf. -/
def execCirRunf (m : SCom) (arr : BitVec 5) (s : State) : Host.Outcome State Fault Refusal :=
  enterExec (.cirRunf m arr) m none false false s

/-- cir.halt (R109). -/
def execCirHalt (m : SCom) (arr : BitVec 5) (s : State) : Host.Outcome State Fault Refusal :=
  enterExec (.cirHalt m arr) m none false false s

/-- cir.revert (R103). -/
def execCirRevert (m : SCom) (arr : BitVec 5) (s : State) : Host.Outcome State Fault Refusal :=
  enterExec (.cirRevert m arr) m none false false s

/-- cir.pageout (R111). -/
def execCirPageout (m : SCom) (arr : BitVec 5) (page : BitVec 3) (desc : BitVec 4) (s : State) : Host.Outcome State Fault Refusal :=
  enterExec (.cirPageout m arr page desc) m (some desc) false false s

/-- cir.pagein (R112). -/
def execCirPagein (m : SCom) (arr : BitVec 5) (page : BitVec 3) (desc : BitVec 4) (s : State) : Host.Outcome State Fault Refusal :=
  enterExec (.cirPagein m arr page desc) m (some desc) false false s

end Sys2Proof.Machine
end

