-- ==== Sys2Proof/Machine/Image.lean ====
section
/-!
DEFINITION. Hokuo images (spec/11 R201 to R204 and R454, spec/07 R126 to R128 and R452, spec/14 R241): their parts, and the checks of
a load in the order of R204.
-/
namespace Sys2Proof.Machine

/-- Refuse with a code unless a condition holds. -/
def need (b : Bool) (code : BitVec 8) : Except (BitVec 8) Unit := if b then .ok () else .error code

/-- An optional part, or CFG_IMAGE. -/
def part {α : Type} : Option α → Except (BitVec 8) α
  | some x => .ok x
  | none => .error Code.cfgImage

/-! ### Header and sections (R201) -/

structure ImgHead where
  nsect : Nat
  len : Nat
  cmapver : BitVec 16
  pins : Bool
  signed : Bool
  prio : BitVec 4
  still : BitVec 16

def imgHead (ds : List Double) : ImgHead where
  nsect := ((ds.getD 0 0).extractLsb' 48 8).toNat
  len := ((ds.getD 1 0).extractLsb' 32 32).toNat
  cmapver := (ds.getD 1 0).extractLsb' 16 16
  pins := (ds.getD 1 0).getLsbD 1
  signed := (ds.getD 1 0).getLsbD 0
  prio := (ds.getD 2 0).extractLsb' 16 4
  still := (ds.getD 2 0).extractLsb' 0 16

structure Sect where
  kind : Nat
  off : Nat
  count : Nat
  size : Nat
  rsv : Bool

def sectAt (ds : List Double) (i : Nat) : Sect where
  kind := ((ds.getD (4 + 2 * i) 0).extractLsb' 56 8).toNat
  off := ((ds.getD (4 + 2 * i) 0).extractLsb' 0 32).toNat
  count := ((ds.getD (5 + 2 * i) 0).extractLsb' 32 32).toNat
  size := ((ds.getD (5 + 2 * i) 0).extractLsb' 0 32).toNat
  rsv := (ds.getD (4 + 2 * i) 0).extractLsb' 32 24 != 0

/-- Doubles in an entry of a section, where every entry has the same. -/
def entryDoubles : Nat → Option Nat
  | 1 => some 24
  | 2 => some 1
  | 4 => some 2
  | 7 => some 1
  | 8 => some 2
  | _ => none

/-- MAGIC, VER, LENGTH, NSECT and the header's reserved fields. -/
def headOk (ds : List Double) : Bool :=
  let d0 := ds.getD 0 0
  let h := imgHead ds
  d0.extractLsb' 56 8 == 0 && d0.extractLsb' 32 16 == 1 && d0.extractLsb' 0 32 == 0x4F554B48 && decide (1 ≤ h.nsect ∧ h.nsect ≤ 16) &&
    h.len == 8 * ds.length && decide (32 + 16 * h.nsect + (if h.signed then 96 else 0) ≤ h.len) && (ds.getD 1 0).extractLsb' 2 14 == 0 &&
    (ds.getD 2 0).extractLsb' 20 44 == 0 && ds.getD 3 0 == 0

/-- A section's kind, bounds, reserved bits, and size where its entries have one size. -/
def sectOk (h : ImgHead) (x : Sect) : Bool :=
  !x.rsv && decide (1 ≤ x.kind ∧ x.kind ≤ 8) && x.off % 8 == 0 && x.size % 8 == 0 && decide (32 + 16 * h.nsect ≤ x.off) &&
    decide (x.off + x.size + (if h.signed then 96 else 0) ≤ h.len) && (entryDoubles x.kind).all (fun n => x.size == 8 * n * x.count) &&
    (x.kind != 7 || decide (x.count ≤ 16))

def sects (ds : List Double) : List Sect := (List.range (imgHead ds).nsect).map (sectAt ds)

def sectsOk (ds : List Double) : Bool :=
  let l := sects ds
  l.all (sectOk (imgHead ds)) && (l.map Sect.kind).eraseDups.length == l.length && [1, 2].all (fun k => l.any (fun x => x.kind == k))

/-- The doubles of a section and its COUNT; none of a section that the image has not. -/
def sect (ds : List Double) (kind : Nat) : Nat × List Double :=
  match (sects ds).find? (fun x => x.kind == kind) with
  | some x => (x.count, (ds.drop (x.off / 8)).take (x.size / 8))
  | none => (0, [])

/-- A list cut into pieces of n. -/
def pieces (n : Nat) : Nat → List Double → List (List Double)
  | 0, _ => []
  | k + 1, l => l.take n :: pieces n k (l.drop n)

/-! ### Sets and blocks (R202, R184, R284) -/

/-- A set of an image: its entry, its blocks with their headers, and its words with their places in the set's own pool. -/
structure ImgSet where
  ent : SetEntry
  heads : List Double
  blocks : List Block
  first : Nat
  words : List Double

def bytesOf (w : Double) : List Nat := (List.range 8).map (fun n => (w.extractLsb' (8 * n) 8).toNat)

def setType (n : BitVec 2) : SetType :=
  match n.toNat with
  | 0 => .ag
  | 1 => .cp
  | _ => .rd

def setEntry (d : List Double) : SetEntry where
  tile := ((d.getD 0 0).extractLsb' 54 10).toNat
  oct := ((d.getD 0 0).extractLsb' 50 4).toNat
  wl := ((d.getD 0 0).extractLsb' 47 3).toNat
  typ := setType ((d.getD 0 0).extractLsb' 45 2)
  sup := (d.getD 0 0).getLsbD 44
  entry := ((d.getD 0 0).extractLsb' 32 12).toNat
  nthr := ((d.getD 0 0).extractLsb' 19 13).toNat
  nblk := ((d.getD 1 0).extractLsb' 48 16).toNat
  pool := ((d.getD 1 0).extractLsb' 32 16).toNat
  grp := (d.getD 2 0).extractLsb' 42 22
  kinit := (d.getD 2 0).extractLsb' 0 8
  spmap := d.getD 3 0
  sinit := (d.drop 4).take 16
  chin := bytesOf (d.getD 20 0)
  chout := bytesOf (d.getD 21 0)
  pcin := bytesOf (d.getD 22 0)
  pcout := bytesOf (d.getD 23 0)

def trigOf (ch : BitVec 4) (tag : BitVec 3) (any : Bool) : Option TrigIn :=
  if ch == 15 then none else some ⟨ch.toNat, if any then none else some tag⟩

/-- A block from its header (R284), whose header word stands at `pool` in the set's pool. -/
def blockOf (h : Double) (pool : Nat) : Block where
  len := (h.extractLsb' 52 6).toNat + 1
  pri := (h.extractLsb' 48 4).toNat
  kmask := h.extractLsb' 40 8
  kval := h.extractLsb' 32 8
  in1 := trigOf (h.extractLsb' 28 4) (h.extractLsb' 25 3) (h.getLsbD 24)
  in2 := trigOf (h.extractLsb' 20 4) (h.extractLsb' 17 3) (h.getLsbD 16)
  out := if h.extractLsb' 12 4 == 15 then none else some (h.extractLsb' 12 4).toNat
  mode := match (h.extractLsb' 10 2).toNat with
    | 0 => .thread
    | 1 => .token
    | _ => .trap
  qroom := h.getLsbD 9
  pool := pool

/-- The blocks of a set in CODE, one after another; none when CODE ends within one. -/
def walkBlocks : Nat → Nat → List Double → Option (List (Double × Block))
  | 0, _, _ => some []
  | _ + 1, _, [] => none
  | n + 1, pool, h :: rest =>
    let b := blockOf h pool
    if rest.length < b.len then none
    else (walkBlocks n (pool + 1 + b.len) (rest.drop b.len)).map ((h, b) :: ·)

def blockWords (l : List (Double × Block)) : Nat := (l.map (fun x => 1 + x.2.len)).sum

/-- A header that R184 accepts, with the ends of its set. -/
def trigOk (e : SetEntry) (h : Double) : Bool :=
  let inOk (ch : BitVec 4) (tag : BitVec 3) (any : Bool) : Bool :=
    (!any || tag == 0) && (ch == 15 || (ch.toNat < 8 && e.chin.getD ch.toNat 255 != 255))
  let out := h.extractLsb' 12 4
  h.extractLsb' 58 6 == 0x3F && h.extractLsb' 0 9 == 0 && h.extractLsb' 10 2 != 3 && (h.extractLsb' 32 8 &&& ~~~(h.extractLsb' 40 8)) == 0 &&
    inOk (h.extractLsb' 28 4) (h.extractLsb' 25 3) (h.getLsbD 24) && inOk (h.extractLsb' 20 4) (h.extractLsb' 17 3) (h.getLsbD 16) &&
    (out == 15 || (out.toNat < 8 && e.chout.getD out.toNat 255 != 255))

/-- Reserved bits of a set entry, those of its register values among them. -/
def entryRsv (d : List Double) : Bool :=
  (d.getD 0 0).extractLsb' 0 19 != 0 || (d.getD 2 0).extractLsb' 8 34 != 0 || (d.getD 2 0).extractLsb' 56 7 != 0 ||
    (d.getD 3 0).extractLsb' 40 15 != 0 || (d.getD 3 0).extractLsb' 16 16 != 0

/-- Octets of a set. -/
def SetEntry.octets (e : SetEntry) : List Nat := (List.range (e.width / 8)).map (e.oct + ·)

/-- Ends that a set entry names, in and out. -/
def SetEntry.ins (e : SetEntry) : List Nat := (e.chin ++ e.pcin).filter (· != 255)
def SetEntry.outs (e : SetEntry) : List Nat := (e.chout ++ e.pcout).filter (· != 255)

/-- Fields of a set entry within their ranges (R202, R123, R183). -/
def entryOk (d : List Double) (e : SetEntry) : Bool :=
  e.wl < 5 && (d.getD 0 0).extractLsb' 45 2 != 3 && e.tile < 768 && e.oct * 8 % e.width == 0 && e.nthr ≤ 32 * e.width &&
    decide (1 ≤ e.nblk ∧ e.nblk ≤ 4096) && e.entry < e.nblk && (e.chin ++ e.chout).all (fun n => n < 128 || n == 255) &&
    (e.pcin ++ e.pcout).all (fun n => (128 ≤ n && n < 192) || n == 255)

/-- A set of the image, with its words. -/
def imgSet (code : List Double) (d : List Double) : Option ImgSet :=
  let e := setEntry d
  let at' := code.drop ((d.getD 1 0).extractLsb' 0 32).toNat
  if !entryOk d e then none
  else
    match walkBlocks e.nblk e.pool at' with
    | none => none
    | some l =>
      if 256 * e.width < e.pool + blockWords l then none
      else some ⟨e, l.map Prod.fst, l.map Prod.snd, e.pool, at'.take (blockWords l)⟩

/-- Pool words of a set across its tile: first and end. -/
def ImgSet.span (x : ImgSet) : Nat × Nat := (x.ent.oct * 2048 + x.first, x.ent.oct * 2048 + x.first + x.words.length)

/-- Pool words of a loaded set. -/
def SetState.span (v : SetState) : Nat × Nat :=
  (v.ent.oct * 2048 + v.ent.pool, v.ent.oct * 2048 + v.ent.pool + (v.blocks.map (fun b => 1 + b.len)).sum)

/-- No two members of a list are related. -/
def pairsOk {α : Type} (ok : α → α → Bool) : List α → Bool
  | [] => true
  | x :: l => l.all (ok x) && pairsOk ok l

def spansMeet (a b : Nat × Nat) : Bool := decide (a.1 < b.2 ∧ b.1 < a.2)

/-- Sets of one tile share no octet. -/
def octetsOk (l : List ImgSet) : Bool :=
  pairsOk (fun a b => a.ent.tile != b.ent.tile || !a.ent.octets.any (b.ent.octets.contains ·)) l

/-- No word of the image lies on a word of its tile's active plane (R197). -/
def State.poolFree (s : State) (l : List ImgSet) : Bool :=
  l.all (fun x => (s.setsOf x.ent.tile).all (fun v => !spansMeet x.span v.2.span))

/-! ### Channels (R126 to R130, R452) -/

/-- A channel entry. -/
structure ImgChan where
  d0 : Double
  d1 : Double
  routes : List Double
  inits : List Double

def ImgChan.ptile (c : ImgChan) : Nat := (c.d0.extractLsb' 54 10).toNat
def ImgChan.pend (c : ImgChan) : Nat := (c.d0.extractLsb' 46 8).toNat
def ImgChan.ctile (c : ImgChan) : Nat := (c.d0.extractLsb' 36 10).toNat
def ImgChan.cend (c : ImgChan) : Nat := (c.d0.extractLsb' 28 8).toNat
def ImgChan.cdev (c : ImgChan) : Nat := (c.d0.extractLsb' 18 10).toNat
def ImgChan.pbs (c : ImgChan) : Bool := c.d0.getLsbD 17
def ImgChan.cbs (c : ImgChan) : Bool := c.d0.getLsbD 16
def ImgChan.far (c : ImgChan) : Bool := c.d0.getLsbD 15
def ImgChan.cap (c : ImgChan) : Nat := (c.d1.extractLsb' 58 6).toNat
def ImgChan.dyn (c : ImgChan) : Bool := c.d1.getLsbD 57
def ImgChan.pred (c : ImgChan) : Bool := c.d1.getLsbD 56
def ImgChan.b8p (c : ImgChan) : BitVec 3 := c.d1.extractLsb' 53 3
def ImgChan.nrw (c : ImgChan) : Nat := (c.d1.extractLsb' 49 2).toNat
def ImgChan.xc (c : ImgChan) : Nat := (c.d1.extractLsb' 44 5).toNat
def ImgChan.ninit (c : ImgChan) : Nat := (c.d1.extractLsb' 38 6).toNat
def ImgChan.prod (c : ImgChan) : ChEnd := if c.pbs then .link c.ptile c.pend else .tile c.ptile c.pend
def ImgChan.cons (c : ImgChan) : ChEnd :=
  if c.cbs then .link c.ctile c.cend else if c.far then .remote c.cdev c.ctile c.cend else .tile c.ctile c.cend
/-- The consumer lies on the other compute die. -/
def ImgChan.otherDie (c : ImgChan) : Bool := !c.pbs && !c.cbs && !c.far && dieOf c.ptile != dieOf c.ctile
def ImgChan.crosses (c : ImgChan) : Bool := c.pbs || c.cbs || c.far || c.otherDie

/-- Channel entries one after another; none when the section ends within one or NRW is 3. -/
def walkChans : Nat → List Double → Option (List ImgChan)
  | 0, [] => some []
  | 0, _ :: _ => none
  | n + 1, d0 :: d1 :: rest =>
    let c : ImgChan := ⟨d0, d1, [], []⟩
    if c.nrw = 3 ∨ rest.length < c.nrw + c.ninit then none
    else
      (walkChans n (rest.drop (c.nrw + c.ninit))).map
        (⟨d0, d1, rest.take c.nrw, (rest.drop c.nrw).take c.ninit⟩ :: ·)
  | _ + 1, _ => none

/-- Reserved bits and values of a channel entry. -/
def chanRsv (c : ImgChan) : Bool :=
  c.d0.extractLsb' 0 15 != 0 || c.d1.extractLsb' 0 38 != 0 || (!c.far && c.cdev != 0) || c.inits.any (fun w => w.extractLsb' 35 29 != 0)

/-- The ends of a channel entry within their ranges. -/
def chanEndsOk (c : ImgChan) : Bool :=
  let tileEnd (e : Nat) : Bool := if c.pred then decide (128 ≤ e ∧ e ≤ 191) else decide (e ≤ 127)
  let linkEnd (n e : Nat) : Bool := decide (n < 384 ∧ e < 8)
  (if c.pbs then linkEnd c.ptile c.pend else decide (c.ptile < 768) && tileEnd c.pend) &&
    (if c.cbs then linkEnd c.ctile c.cend else decide (c.ctile < 768) && tileEnd c.cend)

/-- The attach tile of a border converter (R130). -/
def attachTile (die xc : Nat) : Nat :=
  let at' (col row : Nat) : Nat := die * 384 + row * 24 + col
  if xc = 0 then at' (23 - 23 * die) 8 else if xc ≤ 8 then at' (3 * (xc - 1)) 0 else at' (2 * (xc - 9) + 4) 15

/-- One move from a tile within its die's grid (R127). -/
def moveTile (t m : Nat) : Option Nat :=
  let col := t % 384 % 24
  let row := t % 384 / 24
  match m with
  | 0 => if col < 23 then some (t + 1) else none
  | 1 => if 0 < col then some (t - 1) else none
  | 2 => if row < 15 then some (t + 24) else none
  | _ => if 0 < row then some (t - 24) else none

/-- The moves of a route word; none when N or a bit beyond the moves is illegal. -/
def routeMoves (w : Double) : Option (List Nat) :=
  let n := (w.extractLsb' 0 6).toNat
  if n = 0 ∨ 29 < n ∨ w.toNat / 2 ^ (6 + 2 * n) ≠ 0 then none
  else some ((List.range n).map (fun k => (w.extractLsb' (6 + 2 * k) 2).toNat))

/-- Follow moves: the tile they end at and the directed links they use. -/
def followMoves : Nat → List Nat → Option (Nat × List (Nat × Nat))
  | t, [] => some (t, [])
  | t, m :: ms =>
    match moveTile t m with
    | none => none
    | some u => (followMoves u ms).map (fun r => (r.1, (t, m) :: r.2))

/-- Where a channel's carrier on this die starts and ends: converters stand at their attach tiles. -/
def chanSpan (c : ImgChan) : Nat × Nat :=
  if c.pbs then (attachTile (dieOf c.ctile) c.xc, c.ctile)
  else if c.crosses then (c.ptile, attachTile (dieOf c.ptile) c.xc)
  else (c.ptile, c.ctile)

/-- The links of a static route, or none when it is illegal (R128). -/
def chanRoute (c : ImgChan) : Option (List (Nat × Nat)) :=
  if c.dyn then (if c.nrw = 0 then some [] else none)
  else if c.nrw = 0 ∧ !c.pbs ∧ !c.cbs ∧ (c.crosses ∨ c.ptile ≠ c.ctile) then none
  else
    match c.routes.mapM routeMoves with
    | none => none
    | some ms =>
      match followMoves (chanSpan c).1 ms.flatten with
      | some (t, used) => if t = (chanSpan c).2 then some used else none
      | none => none

/-- The border of a channel and the converter it names (R129, R130, R452). -/
def chanBorderOk (c : ImgChan) : Bool :=
  if c.pbs || c.cbs then
    let n := if c.pbs then c.ptile else c.ctile
    let d := dieOf (if c.pbs then c.ctile else c.ptile)
    !(c.pbs && c.cbs) && !c.far && !c.pred && n / 24 / 8 == d && c.xc == 1 + n / 24 - 8 * d
  else if c.far then !c.pred && ((9 ≤ c.xc && c.xc ≤ 17) || (c.xc == 31 && c.dyn))
  else if c.otherDie then !c.pred && (c.xc == 0 || (c.xc == 31 && c.dyn))
  else true

/-- The converters that a channel passes, as 2 × die + direction (0 out of the die, 1 into it) and number (R130, R452). A REMOTE channel that
names none leaves through the port that the fabric's routing assigns to its device, and through the die-to-die link where that port lies on the
other die. -/
def endConvs (p c : ChEnd) (xc : Nat) : List (Nat × Nat) :=
  match p, c with
  | .tile a _, .tile b _ => if dieOf a = dieOf b then [] else [(2 * dieOf a, 0), (2 * dieOf b + 1, 0)]
  | .tile a _, .remote dev _ _ =>
    let port := Config.remotePort dev % 18
    if xc != 31 then [(2 * dieOf a, xc)]
    else if port / 9 = dieOf a then [(2 * dieOf a, 9 + port % 9)]
    else [(2 * dieOf a, 0), (2 * (port / 9) + 1, 0), (2 * (port / 9), 9 + port % 9)]
  | _, _ => []

/-- Link channels of a converter in each direction (R130). -/
def convLimit (xc : Nat) : Nat := if xc = 0 then 256 else 64

/-- How often a number stands in a list of pairs. -/
def pairCount (l : List (Nat × Nat)) (x : Nat × Nat) : Nat := (l.filter (· == x)).length

/-- Each end is bound once (R123, R128): `used` are tile and end. -/
def endsOnce (sets : List ImgSet) (chans : List ImgChan) : Bool :=
  let ins := sets.flatMap (fun x => x.ent.ins.map (fun e => (x.ent.tile, e)))
  let outs := sets.flatMap (fun x => x.ent.outs.map (fun e => (x.ent.tile, e)))
  let prods := (chans.filter (fun c => !c.pbs)).map (fun c => (c.ptile, c.pend))
  let cons := (chans.filter (fun c => !c.cbs && !c.far)).map (fun c => (c.ctile, c.cend))
  let once (l : List (Nat × Nat)) : Bool := l.eraseDups.length == l.length
  once (ins ++ outs) && once (prods ++ cons) && prods.all (fun x => !ins.contains x) && cons.all (fun x => !outs.contains x)

/-- A channel of a loaded plane takes its slots at its consumer tile, and its border converters while either end's plane is
loaded (R437). `gone` names planes that the load replaces, by tile. -/
def State.loadedAt (s : State) (gone : List (Nat × Nat)) (t pid : Nat) : Bool :=
  (s.tile t).loaded.contains pid && !gone.contains (t, pid)

def State.chanLoaded (s : State) (gone : List (Nat × Nat)) (c : Chan) : Bool :=
  let at' (e : ChEnd) : Bool := match e with
    | .tile t _ => s.loadedAt gone t c.pid
    | _ => false
  at' c.prod || at' c.cons

/-- Slots taken in a die's pool by channels already loaded. -/
def State.slotsUsed (s : State) (gone : List (Nat × Nat)) (die : Nat) (pred : Bool) : Nat :=
  (s.chans.map (fun c => match c.2.cons with
    | .tile t _ => if dieOf t == die && c.2.pred == pred && s.loadedAt gone t c.2.pid then c.2.cap else 0
    | _ => 0)).sum

/-- Source ends of an image (R193): input ends that no channel entry names as its consumer end. -/
def sourceEnds (sets : List ImgSet) (chans : List ImgChan) : List (Nat × Nat) :=
  (sets.flatMap (fun x => x.ent.ins.map (fun e => (x.ent.tile, e)))).filter (fun p =>
    !chans.any (fun c => !c.cbs && !c.far && c.ctile == p.1 && c.cend == p.2))

/-- A die's pool holds every channel's slots (R124, R128, R193). -/
def State.slotsFit (s : State) (gone : List (Nat × Nat)) (sets : List ImgSet) (chans : List ImgChan) (die : Nat) (pred : Bool) : Bool :=
  let new := ((chans.filter (fun c => !c.cbs && !c.far && dieOf c.ctile == die && c.pred == pred)).map ImgChan.cap).sum
  let src := ((sourceEnds sets chans).filter (fun p => dieOf p.1 == die && (128 ≤ p.2) == pred)).length * 8
  decide (s.slotsUsed gone die pred + new + src ≤ if pred then 16384 else 49152)

/-- Channel entries as a whole (R128). -/
def State.chansOk (s : State) (gone : List (Nat × Nat)) (sets : List ImgSet) (chans : List ImgChan) : Bool :=
  let old := (s.chans.map Prod.snd).filter (s.chanLoaded gone)
  let held (pred : Bool) : List (Nat × Nat) := (old.filter (fun c => c.pred == pred)).flatMap Chan.tracks
  let tracks := held false ++ (chans.filter (fun c => !c.pred)).flatMap (fun c => (chanRoute c).getD [])
  let ptracks := held true ++ (chans.filter ImgChan.pred).flatMap (fun c => (chanRoute c).getD [])
  let convs := old.flatMap (fun c => endConvs c.prod c.cons c.xc) ++ chans.flatMap (fun c => endConvs c.prod c.cons c.xc)
  let isLink (e : ChEnd) : Bool := match e with
    | .link _ _ => true
    | _ => false
  let links (f : ChEnd × ChEnd → ChEnd) : List ChEnd :=
    (old.map (fun c => f (c.prod, c.cons)) ++ chans.map (fun c => f (c.prod, c.cons))).filter isLink
  chans.all (fun c => !chanRsv c && decide (2 ≤ c.cap ∧ c.cap ≤ 32 ∧ c.ninit ≤ c.cap) && (!c.pred || c.b8p == 0) && chanEndsOk c &&
    chanBorderOk c && (chanRoute c).isSome) &&
  endsOnce sets chans && tracks.all (fun x => pairCount tracks x ≤ 16) && ptracks.all (fun x => pairCount ptracks x ≤ 16) &&
  convs.all (fun x => pairCount convs x ≤ convLimit x.2) && (links Prod.fst).eraseDups.length == (links Prod.fst).length &&
  (links Prod.snd).eraseDups.length == (links Prod.snd).length &&
  [0, 1].all (fun d => s.slotsFit gone sets chans d false && s.slotsFit gone sets chans d true)

/-! ### CUBEGRP and spill maps (R177, R163) -/

def ImgSet.grp (x : ImgSet) : Double := x.ent.grp ++ (0 : BitVec 42)

/-- CUBEGRP of the tile's plane. -/
def imgGrp (sets : List ImgSet) (t : Nat) : Double :=
  match sets.find? (fun x => x.ent.tile == t && x.grp.getLsbD 63) with
  | some x => x.grp
  | none => 0

def imgTiles (sets : List ImgSet) : List Nat := sortTids (sets.map (fun x => x.ent.tile))

def groupsOk (sets : List ImgSet) : Bool :=
  let en := sets.filter (fun x => x.grp.getLsbD 63)
  let members := (imgTiles sets).filterMap (fun t => let g := imgGrp sets t
    if g.getLsbD 63 then some (t, g) else none)
  let gid (g : Double) : Nat := (g.extractLsb' 50 6).toNat
  let rid (g : Double) : Nat := (g.extractLsb' 48 2).toNat
  let cid (g : Double) : Nat := (g.extractLsb' 46 2).toNat
  let rows (g : Double) : Nat := (g.extractLsb' 44 2).toNat + 1
  let cols (g : Double) : Nat := (g.extractLsb' 42 2).toNat + 1
  pairsOk (fun a b => a.ent.tile != b.ent.tile || a.grp == b.grp) en &&
    members.all (fun m =>
      let same := members.filter (fun n => gid n.2 == gid m.2)
      same.all (fun n => dieOf n.1 == dieOf m.1 && rows n.2 == rows m.2 && cols n.2 == cols m.2) &&
        decide (rid m.2 < rows m.2 ∧ cid m.2 < cols m.2) &&
        (List.range (rows m.2)).all (fun r => (List.range (cols m.2)).all (fun c =>
          (same.filter (fun n => rid n.2 == r && cid n.2 == c)).length == 1)))

/-- What an enabled spill map lends: octets, or columns. -/
def lends (x : ImgSet) : List (Bool × Nat) :=
  let m := x.ent.spmap
  if !spEn m then []
  else if spAcs m then (List.range (lentCols m x.ent).2).map (fun c => (true, spCol m + c))
  else ((List.range 16).filter (fun o => m.getLsbD o)).map (fun o => (false, o))

def spillOk (sets : List ImgSet) (x : ImgSet) : Bool :=
  let m := x.ent.spmap
  let words := 32 * x.ent.width * spWords m
  !spEn m || (decide (spWords m ≤ 64) &&
    (if spAcs m then decide (words ≤ (256 - spCol m) * 512)
     else decide (words ≤ 8192 * ((List.range 16).filter (fun o => m.getLsbD o)).length)) &&
    (lends x).all (fun l => l.1 || sets.all (fun y => y.ent.tile != x.ent.tile || !y.ent.octets.contains l.2)))

def spillsOk (sets : List ImgSet) : Bool :=
  sets.all (spillOk sets) && pairsOk (fun a b => a.ent.tile != b.ent.tile || !(lends a).any ((lends b).contains ·)) sets

/-! ### Node map (R241) -/

/-- An entry of the node map names an element that the image configures. -/
def nodeOk (sets : List ImgSet) (chans : List ImgChan) (d : List Double) : Bool :=
  let d0 := d.getD 0 0
  let d1 := d.getD 1 0
  let t := (d0.extractLsb' 54 10).toNat
  let ek := (d0.extractLsb' 51 3).toNat
  let elem := (d0.extractLsb' 32 18).toNat
  let here := sets.filter (fun x => x.ent.tile == t)
  d1.extractLsb' 0 32 == 0 && (ek == 0 || d1 == 0) && decide (ek ≤ 5) &&
    match ek with
    | 0 => here.any (fun x => x.ent.oct == elem / 4096 && decide (elem % 4096 < x.ent.nblk))
    | 1 => here.any (fun x => x.ent.ins.contains elem) || chans.any (fun c => !c.cbs && !c.far && c.ctile == t && c.cend == elem)
    | 2 => here.any (fun x => x.ent.outs.contains elem) || chans.any (fun c => !c.pbs && c.ptile == t && c.pend == elem)
    | 3 => !here.isEmpty && decide (elem < 32)
    | 4 => !here.isEmpty && elem == 0
    | _ => !here.isEmpty && decide (elem < 4)

def nodesOk (sets : List ImgSet) (chans : List ImgChan) (l : List (List Double)) : Bool :=
  l.all (nodeOk sets chans) && pairsOk (fun a b => (a.getD 0 0).extractLsb' 51 13 != (b.getD 0 0).extractLsb' 51 13 ||
    (a.getD 0 0).extractLsb' 32 18 != (b.getD 0 0).extractLsb' 32 18) l

def nodeEnt (pid : Nat) (d : List Double) : NodeEnt where
  pid := pid
  tile := ((d.getD 0 0).extractLsb' 54 10).toNat
  ek := (d.getD 0 0).extractLsb' 51 3
  elem := ((d.getD 0 0).extractLsb' 32 18).toNat
  sample := (d.getD 0 0).getLsbD 50
  node := (d.getD 0 0).extractLsb' 0 32
  loops := (d.getD 1 0).extractLsb' 32 32

/-! ### Plane registers (R454) -/

/-- The register of an entry, if REGS may name it. -/
def regsReg (n : BitVec 12) : Option SReg :=
  match n.toNat with
  | 0x010 => some .xctx
  | 0x014 => some .rfqbase
  | 0x03C => some .trcbase
  | 0x03D => some .trcctl
  | 0x03E => some .rplbase
  | 0x03F => some .rplctl
  | k => if 0x030 ≤ k ∧ k ≤ 0x037 then some (.bkpt (BitVec.ofNat 3 (k - 0x030))) else none

/-- An entry of REGS: tile, set, register and value. -/
structure ImgReg where
  tile : Nat
  set : Nat
  reg : SReg
  val : Double

def imgReg (d : List Double) : Option ImgReg :=
  let d0 := d.getD 0 0
  if d0.extractLsb' 12 38 != 0 then none
  else (regsReg (d0.extractLsb' 0 12)).map (fun r => ⟨(d0.extractLsb' 54 10).toNat, (d0.extractLsb' 50 4).toNat, r, d.getD 1 0⟩)

/-- The value of a register that REGS gives to a set, by the register's map; zero where no entry writes it. -/
def regVal (regs : List ImgReg) (t o : Nat) (r : SReg) : Double :=
  match regs.find? (fun x => x.tile == t && x.set == o && x.reg == r) with
  | some x => x.val &&& svMask r
  | none => 0

def State.regsOk (s : State) (sets : List ImgSet) (regs : List ImgReg) (start : Bool) : Bool :=
  regs.all (fun x => match sets.find? (fun y => y.ent.tile == x.tile && y.ent.oct == x.set) with
    | some y => !s.regRefuses false y.ent.sup x.reg x.val 0
    | none => false) &&
  pairsOk (fun a b => a.tile != b.tile || a.set != b.set || a.reg != b.reg) regs &&
  pairsOk (fun a b => regVal regs a.ent.tile a.ent.oct .xctx == regVal regs b.ent.tile b.ent.oct .xctx) sets &&
  (start || sets.all (fun x => (s.regionRegs x.ent.tile).all (fun g => g.xctx == regVal regs x.ent.tile x.ent.oct .xctx)))

/-! ### DATA and BARRIERS (R203) -/

/-- A preload: tile, tile-local address and bytes. -/
structure ImgData where
  tile : Nat
  addr : Nat
  bytes : List Byte
  rsv : Bool

/-- Bytes of doubles, the lowest first. -/
def bytesOfDoubles (l : List Double) : List Byte := l.flatMap (fun w => natBytes 8 w.toNat)

def walkData : Nat → List Double → Option (List ImgData)
  | 0, [] => some []
  | 0, _ :: _ => none
  | n + 1, d0 :: d1 :: rest =>
    let k := (d1.extractLsb' 0 32).toNat
    let m := (k + 7) / 8
    if rest.length < m then none
    else
      (walkData n (rest.drop m)).map
        (⟨(d0.extractLsb' 54 10).toNat, (d0.extractLsb' 0 21).toNat, (bytesOfDoubles (rest.take m)).take k,
          d0.extractLsb' 21 33 != 0 || d1.extractLsb' 32 32 != 0 || decide (768 ≤ (d0.extractLsb' 54 10).toNat)⟩ :: ·)
  | _ + 1, _ => none

/-- The range of a preload stays in the memory tile and in arrays in STORAGE (R204). -/
def State.dataOk (s : State) (x : ImgData) : Bool :=
  decide (x.addr + x.bytes.length ≤ 2097152) &&
    (x.bytes.isEmpty || (List.range 32).all (fun a => (a + 1) * 65536 ≤ x.addr || x.addr + x.bytes.length ≤ a * 65536 ||
      (((s.tile x.tile).arrs.look a).getD Arr.reset).mode == .storage))

def barRsv (w : Double) : Bool := (w &&& ~~~(0x8000FFFF00001FFF : Double)) != 0

/-- A region barrier as its entry leaves it: only one that is unbound with RELOAD 0 starts UNSET. -/
def barOf (w : Double) : Barrier :=
  let n := (w.extractLsb' 0 13).toNat
  if w.getLsbD 63 then { Barrier.reset with st := .armed, reload := n, key := some (w.extractLsb' 32 16) }
  else { Barrier.reset with st := if n = 0 then .unset else .armed, n := n, reload := n }

/-! ### A checked image (R204) -/

structure Image where
  prio : BitVec 4
  still : BitVec 16
  sets : List ImgSet
  chans : List ImgChan
  nodes : List (List Double)
  data : List ImgData
  bars : List Double
  regs : List ImgReg

/-- The planes that a load into a shadow plane replaces, by tile. -/
def State.replaced (s : State) (sets : List ImgSet) (l : Latch) : List (Nat × Nat) :=
  (imgTiles sets).filterMap (fun t => (match l with
    | .s0 => (s.tile t).s0
    | .s1 => (s.tile t).s1).map (fun p : Plane => (t, p.pid)))

/-- What an image that passes its checks holds. -/
def parseImage (ds : List Double) : Except (BitVec 8) Image := do
  let h := imgHead ds
  let chans ← part (walkChans (sect ds 3).1 (sect ds 3).2)
  let data ← part (walkData (sect ds 5).1 (sect ds 5).2)
  let sets ← part ((pieces 24 (sect ds 1).1 (sect ds 1).2).mapM (imgSet (sect ds 2).2))
  let regs ← part ((pieces 2 (sect ds 8).1 (sect ds 8).2).mapM imgReg)
  return ⟨h.prio, h.still, sets, chans, pieces 2 (sect ds 4).1 (sect ds 4).2, data, (sect ds 7).2, regs⟩

/-- The seal of an image, which a part that is not open asks for (R204, R268). -/
def State.imageSigned (s : State) (ds : List Double) : Bool :=
  let h := imgHead ds
  let bs := bytesOfDoubles ds
  if h.signed then decide (96 ≤ h.len) && s.sealed (bs.take (h.len - 96)) ((bs.drop (h.len - 96)).take 96) else s.cfg.sec == 0

/-- The checks of R204, in its order; `sup` says that the loading set is a supervisor set (log entry 14, DEDUCED). -/
def State.checkImage (s : State) (ds : List Double) (sup start : Bool) (l : Latch) : Except (BitVec 8) Image := do
  let h := imgHead ds
  need (s.imageSigned ds) Code.cfgImage
  need (headOk ds && sectsOk ds) Code.cfgImage
  let sraw := pieces 24 (sect ds 1).1 (sect ds 1).2
  let bars := (sect ds 7).2
  need (!sraw.any entryRsv && !bars.any barRsv) Code.cfgImage
  let chans ← part (walkChans (sect ds 3).1 (sect ds 3).2)
  let data ← part (walkData (sect ds 5).1 (sect ds 5).2)
  need (!data.any ImgData.rsv) Code.cfgImage
  need (!(h.pins || (sects ds).any (fun x => x.kind == 6)) || h.cmapver == s.cfg.cmapver) Code.layoutStale
  let sets ← part (sraw.mapM (imgSet (sect ds 2).2))
  need (octetsOk sets && s.poolFree sets) Code.cfgImage
  need (sup || sets.all (fun x => !x.ent.sup)) Code.cfgImage
  need (sets.all (fun x => x.heads.all (trigOk x.ent))) Code.cfgImage
  need (s.chansOk (s.replaced sets l) sets chans && groupsOk sets && spillsOk sets) Code.cfgImage
  need (nodesOk sets chans (pieces 2 (sect ds 4).1 (sect ds 4).2)) Code.cfgImage
  let m ← parseImage ds
  need (s.regsOk sets m.regs start) Code.cfgImage
  need (data.all s.dataOk) Code.cfgImage
  need (!((sects ds).any (fun x => x.kind == 6)) || ((sect ds 6).2.getD 0 0).getLsbD 0) Code.cfgImage
  need ((imgTiles sets).all (fun t => SMap.get true s.cfg.health t)) Code.hwDetected
  return m

end Sys2Proof.Machine
end

