-- ==== Sys2Proof/Machine/Place.lean ====
section
/-!
DEFINITION. One placed set that runs one instruction word next (log entry 5): a region on tile 0 with a supervisor set whose
type and block mode allow the word, its anchor in a sweep at instruction 0. It stands for a load and launch from outside
(R201, R207); the placement that a real image makes is in Load.lean.
-/
namespace Sys2Proof.Machine

/-- The set type that allows a word (R183, R287). -/
def wordType (w : Double) : SetType :=
  let fn := (w.extractLsb' 52 6).toNat
  match (w.extractLsb' 58 6).toNat with
  | 0x20 => if fn < 2 then .ag else .cp
  | 0x21 => if fn < 2 then .ag else .cp
  | 0x38 => .cp
  | 0x22 => .rd
  | _ => .ag

/-- The block mode that allows an opcode (R183, R345, R386). -/
def wordMode (w : Double) : BlockMode :=
  match (w.extractLsb' 58 6).toNat, (w.extractLsb' 52 6).toNat with
  | 0x30, _ => .thread
  | 0x3C, 3 => .trap
  | 0x3C, 4 => .trap
  | 0x3C, 5 => .trap
  | _, _ => .token

/-- A width-8 supervisor set with every end bound. -/
def wordEntry (w : Double) : SetEntry where
  tile := 0
  oct := 0
  wl := 0
  typ := wordType w
  sup := true
  entry := 0
  nthr := 1
  nblk := 1
  pool := 0
  grp := 0
  kinit := 0
  spmap := 0
  sinit := []
  chin := [0, 1, 2, 3, 4, 5, 6, 7]
  chout := [0, 1, 2, 3, 4, 5, 6, 7]
  pcin := [128, 129, 130, 131, 132, 133, 134, 135]
  pcout := [128, 129, 130, 131, 132, 133, 134, 135]

def wordBlock (w : Double) : Block := ⟨64, 0, 0, 0, none, none, none, wordMode w, false, 0⟩

/-- A set at its start, before its threads are live. -/
def SetState.start (e : SetEntry) (blocks : List Block) : SetState where
  ent := e
  blocks := blocks
  sreg := []
  k := e.kinit
  threads := []
  sweep := none
  groups := []
  queue := []
  cmdSeq := 0
  faulted := []
  stopped := false
  setFault := false
  selections := 0
  ready := []
  eoiInvoc := 0
  abandoned := 0
  completed := false
  eosOut := []
  drnOut := []
  eosSeen := false
  drnPassed := false
  knew := []
  fwd := []
  regs := { SetRegs.zero with spmap := e.spmap }
  amLast := []
  perf := []
  probes := []
  syncs := []
  atomCount := 0
  driftHeld := false

/-- A region as placed (R207), with no barrier. -/
def Region.placed (prio : BitVec 4) (still : BitVec 16) (tiles : NSet) : Region where
  prio := prio
  still := still
  tiles := tiles
  joining := []
  st := .running
  bars := []
  nbars := 0
  lullLast := []
  lullStill := 0
  lullQuiet := 0
  quiescent := false
  lullSaid := false
  halt := .none
  hits := []
  passing := []
  dbgErr := false
  dbgSpace := 0
  dbgTile := 0
  dbgAddr := 0
  dbgData := 0
  syncId := 0
  free := false
  rplOff := false
  rplHeld := false
  saves := []
  byCmd := none

/-- The set that runs the word: its anchor stands in the sweep. -/
def wordSet (w : Double) : SetState :=
  let place : Place := match wordMode w with
    | .trap => .idle
    | _ => .sweep
  { SetState.start (wordEntry w) [wordBlock w] with
    threads := [(0, Thread.fresh place)],
    sweep := some ⟨0, wordMode w, 0, [⟨0, [0]⟩], 0, none, .zero, [], none⟩ }

/-- Tile 0 with the word in its pool and the set in its active plane (log entry 5, DESIGN CHOICE). -/
def State.placeWord (s : State) (w : Double) : State :=
  let t := s.tile 0
  { s.putTile 0 { t with pool := SMap.put 0 t.pool 1 w, poolPoison := NSet.drop t.poolPoison 1,
                         active := some ⟨0, [(0, wordSet w)], 0, [], none, [], []⟩ } with
    regions := [(0, Region.placed 0 64 [0])], stopped := false, agenda := [.issue 0 0] }

end Sys2Proof.Machine
end

