-- ==== Sys2Proof/Machine/Load.lean ====
section
/-!
DEFINITION. Loading planes, swapping to them, and starting a region (spec/11 R186, R193, R197, R198, R201 to R204, spec/21 R398 to R400,
spec/27 R437 and R439).
-/
namespace Sys2Proof.Machine

/-! ### Loading a plane -/

/-- A set of a loaded plane: its registers from REGS and its spill map from the entry (R454). -/
def loadedSet (regs : List ImgReg) (x : ImgSet) : SetState :=
  let v := SetState.start x.ent x.blocks
  let val (r : SReg) : Double := regVal regs x.ent.tile x.ent.oct r
  { v with regs := { v.regs with xctx := val .xctx, rfqbase := val .rfqbase, trcbase := val .trcbase, trcctl := val .trcctl,
                                 rplbase := val .rplbase, rplctl := val .rplctl,
                                 bkpt := (List.range 8).foldl (fun m n => SMap.put 0 m n (val (.bkpt (BitVec.ofNat 3 n)))) [] } }

/-- An initial token (R126); that of a predicate channel is a VALUE or a marker (R129). -/
def initToken (pred : Bool) (w : Double) : Token :=
  if pred then
    if w.getLsbD 1 then ctlToken (if w.getLsbD 0 then 3 else 1) 0 else ⟨0, (w.extractLsb' 0 1).setWidth 32, []⟩
  else ⟨w.extractLsb' 32 3, w.extractLsb' 0 32, []⟩

/-- A channel as its entry leaves it: the tokens of a bank-side consumer stand in its link's window (R452). -/
def newChan (pid : Nat) (c : ImgChan) : Chan where
  pid := pid
  prod := c.prod
  cons := c.cons
  cap := c.cap
  free := c.cap - c.ninit
  pred := c.pred
  b8 := if c.b8p == 0 then none else some ⟨c.b8p, c.d1.getLsbD 52, c.d1.getLsbD 51⟩
  dyn := c.dyn
  xc := c.xc
  cross := c.crosses
  buf := if c.cbs then [] else c.inits.map (initToken c.pred)
  fly := []
  win := if c.cbs then c.inits.map (initToken c.pred) else []
  rets := 0
  sent := if c.cbs then c.ninit else 0
  delivered := 0
  strays := 0
  late := 0
  tracks := (chanRoute c).getD []
  pushed := c.inits.length
  popped := 0
  made := c.inits.map (fun _ => none)

/-- The channel behind a source end (R193). -/
def sourceChan (pid t e : Nat) : Chan where
  pid := pid
  prod := .none
  cons := .tile t e
  cap := 8
  free := 8
  pred := decide (128 ≤ e)
  b8 := none
  dyn := false
  xc := 31
  cross := false
  buf := []
  fly := []
  win := []
  rets := 0
  sent := 0
  delivered := 0
  strays := 0
  late := 0
  tracks := []
  pushed := 0
  popped := 0
  made := []

def State.addChan (s : State) (c : Chan) : State := { s with chans := s.chans.insert s.nextId c, nextId := s.nextId + 1 }

/-- A plane is loaded at a tile, or saved with a pre-empted region's tile. -/
def State.knows (s : State) (t pid : Nat) : Bool :=
  (s.tile t).loaded.contains pid || s.saves.any (fun v => v.2.tile == t && v.2.tileState.loaded.contains pid)

/-- Forget channels that no loaded plane has and that hold nothing but what goes with the plane, at a source end (R264), the writes held for a
mailbox end that is gone, and the node maps of planes that are gone. -/
def State.prune (s : State) : State :=
  let at' (pid : Nat) (e : ChEnd) : Bool := match e with
    | .tile t _ => s.knows t pid
    | _ => false
  let full (c : Chan) : Bool := c.prod != .none && (!c.buf.isEmpty || !c.fly.isEmpty || !c.win.isEmpty)
  { s with chans := s.chans.filter (fun c => at' c.2.pid c.2.prod || at' c.2.pid c.2.cons || full c.2 || c.2.rets != 0),
           nodes := s.nodes.filter (fun n => s.knows n.tile n.pid) }.dropUnbound

/-- The words of a set enter the pool of its tile, shared by every plane (R197). -/
def State.putWords (s : State) (x : ImgSet) : State :=
  let t := s.tile x.ent.tile
  let at' := x.span.1
  s.putTile x.ent.tile { t with
    pool := ((List.range x.words.length).zip x.words).foldl (fun m w => SMap.put 0 m (at' + w.1) w.2) t.pool,
    poolPoison := t.poolPoison.filter (fun w => w < at' || at' + x.words.length ≤ w) }

/-- Preload bytes into a memory tile's arrays in STORAGE (R203). -/
def Tile.preload (x : Tile) (a : Nat) (bs : List Byte) : Tile :=
  let open' (u : Nat) : Bool := ((x.arrs.look (u / 65536)).getD Arr.reset).mode == .storage
  { x with mem := ((List.range bs.length).zip bs).foldl (fun m b => if open' (a + b.1) then Memory.write m (a + b.1) b.2 else m) x.mem,
           memPoison := x.memPoison.filter (fun d => !(a ≤ d * 8 && d * 8 + 8 ≤ a + bs.length && open' (d * 8))) }

def Tile.putShadow (x : Tile) (l : Latch) (p : Option Plane) : Tile :=
  match l with
  | .s0 => { x with s0 := p }
  | .s1 => { x with s1 := p }

def Tile.shadow (x : Tile) (l : Latch) : Option Plane :=
  match l with
  | .s0 => x.s0
  | .s1 => x.s1

/-- A checked image enters plane P of every tile that its sets name (R399 step 4). When the bytes of DATA are written, at the load or before
the swap, is not stated, and is free tile by tile; those of other tiles are written now (log entry 15, DESIGN CHOICE). -/
def State.loadImage (s : State) (m : Image) (l : Latch) (joins : Option Nat) (knew : List Need) (src : List ImgPiece) : State :=
  let pid := s.nextId
  let tiles := imgTiles m.sets
  let s1 := m.sets.foldl State.putWords { s with nextId := s.nextId + 1 }
  let early (t : Nat) : Bool := !tiles.contains t || Config.freeBit s.tick (50 + t)
  let s2 := tiles.foldl (fun s t =>
    let data := (m.data.filter (fun d => d.tile == t && !early t)).map (fun d => (d.addr, d.bytes))
    let sets := (m.sets.filter (fun x => x.ent.tile == t)).foldl (fun (k : SMap SetState) x => k.insert x.ent.oct (loadedSet m.regs x)) []
    s.putTile t ((s.tile t).putShadow l (some ⟨pid, sets, imgGrp m.sets t, data, joins, knew, src⟩))) s1
  let s3 := (m.data.filter (fun d => early d.tile)).foldl (fun s d => s.putTile d.tile ((s.tile d.tile).preload d.addr d.bytes)) s2
  let s4 := (m.chans.map (newChan pid) ++ (sourceEnds m.sets m.chans).map (fun p => sourceChan pid p.1 p.2)).foldl State.addChan s3
  { s4 with nodes := s4.nodes ++ m.nodes.map (nodeEnt pid) }.prune

/-! ### Starting a plane (R186, R193, R157) -/

/-- A set at GO or at the swap that starts its plane, at a step; its accesses are ordered after what `ns` names (R400, R446). -/
def SetState.go (v : SetState) (now : Nat) (ns : List Need) : SetState :=
  let threadEntry := (v.blocks[v.ent.entry]?).any (fun b => b.mode == .thread)
  let place (tid : Nat) : Place := if tid = 0 ∧ !threadEntry then .idle else .waiting v.ent.entry
  { v with sreg := ((List.range 16).zip v.ent.sinit).foldl (fun m x => SMap.put 0 m x.1 x.2) [],
           k := v.ent.kinit,
           knew := ns,
           threads := (List.range v.ent.nthr).map (fun tid => (tid, { (Thread.fresh (place tid)).orderAfter 0xFFFF ns with since := now })) }

/-- Zero registers of the threads at launch, and every spill word of the set. -/
def State.zeroSet (s : State) (t : Nat) (v : SetState) : State :=
  let s1 := (List.range v.ent.nthr).foldl (fun s tid => (List.range 32).foldl (fun s n => s.putX t v.ent tid n 0) s) s
  (List.range (32 * v.ent.width)).foldl (fun s tid => s.zeroSpill t v.regs.spmap v.ent tid) s1

/-- GO at every source end of the plane; the sequencer pops it at an end that is not self-handled (R193) (log entry 17, DEDUCED). -/
def State.placeGo (s : State) (t pid : Nat) (sets : SMap SetState) : State :=
  let self (e : Nat) : Bool := sets.any (fun v => (v.2.ent.chin ++ v.2.ent.pcin).contains e && v.2.blocks.any (fun b =>
    b.mode == .token && [b.in1, b.in2].any (fun x => match x with
      | some i => i.tag == some 7 && v.2.ent.chInN i.ch == e
      | none => false)))
  { s with chans := s.chans.map (fun c =>
      if c.2.pid == pid && c.2.prod == .none then
        match c.2.cons with
        | .tile u e =>
          if u == t then
            (c.1, if self e then { c.2.note (some (goKey, 0)) with buf := c.2.buf ++ [ctlToken 0 0], free := c.2.free - 1, headSince := s.tick }
                  else { c.2 with free := c.2.free - 1, rets := c.2.rets + 1 })
          else c
        | _ => c
      else c) }

/-- A tile joins a region, and leaves any other that is not pre-empted (R207). -/
def State.joinRegion (s : State) (r t : Nat) : State :=
  { s with regions := s.regions.map (fun x =>
      if x.1 == r then (x.1, { x.2 with tiles := NSet.add x.2.tiles t, joining := NSet.drop x.2.joining t })
      else
        match x.2.st with
        | .preempted _ => x
        | _ => (x.1, { x.2 with tiles := NSet.drop x.2.tiles t })) }

/-- A tile's units as a swap leaves them: slots free, event queues empty, barriers unset, groups dissolved, counters at zero, the latch
clear (R167, R191, R198, R218, R409, R439). Array modes, the memory tile and the ACS keep their contents (log entry 16, DESIGN CHOICE). -/
def Tile.started (x : Tile) (l : Latch) (p : Plane) (now : Nat) (ns : List Need) : Tile :=
  let y := x.putShadow l none
  { y with active := some { p with sets := p.sets.map (fun v => (v.1, v.2.go now ns)), data := [], joins := none, knew := [] },
           latch := none, passed := [], eq := [], slots := [], bars := [], groups := [], cube := .reset, ports := [], gusts := [],
           firings := [], notes := [], perf := [], cirTurn := [], cirWas := [],
           hind := if p.joins.isSome then [] else y.hind }

/-- No token of a plane that becomes active has come late to it. -/
def State.onTime (s : State) (t pid : Nat) : State :=
  { s with chans := s.chans.map (fun c => if c.2.pid == pid && (c.2.consTile.map Prod.fst) == some t then (c.1, { c.2 with late := 0 }) else c) }

/-- A tile swaps to a loaded shadow plane (R198). -/
def State.swapTo (s : State) (t : Nat) (l : Latch) : State :=
  match (s.tile t).shadow l with
  | none => s
  | some p =>
    let s1 := s.planeEnd t
    let s2 := match p.joins with
      | some r => s1.joinRegion r t
      | none => s1
    let x := p.data.foldl (fun y d => y.preload d.1 d.2) (s2.tile t)
    let ns := (s.live (p.knew ++ (s.setsOf t).flatMap (fun v => v.2.knew)) ++ s.tileNeeds t).eraseDups
    let s3 := s2.putTile t (x.started l p s.tick ns)
    let s4 := p.sets.foldl (fun s v => s.zeroSet t v.2) s3
    (s4.placeGo t p.pid p.sets).onTime t p.pid |>.prune

/-- A tile counts as drained (R397). -/
def State.counts (s : State) (t : Nat) : Bool := (s.tile t).active.isNone || (s.regionOf t).isNone || s.drained t

/-- A set that still has to push EOS or DRN: copies wait for room, or it is complete and its completion has not yet acted (R195). -/
def SetState.owes (v : SetState) : Bool := !v.fwd.isEmpty || (v.complete && !(v.completed && v.drnPassed))

/-- A set of a tile still has to push EOS or DRN. The tile neither swaps nor ends with its region before that (R195, R441)
(log entry 17, DEDUCED). -/
def State.owing (s : State) (t : Nat) : Bool := (s.setsOf t).any (fun v => v.2.owes)

/-- PLANE_SWAP (R198, R199): a drained tile whose latch names a loaded plane, whose writes are performed, that owes no control token, and that
holds no stray token. -/
def execPlaneSwap (t : Nat) (s : State) : Host.Outcome State Fault Refusal :=
  match (s.tile t).latch with
  | none => .next s
  | some l =>
    let stops := match (s.regionOf t).bind s.region? with
      | some x => x.st != .running
      | none => false
    if ((s.tile t).shadow l).isNone || !s.counts t || s.tileAccs t || (s.regionOf t).isSome && s.owing t || 0 < s.strays t || stops || s.stopped then .next s
    else .next (s.swapTo t l)

/-! ### Regions (R207, R399) -/

/-- A region that its tiles are to join. -/
def State.newRegion (s : State) (m : Image) : State × Nat :=
  let r : Region := { Region.placed m.prio m.still [] with
    joining := imgTiles m.sets, nbars := m.bars.length,
    bars := ((List.range m.bars.length).zip m.bars).foldl (fun k b => SMap.put Barrier.reset k b.1 (barOf b.2)) [] }
  ({ s with regions := s.regions.insert s.nextId r, nextId := s.nextId + 1 }, s.nextId)

/-! ### cfg.ld (R398 to R400) -/

def execCfgLd (c : SCom) (s1 arm start : Bool) (desc : BitVec 4) (s : State) : Host.Outcome State Fault Refusal :=
  enterExec (.cfgLd c s1 arm start desc) c (some desc) true true s

/-- A configuration fault of a cfg.ld, at offset 0. -/
def cfgFault (c : Cmd) (code : BitVec 8) : FaultInfo :=
  { code := code, kind := 6, w1 := c.addr, ac := c.ac, elem := if code == Code.hwDetected then 0x06 else 0 }

/-- The tiles that a cfg.ld may load (R399 step 3). -/
def State.loadable (s : State) (start : Bool) (t : Nat) : Bool :=
  (s.tile t).heldFor.isNone && (if start then s.counts t else (s.regionOf t).isSome)

/-- The pieces of its image, as a command holds them. -/
def ImgPiece.nats (p : ImgPiece) : List Nat := [p.pa, p.n, p.key.toNat, p.peer.toNat]

def piecesOf : List Nat → List ImgPiece
  | a :: n :: k :: p :: l => ⟨a, n, BitVec.ofNat 12 k, p == 1⟩ :: piecesOf l
  | _ => []

/-- Steps 2 and 3 of R399, once the image has been read: it is checked, and plane P of the tiles that it names is unloaded while it loads. -/
def State.cfgAct (s : State) (t o : Nat) (v : SetState) (c : Cmd) (l : Latch) (start : Bool) (ds : List Double)
    (src : List ImgPiece) : State :=
  match s.checkImage ds v.ent.sup start l with
  | .error code => s.stopCmd t o c (cfgFault c code)
  | .ok m =>
    let tiles := imgTiles m.sets
    if !tiles.all (s.loadable start) then s.stopCmd t o c (cfgFault c Code.cfgImage)
    else
      let s1 := (tiles.foldl (fun s u => s.putTile u ((s.tile u).putShadow l none)) s).prune
      s1.modCmd t o c.seq (fun c => { c with stage := 3, ds := ds, aux := src.flatMap ImgPiece.nats })

/-- Steps 4 to 6 of R399: the planes of a checked image load. -/
def State.cfgLoad (s : State) (t o : Nat) (c : Cmd) (l : Latch) (arm start : Bool) : State :=
  match parseImage c.ds with
  | .error code => s.stopCmd t o c (cfgFault c code)
  | .ok m =>
    let r := if start then s.newRegion m else (s, 0)
    let s2 := r.1.loadImage m l (if start then some r.2 else none) (if start then s.live (c.gate ++ c.after) else []) (piecesOf c.aux)
    let s3 := if arm || start then (imgTiles m.sets).foldl (fun s u => s.putTile u { s.tile u with latch := some l }) s2 else s2
    if start then s3.modCmd t o c.seq (fun c => { c with stage := 2, ds := [], aux := [r.2] }) else s3.cmdDone t o c.seq

/-- A cfg.ld under way: the image is read and checked, and then loaded, which a pre-emption can cut short (R238); a START load is done once every
tile has swapped. -/
def State.cfgStep (s : State) (t o : Nat) (v : SetState) (c : Cmd) (l : Latch) (arm start : Bool) : State :=
  if c.stage = 2 then
    (if (s.region? (c.aux.headD 0)).all (fun r => r.joining.isEmpty) then s.cmdDone t o c.seq else s)
  else if c.stage = 3 then s.cfgLoad t o c l arm start
  else if !s.cmdReady c then s
  else
    match s.fetchBytes t o v c 8 3 c.addr 32 with
    | .fault s1 f => s1.stopCmd t o c f
    | .wait s1 => s1
    | .ok s1 bs _ =>
      let n := max 32 (imgHead (doubles 4 bs)).len
      match s1.fetchBytes t o v c 8 (n / 64 + 2) c.addr n with
      | .fault s2 f => s2.stopCmd t o c f
      | .wait s2 => s2
      | .ok s2 all src => s2.cfgAct t o v c l start (doubles (n / 8) all) src

/-! ### Abandoning a load (R238, R400) -/

/-- A plane that is being loaded is abandoned at a tile, with a notice of the issuing set. How the notice's word 3 packs the tile and the plane is not stated, and is free (log entry 18, DEDUCED). -/
def State.abandonPlane (s : State) (t o : Nat) (l : Latch) (u : Nat) : State :=
  let s1 := s.notice t o 0 0xFFFFFFFF 0 { notice := true } { code := Code.cfgAborted, elem := (s.free (24 + 1024 * u)).extractLsb' 0 48 }
  s1.putTile u ((s1.tile u).putShadow l none)

/-- The tiles whose plane a load has still to bring in: those of its image, or those of its region that have not swapped. -/
def State.loadingAt (s : State) (c : Cmd) : NSet :=
  if c.stage = 3 then
    match parseImage c.ds with
    | .ok m => imgTiles m.sets
    | .error _ => []
  else ((s.region? (c.aux.headD 0)).map Region.joining).getD []

/-- A cfg.ld that a pre-emption cuts short counts as not executed: its anchor executes it again, and the event that its wait took counts again. -/
def State.abandonLoad (s : State) (t o : Nat) (c : Cmd) (l : Latch) : State :=
  let s1 := (s.loadingAt c).foldl (fun s u => s.abandonPlane t o l u) s
  let s2 := if c.stage = 2 then { s1 with regions := s1.regions.erase (c.aux.headD 0) } else s1
  let s3 := s2.modSet t o (fun v => v.unqueue (fun k => k.at' == .queued || k.seq != c.seq) s.tick)
  let s4 := match c.i.com?.bind SCom.wq with
    | some n => s3.putTile t { s3.tile t with eq := SMap.put 0 (s3.tile t).eq n.toNat (min 255 (SMap.get 0 (s3.tile t).eq n.toNat + 1)) }
    | none => s3
  (s4.modThread t o 0 (fun th => match th.place with
    | .parked b i (.command q) => if q == c.seq then { th with place := .parked b i .clear } else th
    | _ => th)).prune

/-- Every load of a tile's sets that is under way is abandoned; one that is complete is not (R238). -/
def State.abandonLoads (s : State) (t : Nat) : State :=
  (s.setsOf t).foldl (fun s v => v.2.queue.foldl (fun s c => match c.i with
    | .cfgLd _ s1 _ _ _ => if 2 ≤ c.stage ∧ c.stage ≠ doneStage ∧ c.at' != .queued then s.abandonLoad t v.1 c (if s1 then .s1 else .s0) else s
    | _ => s) s) s

end Sys2Proof.Machine
end

