-- ==== Sys2Proof/Machine/Control.lean ====
section
/-!
DEFINITION. Control tokens through a set, completion, drain and the end of a region; tokens on their way; the end of a halt (spec/07 R125 to R132,
spec/11 R188, R193 to R196 and R199, spec/14 R245 and R255, spec/27 R439, spec/28 R446).
-/
namespace Sys2Proof.Machine

/-! ### What the sequencer sees (R194) -/

/-- The automatic ends of a set: bound input ends that no header takes over and that the tile's cube binding does not hold (R378). -/
def State.autoEnds (s : State) (t o : Nat) (v : SetState) : List Nat :=
  v.ent.ins.filter (fun e => !v.selfHandled e && !s.boundByCube t o v.ent true e)

/-- An input end fed from outside the region: a source end (R193). -/
def State.sourceEnd (s : State) (t e : Nat) : Bool := (s.inChan t e).any (fun c => c.2.prod == .none)

/-- The head of an end is a control token of a subtype. -/
def State.headSub (s : State) (t e sub : Nat) : Bool := (s.headAt t e).any (fun k => k.isCtl && k.sub == sub && !k.badCtl)

/-- A predicate end (R123). -/
def isPred (e : Nat) : Bool := decide (128 ≤ e)

/-- The set's sequencer may act on control tokens: its region runs, it is not stopped, no sweep runs, and nothing is still to be pushed. -/
def State.seqFree (s : State) (t : Nat) (v : SetState) : Bool := s.runs t && !v.stopped && v.sweep.isNone && v.fwd.isEmpty

/-! ### Pushing copies (R194 item 4) -/

/-- Push every pending token whose end has a free slot and no earlier pending token. -/
def State.pushPending (s : State) (t : Nat) : List (Nat × Token) → List Nat → List (Nat × Token) × State
  | [], _ => ([], s)
  | (e, k) :: rest, held =>
    if held.contains e || s.roomAt t e == 0 then
      let r := s.pushPending t rest (e :: held)
      ((e, k) :: r.1, r.2)
    else (s.pushAt t e k).pushPending t rest held

def State.flush (s : State) (t o : Nat) : State :=
  match s.set? t o with
  | none => s
  | some v =>
    let r := s.pushPending t v.fwd []
    r.2.modSet t o (fun v => { v with fwd := r.1 })

/-- Tokens for the bound output ends, ch0 to ch7 and then pc0 to pc7: predicate ends take only EOI and DRN, and an end takes one EOS and one
DRN (items 4 and 6). A DRN releases what `rel` names (R446). -/
def SetState.copies (v : SetState) (sub : Nat) (arg : BitVec 24) (rel : List Need) : List (Nat × Token) :=
  (v.ent.outs.filter (fun e => (!isPred e || sub == 1 || sub == 3) && !(sub == 2 && NSet.has v.eosOut e) &&
    !(sub == 3 && NSet.has v.drnOut e))).map (fun e => (e, { ctlToken sub (if isPred e then 0 else arg) with rel := if sub == 3 then rel else [] }))

/-- Hand copies to the sequencer, which pushes what it can at once; ends are noted for the limits of item 6 (log entry 17, DEDUCED). -/
def State.emit (s : State) (t o sub : Nat) (arg : BitVec 24) : State :=
  (s.modSet t o (fun v =>
    let l := v.copies sub arg (s.setNeeds t o v)
    let ends := l.map Prod.fst
    { v with fwd := v.fwd ++ l,
             eosOut := if sub == 2 then ends.foldl NSet.add v.eosOut else v.eosOut,
             drnOut := if sub == 3 then ends.foldl NSet.add v.drnOut else v.drnOut,
             eosSeen := v.eosSeen || sub == 2,
             eoiInvoc := if sub == 1 then v.eoiInvoc + 1 else v.eoiInvoc })).flush t o

/-! ### Heads that the sequencer pops or refuses -/

/-- A GO at the head of an automatic end is popped without effect (R193); any control token but EOI, EOS, DRN, PROBE and SYNC is refused
with CH_TAG (R120, R194). -/
def State.seqHeads (s : State) (t o : Nat) (v : SetState) : Option State :=
  match (s.autoEnds t o v).find? (fun e => s.headSub t e 0) with
  | some e => some (s.popAt t e)
  | none =>
    if (s.autoEnds t o v).any (fun e => (s.headAt t e).any Token.badCtl) then some (s.setFaultAt t o { code := Code.chTag } 0 0 0) else none

/-- Pop the heads of ends. -/
def State.popAll (s : State) (t : Nat) (es : List Nat) : State := es.foldl (fun s e => s.popAt t e) s

/-- The ARGs at data ends, without repeats. -/
def State.argsAt (s : State) (t : Nat) (es : List Nat) : List (BitVec 24) :=
  ((es.filter (fun e => !isPred e)).filterMap (fun e => (s.headAt t e).map Token.arg)).eraseDups

/-- The control token that a forwarding event acts on: pending pushes first, then a GO or a refusal, then the event's own effect. -/
def seqEvent (t o : Nat) (s : State) (f : SetState → State → State) : Host.Outcome State Fault Refusal :=
  match s.set? t o with
  | none => .next s
  | some v =>
    if !v.fwd.isEmpty then .next (if s.runs t && !v.stopped then s.flush t o else s)
    else if !s.seqFree t v then .next s
    else
      match s.seqHeads t o v with
      | some s1 => .next s1
      | none => .next (f v s)

/-- EOI_FORWARD (R194 items 2, 4 and 5). -/
def execEoiForward (t o : Nat) (s : State) : Host.Outcome State Fault Refusal :=
  seqEvent t o s (fun v s =>
    let es := s.autoEnds t o v
    let args := s.argsAt t es
    if es.isEmpty || !es.all (fun e => s.headSub t e 1) || 1 < args.length then s
    else (s.popAll t es).emit t o 1 (args.headD v.eoiInvoc))

/-- EOS_FORWARD (R194 items 2, 4 and 6): one that follows the set's own EOS is popped and not forwarded. -/
def execEosForward (t o : Nat) (s : State) : Host.Outcome State Fault Refusal :=
  seqEvent t o s (fun v s =>
    let es := (s.autoEnds t o v).filter (fun e => !isPred e)
    if es.isEmpty || !es.all (fun e => s.headSub t e 2) || 1 < (s.argsAt t es).length then s
    else if v.eosSeen || !v.eosOut.isEmpty then s.popAll t es
    else (s.popAll t es).emit t o 2 ((s.argsAt t es).headD 0))

/-- Writes of a set's threads and commands, or what comes before them, are still to be performed (R446). -/
def State.setAccs (s : State) (t o : Nat) (v : SetState) : Bool := s.unperformed (s.setNeeds t o v)

/-- What the heads of some ends release. -/
def State.relsAt (s : State) (t : Nat) (es : List Nat) : List Need := es.flatMap (fun e => ((s.headAt t e).map Token.rel).getD [])

/-- DRN_FORWARD (R194 item 3, R195, R446): source ends count as passed, and so does an end whose DRN a cube binding has popped. -/
def execDrnForward (t o : Nat) (s : State) : Host.Outcome State Fault Refusal :=
  seqEvent t o s (fun v s =>
    let es := (s.autoEnds t o v).filter (fun e => !s.sourceEnd t e && !NSet.has (s.tile t).passed e)
    if es.isEmpty || !es.all (fun e => s.headSub t e 3) || !v.completed || s.setAccs t o v then s
    else (((s.popAll t es).acquireSet t o (s.relsAt t es)).modSet t o (fun v => { v with drnPassed := true })).emit t o 3 0)

/-- SET_COMPLETION (R188, R195): the set pushes EOS if its sequencer has not, on the ends that have carried none (R354), and, once DRN has passed every automatic end, DRN; a sink signals the EOS
tree at that moment. -/
def execSetCompletion (t o : Nat) (s : State) : Host.Outcome State Fault Refusal :=
  seqEvent t o s (fun v s =>
    if !v.complete then s
    else if !v.completed then
      let s1 := s.modSet t o (fun v => { v with completed := true })
      if v.eosSeen then s1 else s1.emit t o 2 0
    else if v.drnPassed || s.setAccs t o v || !(s.autoEnds t o v).all (s.passedAt t) then s
    else (s.modSet t o (fun v => { v with drnPassed := true })).emit t o 3 0)

/-! ### PROBE and SYNC (R255) -/

/-- PROBE_ARRIVAL: the PROBE is popped, and the element of that end walks at its next firing. -/
def execProbeArrival (t o e : Nat) (s : State) : Host.Outcome State Fault Refusal :=
  match s.set? t o with
  | none => .next s
  | some v =>
    if s.runs t && !v.stopped && (s.autoEnds t o v).contains e && s.headSub t e 4 then
      let p := ((s.headAt t e).map Token.arg).getD 0
      .next ((s.popAt t e).modSet t o (fun v => { v with probes := v.probes.insert e (p.extractLsb' 0 16) }))
    else .next s

/-- The event of a SYNC record (R249). -/
def syncEvent (t o : Nat) (v : SetState) (fromChan : Bool) : TraceEv :=
  ⟨t, o, 0, 0xFFFFFFFF, v.eoiInvoc, 7, .other, if fromChan then 1 else 0, 0, none⟩

/-- SYNC_ARRIVAL: the first of each id at a set is forwarded on its data output ends, and the tile writes a record; later copies are dropped. -/
def execSyncArrival (t o e : Nat) (s : State) : Host.Outcome State Fault Refusal :=
  match s.set? t o with
  | none => .next s
  | some v =>
    let ev := syncEvent t o v true
    if s.runs t && !v.stopped && v.fwd.isEmpty && (s.autoEnds t o v).contains e && s.headSub t e 5 then
      if s.traceStalls ev then .next (s.driftStall t o)
      else
      let id := ((s.headAt t e).map Token.arg).getD 0
      let s1 := s.popAt t e
      if NSet.has v.syncs id.toNat then .next s1
      else
        let s2 := (s1.putTile t { s1.tile t with lastSync := id }).modSet t o (fun v => { v with syncs := NSet.add v.syncs id.toNat })
        .next ((s2.observe ev).emit t o 5 id)
    else .next s

/-! ### The end of a region (R196, R439, R117) -/

/-- A tile has nothing left to do in its region: drained, no selection of a loaded plane, every sink signalled, and its writes performed. -/
def State.tileDone (s : State) (t : Nat) : Bool :=
  s.drained t && ((s.tile t).latch).all (fun l => ((s.tile t).shadow l).isNone) &&
    (s.setsOf t).all (fun v => !v.2.ent.outs.isEmpty || (v.2.completed && v.2.drnPassed)) && !s.owing t && !s.tileAccs t

/-- A channel has an end at one of some tiles. -/
def Chan.touches (c : Chan) (tiles : NSet) : Bool :=
  [c.prod, c.cons].any (fun e => match e with
    | .tile t _ => tiles.contains t
    | _ => false)

/-- REGION_COMPLETE: the EOS tree arrives at the region's end barrier. Packets for bank-side links of the region no longer drop (R74). -/
def execRegionComplete (r : Nat) (s : State) : Host.Outcome State Fault Refusal :=
  match s.region? r with
  | none => .next s
  | some x =>
    if x.st == .running && x.halt == .none && x.joining.isEmpty && x.tiles.all s.tileDone then
      let s1 := x.tiles.foldl (fun s t => s.planeEnd t) s
      let s2 := (s1.chans.filter (fun c => c.2.touches x.tiles)).foldl (fun s c => s.undropLink c.2) s1
      .next ((s2.endWrites x.tiles).modRegion r (fun x => { x with st := .complete }))
    else .next s

/-! ### Tokens on their way (R125, R131, R132) -/

/-- The producer is a bank-side link: its packets cross the border before they enter the channel (R452). -/
def fromLink (c : Chan) : Bool :=
  match c.prod with
  | .link _ _ => true
  | _ => false

/-- A token of another part reaches an end that is fed from outside the region (R126, R206): what it is lies outside this part, and is free
(log entry 29, DESIGN CHOICE). -/
def State.fromOutside (s : State) (n : Nat) (c : Chan) : State :=
  if c.prod == .none && !c.pred && 0 < c.free && !((c.consTile).any (fun p => s.inflowHeld p.1)) then
    s.putChan n { (s.enterBuf c ⟨(s.free 35).extractLsb' 0 3, (s.free 36).extractLsb' 0 32, []⟩).note none with free := c.free - 1 }
  else s

/-- TOKEN_ARRIVAL: a token reaches its consumer end, or the receiving converter of its border, once what its push releases has been performed
(R352). -/
def execTokenArrival (n : Nat) (s : State) : Host.Outcome State Fault Refusal :=
  match s.chans.look n with
  | none => .next s
  | some c =>
    match c.fly with
    | [] => .next (s.fromOutside n c)
    | k :: rest =>
      if !s.released k then .next s
      else if c.cross && !fromLink c then .next (s.putChan n { c with fly := rest, win := c.win ++ [k], sent := c.sent + 1 })
      else .next (s.putChan n { s.enterBuf c k with fly := rest })

/-- SLOT_RETURN: a slot return reaches the producer. The part at the far end of a REMOTE channel pops its own tokens. -/
def execSlotReturn (n : Nat) (s : State) : Host.Outcome State Fault Refusal :=
  match s.chans.look n with
  | none => .next s
  | some c =>
    let back (s : State) : State :=
      match c.consTile with
      | some (t, _) => if (s.tile t).strayBusy then s.putTile t { s.tile t with strayRets := SMap.put 0 (s.tile t).strayRets n (SMap.get 0 (s.tile t).strayRets n - 1) } else s
      | none => s
    if 0 < c.rets then .next (back (s.putChan n { c with free := c.free + 1, rets := c.rets - 1 })).prune
    else
      match c.cons, c.buf with
      | .remote _ _ _, _ :: rest => .next (s.putChan n { c with free := c.free + 1, buf := rest })
      | _, _ => .next s

/-- A full segment holds a delivery, which counts in PERTURB of the set that binds its end (R257). -/
def State.endStall (s : State) (t : Nat) (c : Chan) : State := s.segmentStall t (s.endSet t ((c.consTile.map Prod.snd).getD 255))

/-- The next packet of a bank-side link enters its compute-side channel, which has a free slot, and is acknowledged (R67, R452)
(log entry 28, DEDUCED). -/
def State.fromUnit (s : State) (n : Nat) (c : Chan) (m l : Nat) : State :=
  let u := s.unit m
  match SMap.get [] u.linkOut l with
  | [] => s
  | k :: rest =>
    if c.free = 0 || s.shadowed c then s
    else
      let t := (c.consTile.map Prod.fst).getD 0
      match s.chooseAs t 3 c.xc (c.deliveryChoice n) with
      | .take s1 =>
        ((s1.putChan n { c with free := c.free - 1, fly := c.fly ++ [k], sent := c.sent + 1, delivered := c.delivered + 1 }).putUnit m
          { u with linkOut := SMap.put [] u.linkOut l rest }).settleUnit m
      | _ => s.endStall t c

/-- BORDER_DELIVERY (R131): the receiving converter delivers the next packet in sequence order and acknowledges it; the order among link
channels is logged (R256). A packet for a bank-side link goes to the unit by BSU_LINK_ARRIVAL. -/
def execBorderDelivery (n : Nat) (s : State) : Host.Outcome State Fault Refusal :=
  match s.chans.look n with
  | none => .next s
  | some c =>
    match c.prod, c.win, c.cons with
    | .link m l, _, _ => .next (s.fromUnit n c m l)
    | _, [], _ => .next s
    | _, _, .link _ _ => .next s
    | _, k :: rest, .remote _ _ _ => .next (s.putChan n { c with win := rest, buf := c.buf ++ [k], delivered := c.delivered + 1 })
    | _, k :: rest, _ =>
      let t := (c.consTile.map Prod.fst).getD 0
      match s.chooseAs t 3 c.xc (c.deliveryChoice n) with
      | .take s1 => .next (s1.putChan n { s.enterBuf c k with win := rest, delivered := c.delivered + 1 })
      | _ => .next (s.endStall t c)

/-! ### The end of a halt (R245) -/

/-- A return group waits only for requests that the atomic pipeline has not accepted. -/
def State.unaccepted (s : State) (t : Nat) (g : Group) : Bool :=
  g.members.all (fun m => m.done || match m.late with
    | .atom i => (s.tile t).atomQ.any (fun q => q.acc == i && q.age.isNone)
    | .check i => (s.tile t).atomQ.any (fun q => q.acc == i && q.age.isNone)
    | _ => false)

/-- In replay a tile's atomic pipeline accepts nothing more: the logged requester has issued none of its requests, and issues none while its region
halts (R258; log entry 38, DEDUCED). -/
def State.atomsHeld (s : State) (t : Nat) : Bool :=
  s.replays t && match s.atomNext t with
    | .none => true
    | _ => false

/-- In replay a converter delivers nothing more: the packet that the log names stands in none of its windows. -/
def State.windowHeld (s : State) (c : Chan) : Bool :=
  match c.consTile with
  | none => false
  | some (t, _) =>
    s.replays t && (s.hindLook t 3 c.xc).all (fun w => !s.chans.any (fun d => d.2.xc == c.xc && !d.2.win.isEmpty && d.2.deliveryChoice d.1 == w))

/-- No return group of a region is incomplete, and nothing of its channels is in flight; a choice that a strict divergence or the log holds, at the
atomic pipeline or at a border, stays where it is (R258, R259). -/
def State.settled (s : State) (x : Region) : Bool :=
  !s.midPanel x && x.tiles.all (fun t => (s.setsOf t).all (fun v => v.2.groups.all (fun g => (x.rplHeld || s.atomsHeld t) && s.unaccepted t g.2))) &&
    s.chans.all (fun c =>
      let mine := match c.2.cons, c.2.prod with
        | .tile t _, _ => x.tiles.contains t
        | _, .tile t _ => x.tiles.contains t
        | _, _ => false
      !mine || (c.2.fly.isEmpty && c.2.rets == 0 && (c.2.win.isEmpty || x.rplHeld || s.windowHeld c.2)))

/-- The DEBUG_STOP record of one hit of a halt. -/
def State.debugStop (s : State) (r : Nat) (hit : Elem × BitVec 8) : State :=
  let f : FaultInfo := { code := Code.debugStop, elem := hit.2.setWidth 48 }
  match hit.1 with
  | .none => s.regionRecord r (recWord0 f {} 0 0 0 0 0) 0 (recWord2 0xFFFFFFFF (0 : Word)) (recWord3 f)
  | .block t o b =>
    match s.set? t o with
    | none => s
    | some v =>
      let thread := (v.blocks[b]?).any (fun k => k.mode == .thread)
      let w := v.sweep.filter (fun w => w.blk == b)
      let tid := match w.bind (fun w => w.passes[w.cur]?) with
        | some p => (sortTids p.tids).headD 0
        | none => 0
      let idx := if thread then (w.map Sweep.idx).getD 0 else 0
      s.regionRecord r (recWord0 f {} t o tid b idx) 0 (recWord2 (s.blockNode t o b) v.eoiInvoc) (recWord3 f)
  | .array t a =>
    let x := SMap.get Arr.reset (s.tile t).arrs a
    s.regionRecord r (recWord0 f { cir := true } t (x.lastSet.getD 0) a x.step.toNat 0) 0 (recWord2 (s.node t 3 a) x.eoi) (recWord3 f)
  | .port t k =>
    match (s.tile t).ports.find? (fun p => p.port == k) with
    | none => s
    | some p => s.regionRecord r (recWord0 f { node := true } t p.set 0 0 0) 0 (recWord2 (s.node t 5 k) p.invoc) (recWord3 f)
  | .cube t =>
    match (s.tile t).cube.binding with
    | none => s
    | some b =>
      let inv := ((s.set? t b.set).map SetState.eoiInvoc).getD 0
      s.regionRecord r (recWord0 f { node := true } t b.set 0 b.blk 0) 0 (recWord2 (s.node t 4 0) inv) (recWord3 f)

/-- HALT_COMPLETE (R245): once everything issued has completed, the region is halted and a record is written for each element that matched. -/
def execHaltComplete (r : Nat) (s : State) : Host.Outcome State Fault Refusal :=
  match s.region? r with
  | none => .next s
  | some x =>
    if x.halt == .halting && s.settled x then
      .next (x.hits.foldl (fun s h => s.debugStop r h) (s.modRegion r (fun x => { x with halt := .halted })))
    else .next s

end Sys2Proof.Machine
end

