-- ==== Sys2Proof/Machine/ConvLane.lean ====
section
/-!
DEFINITION. Conversion, packing, scaling: OPC 0x18 and 0x19 (spec/18 R337 to R339).
-/
namespace Sys2Proof.Machine

/-- The scalar integer types among the types of TY. -/
def Ty.int? : Ty → Option ITy
  | .i32 => some .i32
  | .n32 => some .n32
  | .i64 => some .i64
  | .n64 => some .n64
  | _ => none

/-- The range of an 8-bit integer. -/
def q8Lo (uns : Bool) : Int := if uns then 0 else -128
def q8Hi (uns : Bool) : Int := if uns then 255 else 127

/-- An integer clamped to a range; NV when clamped (R337). -/
def clampNv (lo hi v : Int) : Int × Exc := (clampInt lo hi v, if v < lo ∨ hi < v then Exc.nv else Exc.none)

/-- One element of a quad converted to a quad type (R337). -/
def quadCvt (sty dty : Ty) (rm : RM) (sat : Sat) (b : Byte) : Byte × Exc :=
  match sty, dty with
  | .b8 f, .b8 h => roundB8 h rm sat (readB8 f b)
  | .b8 f, .q8 u =>
    let r := Exact.toInt rm (q8Lo u) (q8Hi u) (readB8 f b)
    (BitVec.ofInt 8 r.1, r.2)
  | .q8 u, .b8 h => roundB8 h rm sat (Exact.ofInt (if u then (b.toNat : Int) else b.toInt))
  | .q8 u, .q8 w =>
    let r := clampNv (q8Lo w) (q8Hi w) (if u then (b.toNat : Int) else b.toInt)
    (BitVec.ofInt 8 r.1, r.2)
  | _, _ => (b, Exc.none)

/-- cvt (R337). -/
def cvtVal (rm : RM) (sat : Sat) (dty sty : Ty) (x : Double) : Double × Exc :=
  match Ty.int? sty, Ty.int? dty with
  | some t, some u =>
    let r := clampNv u.lo u.hi (t.read x)
    (u.pat r.1, r.2)
  | some t, none => fres rm (Exact.ofInt (t.read x), Exc.none)
  | none, some u =>
    let r := Exact.toInt rm u.lo u.hi (fval x)
    (u.pat r.1, r.2)
  | none, none =>
    let e (k : Nat) : Byte × Exc := quadCvt sty dty rm sat (byteOf (loWord x) k)
    ofBytes (e 0) (e 1) (e 2) (e 3)

/-- cvt (R337). -/
def execCvt (g : Guard) (sf : Bool) (rm : RM) (sat : Sat) (dty sty : Ty) (d a : Opd) (s : State) :
    Host.Outcome State Fault Refusal :=
  laneExec g { srcs := [tOpd sty a], dst := some (tOpd dty d), sf := sf, f := effx1 (cvtVal rm sat dty sty) } s

/-- The type of pk2's sources. -/
def pk2Ty : Pk2Ty → Ty
  | .i32 => .i32
  | .n32 => .n32
  | .f32 => .f32

/-- A source of pk2 as an exact value. -/
def pk2Src (t : Pk2Ty) (x : Double) : Exact :=
  match t with
  | .i32 => Exact.ofInt (ITy.i32.read x)
  | .n32 => Exact.ofInt (ITy.n32.read x)
  | .f32 => fval x

/-- pk2 (R338). -/
def execPk2 (g : Guard) (sf : Bool) (rm : RM) (sty : Pk2Ty) (d a b : Opd) (s : State) : Host.Outcome State Fault Refusal :=
  laneExec g { srcs := [tOpd (pk2Ty sty) a, tOpd (pk2Ty sty) b], dst := some { o := d, tag := 2 }, sf := sf,
               f := effx2 (fun x y => ofHalves (roundBf16 rm (pk2Src sty x)) (roundBf16 rm (pk2Src sty y))) } s

/-- The quad that pk4 makes. -/
def quadTy : QuadTy → Ty
  | .b8 f => .b8 f
  | .q8 u => .q8 u

/-- One element of pk4 (R338). -/
def pk4Elem (dty : QuadTy) (rm : RM) (sat : Sat) (x : Exact) : Byte × Exc :=
  match dty with
  | .b8 f => roundB8 f rm sat x
  | .q8 u =>
    let r := Exact.toInt rm (q8Lo u) (q8Hi u) x
    (BitVec.ofInt 8 r.1, r.2)

/-- pk4 (R338): two f32 values into half of C, or two BF16 pairs. -/
def pk4Val (rm : RM) (sat : Sat) (dty : QuadTy) (src : Pk4Src) (x y z : Double) : Double × Exc :=
  match src with
  | .f32 hi =>
    let p := pk4Elem dty rm sat (fval x)
    let q := pk4Elem dty rm sat (fval y)
    let c (k : Nat) : Byte × Exc := (byteOf (loWord z) k, Exc.none)
    if hi then ofBytes (c 0) (c 1) p q else ofBytes p q (c 2) (c 3)
  | .bf16 =>
    let e (w : Double) (k : Nat) : Byte × Exc := pk4Elem dty rm sat (readBf16 (half (loWord w) k))
    ofBytes (e x 0) (e x 1) (e y 0) (e y 1)

/-- pk4 (R338): C is a quad of D's kind. -/
def execPk4 (g : Guard) (sf : Bool) (rm : RM) (sat : Sat) (dty : QuadTy) (src : Pk4Src) (d a b c : Opd) (s : State) :
    Host.Outcome State Fault Refusal :=
  match src with
  | .f32 _ =>
    laneExec g { srcs := [fOpd a, fOpd b, tOpd (quadTy dty) c], dst := some (tOpd (quadTy dty) d), sf := sf,
                 f := effx3 (pk4Val rm sat dty src) } s
  | .bf16 =>
    laneExec g { srcs := [pOpd .bf16 a, pOpd .bf16 b], dst := some (tOpd (quadTy dty) d), sf := sf,
                 f := effx2 (fun x y => pk4Val rm sat dty src x y 0) } s

/-- upk (R338): exact. -/
def upkVal (ty : UpkTy) (e : Nat) (x : Double) : Double :=
  match ty with
  | .bf16 => ofWord (half (loWord x) (e % 2) ++ (0 : Half))
  | .b8 f => ofWord (roundF32 .rne (readB8 f (byteOf (loWord x) e))).1
  | .q8 u => ofWord (if u then (byteOf (loWord x) e).setWidth 32 else (byteOf (loWord x) e).signExtend 32)

def upkSrc (ty : UpkTy) (o : Opd) : Operand :=
  match ty with
  | .bf16 => { o := o, tag := 2 }
  | .b8 f => { o := o, tag := 3, fmt := some f }
  | .q8 _ => { o := o, tag := 4 }

def upkDst (ty : UpkTy) (o : Opd) : Operand :=
  match ty with
  | .q8 _ => wOpd o
  | _ => fOpd o

/-- upk (R338). -/
def execUpk (g : Guard) (ty : UpkTy) (e : BitVec 2) (d a : Opd) (s : State) : Host.Outcome State Fault Refusal :=
  laneExec g { srcs := [upkSrc ty a], dst := some (upkDst ty d), sf := true, f := eff1 (upkVal ty e.toNat) } s

/-- scl (R338): a × 2^n with n read as i32. -/
def execScl (g : Guard) (sf : Bool) (rm : RM) (d a b : Opd) (s : State) : Host.Outcome State Fault Refusal :=
  laneExec g { srcs := [fOpd a, wOpd b], dst := some (fOpd d), sf := sf,
               f := effx2 (fun x y => fres rm ((fval x).scale (ITy.i32.read y), Exc.none)) } s

/-- floor(log2) of a positive finite magnitude. -/
def floorLog2 (m : Nat) (e : Int) : Int := e + (bitLen m : Int) - 1

/-- BlockScale (R148, R339) of a largest magnitude. -/
def blockScale (f : B8) (x : Exact) : Nat :=
  match x with
  | .fin _ m e _ =>
    if m = 0 then 127
    else
      let g := b8Mag f (B8max f)
      (clampInt 0 254 (floorLog2 m e - floorLog2 g.1 g.2 + 127)).toNat
  | _ => 127

/-- bscale (R339). -/
def execBscale (g : Guard) (f : B8) (d a : Opd) (s : State) : Host.Outcome State Fault Refusal :=
  laneExec g { srcs := [fOpd a], dst := some (wOpd d), sf := true, f := eff1 (fun x => BitVec.ofNat 64 (blockScale f (fval x))) } s

end Sys2Proof.Machine
end

