-- ==== Sys2Proof/Machine/Regions.lean ====
section
/-!
DEFINITION. Regions as wholes: placing a launch (spec/12 R207), pre-emption, saving and restoring (spec/13 R232 to R238, spec/21 R401 to R403),
the end of a region (spec/11 R199), and Lull (R205, R206, R217).
-/
namespace Sys2Proof.Machine

/-! ### Placing a launch (R207) -/

/-- The header of an image at a physical address, and its doubles. -/
def State.imageAt (s : State) (pa : Nat) : List Double :=
  let n := max 32 (imgHead (doubles 4 (Memory.bytes s.mem pa 32))).len
  doubles (n / 8) (Memory.bytes s.mem pa n)

/-- The bytes of an image lie in device memory and can be read. -/
def State.imageReadable (s : State) (pa : Nat) : Bool :=
  let n := max 32 (imgHead (doubles 4 (Memory.bytes s.mem pa 32))).len
  decide (pa + n ≤ devEnd) && !s.rangePoison pa n

/-- A bank that holds part of an image is held: its bytes are read when the hold ends (R33). -/
def State.imageHeld (s : State) (pa : Nat) : Bool :=
  s.rangeHeld pa 32 || s.rangeHeld pa (max 32 (imgHead (doubles 4 (Memory.bytes s.mem pa 32))).len)

/-- The tiles that the set entries of an image name. -/
def imageTiles (ds : List Double) : NSet :=
  (pieces 24 (sect ds 1).1 (sect ds 1).2).foldl (fun k e => NSet.add k ((e.getD 0 0).extractLsb' 54 10).toNat) []

def State.launchTiles (s : State) (l : Launch) : NSet := imageTiles (s.imageAt l.img)

/-- No waiting launch that comes before this one needs any of its tiles (log entry 19, DEDUCED). -/
def State.launchFirst (s : State) (i : Nat) (l : Launch) : Bool :=
  let ts := s.launchTiles l
  s.waiting.all (fun w => w.1 == i || !(l.prio < w.2.prio || (w.2.prio == l.prio && w.1 < i)) ||
    !(s.launchTiles w.2).any (fun t => ts.contains t))

/-- The dispatcher acts: firmware runs and the part is active. -/
def State.dispatches (s : State) : Bool := s.cfg.booted && s.cfg.pwr == 0 && !s.stopped

/-- Place a checked image: every tile is loaded and swaps to it. -/
def State.placeImage (s : State) (m : Image) (prio : BitVec 4) (src : ImgPiece) : State :=
  let tiles := imgTiles m.sets
  let r := s.newRegion { m with prio := prio }
  tiles.foldl (fun s t => s.swapTo t .s0) (r.1.loadImage m .s0 (some r.2) [] [src])

/-- No tile of a launch belongs to a region or has accesses to perform. -/
def State.launchFree (s : State) (l : Launch) : Bool := (s.launchTiles l).all (fun t => (s.regionOf t).isNone && !s.tileAccs t)

/-- The checks of a launch's image: planes that a region now over has left active give way to it, and are not counted (log entry 19, DEDUCED). -/
def State.checkLaunch (s : State) (l : Launch) : Except (BitVec 8) Image :=
  ((s.launchTiles l).foldl (fun s t => s.putTile t { s.tile t with active := none }) s).checkImage (s.imageAt l.img) true true .s0

/-- A launch leaves the dispatcher's queue; a refused one leaves its code (R22, R204), 0 where the rule gives none. -/
def State.launchGone (s : State) (i : Nat) (code : Option (BitVec 8)) : State :=
  { s with waiting := s.waiting.filter (fun w => w.1 != i),
           refused := match code with
             | some c => s.refused.insert i c
             | none => s.refused }

/-- REGION_PLACEMENT: a launch waits for its tiles. An image that its checks then refuse is not placed, and its launch is over, with the code of
the refusal; so is one refused because a checkpoint is in progress (R43), or whose image memory does not give (log entry 19, DEDUCED). -/
def execRegionPlacement (i : Nat) (s : State) : Host.Outcome State Fault Refusal :=
  match s.waiting.find? (fun w => w.1 == i) with
  | none => .next s
  | some (_, l) =>
    if !s.dispatches || !s.launchFirst i l || s.imageHeld l.img then .next s
    else if s.cfg.ckptBusy then .next (s.launchGone i (some 0))
    else if !s.imageReadable l.img then .next (s.launchGone i (some Code.memPoison))
    else if !s.launchFree l then .next s
    else
      match s.checkLaunch l with
      | .error code => .next (s.launchGone i (some code))
      | .ok m =>
        if (imgTiles m.sets).any (fun t => (s.tile t).heldFor.isSome && m.data.any (fun d => d.tile == t)) then .next s
        else .next ((s.launchGone i none).placeImage m l.prio ⟨l.img, max 32 (imgHead (doubles 4 (Memory.bytes s.mem l.img 32))).len, 0, false⟩)

/-! ### Stopping a region (R232, R238) -/

/-- A pre-emption begins: the region stops, and loads of its sets are abandoned. -/
def State.beginPreempt (s : State) (r : Nat) (full : Bool) (areas : SMap Nat) (cmd : Option (Nat × Nat × Nat)) : State :=
  match s.region? r with
  | none => s
  | some x =>
    let s1 := x.tiles.foldl State.abandonLoads s
    s1.modRegion r (fun x => { x with st := .preempting full, saves := areas, byCmd := cmd })

/-- Save areas of 4 MiB lie in device memory and do not overlap. -/
def areasOk : List Nat → Bool
  | [] => true
  | a :: l => decide (a + 4194304 ≤ devEnd) && l.all (fun b => decide (a + 4194304 ≤ b ∨ b + 4194304 ≤ a)) && areasOk l

/-- PREEMPTIVE_LAUNCH (R207): a region of lower priority that holds tiles that the launch needs is pre-empted at drain points; the launch names
the save areas. A launch whose image its checks refuse is refused, and pre-empts nothing (R22, R204). -/
def execPreemptiveLaunch (i : Nat) (s : State) : Host.Outcome State Fault Refusal :=
  match s.waiting.find? (fun w => w.1 == i) with
  | none => .next s
  | some (_, l) =>
    let ts := s.launchTiles l
    if !l.preempt || !s.dispatches || !s.launchFirst i l || s.imageHeld l.img || !s.imageReadable l.img || s.cfg.ckptBusy then .next s
    else
      match s.checkLaunch l, s.regions.find? (fun r => r.2.st == .running && r.2.prio < l.prio && r.2.joining.isEmpty && r.2.tiles.any ts.contains) with
      | .error code, _ => .next (s.launchGone i (some code))
      | _, none => .next s
      | _, some (r, x) =>
        let areas := x.tiles.filterMap (fun t => (SMap.look l.saves t).map (fun a => (t, a * 65536)))
        if areas.length != x.tiles.length || !areasOk (areas.map Prod.snd) then .next s
        else .next (s.beginPreempt r false areas none)

/-! ### The descriptor (R401) -/

structure SaveDesc where
  full : Bool
  areas : SMap Nat
  deriving DecidableEq, Repr

/-- Entries of a descriptor; none when one is malformed. -/
def saveEntries : List Double → Option (List (Nat × Nat))
  | [] => some []
  | w :: ws =>
    if w.extractLsb' 48 6 != 0 || w.extractLsb' 0 16 != 0 then none
    else (saveEntries ws).map (((w.extractLsb' 54 10).toNat, (w.extractLsb' 16 32).toNat * 65536) :: ·)

def saveDesc (ds : List Double) : Option SaveDesc :=
  let d0 := ds.getD 0 0
  let k := (d0.extractLsb' 62 2).toNat
  let nt := (d0.extractLsb' 0 10).toNat
  if k = 0 ∨ k = 3 ∨ d0.extractLsb' 10 52 != 0 ∨ ds.getD 1 0 != 0 ∨ nt = 0 ∨ 768 < nt then none
  else
    match saveEntries (ds.drop 2) with
    | none => none
    | some es =>
      let names := es.map Prod.fst
      if names.eraseDups.length != nt || !areasOk (es.map Prod.snd) then none
      else some ⟨k == 2, es.foldl (fun m e => SMap.insert m e.1 e.2) []⟩

/-- Read a whole descriptor: its first doubles tell its length. -/
def State.withSaveDesc (s : State) (t o : Nat) (v : SetState) (c : Cmd) (k : State → SaveDesc → State) : State :=
  s.fetchDesc t o v c 2 64 (fun s1 hd =>
    let nt := ((hd.getD 0 0).extractLsb' 0 10).toNat
    if nt = 0 ∨ 768 < nt then s1.stopCmd t o c (badDesc c)
    else
      s1.fetchDesc t o v c (2 + nt) 64 (fun s2 ds =>
        match saveDesc ds with
        | none => s2.stopCmd t o c (badDesc c)
        | some d => k s2 d))

/-! ### preempt (R402) -/

def execPreempt (c : SCom) (desc : BitVec 4) (s : State) : Host.Outcome State Fault Refusal :=
  enterExec (.preempt c desc) c (some desc) true false s

/-- The command waits until the region is pre-empted, which PREEMPTION_COMPLETE tells it. -/
def State.preemptStep (s : State) (t o : Nat) (v : SetState) (c : Cmd) : State :=
  if c.stage ≠ 0 then s
  else
    s.withSaveDesc t o v c (fun s1 d =>
      match s1.regions.find? (fun r => r.2.st == .running && r.2.joining.isEmpty && r.2.tiles == SMap.keys d.areas) with
      | none => s1.stopCmd t o c (badDesc c)
      | some (r, _) =>
        if s1.regionOf t == some r then s1.stopCmd t o c (badDesc c)
        else (s1.beginPreempt r d.full d.areas (some (t, o, c.seq))).modCmd t o c.seq (fun c => { c with stage := 2 }))

/-! ### Saving (R232 to R235) -/

/-- Words of `n` bytes as cells. -/
def wordCells (n : Nat) (ws : List (Nat × Nat)) : List (Nat × Byte) :=
  ws.flatMap (fun w => (List.range n).map (fun i => (w.1 * n + i, BitVec.ofNat 8 (w.2 / 256 ^ i))))

/-- Write a piece of a save area, of which `cells` gives the bytes that are not zero: a line that the piece covers is written whole, and a
poisoned line that it covers in part, or that is in a retired channel, is left unchanged (R28, R36). -/
def State.savePiece (s : State) (base len : Nat) (cells : List (Nat × Byte)) : State :=
  let whole (l : Nat) : Bool := decide (base ≤ l * 64 ∧ l * 64 + 64 ≤ base + len)
  let takes (a : Nat) : Bool := !s.linePoison (a / 64) || (whole (a / 64) && NSet.has s.poison (a / 64) && !NSet.has s.cfg.retired (chanOf a))
  let kept := s.mem.filter (fun c : Nat × Byte => !(base ≤ c.1 && c.1 < base + len && takes c.1))
  { s with mem := (cells.filter (fun c => takes (base + c.1))).foldl (fun m c => Memory.write m (base + c.1) c.2) kept,
           poison := s.poison.filter (fun l => !whole l) }

/-- LVS words of the live threads of a set, with the spill words that its map lends from the LVS (R158, R162). -/
def SetState.liveWords (v : SetState) : List Nat :=
  v.threads.flatMap (fun x => (List.range 32).map (fun n => v.ent.xWord x.1 n) ++
    (if spEn v.regs.spmap && !spAcs v.regs.spmap then (List.range (spWords v.regs.spmap)).map (spillWord v.regs.spmap v.ent x.1) else []))

def Tile.liveWords (x : Tile) : List Nat :=
  match x.active with
  | some p => p.sets.flatMap (fun v => v.2.liveWords)
  | none => []

def Tile.live (x : Tile) : Nat :=
  match x.active with
  | some p => (p.sets.map (fun v => v.2.threads.length)).sum
  | none => 0

/-- The header (R235); how many bytes of the state block are used, and what they hold, is not stated, and is free
(log entry 20, DEDUCED). -/
def State.saveHeader (s : State) (t : Nat) (full : Bool) (sblen live : Nat) : List (Nat × Byte) :=
  let d0 : Double := BitVec.ofNat 10 t ++ (if full then (2 : BitVec 2) else 1) ++ (0 : BitVec 12) ++ s.cfg.step ++ (0x45564153 : BitVec 32)
  let d1 : Double := BitVec.ofNat 32 sblen ++ (0 : BitVec 19) ++ BitVec.ofNat 13 live
  wordCells 8 [(0, d0.toNat), (1, d1.toNat)]

/-- Save the memories of a tile into its area. -/
def State.saveMemories (s : State) (t : Nat) (full : Bool) (a : Nat) : State :=
  let x := s.tile t
  let sblen := (s.free (37 + 1024 * t)).toNat % 65473
  let block := (List.range sblen).map (fun i => (i, (Config.freeWord s.tick (2 ^ 41 + t * 65536 + i)).extractLsb' 0 8))
  let s1 := (s.savePiece a 64 (s.saveHeader t full sblen x.live)).savePiece (a + 64) sblen block
  if full then
    let s2 := s1.savePiece (a + 0x10000) 524288 (wordCells 4 (x.lvs.map (fun w => (w.1, w.2.toNat))))
    let s3 := s2.savePiece (a + 0x90000) 262144 (wordCells 8 (x.pool.map (fun w => (w.1, w.2.toNat))))
    let s4 := s3.savePiece (a + 0xD0000) 262144 x.opmem
    let s5 := s4.savePiece (a + 0x110000) 524288 (wordCells 4 (x.acs.map (fun w => (w.1, w.2.toNat))))
    s5.savePiece (a + 0x190000) 2097152 x.mem
  else
    x.liveWords.foldl (fun s w => s.savePiece (a + 0x10000 + 4 * w) 4 (wordCells 4 [(0, (SMap.get 0 x.lvs w).toNat)])) s1

/-- A channel that goes with a tile: it ends there, or starts there and ends at no tile. -/
def Chan.with' (c : Chan) (t : Nat) : Bool :=
  match c.prod, c.cons with
  | _, .tile u _ => u == t
  | .tile u _, _ => u == t
  | _, _ => false

/-- A tile as a save leaves it: without a plane, its units held for the region or released (R233, R234). -/
def Tile.vacated (x : Tile) (r : Nat) (full : Bool) : Tile :=
  let mine := x.heldFor.isNone
  { x with active := none, s0 := none, s1 := none, latch := none, passed := [], eq := [], bars := [], groups := [], cube := .reset,
           ports := [], gusts := [], firings := [], atomQ := [], strayRets := [],
           heldFor := if mine && !full then some r else x.heldFor,
           slots := if mine && full then [] else x.slots,
           arrs := if !mine then x.arrs else if full then [] else
             x.arrs.map (fun a => (a.1, { a.2 with mode := if a.2.mode == .running then .halted else a.2.mode, holds := false, cmds := [] })) }

/-- Waiters of a tile leave the walks. -/
def State.dropWaiters (s : State) (t : Nat) : State :=
  let ws := s.walks.map (fun w => (w.1, { w.2 with waiters := w.2.waiters.filter (fun x => x.tile != t) }))
  { s with walks := ws.filter (fun w : Nat × Walk => !w.2.waiters.isEmpty) }

/-- The blocks of a plane's sets go: they are configuration, which is not copied (R233). -/
def Plane.dynamic (p : Plane) : Plane := { p with sets := p.sets.map (fun v => (v.1, { v.2 with blocks := [] })) }

/-- What a save holds of a tile: its state but for the configuration, which a restore reads from the image again (R233, R237). -/
def Tile.dynamic (x : Tile) : Tile :=
  { x with active := x.active.map Plane.dynamic, s0 := x.s0.map Plane.dynamic, s1 := x.s1.map Plane.dynamic, pool := [] }

/-- Save one tile (R232 step 6) (log entry 20, DEDUCED). -/
def State.saveTile (s : State) (r : Nat) (full : Bool) (t a : Nat) : State :=
  let x := s.tile t
  let s1 := s.saveMemories t full a
  let mine := s.chans.filter (fun c => c.2.with' t)
  let s2 := { s1 with saves := s1.saves.insert a (⟨t, r, x.heldFor.isNone, full, x.dynamic, mine⟩ : Saved),
                      chans := s1.chans.filter (fun c => !c.2.with' t) }
  (s2.putTile t (x.vacated r full)).dropWaiters t

/-- Everything in flight has landed: no return group, no access that is still to be performed, no token or return on its way (R161, R232). -/
def State.landed (s : State) (x : Region) : Bool :=
  !s.midPanel x && x.tiles.all (fun t => (s.setsOf t).all (fun v => v.2.groups.isEmpty) && !s.tileAccs t) &&
    s.chans.all (fun c => !x.tiles.any c.2.with' || (c.2.fly.isEmpty && c.2.rets == 0 && (c.2.win.isEmpty || c.2.consTile.isNone)))

/-- PREEMPTION_COMPLETE (R232). -/
def execPreemptionComplete (r : Nat) (s : State) : Host.Outcome State Fault Refusal :=
  match s.region? r with
  | none => .next s
  | some x =>
    match x.st with
    | .preempting full =>
      if !s.landed x || s.stopped || x.saves.any (fun a => s.rangeHeld a.2 (if full then 4194304 else 0x90000)) then .next s
      else
        let s1 := x.tiles.foldl (fun s t => s.saveTile r full t (SMap.get 0 x.saves t)) s
        let s2 := (s1.endWrites x.tiles).modRegion r (fun x => { x with st := .preempted full, byCmd := none })
        match x.byCmd with
        | some (t, o, q) => .next (s2.cmdDone t o q)
        | none => .next s2
    | _ => .next s

/-! ### restore (R237, R403) -/

def execRestore (c : SCom) (desc : BitVec 4) (s : State) : Host.Outcome State Fault Refusal :=
  enterExec (.restore c desc) c (some desc) true false s

/-- The region that a restore names: pre-empted, with the same tiles and save areas. -/
def State.restored? (s : State) (d : SaveDesc) : Option (Nat × Region) :=
  s.regions.find? (fun r => r.2.saves == d.areas && match r.2.st with
    | .preempted _ => true
    | _ => false)

/-- The header of a save area, as memory holds it, matches (R237). -/
def State.headerOk (s : State) (d : SaveDesc) (t a : Nat) : Bool :=
  let d0 := s.readPlain a
  d0.extractLsb' 0 32 == 0x45564153 && d0.extractLsb' 32 8 == s.cfg.step && d0.extractLsb' 52 2 == (if d.full then 2 else 1) &&
    (d0.extractLsb' 54 10).toNat == t

/-- A tile may be restored to: still held after a drain-point save, drained after a full one (log entry 21, DEDUCED). -/
def State.canRestore (s : State) (r : Nat) (d : SaveDesc) (t a : Nat) : Bool :=
  match SMap.look s.saves a with
  | none => false
  | some v => v.tile == t && v.region == r && v.full == d.full && s.headerOk d t a &&
      (if d.full then s.counts t else !v.held || (s.tile t).heldFor == some r)

/-- The units of `n` bytes of a piece of a save area that are not zero, and those that stand in poisoned lines. -/
def State.pieceUnits (s : State) (base len n : Nat) : List Nat :=
  ((s.mem.filter (fun c : Nat × Byte => base ≤ c.1 && c.1 < base + len)).map (fun c => (c.1 - base) / n)).eraseDups

def State.piecePoison (s : State) (base len n : Nat) : NSet :=
  ((List.range (len / 64)).filter (fun i => s.linePoison (base / 64 + i))).flatMap (fun i => (List.range (64 / n)).map (fun k => i * (64 / n) + k))

def State.pieceWords (s : State) (w base len n : Nat) : SMap (BitVec w) :=
  (s.pieceUnits base len n).foldl (fun m i => SMap.put 0 m i (BitVec.ofNat w (Memory.readLE s.mem (base + i * n) n))) []

def State.pieceBytes (s : State) (base len : Nat) : Memory :=
  (s.mem.filter (fun c : Nat × Byte => base ≤ c.1 && c.1 < base + len)).map (fun c => (c.1 - base, c.2))

/-! #### The configuration, read again (R233, R237) -/

/-- The bytes that stand in a piece of an image. -/
def State.pieceRead (s : State) (p : ImgPiece) : List Byte :=
  if p.peer then (List.range p.n).map (fun i => (Config.freeWord s.tick (2 ^ 32 + p.pa + i)).extractLsb' 0 8)
  else
    (List.range ((p.pa + p.n + 63) / 64 - p.pa / 64)).flatMap (fun i =>
      let a := max p.pa (64 * (p.pa / 64 + i))
      s.readKey p.key a (min (p.pa + p.n) (64 * (p.pa / 64 + i + 1)) - a))

/-- The image of a plane, as memory holds it now, if it passes the checks that do not depend on what is loaded (log entry 20, DEDUCED). -/
def State.imageNow (s : State) (p : Plane) : Option Image :=
  let bs := p.src.flatMap s.pieceRead
  let ds := doubles (bs.length / 8) bs
  if headOk ds && sectsOk ds && s.imageSigned ds then (parseImage ds).toOption else none

/-- A saved set of a plane under the configuration of its image: a set that the image does not have is gone, and one that it has anew starts
as its load leaves it. -/
def Plane.reload (p : Plane) (t : Nat) (m : Image) : Plane :=
  { p with sets := (m.sets.filter (fun x => x.ent.tile == t)).foldl (fun (k : SMap SetState) x =>
             k.insert x.ent.oct (match SMap.look p.sets x.ent.oct with
               | some v => { v with ent := x.ent, blocks := x.blocks }
               | none => loadedSet m.regs x)) [],
           data := (m.data.filter (fun d => d.tile == t && p.data.any (fun e => e.1 == d.addr))).map (fun d => (d.addr, d.bytes)) }

/-- A channel of an image with the tokens, counts and returns that a save holds of it. -/
def Chan.reload (c : Chan) (m : Image) : Option Chan :=
  if c.prod == .none then some c
  else
    (m.chans.find? (fun x => x.prod == c.prod && x.cons == c.cons)).map (fun x =>
      let y := newChan c.pid x
      { y with free := c.free + y.cap - c.cap, buf := c.buf, fly := c.fly, win := c.win, rets := c.rets, sent := c.sent, delivered := c.delivered,
               strays := c.strays, late := c.late, pushed := c.pushed, popped := c.popped, made := c.made })

/-- The planes that a saved tile holds. -/
def Tile.planes (x : Tile) : List Plane := [x.active, x.s0, x.s1].filterMap id

/-- A plane of a saved tile under its image. -/
def State.reloaded (s : State) (t : Nat) (p : Option Plane) : Option Plane := p.bind (fun p => (s.imageNow p).map (p.reload t))

/-- The pool words and node maps of a plane's image. -/
def State.reloadWords (s : State) (t : Nat) (p : Plane) : State :=
  match s.imageNow p with
  | none => s
  | some m =>
    let s1 := (m.sets.filter (fun x => x.ent.tile == t)).foldl State.putWords s
    { s1 with nodes := s1.nodes.filter (fun n => !(n.pid == p.pid && n.tile == t)) ++ (m.nodes.map (nodeEnt p.pid)).filter (fun n => n.tile == t) }

/-- The saved channels under the images of their planes. -/
def State.reloadChans (s : State) (v : Saved) : List (Nat × Chan) :=
  v.chans.filterMap (fun c =>
    match (v.tileState.planes.find? (fun p => p.pid == c.2.pid)).map s.imageNow with
    | some (some m) => (c.2.reload m).map (fun d => (c.1, d))
    | _ => some c)

/-- What a saved tile holds of its own, over the memories that it finds. -/
def Tile.merged (x y : Tile) : Tile :=
  { y with mem := x.mem, memPoison := x.memPoison, opmem := x.opmem, opPoison := x.opPoison, acs := x.acs, acsPoison := x.acsPoison,
           lvs := x.lvs, lvsPoison := x.lvsPoison, pool := x.pool, poolPoison := x.poolPoison, drift := x.drift, driftLost := x.driftLost,
           perf := y.perf, heldFor := none, past := [], cirTurn := [], cirWas := [], hind := [] }

/-- A tile after a drain-point save: the LVS words come from its area. -/
def State.restoreDrain (s : State) (v : Saved) (a : Nat) : Tile :=
  let x := s.tile v.tile
  let y := x.merged v.tileState
  let word (w : Nat) : Nat := a + 0x10000 + 4 * w
  { y with lvs := v.tileState.liveWords.foldl (fun m w => SMap.put 0 m w (BitVec.ofNat 32 (Memory.readLE s.mem (word w) 4))) y.lvs,
           lvsPoison := v.tileState.liveWords.foldl (fun m w =>
             if s.linePoison (word w / 64) || NSet.has v.tileState.lvsPoison w then NSet.add m w else NSet.drop m w) y.lvsPoison,
           heldFor := if v.held then none else x.heldFor }

/-- A tile after a full save: all its SRAM comes from its area, and words that were poisoned when they were saved are so still (log entry 20,
DEDUCED). -/
def State.restoreFull (s : State) (v : Saved) (a : Nat) : Tile :=
  let x := s.tile v.tile
  let y := v.tileState
  let bad (was : NSet) (base len n : Nat) : NSet := was.foldl NSet.add (s.piecePoison base len n)
  { x.merged y with
    lvs := s.pieceWords 32 (a + 0x10000) 524288 4, lvsPoison := bad y.lvsPoison (a + 0x10000) 524288 4,
    pool := s.pieceWords 64 (a + 0x90000) 262144 8, poolPoison := bad y.poolPoison (a + 0x90000) 262144 8,
    opmem := s.pieceBytes (a + 0xD0000) 262144, opPoison := bad y.opPoison (a + 0xD0000) 262144 8,
    acs := s.pieceWords 32 (a + 0x110000) 524288 4, acsPoison := bad y.acsPoison (a + 0x110000) 524288 4,
    mem := s.pieceBytes (a + 0x190000) 2097152, memPoison := bad y.memPoison (a + 0x190000) 2097152 8,
    heldFor := if v.held then none else x.heldFor }

/-- Later loads of a plane's threads see memory as it is by a step. -/
def Plane.asOf (p : Plane) (now : Nat) : Plane :=
  { p with sets := p.sets.map (fun v => (v.1, { v.2 with threads := v.2.threads.map (fun th => (th.1, { th.2 with since := now })) })) }

/-- Put one saved tile back: its memories, then the configuration of its planes, which is read from their images again, and over it the saved
state with its channels (R237). A log of choices begins here (R257). -/
def State.restoreTile (s : State) (r t a : Nat) : State :=
  match SMap.look s.saves a with
  | none => s
  | some v =>
    let s1 := (s.planeEnd t).joinRegion r t
    let x := if v.full then s1.restoreFull v a else s1.restoreDrain v a
    let s2 := s1.putTile t { x with active := (s1.reloaded t x.active).map (Plane.asOf · s1.tick), s0 := s1.reloaded t x.s0, s1 := s1.reloaded t x.s1 }
    let s3 := v.tileState.planes.foldl (fun s p => s.reloadWords t p) s2
    { s3 with chans := (s.reloadChans v).foldl (fun m c => SMap.insert m c.1 c.2) s3.chans, saves := s3.saves.erase a }

/-- The images of the planes of saved tiles: where they stand. -/
def State.savedSrc (s : State) (d : SaveDesc) : List ImgPiece :=
  d.areas.flatMap (fun e => match SMap.look s.saves e.2 with
    | some v => v.tileState.planes.flatMap Plane.src
    | none => [])

/-- Every plane of the saved tiles can be loaded again. -/
def State.savedImages (s : State) (d : SaveDesc) : Bool :=
  d.areas.all (fun e => match SMap.look s.saves e.2 with
    | some v => v.tileState.planes.all (fun p => (s.imageNow p).isSome)
    | none => true)

/-- The command checks everything first; it waits for a held tile that another region still runs on. -/
def State.restoreStep (s : State) (t o : Nat) (v : SetState) (c : Cmd) : State :=
  s.withSaveDesc t o v c (fun s1 d =>
    match s1.restored? d with
    | none => s1.stopCmd t o c (badDesc c)
    | some (r, _) =>
      if d.areas.any (fun e => s1.linePoison (e.2 / 64)) || (s1.savedSrc d).any (fun p => !p.peer && s1.rangePoison p.pa p.n) then
        s1.stopCmd t o c { badDesc c with code := Code.memPoison }
      else if d.areas.any (fun e => s1.rangeHeld e.2 (if d.full then 4194304 else 0x90000)) ||
          (s1.savedSrc d).any (fun p => !p.peer && s1.rangeHeld p.pa p.n) then s1
      else if !d.areas.all (fun e => s1.canRestore r d e.1 e.2) || !s1.savedImages d then s1.stopCmd t o c (badDesc c)
      else if !d.areas.all (fun e => s1.counts e.1 && !s1.tileAccs e.1) then s1
      else
        let s2 := d.areas.foldl (fun s e => s.restoreTile r e.1 e.2) s1
        ((s2.modRegion r (fun x => { x with st := .running, saves := [], rplOff := false, free := false })).prune).cmdDone t o c.seq)

/-! ### The end of a region by system software (R199, R79) -/

/-- The planes of a tile go, with their channels and what its sets had in flight but for writes already issued; an array that is converting opens
again in STORAGE (log entry 22, DESIGN CHOICE). -/
def State.endTile (s : State) (t : Nat) : State :=
  let s1 := s.planeEnd t
  let x := s1.tile t
  let s2 := s1.putTile t { x with active := none, s0 := none, s1 := none, latch := none, passed := [], eq := [], bars := [], groups := [],
                                  slots := [], cube := .reset, ports := [], gusts := [], firings := [], strayRets := [],
                                  notes := [], cirTurn := [], cirWas := [], arrs := x.arrs.map (fun a => (a.1, { a.2 with cmds := [], mode := if a.2.mode == .converting then .storage else a.2.mode })) }
  let s3 := { s2 with chans := s2.chans.filter (fun c => !c.2.with' t),
                      accs := s2.accs.filter (fun a => a.2.tile != t || match a.2.kind with
                        | .store => a.2.loc != Place2.virt
                        | .atom _ _ _ _ => true
                        | _ => false) }
  s3.dropWaiters t

/-- A tile's accumulator store is held no longer: the spill words that it backs for the sets running there, none of which a spill has reached,
read zero (R157, R164). -/
def State.unhold (s : State) (t : Nat) : State :=
  let s1 := s.putTile t { s.tile t with heldFor := none }
  (s1.setsOf t).foldl (fun s v =>
    if spAcs v.2.regs.spmap then (List.range (32 * v.2.ent.width)).foldl (fun s tid => s.zeroSpill t v.2.regs.spmap v.2.ent tid) s else s) s1

/-- A pre-empted region's saves go, and its tiles are no longer held. -/
def State.dropSaves (s : State) (r : Nat) : State :=
  (s.tiles.filter (fun x => x.2.heldFor == some r)).foldl (fun s x => s.unhold x.1) { s with saves := s.saves.filter (fun v => v.2.region != r) }

/-- The bank-side graphs whose links a region owns. -/
def State.unitsOf (s : State) (r : Nat) : List Nat :=
  (s.units.map Prod.fst).filter (fun n => (s.unitRegions n).contains r ||
    s.saves.any (fun v => v.2.region == r && v.2.chans.any (fun c => (s.unit n).uses n c.2)))

/-- A graph whose region ends is aborted (R79). -/
def State.endUnit (s : State) (n : Nat) : State := if (s.unit n).st == .idle then s else s.abortUnit n

/-- The graphs and links of a region go with it (R74, R79). -/
def State.endUnits (s : State) (r : Nat) (tiles : NSet) : State :=
  let cs := (s.chans.filter (fun c => c.2.touches tiles)).map Prod.snd ++
    (s.saves.filter (fun v => v.2.region == r)).flatMap (fun v => v.2.chans.map Prod.snd)
  cs.foldl State.closeLink ((s.unitsOf r).foldl State.endUnit s)

/-- REGION_END (log entry 22, DEDUCED). -/
def execRegionEnd (r : Nat) (s : State) : Host.Outcome State Fault Refusal :=
  match s.region? r with
  | none => .next s
  | some x =>
    let s1 := s.endUnits r (if x.st.holds then x.tiles else [])
    let s2 := if x.st.holds then x.tiles.foldl State.endTile s1 else s1
    let s3 := s2.dropSaves r
    let s4 := match x.byCmd with
      | some (t, o, q) => s3.cmdDone t o q
      | none => s3
    .next { s4 with regions := s4.regions.erase r }.prune

/-! ### Lull (R205, R206, R217) -/

/-- The channels of a region. -/
def State.regionChans (s : State) (x : Region) : List Chan := (s.chans.filter (fun c => x.tiles.any c.2.with')).map Prod.snd

/-- Requests and replies of a region's memory: accesses to perform, walks, and threads of return groups whose datum or status of an access has
not come back. -/
def State.requests (s : State) (r : Nat) (x : Region) : Nat :=
  let replies (g : Group) : Nat := (g.members.filter (fun m => !m.done && match m.late with
    | .value _ => false
    | _ => true)).length
  (s.toCome.filter (fun a => x.tiles.contains a.2.tile)).length +
    (s.walks.filter (fun w => w.2.res.isNone && w.2.waiters.any (fun y => x.tiles.contains y.tile))).length +
    ((s.regionSets r).map (fun v => (v.2.2.groups.map (fun g => replies g.2)).sum)).sum

/-- The counts of a sweep: tokens, slot returns, memory requests and replies, bank-side tokens, engine commands, and the packets sent and
delivered over borders (log entry 23, DEDUCED). A packet on a link of the region counts whether or not a graph runs there (R135). -/
def State.lullCounts (s : State) (r : Nat) (x : Region) : List Nat :=
  let cs := s.regionChans x
  let bank := (s.unitsOf r).map (fun n =>
    let u := s.unit n
    let total (m : SMap (List Token)) : Nat := (m.map (fun l => l.2.length)).sum
    u.arcs.length + total u.back + (u.loads.map (fun l => l.2.length)).sum + (u.stores.map (fun l => l.2.length)).sum)
  let packets (c : Chan) : Nat :=
    (match c.prod with
      | .link n l => (SMap.get [] (s.unit n).linkOut l).length
      | _ => 0) +
    (match c.cons with
      | .link n l => (SMap.get [] (s.unit n).links l).length
      | _ => 0)
  [(cs.map (fun c => c.buf.length + c.fly.length + c.win.length)).sum, (cs.map Chan.rets).sum,
    s.requests r x, bank.sum + (cs.map packets).sum,
    ((s.regionSets r).map (fun v => v.2.2.queue.length)).sum, (cs.map Chan.sent).sum, (cs.map Chan.delivered).sum]

/-- Nothing is outstanding and every pair of sums is equal. -/
def quietCounts (l : List Nat) : Bool := (l.take 5).all (· == 0) && l.getD 5 0 == l.getD 6 0

/-- A node that waits: where it is, its source node and invocation. -/
structure LullWait where
  tile : Nat
  set : Nat
  blk : Nat
  node : Word
  invoc : Word
  cir : Bool
  bsu : Bool
  deriving DecidableEq, Repr

/-- An end fed from outside the region. -/
def State.outside (s : State) (t e : Nat) : Bool := (s.inChan t e).any (fun c => c.2.prod == .none)

/-- A block is blocked only by a channel head or a free slot, one that does not come from outside. -/
def State.blockWaits (s : State) (t : Nat) (v : SetState) (n : Nat) (b : Block) : Bool :=
  let can : Bool := match b.mode, v.threads.look 0 with
    | .thread, _ => !(v.waitingIn n).isEmpty || !(s.resumable t v n).isEmpty
    | .token, some th => th.trap.isNone && match th.place with
        | .idle => true
        | .waiting _ => true
        | _ => false
    | .trap, some th => th.trap.isNone && v.faulted.any (fun f => !f.forwarded)
    | _, none => false
  let other := (v.k &&& b.kmask) == b.kval && (!b.qroom || decide (v.queue.length < 16))
  let inWaits (i : Option TrigIn) : Bool := !s.trigIn t v.ent i && i.any (fun j => !s.outside t (v.ent.chInN j.ch))
  let outWaits := b.out.any (fun m => s.roomAt t (v.ent.chOutN m) == 0)
  can && other && (inWaits b.in1 || inWaits b.in2 || outWaits)

/-- A thread parked on return groups stands at an exit: the instruction at its index is one, or it has come to block end (R187). -/
def State.exitAt (s : State) (t o : Nat) (v : SetState) (blk idx : Nat) (why : Cause) : Bool :=
  match why, v.blocks[blk]? with
  | .groups _, some b => decide (b.len ≤ idx) || match decodeWord (SMap.get 0 (s.tile t).pool (poolWord o b idx)) with
      | .ok (.exit _) => true
      | .ok (.exitAbandon _) => true
      | _ => false
  | _, _ => false

/-- A parked thread waits at a channel or a barrier, or at an exit on its queue; one parked at an exit on its return groups is found by
`exitAt`. -/
def State.causeWaits (s : State) (t : Nat) : Cause → Bool
  | .chan needs => needs.any (fun n => !s.needMet t n && match n with
      | .head e _ => !s.outside t e
      | .data e _ => !s.outside t e
      | .anyData es => !es.all (s.outside t)
      | .room _ => true)
  | .barrier _ _ => true
  | .held _ _ _ => true
  | .exitQueue => true
  | _ => false

/-- An engine command waits, for something other than an end fed from outside: one that has issued and finds such an end empty counts only while
another of its ends holds it as well. -/
def State.cmdWaits (s : State) (t : Nat) (v : SetState) (c : Cmd) : Bool :=
  let ins := (c.i.ports.filter Prod.fst).map (fun p => v.ent.chInN p.2.toNat)
  let outs := (c.i.ports.filter (fun p => !p.1)).map (fun p => v.ent.chOutN p.2.toNat)
  let empty (e : Nat) : Bool := (s.headAt t e).isNone
  !(c.at' == .issued && ins.any (fun e => s.outside t e && empty e)) || ins.any (fun e => !s.outside t e && empty e) ||
    outs.any (fun e => s.roomAt t e == 0)

/-- The block of a set that an event held by a full Drift belongs to: that of the running sweep, or the one to be selected. -/
def State.driftBlk (s : State) (t : Nat) (v : SetState) : Nat :=
  match v.sweep with
  | some w => w.blk
  | none => (v.pick (s.readyBlocks t v)).getD 0

/-- The nodes of a set that wait; a set stalled by Drift is one (R251), and so is a trap block in which the anchor is parked. -/
def State.setWaits (s : State) (t o : Nat) (v : SetState) : List LullWait :=
  let at' (n : Nat) : LullWait := ⟨t, o, n, s.blockNode t o n, v.eoiInvoc.setWidth 32, false, false⟩
  let blks := (List.range v.blocks.length).filter (fun n => (v.blocks[n]?).any (s.blockWaits t v n))
  let stands (b idx : Nat) (why : Cause) : Option Nat := if s.causeWaits t why || s.exitAt t o v b idx why then some b else none
  let ths := v.threads.flatMap (fun x =>
    (match x.2.place with
      | .parked b idx why => (stands b idx why).toList
      | _ => []) ++ (x.2.trap.bind (fun p => stands p.1 p.2.1 p.2.2)).toList)
  let cmds := (v.queue.filter (s.cmdWaits t v)).map Cmd.blk
  let held := if v.driftHeld then [s.driftBlk t v] else []
  (blks ++ ths ++ cmds ++ held).eraseDups.map at'

/-- A running circuit that cannot take its next step now (R108). -/
def State.cirStalled (s : State) (t : Nat) (r : Arr) : Bool :=
  let w := r.stepAt r.step.toNat
  r.mode == .running && stKind w != 2 &&
    (!r.present.getLsbD (stCtx w / 16) || (stPop w && (s.headAt t r.ice).isNone && !s.outside t r.ice) ||
      (stPop w && (s.headAt t r.ice).any Token.isCtl && r.oce != 255 && s.roomAt t r.oce == 0) || (stEmit w && s.roomAt t r.oce == 0))

/-- The waiting nodes of a region. -/
def State.lullWaits (s : State) (r : Nat) (x : Region) : List LullWait :=
  (s.regionSets r).flatMap (fun v => s.setWaits v.1 v.2.1 v.2.2) ++
    x.tiles.flatMap (fun t => ((s.tile t).arrs.filter (fun a => s.cirStalled t a.2)).map (fun a =>
      (⟨t, a.2.lastSet.getD 0, a.1, s.node t 3 a.1, a.2.eoi, true, false⟩ : LullWait))) ++
    (s.unitsOf r).flatMap (fun n =>
      let u := s.unit n
      ((List.range 16).filter u.holdsToken).map (fun k =>
        (⟨n, k, 0, (u.record n k 0 7 0 0).getD 2 0 |>.extractLsb' 0 32, BitVec.ofNat 32 (SMap.get 0 u.eois k), false, true⟩ : LullWait)))

/-- One record for each source node; elements without one have a record each. -/
def dedupeWaits : List LullWait → List Word → List LullWait
  | [], _ => []
  | w :: ws, seen =>
    if w.node != 0xFFFFFFFF && seen.contains w.node then dedupeWaits ws seen else w :: dedupeWaits ws (w.node :: seen)

/-- A set whose anchor is parked on a full engine queue of which the head waits on an event queue (R217). -/
def State.selfSignals (s : State) (t : Nat) (v : SetState) : Option Nat :=
  match (v.threads.look 0).map Thread.place, v.queue.find? (fun c => c.at' == .queued) with
  | some (.parked b _ .queueFull), some c =>
    match (c.i.com?).bind SCom.wq with
    | some n => if SMap.get 0 (s.tile t).eq n.toNat == 0 then some b else none
    | none => none
  | _, _ => none

/-- Report a deadlock (log entry 23, DEDUCED); the record of a circuit has the fields of R115. -/
def State.deadlock (s : State) (r : Nat) (waits : List LullWait) : State :=
  let self := (s.regionSets r).filterMap (fun v => (s.selfSignals v.1 v.2.2).map (fun b => (v.1, v.2.1, b)))
  let s1 := self.foldl (fun s x => s.setFaultAt x.1 x.2.1 { code := Code.issueCycle } 0 x.2.2 0) s
  (dedupeWaits (waits.filter (fun w => w.cir || w.bsu || !self.any (fun x => x.1 == w.tile && x.2.1 == w.set))) []).foldl (fun s w =>
    let f := if w.cir then ({ code := Code.deadlock, elem := (s.arr w.tile w.blk).taken, ac := (s.arr w.tile w.blk).pac } : FaultInfo) else ({ code := Code.deadlock } : FaultInfo)
    let who := if w.cir then w.blk else 0
    let blk := if w.cir then (s.arr w.tile w.blk).step.toNat else w.blk
    s.regionRecord r (recWord0 f { notice := true, cir := w.cir, bsu := w.bsu } w.tile w.set who blk 0) 0
      (recWord2 w.node w.invoc) (recWord3 f)) s1

/-- LULL_SWEEP: it reports quiescence when this sweep and the one before have found nothing outstanding and every pair of sums equal (R205). -/
def execLullSweep (r : Nat) (s : State) : Host.Outcome State Fault Refusal :=
  match s.region? r with
  | none => .next s
  | some x =>
    if x.st != .running || x.halt != .none || s.stopped then .next s
    else
      let now := s.lullCounts r x
      let same := now == x.lullLast
      let still := if same then x.lullStill + 1 else 0
      let limit := if x.still == 0 then 64 else x.still.toNat
      let waits := s.lullWaits r x
      let due := same && decide (limit ≤ still) && !x.lullSaid && !waits.isEmpty
      let s1 := s.modRegion r (fun y => { y with lullLast := now, lullStill := still, lullQuiet := if quietCounts now then y.lullQuiet + 1 else 0,
                                                 quiescent := quietCounts now && decide (1 ≤ y.lullQuiet),
                                                 lullSaid := same && (y.lullSaid || due) })
      .next (if due then s1.deadlock r waits else s1)

end Sys2Proof.Machine
end

