-- ==== Sys2Proof/Machine/Progress.lean ====
section
/-!
DEFINITION. SELECTION (spec/12 R210), ENGINE_PROGRESS (spec/03 R57 and the rules of each command), and port nodes (spec/05 R97, R98).
-/
namespace Sys2Proof.Machine

/-- SELECTION. -/
def execSelection (t o : Nat) (s : State) : Host.Outcome State Fault Refusal := .next (s.select t o)

/-- A copy or a fill of length 0 pops and pushes nothing (R319, R370). -/
def Cmd.moves (c : Cmd) : Bool :=
  match c.i with
  | .slotFill .. => fillLen c.ds != 0
  | i => !i.onCopyEngine || copyLen c.ds != 0

/-- A command of a set pops or pushes an end that the set's cube binding holds, once its descriptor is known (R378). -/
def State.cmdBound (s : State) (t o : Nat) (v : SetState) (c : Cmd) : Bool :=
  (match c.i with
    | .cubeBind .. => false
    | _ => c.moves) && c.stage != 0 && c.i.ports.any (fun p => s.boundByCube t o v.ent p.1 (v.endOf p.1 p.2))

/-- An issued command of a running region makes progress, each kind by its own rules (log entry 39, DEDUCED). One that would use an end of the
set's own cube binding is a set fault, and uses nothing (R378). -/
def State.progress (s : State) (t o : Nat) (v : SetState) (c : Cmd) : State :=
  let run (first countM1 : BitVec 4) : List Nat := slotRun first.toNat countM1.toNat
  if s.cmdBound t o v c then (if v.setFault then s else s.setFaultAt t o { code := Code.chTag } 0 c.blk c.idx)
  else
    match c.i with
    | .strmRd _ n _ => s.strmRdStep t o v c n
    | .strmWr _ n _ => s.strmWrStep t o v c n
    | .slotClaim _ f k => s.claimStep t o v c (run f k)
    | .slotFill _ f k ch _ => s.fillStep t o v c f.toNat k.toNat (ch.map v.ent.chIn)
    | .slotRel _ f k => s.relStep t o v c (run f k)
    | .cubeMm _ _ => s.cubeStep t o v c .mm
    | .cubeGate _ _ => s.cubeStep t o v c .gate
    | .cubeSpread _ _ => s.cubeStep t o v c .spread
    | .cubeFold _ _ => s.cubeStep t o v c .fold
    | .cubeBind _ g i u _ => s.bindStep t o v c g i u
    | .cubeUnbind _ => s.unbindStep t o c
    | .cfgLd _ s1 arm start _ => s.cfgStep t o v c (if s1 then .s1 else .s0) arm start
    | .preempt _ _ => s.preemptStep t o v c
    | .restore _ _ => s.restoreStep t o v c
    | .nmqSub _ _ => s.nmqSubStep t o c
    | i =>
      match i.array? with
      | some a => s.cirStep t o v c a
      | none => if i.onCopyEngine then s.copyStep t o v c else s

/-- ENGINE_PROGRESS: a command that is issued goes on, in a running region or to the end of its cube panel in one that stops; one that has been
resumed goes on once its engine accepts it (R87); the tokens before a read stream's stop flow on (R57). -/
def execEngineProgress (t o seq : Nat) (s : State) : Host.Outcome State Fault Refusal :=
  match s.set? t o with
  | none => .next s
  | some v =>
    match v.cmd? seq with
    | none => .next s
    | some c =>
      if !s.runs t && !(s.stopping t && c.midPanel) then .next s
      else
        match c.at', c.i with
        | .issued, _ => .next (if c.stage == doneStage then s else s.progress t o v c)
        | .resuming, _ => .next (if s.copyLoad t < 4 then s.modCmd t o seq (fun c => { c with at' := .issued }) else s)
        | .stopped, .strmRd _ n _ => .next (if s.cmdBound t o v c then s else s.strmFlow t o v c n)
        | _, _ => .next s

/-! ### Port nodes (R97, R98) -/

/-- The tile-local address of `n` bytes of element e, or what it faults with (R97). The record carries the access kinds of a copy and, in word 1, the
tile-local address (log entry 52, DESIGN CHOICE). -/
def State.portAt (s : State) (t : Nat) (p : PortNode) (a e n : Nat) (write atom : Bool) : Except FaultInfo Nat :=
  let f (code : BitVec 8) : FaultInfo := { code := code, kind := if write then 5 else 4, w1 := BitVec.ofNat 64 a, elem := BitVec.ofNat 48 e }
  if a < p.window ∨ p.window + p.len < a + n then .error (f Code.tileRange)
  else
    match tileCheck (s.tile t) a n write atom with
    | some code => .error (f code)
    | none => .ok a

/-- The place of an element, and of the scale of the block that begins at it (R311). -/
def State.portAddr (s : State) (t : Nat) (p : PortNode) (e n : Nat) (write atom : Bool) : Except FaultInfo Nat :=
  s.portAt t p ((pattern p.ds).addr e).toNat e n write atom

def State.portScale (s : State) (t : Nat) (p : PortNode) (write : Bool) : Except FaultInfo Nat :=
  s.portAt t p ((pattern p.ds).scaleAddr (p.pos / (pattern p.ds).bl)).toNat p.pos 1 write false

/-- The node moves a scale header next (R309, R313, R314); those of sparse rows have none (log entry 52, DESIGN CHOICE). -/
def PortNode.headNext (p : PortNode) : Bool :=
  let pt := pattern p.ds
  pt.scen && p.dir != 1 && p.dir != 3 && decide (p.pos < pt.count) && p.pos % pt.bl == 0 && !p.headed

/-- What a port node does next: nothing; something that moves no token of data; a fault; or the firing that moves one, with the condition that
it waits for, made for the note of who pushes. -/
inductive PortAct where
  | wait
  | quiet (s : State)
  | fault (s : State) (f : FaultInfo)
  | fire (cond : FireCond) (k : Option (Nat × Nat) → State)

/-- The wait of a read node with an event queue, once per invocation (R98); none while no token is there. -/
def State.portWait (s : State) (t : Nat) (p : PortNode) : Option State :=
  match p.eq with
  | none => some s
  | some n =>
    let k := SMap.get 0 (s.tile t).eq n
    if p.waited then some s
    else if k = 0 then none
    else some ((s.putTile t { s.tile t with eq := SMap.put 0 (s.tile t).eq n (k - 1) }).modPort t p.port (fun p => { p with waited := true }))

/-- The elements of a token are read, or the first of them that faults stops it. -/
def State.portGet (s : State) (t : Nat) (p : PortNode) (z per : Nat) : Except FaultInfo Word :=
  let got := (List.range per).map (fun i => s.portAddr t p (p.pos + i) z false false)
  match got.findSome? (fun r => match r with
    | .error f => some f
    | .ok _ => none) with
  | some f => .error f
  | none =>
    .ok (BitVec.ofNat 32 ((got.map (fun r => match r with
      | .ok a => Memory.readLE (s.tile t).mem a z
      | .error _ => 0)).foldr (fun x n => x + 2 ^ (8 * z) * n) 0))

/-- The scale header of the block that comes next is pushed (R313). -/
def State.portReadHead (s : State) (t : Nat) (p : PortNode) : PortAct :=
  let pt := pattern p.ds
  match s.portScale t p false with
  | .error f => .fault s f
  | .ok a =>
    if s.roomAt t p.endNo = 0 then .wait
    else
      .fire (s.condOut t p.endNo) (fun src => (s.pushFrom src t p.endNo (scaleHeader (pt.lastBlock p.pos) pt.bl (Memory.readLE (s.tile t).mem a 1))).modPort t p.port
        (fun p => { p with headed := true }))

/-- A read: one token, dense, or a sparse pair for an element that is not zero, as a bf16 value is (log entry 52, DESIGN CHOICE), or ends its row
(R92); a scale header before each block; the end of an invocation pushes its EOI. -/
def State.portRead (s : State) (t : Nat) (p : PortNode) : PortAct :=
  let pt := pattern p.ds
  let sparse := p.dir == 1
  let z := if sparse then 2 else pt.z
  let per := if sparse then 1 else pt.per
  if p.pos = pt.count then
    if s.roomAt t p.endNo = 0 then .wait
    else .quiet ((s.pushAt t p.endNo (ctlToken 1 p.invoc)).modPort t p.port (fun p => { p with pos := 0, waited := false, invoc := p.invoc + 1 }))
  else
    match s.portWait t p with
    | none => .wait
    | some s1 =>
      if p.headNext then s1.portReadHead t p
      else
      match s.portGet t p z per with
      | .error f => .fault s1 f
      | .ok word =>
        let col := p.pos % pt.c0
        let last := col + 1 = pt.c0
        let next (s : State) : State := s.modPort t p.port (fun p => { p with pos := p.pos + per, headed := false })
        if sparse && word.extractLsb' 0 15 == 0 && !last then .quiet (next s1)
        else if s.roomAt t p.endNo = 0 then .wait
        else
          .fire (s.condOut t p.endNo) (fun src => next (s1.pushFrom src t p.endNo
            (if sparse then ⟨5, BitVec.ofBool last ++ BitVec.ofNat 15 col ++ word.extractLsb' 0 16, []⟩ else ⟨pt.tag, word, []⟩)))

/-- An EOI at the head of a write node's end closes its invocation once its writes have been performed, and it then posts (R98). -/
def State.portClose (s : State) (t : Nat) (p : PortNode) : PortAct :=
  let next (s : State) : State := (s.popAt t p.endNo).modPort t p.port (fun p => { p with pos := 0, row := [], invoc := p.invoc + 1 })
  if s.portAdds t p.port then .wait
  else
    match p.eq with
    | none => .quiet (next s)
    | some n =>
      match s.post t n with
      | some s1 => .quiet (next s1)
      | none => .wait

/-- One element of a densified row is written: its value, or zero (R93). -/
def State.portDense (s : State) (t : Nat) (p : PortNode) : PortAct :=
  let pt := pattern p.ds
  match s.portAddr t p p.pos 2 true false with
  | .error f => .fault s f
  | .ok a =>
    let col := p.pos % pt.c0
    .quiet ((s.tileWrite t a 2 (SMap.get 0 p.row col) true).modPort t p.port (fun p => { p with pos := p.pos + 1, row := if col + 1 = pt.c0 then [] else p.row }))

/-- One element of a token: its word goes to the atomic pipeline, which takes the token when it accepts it (R95), or it is stored, the token
leaving with its last element. -/
def State.portStore (s : State) (t : Nat) (p : PortNode) (k : Token) : PortAct :=
  let pt := pattern p.ds
  let j := p.pos % pt.per
  let cond := s.condIn t 0 p.endNo
  match s.portAddr t p p.pos pt.z true (p.dir == 4) with
  | .error f => .fault s f
  | .ok a =>
    if p.dir == 4 then
      if s.portAdds t p.port then .wait
      else
        .fire cond (fun _ =>
          let r := s.issueAcc { tile := t, set := portSet, tid := portTid p.port, kind := .atom .add (if pt.tag == 1 then .f32 else .n32) 0 false, loc := .tile a,
                                va := BitVec.ofNat 64 a, bytes := pt.z, data := k.val.setWidth 64, cls := classBit p.ac, ac := p.ac, acq := false,
                                rel := false, checked := true, after := [], blk := 0, idx := p.pos }
          r.1.putTile t { r.1.tile t with atomQ := (r.1.tile t).atomQ ++ [⟨r.2, none, 0⟩] })
    else
      let s1 := (s.tileWrite t a pt.z (k.val.toNat / 2 ^ (8 * pt.z * j) % 2 ^ (8 * pt.z)) true).modPort t p.port (fun p => { p with pos := p.pos + 1, headed := false })
      let s2 := if j + 1 = pt.per then s1.popAt t p.endNo else s1
      if j = 0 then .fire cond (fun _ => s2) else .quiet s2

/-- A scale header that the pattern asks for: its scale is written to the block's byte (R314). -/
def State.portHead (s : State) (t : Nat) (p : PortNode) (k : Token) : PortAct :=
  let pt := pattern p.ds
  if k.tag != 6 || k.val != (scaleHeader (pt.lastBlock p.pos) pt.bl ((k.val.extractLsb' 0 8).toNat)).val then
    .fault s { code := Code.chTag, elem := BitVec.ofNat 48 p.pos }
  else
    match s.portScale t p true with
    | .error f => .fault s f
    | .ok a =>
      .fire (s.condIn t 0 p.endNo) (fun _ => ((s.tileWrite t a 1 ((k.val.extractLsb' 0 8).toNat) true).popAt t p.endNo).modPort t p.port (fun p =>
        { p with headed := true }))

/-- One token of a write. Control tokens but EOI have nowhere to go on to, and are dropped (log entry 12, DESIGN CHOICE). -/
def State.portWrite (s : State) (t : Nat) (p : PortNode) : PortAct :=
  let pt := pattern p.ds
  let f (code : BitVec 8) : PortAct := .fault s { code := code, elem := BitVec.ofNat 48 p.pos }
  if p.dir == 3 && p.row.any (fun r => 32768 ≤ r.1) then s.portDense t p
  else
    match s.headAt t p.endNo with
    | none => .wait
    | some k =>
      if k.badCtl then f Code.chTag
      else if k.isCtl && k.sub == 1 && p.pos == pt.count then s.portClose t p
      else if k.isCtl && k.sub != 1 && p.pos % pt.per == 0 then .quiet (s.popAt t p.endNo)
      else if p.headNext then (if s.portAdds t p.port then .wait else s.portHead t p k)
      else if k.tag != (if p.dir == 3 then 5 else pt.tag) || pt.count ≤ p.pos then f Code.chTag
      else if p.dir == 3 then
        let coord := (k.val.extractLsb' 16 15).toNat
        if pt.c0 ≤ coord || !p.row.all (fun r => r.1 < coord) then f Code.tileRange
        else
          let row := p.row.insert coord (k.val.extractLsb' 0 16).toNat
          .fire (s.condIn t 0 p.endNo) (fun _ =>
            (s.popAt t p.endNo).modPort t p.port (fun p => { p with row := if k.val.getLsbD 31 then row.insert 32768 0 else row }))
      else s.portStore t p k

/-- A breakpoint matches at a port node's next firing (R244). -/
def State.portMatch (s : State) (t : Nat) (p : PortNode) (ev : TraceEv) : Option State :=
  (s.set? t p.set).bind (fun v => s.nodeHalt t v (.port t p.port) ev.node p.invoc)

/-- PORT_NODE_INVOCATION: the next element of a port node's invocation; each token of data that it moves is a firing (R253). While its region
comes to a halt, a node only matches. Without such a node nothing acts (log entry 12, DESIGN CHOICE). -/
def execPortNodeInvocation (t k : Nat) (s : State) : Host.Outcome State Fault Refusal :=
  match (s.tile t).ports.find? (fun p => p.port == k) with
  | none => .next s
  | some p =>
    if p.fault || !(s.runs t || s.halting t) then .next s
    else
      match if (s.tile t).heldFor.isSome then PortAct.fault s { code := Code.tileRange, elem := BitVec.ofNat 48 p.pos }
        else if p.dir ≤ 1 then s.portRead t p else s.portWrite t p with
      | .wait => .next s
      | .quiet s1 => .next (if s.runs t then s1 else s)
      | .fault s1 f => .next (if s.runs t then s1.portFault t p f else s)
      | .fire cond act =>
        let ev := s.nodeEvent t p.set 5 p.port p.invoc [cond]
        match if s.runs t && s.traceStalls ev then some (s.driftStall t p.set) else s.portMatch t p ev with
        | some s1 => .next s1
        | none => .next (if s.runs t then (act (ev.note.map (fun n => (elemKey 5 p.port, n.num)))).nodeNoted t 5 p.port (.port t p.port) ev else s)

end Sys2Proof.Machine
end

