-- ==== Sys2Proof/Machine/Events.lean ====
section
/-!
DEFINITION. Events of the environment, the firmware and the host: scrubbing, retired channels and health (spec/02, spec/01 R22), single faults
(spec/13 R239, R240), accesses from the domain (spec/15 R262), boot, security, power and management (R266 to R275), keys and
checkpoints (spec/02), and the trace, Gust and tree-SYNC machinery (spec/14).
-/
namespace Sys2Proof.Machine

/-! ### Scrubbing and repair (R27, R29, R36, R240) -/

/-- A line whose errors the code cannot correct is poisoned and logged (log entry 34, DEDUCED). -/
def State.poisonLine (s : State) (line : Nat) : State :=
  if s.linePoison line then s
  else { s with poison := NSet.add s.poison line }.logEvent 3 false ((s.free 38).extractLsb' 0 32) ((s.free 39).extractLsb' 0 5).toNat (chanOf (line * 64))

/-- PATROL_SCRUB: `none` finds no error. A held bank holds the scrubber (R33). -/
def execPatrolScrub (line : Nat) (c : Option Bool) (s : State) : Host.Outcome State Fault Refusal :=
  if devEnd ≤ line * 64 || s.bankHeld (line * 64) then .next s
  else
    match c with
    | none => .next s
    | some true => .next (s.corrected (chanOf (line * 64)))
    | some false => .next (s.poisonLine line)

/-- The index of the word or double that a byte offset names, and whether it is poisoned. -/
def Tile.unitPoison (x : Tile) (u : Unit5) (off : Nat) : Bool :=
  match u with
  | .memoryTile => NSet.has x.memPoison (off / 8)
  | .lvs => NSet.has x.lvsPoison (off / 4)
  | .acs => NSet.has x.acsPoison (off / 4)
  | .operand => NSet.has x.opPoison (off / 8)
  | .pool => NSet.has x.poolPoison (off / 8)

def Tile.poisonUnit (x : Tile) (u : Unit5) (off : Nat) : Tile :=
  match u with
  | .memoryTile => { x with memPoison := NSet.add x.memPoison (off / 8) }
  | .lvs => { x with lvsPoison := NSet.add x.lvsPoison (off / 4) }
  | .acs => { x with acsPoison := NSet.add x.acsPoison (off / 4) }
  | .operand => { x with opPoison := NSet.add x.opPoison (off / 8) }
  | .pool => { x with poolPoison := NSet.add x.poolPoison (off / 8) }

/-- The size of a unit in bytes. -/
def unitSize : Unit5 → Nat
  | .memoryTile => 2097152
  | .lvs => 524288
  | .acs => 524288
  | .operand => 262144
  | .pool => 262144

/-- The report of a latent fault (R240): a notice to the region that holds the tile, or the memory event log (log entry 11, DEDUCED). -/
def State.latent (s : State) (t : Nat) (u : Unit5) (off : Nat) : State :=
  match s.regionOf t with
  | some r =>
    let f : FaultInfo := { code := Code.hwDetected, elem := 0x09 }
    s.regionRecord r (recWord0 f { notice := true } t 0 0 0 0) 0 (recWord2 0xFFFFFFFF (0 : Word)) (recWord3 f)
  | none => s.logLatent t u off

/-- STORAGE_SCRUB (R83, R159, R240). -/
def execStorageScrub (t : Nat) (u : Unit5) (off : Nat) (c : Option Bool) (s : State) : Host.Outcome State Fault Refusal :=
  match c with
  | some false =>
    if unitSize u ≤ off || 768 ≤ t || (s.tile t).unitPoison u off then .next s
    else .next ((s.putTile t ((s.tile t).poisonUnit u off)).latent t u off)
  | _ => .next s

/-- A change of a channel's state: both version numbers rise and an event is logged (R36). -/
def State.channelEvent (s : State) (n kind : Nat) : State :=
  (s.modCfg (fun c => { c with cmapver := c.cmapver + 1, memGen := c.memGen + 1 })).logEvent kind false 0 0 n

/-- CHANNEL_NARROW. -/
def execChannelNarrow (n : Nat) (s : State) : Host.Outcome State Fault Refusal :=
  if 384 ≤ n || NSet.has s.cfg.retired n || NSet.has s.cfg.narrowed n then .next s
  else .next ((s.modCfg (fun c => { c with narrowed := NSet.add c.narrowed n })).channelEvent n 4)

/-- CHANNEL_RETIRE: a graph that runs on its unit stops. -/
def execChannelRetire (n : Nat) (s : State) : Host.Outcome State Fault Refusal :=
  if 384 ≤ n || NSet.has s.cfg.retired n then .next s
  else
    let s1 := s.modCfg (fun c => { c with retired := NSet.add c.retired n, narrowed := NSet.drop c.narrowed n })
    .next ((s1.channelEvent n 5).unitHw n 7)

/-- TILE_HEALTH_CLEAR (R22). -/
def execTileHealthClear (t : Nat) (s : State) : Host.Outcome State Fault Refusal :=
  if 768 ≤ t || !s.cfg.healthy t then .next s
  else .next (s.modCfg (fun c => { c with health := SMap.put true c.health t false, gridGen := c.gridGen + 1 }))

/-- CXL_LINK_DOWN (R40, R41). -/
def execCxlLinkDown (p : Nat) (s : State) : Host.Outcome State Fault Refusal :=
  if 8 ≤ p || !s.cfg.tierUp.getLsbD p then .next s
  else .next (s.modCfg (fun c => { c with tierUp := setBit c.tierUp p false, tierGen := c.tierGen + 1 }))

/-! ### Single faults (R239) -/

/-- CLOCK_SUPPLY_FAULT: a set fault of every set of every running region; the part stops issue (log entry 31, DEDUCED). -/
def execClockSupplyFault (s : State) : Host.Outcome State Fault Refusal :=
  let sets := (s.regions.filter (fun r => r.2.st == .running)).flatMap (fun r => s.regionSets r.1)
  .next { sets.foldl (fun s v => s.setFaultAt v.1 v.2.1 { code := Code.hwDetected, elem := 0x0A } 0 0 0) s with stopped := true }

/-- A lane's datapath fails at the instruction that a thread executes: it faults before the write. -/
def State.laneFault (s : State) (t o tid : Nat) : State :=
  match s.set? t o with
  | none => s
  | some v =>
    match v.sweep with
    | none => s
    | some w =>
      if v.stopped || !(w.passes.drop w.cur).any (fun p => p.tids.contains tid) then s
      else
        let trap := w.mode == .trap
        let s1 := if trap then s else s.modSet t o (fun v => v.outOfSweep tid)
        s1.threadFault t o tid w.blk w.idx w.loops trap { code := Code.hwDetected, elem := 0x02 }

/-- The issued command of a set that pops an input end. -/
def SetState.popper (v : SetState) (e : Nat) : Option Cmd :=
  v.queue.find? (fun c => c.at' == .issued && c.i.ports.any (fun p => p.1 && v.ent.chInN p.2.toNat == e))

/-- A fault in a channel whose consumer is a set's end: the cube binding that holds it, the command that pops it, or the set (log entry 32,
DEDUCED). -/
def State.chanFaultSet (s : State) (t o e : Nat) : State :=
  let f : FaultInfo := { code := Code.hwDetected, elem := 0x04 }
  match s.set? t o, (s.tile t).cube.binding with
  | none, _ => s
  | some v, b =>
    match b, s.boundByCube t o v.ent true e, v.popper e with
    | some b, true, _ => (s.modBinding t (fun b => { b with fault := true })).notice t b.set 0 (s.node t 4 0) v.eoiInvoc { node := true } f
    | _, _, some c => s.stopCmd t o c f
    | _, _, none => s.setFaultAt t o f 0 0 0

/-- A fault in a channel goes to its consumer's unit: the graph of a link; the circuit, halted or running, or the port node that holds the end; or
the set that binds it. An end that nothing has taken yet has only its tile to report it (log entry 32, DEDUCED). -/
def State.chanFault (s : State) (n : Nat) : State :=
  match s.chans.look n with
  | none => s
  | some c =>
    match c.cons with
    | .link m _ => s.unitHw m 4
    | .tile t e =>
      match (s.tile t).arrs.find? (fun a => a.2.holds && a.2.ice == e), (s.tile t).ports.find? (fun p => p.input == some e), s.endSet? t e with
      | some (a, r), _, _ =>
        let f : FaultInfo := { code := Code.hwDetected, elem := 0x04, ac := r.pac }
        (s.tileRecord t (recWord0 f { cir := true } t (r.lastSet.getD 0) a r.step.toNat 0) 0 (recWord2 (s.node t 3 a) r.eoi)
          (recWord3 f)).modArr t a (fun r => { r with mode := .halted, absent := false })
      | _, some p, _ => s.portFault t p { code := Code.hwDetected, elem := 0x04 }
      | _, _, some o => s.chanFaultSet t o e
      | _, _, none => s.notice t 0 0 0xFFFFFFFF 0 { notice := true } { code := Code.hwDetected, elem := 0x04 }
    | _ => s

/-- A tier device indicates that a line is poisoned (R40). -/
def State.tierPoison (s : State) (line : Nat) : State :=
  match s.cfg.place (line * 64) with
  | .tier _ => { s with poison := NSet.add s.poison line }
  | _ => s

/-- SINGLE_FAULT: the line of a tier device that its own code cannot correct comes back as poison (R28, R40). -/
def execSingleFault (site : FaultSite) (s : State) : Host.Outcome State Fault Refusal :=
  match site with
  | .device line c =>
    if devEnd ≤ line * 64 then .next (if c then s else s.tierPoison line)
    else .next (if c then s.corrected (chanOf (line * 64)) else s.poisonLine line)
  | .storage t u off c => if c || unitSize u ≤ off || 768 ≤ t then .next s else .next (s.putTile t ((s.tile t).poisonUnit u off))
  | .cube t => .next (s.putTile t { s.tile t with cube := { (s.tile t).cube with bad := true } })
  | .lane t o tid => .next (s.laneFault t o tid)
  | .sequencer t o => .next (s.setFaultAt t o { code := Code.hwDetected, elem := 0x03 } 0 0 0)
  | .channel n => .next (s.chanFault n)
  | .translation die i =>
    match s.xlat[i]? with
    | some x => .next (if x.at'.dieNo == die then { s with xlat := s.xlat.eraseIdx i } else s)
    | none => .next s
  | .link => .next s
  | .base n => .next (s.unitHw n 8)

/-! ### Accesses from the domain (R262) -/

/-- A writer's SV fields count: in the Open state, or from the host named at enrolment. -/
def Regs.svFrom (c : Regs) (node : Nat) : Bool := c.sec == 0 || c.enrolledHost == some node

/-- Device memory that another node may reach: in Sealed and Attested, the window PEERWIN. -/
def Regs.inWindow (c : Regs) (pa n : Nat) : Bool :=
  let lo := c.peerBase.toNat * gib
  c.sec == 0 || decide (lo ≤ pa ∧ pa + n ≤ lo + c.peerSize.toNat * gib)

/-- Memory that an inbound access reaches with success. -/
def State.inboundOk (s : State) (pa n : Nat) (whole : Bool) : Bool :=
  match s.cfg.place pa with
  | .device => s.cfg.inWindow pa n && !s.memFaults pa n whole
  | .tier _ => !s.memFaults pa n whole
  | _ => false

/-- An access that stands for a write of another node: writes of one node to one line are performed in order. -/
def State.inboundWrite (s : State) (node pa n : Nat) (loc : Place2) (w : Double) : State :=
  let same := (s.toCome.filter (fun a => a.2.tile == 1024 + node && a.2.va.toNat / 64 == pa / 64)).map (fun a => (⟨a.1, 4, false⟩ : Need))
  (s.issueAcc { tile := 1024 + node, set := 0, tid := 0, kind := .store, loc := loc, va := BitVec.ofNat 64 pa, bytes := n, data := w, cls := 0xFFFF,
                ac := 0, acq := false, rel := false, checked := true, after := same, blk := 0, idx := 0 }).1

/-- INBOUND_ACCESS: a read leaves the part as it is; a refused access changes nothing, and the error goes to its node. An accepted write to memory
is performed in its time, and a doorbell of its node releases it (R265) (log entry 33, DEDUCED). -/
def execInboundAccess (node : Nat) (a : Inbound) (s : State) : Host.Outcome State Fault Refusal :=
  if 2 ≤ s.cfg.pwr.toNat && !(match a with
    | .write pa _ _ => s.cfg.place pa == .config
    | _ => false) then .next s
  else if s.cfg.pwr == 3 then .next s
  else
    match a with
    | .read _ _ => .next s
    | .write pa n w =>
      if n = 0 || 8 < n || pa % n ≠ 0 then .next s
      else if s.cfg.place pa == .config then
        .next (if n = 8 then (s.cfgWrite (pa - cfgBase) w (s.cfg.svFrom node) node).1 else s)
      else .next (if s.inboundOk pa n false then s.inboundWrite node pa n (.dev pa 0) w else s)
    | .writeLine line w =>
      .next (if s.inboundOk (line * 64) 64 true then s.inboundWrite node (line * 64) 64 (.line line w) 0 else s)

/-! ### Boot, security, power and management -/

/-- POWER_ON_RESET. -/
def execPowerOnReset (s : State) : Host.Outcome State Fault Refusal := .next s.powerOn

/-- RECOVERY_LOAD. -/
def execRecoveryLoad (addr : BitVec 58) (s : State) : Host.Outcome State Fault Refusal := .next (s.recover addr)

/-- The word of a security command that keeps the buffer address of SECCMD. -/
def secWord (s : State) (op arg : BitVec 4) : Double := (0 : BitVec 8) ++ op ++ arg ++ s.cfg.secBuf ++ (0 : BitVec 6)

/-- ENROL, ATTEST, SET_DEBUG, RELEASE and POWER_REQUEST: the command of SECCMD with the buffer that it names. -/
def execEnrol (node : Nat) (s : State) : Host.Outcome State Fault Refusal := .next (s.writeSeccmd (secWord s 1 0) node).1
def execAttest (s : State) : Host.Outcome State Fault Refusal := .next (s.writeSeccmd (secWord s 2 0) s.cfg.devid.toNat).1
def execSetDebug (level : BitVec 2) (s : State) : Host.Outcome State Fault Refusal :=
  .next (s.writeSeccmd (secWord s 3 (level.setWidth 4)) s.cfg.devid.toNat).1
def execRelease (s : State) : Host.Outcome State Fault Refusal := .next (s.writeSeccmd (secWord s 4 0) s.cfg.devid.toNat).1
def execPowerRequest (p : BitVec 2) (s : State) : Host.Outcome State Fault Refusal :=
  .next (s.writeSeccmd (secWord s 5 (p.setWidth 4)) s.cfg.devid.toNat).1

/-- BOARD_POWER_OFF (R274). -/
def execBoardPowerOff (s : State) : Host.Outcome State Fault Refusal := .next s.powerOff

/-- A request over I3C returns the part from Retain to Idle (R273). -/
def State.i3cWake (s : State) : State := if s.cfg.pwr == 2 then s.modCfg (fun c => { c with pwr := 1 }) else s

/-- I3C_CAP_WRITE (R275). -/
def execI3cCapWrite (cap : BitVec 16) (s : State) : Host.Outcome State Fault Refusal :=
  if s.cfg.pwr == 3 then .next s
  else .next (s.i3cWake.modCfg (fun c => { c with powerCap := clampCap cap }))

/-- I3C_WAKE (R273). -/
def execI3cWake (s : State) : Host.Outcome State Fault Refusal :=
  .next s.i3cWake

/-! ### Keys and checkpoints -/

/-- The word of a key command (R31). -/
def keyWord (op : BitVec 2) (k : BitVec 12) : Double := (0 : BitVec 6) ++ op ++ (0 : BitVec 44) ++ k

/-- KEY_LOAD, KEY_INVALIDATE, KEY_COMMAND_COMPLETE. -/
def execKeyLoad (k : BitVec 12) (s : State) : Host.Outcome State Fault Refusal := .next (s.writeKeycmd (keyWord 1 k)).1
def execKeyInvalidate (k : BitVec 12) (s : State) : Host.Outcome State Fault Refusal := .next (s.writeKeycmd (keyWord 2 k)).1
def execKeyCommandComplete (s : State) : Host.Outcome State Fault Refusal := .next s.keyComplete

/-- CHECKPOINT_SAVE, CHECKPOINT_RESTORE, CHECKPOINT_DONE. -/
def execCheckpointSave (s : State) : Host.Outcome State Fault Refusal := .next (s.writeCkptctl 1).1
def execCheckpointRestore (s : State) : Host.Outcome State Fault Refusal := .next (s.writeCkptctl 2).1
def execCheckpointDone (s : State) : Host.Outcome State Fault Refusal := .next s.ckptFinish

/-! ### Drift (R251) -/

/-- A LOST record once room has returned (log entry 36, DEDUCED). -/
def State.driftLostRecord (s : State) (t : Nat) : State :=
  let n := (s.tile t).driftLost
  if n = 0 then s
  else
    let s1 := s.putTile t { s.tile t with driftLost := 0 }
    s1.driftPut t (s1.traceWords ⟨t, 0, 0, 0xFFFFFFFF, 0, 8, .other, 0, BitVec.ofNat 64 n, none⟩ false)

/-- DRIFT_DRAIN: the oldest record goes to the trace ring; a full ring or a held bank holds it, and one that meets poison is dropped (R33,
R231). -/
def execDriftDrain (t : Nat) (s : State) : Host.Outcome State Fault Refusal :=
  match (s.tile t).drift, (s.setsOf t).head? with
  | r :: rest, some (_, v) =>
    let gone (s : State) : State := ((s.putTile t { s.tile t with drift := rest }).driftLostRecord t).driftRoom t
    if s.ringBankHeld v.regs.trcbase then .next s
    else
    match s.ringPut v.regs.trcbase r.w0 r.w1 r.w2 r.w3 with
    | .off => .next (gone s)
    | .full _ => .next s
    | .wrote s1 _ => .next (gone s1)
    | .poisoned =>
      match s.regionOf t with
      | some q => .next (gone (s.modRegionRegs q (fun g => { g with trcbase := g.trcbase ||| 2 })))
      | none => .next (gone s)
  | _, _ => .next s

/-! ### Gust walks (R253, R254) -/

/-- The push that made a token of an end, as its channel keeps it: the GO of a source end is one, and what comes from outside has no notes (R253). -/
def Chan.maker (c : Chan) (n : Nat) : Option (Option (Nat × Nat)) := c.made[c.pushed - 1 - n]?

/-- The end reason of a hop from a firing, and the producer's firing that the walk goes on to, in its tile. The token of the last condition is the one
that the end's pop count names; the producing end says which firing pushed it, and that element its note, while they keep them (R253, R254; log
entry 35, DEDUCED). -/
def State.hopEnd (s : State) (t : Nat) (g : Gust) : Nat × Option (Nat × Note) :=
  if 2 ≤ g.note.last then (2, none)
  else
    match g.note.inEnd.bind (s.inChan t) with
    | none => (1, none)
    | some (_, ch) =>
      match ch.prod with
      | .none => (if (ch.maker g.note.pops).any (fun m => m.any (fun p => p.1 == goKey)) then 1 else 5, none)
      | .tile u _ =>
        match ch.maker g.note.pops with
        | none => (4, none)
        | some none => (5, none)
        | some (some (key, num)) =>
          match (((s.tile u).notes.look key).getD []).find? (fun n => n.num == num) with
          | none => (4, none)
          | some n => if g.left ≤ 1 then (3, none) else (0, some (u, n))
      | _ => (5, none)

/-- The PATH event of a hop (R249). -/
def pathEvent (t : Nat) (g : Gust) (why : Nat) : TraceEv :=
  ⟨t, g.set, g.note.blk, g.note.node, g.note.invoc, 5, .other, g.probe ++ BitVec.ofNat 4 why ++ BitVec.ofNat 4 g.note.last ++ BitVec.ofNat 8 g.hop,
    g.note.arrival, some g.note⟩

/-- GUST_WALK_HOP: the oldest walk that stands at a tile takes one hop, while the debug level allows it (R243). -/
def execGustWalkHop (t : Nat) (s : State) : Host.Outcome State Fault Refusal :=
  match (s.tile t).gusts with
  | [] => .next s
  | g :: rest =>
    if !s.dbgObserve then .next s else
    let h := s.hopEnd t g
    let ev := pathEvent t g h.1
    if s.traceStalls ev then .next (s.driftStall t g.set)
    else
      let s1 := (s.putTile t { s.tile t with gusts := rest }).observe ev
      match h.2 with
      | none => .next s1
      | some (u, n) => .next (s1.putTile u { s1.tile u with gusts := (s1.tile u).gusts ++ [⟨g.probe, g.hop + 1, g.left - 1, n.set, n⟩] })

/-! ### Tree SYNC (R255) -/

/-- The set of a tile whose record a tree SYNC writes: the first that traces. -/
def State.syncSet (s : State) (t : Nat) : Option (Nat × SetState) := (s.setsOf t).find? (fun v => s.traceOn (syncEvent t v.1 v.2 false))

/-- A tile sees a tree SYNC: its SYNCID, and a record of the first of its sets that traces. -/
def State.treeSyncAt (s : State) (t : Nat) (id : BitVec 24) : State :=
  let s1 := s.putTile t { s.tile t with lastSync := id }
  match s1.syncSet t with
  | some (o, v) => s1.observe (syncEvent t o v false)
  | none => s1

/-- TREE_SYNC: a SYNC of the next id, while some set of the region asks for it (log entry 37, DEDUCED). A full Drift of a lossless set holds it
(R251). -/
def execTreeSync (r : Nat) (s : State) : Host.Outcome State Fault Refusal :=
  match s.region? r with
  | none => .next s
  | some x =>
    if x.st != .running || !s.dbgObserve || !(s.regionSets r).any (fun v => (v.2.2.trcctl).extractLsb' 24 8 != 0) then .next s
    else
      match x.tiles.findSome? (fun t => (s.syncSet t).bind (fun v => if s.traceStalls (syncEvent t v.1 v.2 false) then some (t, v.1) else none)) with
      | some (t, o) => .next (s.driftStall t o)
      | none =>
        .next (x.tiles.foldl (fun s t => s.treeSyncAt t (x.syncId + 1)) (s.modRegion r (fun y => { y with syncId := y.syncId + 1 })))

/-! ### A bound divergence (R259) -/

/-- An element that chooses: whether it is able to, the choices that are possible now, its set and block, and itself. -/
structure Chooser where
  able : Bool
  choices : List Double
  set : Nat
  blk : Nat
  elem : Elem
  node : Word
  invoc : Word

/-- The input ends of the any-merge that a parked thread of a block stands at. -/
def State.mergeEnds (s : State) (t o b : Nat) (v : SetState) (th : Thread) : Option (List Nat) :=
  match th.place, v.blocks[b]? with
  | .parked n i _, some blk =>
    if n != b then none
    else
      match decodeWord (SMap.get 0 (s.tile t).pool (poolWord o blk i)) with
      | .ok (.amerge _ _ _ x y z) => some (([x, y] ++ z.toList).map v.ent.chIn)
      | _ => none
  | _, _ => none

/-- An any-merge that a parked thread of a block waits at. -/
def State.mergeChooser (s : State) (t elem : Nat) : Chooser :=
  let o := elem / 4096
  let b := elem % 4096
  let ends := (s.set? t o).bind (fun v => v.threads.findSome? (fun th => s.mergeEnds t o b v th.2))
  let ready := match ends with
    | some es => (List.range es.length).filter (fun i => (s.headAt t (es.getD i 255)).any (fun k : Token => !k.isCtl))
    | none => []
  ⟨!ready.isEmpty, ready.map (fun i => BitVec.ofNat 64 i), o, b, .block t o b, s.blockNode t o b, s.setInvoc t o⟩

def State.chooser (s : State) (t kind elem : Nat) : Chooser :=
  let plain (able : Bool) (l : List Double) : Chooser := ⟨able, l, 0, 0, .none, 0xFFFFFFFF, 0⟩
  match kind with
  | 1 => s.mergeChooser t elem
  | 2 =>
    let q := (s.atomWaiting t).filter (fun p => s.atomReady t p.2)
    plain (!q.isEmpty) (q.map (fun p => s.atomChoice p.2))
  | 3 =>
    let cs := s.chans.filter (fun c => c.2.xc == elem && !c.2.win.isEmpty && (c.2.consTile.map Prod.fst) == some t)
    plain (!cs.isEmpty) (cs.map (fun c => c.2.deliveryChoice c.1))
  | 4 => { plain (s.feedRoom t elem) (s.mboxHeld.filterMap (fun h =>
      if s.mboxEnd h.n.toNat == some (t, elem) then some ((0 : BitVec 29) ++ h.tag ++ h.val) else none)) with
      set := s.endSet t elem, node := s.node t 1 elem, invoc := s.setInvoc t (s.endSet t elem) }
  | 5 =>
    let r := s.arr t elem
    let w := r.stepAt r.step.toNat
    let can := r.mode == .running && stPop w && (s.headAt t r.ice).any (fun k => !k.isCtl)
    ⟨can, if can then [r.cycles.setWidth 64] else [], r.lastSet.getD 0, 0, .array t elem, s.node t 3 elem, r.eoi⟩
  | _ => plain false []

/-- REPLAY_DIVERGE: an element could choose, and the logged choice has not become possible (log entry 38, DEDUCED). -/
def execReplayDiverge (t kind elem : Nat) (s : State) : Host.Outcome State Fault Refusal :=
  let c := s.chooser t kind elem
  let on := match s.rplMode t with
    | .strict => true
    | .advisory => true
    | _ => false
  match s.hindLook t kind elem with
  | none => .next s
  | some w =>
    if on && !s.halting t && s.runs t && c.able && !c.choices.contains w then .next (s.diverge t c.set c.blk kind elem c.elem c.node c.invoc w 2)
    else .next s

end Sys2Proof.Machine
end

