-- ==== Sys2Proof/Machine/Dispatch.lean ====
section
/-!
DEFINITION. The dispatch: one arm for each constructor of `Instr`, each a direct call of that instruction's or event's meaning.
-/
namespace Sys2Proof.Machine

def exec (i : Instr) (s : State) : Host.Outcome State Fault Refusal :=
  match i with
  | .addInt g ty d a b => Sys2Proof.Machine.execAddInt g ty d a b s
  | .subInt g ty d a b => Sys2Proof.Machine.execSubInt g ty d a b s
  | .mulInt g ty d a b => Sys2Proof.Machine.execMulInt g ty d a b s
  | .mulhi g ty d a b => Sys2Proof.Machine.execMulhi g ty d a b s
  | .mad g ty d a b c => Sys2Proof.Machine.execMad g ty d a b c s
  | .divInt g ty d a b => Sys2Proof.Machine.execDivInt g ty d a b s
  | .remInt g ty d a b => Sys2Proof.Machine.execRemInt g ty d a b s
  | .minInt g ty d a b => Sys2Proof.Machine.execMinInt g ty d a b s
  | .maxInt g ty d a b => Sys2Proof.Machine.execMaxInt g ty d a b s
  | .absInt g ty d a => Sys2Proof.Machine.execAbsInt g ty d a s
  | .negInt g ty d a => Sys2Proof.Machine.execNegInt g ty d a s
  | .adds g ty d a b => Sys2Proof.Machine.execAdds g ty d a b s
  | .subs g ty d a b => Sys2Proof.Machine.execSubs g ty d a b s
  | .dot4Int g uns d a b c => Sys2Proof.Machine.execDot4Int g uns d a b c s
  | .andB g ty d a b => Sys2Proof.Machine.execAndB g ty d a b s
  | .orB g ty d a b => Sys2Proof.Machine.execOrB g ty d a b s
  | .xorB g ty d a b => Sys2Proof.Machine.execXorB g ty d a b s
  | .notB g ty d a => Sys2Proof.Machine.execNotB g ty d a s
  | .andn g ty d a b => Sys2Proof.Machine.execAndn g ty d a b s
  | .shl g ty d a b => Sys2Proof.Machine.execShl g ty d a b s
  | .shr g ty d a b => Sys2Proof.Machine.execShr g ty d a b s
  | .sra g ty d a b => Sys2Proof.Machine.execSra g ty d a b s
  | .rotl g ty d a b => Sys2Proof.Machine.execRotl g ty d a b s
  | .popc g ty d a => Sys2Proof.Machine.execPopc g ty d a s
  | .clz g ty d a => Sys2Proof.Machine.execClz g ty d a s
  | .ctz g ty d a => Sys2Proof.Machine.execCtz g ty d a s
  | .brev g ty d a => Sys2Proof.Machine.execBrev g ty d a s
  | .bfe g ty d a b => Sys2Proof.Machine.execBfe g ty d a b s
  | .bfi g ty d a b c => Sys2Proof.Machine.execBfi g ty d a b c s
  | .addImm g d a imm => Sys2Proof.Machine.execAddImm g d a imm s
  | .mulImm g d a imm => Sys2Proof.Machine.execMulImm g d a imm s
  | .andImm g d a imm => Sys2Proof.Machine.execAndImm g d a imm s
  | .orImm g d a imm => Sys2Proof.Machine.execOrImm g d a imm s
  | .xorImm g d a imm => Sys2Proof.Machine.execXorImm g d a imm s
  | .shlImm g d a imm => Sys2Proof.Machine.execShlImm g d a imm s
  | .shrImm g d a imm => Sys2Proof.Machine.execShrImm g d a imm s
  | .sraImm g d a imm => Sys2Proof.Machine.execSraImm g d a imm s
  | .minImm g d a imm => Sys2Proof.Machine.execMinImm g d a imm s
  | .maxImm g d a imm => Sys2Proof.Machine.execMaxImm g d a imm s
  | .movImm g d imm => Sys2Proof.Machine.execMovImm g d imm s
  | .movhi g d a imm => Sys2Proof.Machine.execMovhi g d a imm s
  | .lea g uns sc d a b => Sys2Proof.Machine.execLea g uns sc d a b s
  | .extLo g d a => Sys2Proof.Machine.execExtLo g d a s
  | .extHi g d a => Sys2Proof.Machine.execExtHi g d a s
  | .pack64 g d a b => Sys2Proof.Machine.execPack64 g d a b s
  | .nop g => Sys2Proof.Machine.execNop g s
  | .mov g ty d a => Sys2Proof.Machine.execMov g ty d a s
  | .sel g ty d a b c => Sys2Proof.Machine.execSel g ty d a b c s
  | .ffclr g mask => Sys2Proof.Machine.execFfclr g mask s
  | .addF32 g sf rm d a b => Sys2Proof.Machine.execAddF32 g sf rm d a b s
  | .subF32 g sf rm d a b => Sys2Proof.Machine.execSubF32 g sf rm d a b s
  | .mulF32 g sf rm d a b => Sys2Proof.Machine.execMulF32 g sf rm d a b s
  | .fmaF32 g sf rm d a b c => Sys2Proof.Machine.execFmaF32 g sf rm d a b c s
  | .fmsF32 g sf rm d a b c => Sys2Proof.Machine.execFmsF32 g sf rm d a b c s
  | .fnmaF32 g sf rm d a b c => Sys2Proof.Machine.execFnmaF32 g sf rm d a b c s
  | .minF32 g sf d a b => Sys2Proof.Machine.execMinF32 g sf d a b s
  | .maxF32 g sf d a b => Sys2Proof.Machine.execMaxF32 g sf d a b s
  | .absF32 g d a => Sys2Proof.Machine.execAbsF32 g d a s
  | .negF32 g d a => Sys2Proof.Machine.execNegF32 g d a s
  | .divF32 g sf rm d a b => Sys2Proof.Machine.execDivF32 g sf rm d a b s
  | .sqrtF32 g sf rm d a => Sys2Proof.Machine.execSqrtF32 g sf rm d a s
  | .rcpF32 g sf d a => Sys2Proof.Machine.execRcpF32 g sf d a s
  | .rsqrtF32 g sf d a => Sys2Proof.Machine.execRsqrtF32 g sf d a s
  | .exp2F32 g sf d a => Sys2Proof.Machine.execExp2F32 g sf d a s
  | .log2F32 g sf d a => Sys2Proof.Machine.execLog2F32 g sf d a s
  | .copysignF32 g d a b => Sys2Proof.Machine.execCopysignF32 g d a b s
  | .classF32 g d a => Sys2Proof.Machine.execClassF32 g d a s
  | .rintF32 g sf rm d a => Sys2Proof.Machine.execRintF32 g sf rm d a s
  | .addPacked g sf rm sat ty d a b => Sys2Proof.Machine.execAddPacked g sf rm sat ty d a b s
  | .subPacked g sf rm sat ty d a b => Sys2Proof.Machine.execSubPacked g sf rm sat ty d a b s
  | .mulPacked g sf rm sat ty d a b => Sys2Proof.Machine.execMulPacked g sf rm sat ty d a b s
  | .fmaPacked g sf rm sat ty d a b c => Sys2Proof.Machine.execFmaPacked g sf rm sat ty d a b c s
  | .minPacked g sf rm sat ty d a b => Sys2Proof.Machine.execMinPacked g sf rm sat ty d a b s
  | .maxPacked g sf rm sat ty d a b => Sys2Proof.Machine.execMaxPacked g sf rm sat ty d a b s
  | .absPacked g sf rm sat ty d a => Sys2Proof.Machine.execAbsPacked g sf rm sat ty d a s
  | .negPacked g sf rm sat ty d a => Sys2Proof.Machine.execNegPacked g sf rm sat ty d a s
  | .dot2 g sf rm d a b c => Sys2Proof.Machine.execDot2 g sf rm d a b c s
  | .dot4B8 g sf rm f d a b c => Sys2Proof.Machine.execDot4B8 g sf rm f d a b c s
  | .cvt g sf rm sat dty sty d a => Sys2Proof.Machine.execCvt g sf rm sat dty sty d a s
  | .pk2 g sf rm sty d a b => Sys2Proof.Machine.execPk2 g sf rm sty d a b s
  | .pk4 g sf rm sat dty src d a b c => Sys2Proof.Machine.execPk4 g sf rm sat dty src d a b c s
  | .upk g ty e d a => Sys2Proof.Machine.execUpk g ty e d a s
  | .scl g sf rm d a b => Sys2Proof.Machine.execScl g sf rm d a b s
  | .bscale g f d a => Sys2Proof.Machine.execBscale g f d a s
  | .cmp g sf cond ty d a b => Sys2Proof.Machine.execCmp g sf cond ty d a b s
  | .cmpImm g cond d a imm => Sys2Proof.Machine.execCmpImm g cond d a imm s
  | .pAnd g d a b => Sys2Proof.Machine.execPAnd g d a b s
  | .pOr g d a b => Sys2Proof.Machine.execPOr g d a b s
  | .pXor g d a b => Sys2Proof.Machine.execPXor g d a b s
  | .pNot g d a => Sys2Proof.Machine.execPNot g d a s
  | .pAndn g d a b => Sys2Proof.Machine.execPAndn g d a b s
  | .pMov g d a => Sys2Proof.Machine.execPMov g d a s
  | .ldDev g size data m => Sys2Proof.Machine.execLdDev g size data m s
  | .ldAcqDev g size data m => Sys2Proof.Machine.execLdAcqDev g size data m s
  | .ldLoc g size data m => Sys2Proof.Machine.execLdLoc g size data m s
  | .ldAcqLoc g size data m => Sys2Proof.Machine.execLdAcqLoc g size data m s
  | .stDev g size data m => Sys2Proof.Machine.execStDev g size data m s
  | .stRelDev g size data m => Sys2Proof.Machine.execStRelDev g size data m s
  | .stLoc g size data m => Sys2Proof.Machine.execStLoc g size data m s
  | .stRelLoc g size data m => Sys2Proof.Machine.execStRelLoc g size data m s
  | .atom g sf op ty data m => Sys2Proof.Machine.execAtom g sf op ty data m s
  | .red g sf op ty data m => Sys2Proof.Machine.execRed g sf op ty data m s
  | .fence g scope mask => Sys2Proof.Machine.execFence g scope mask s
  | .eqWait g n => Sys2Proof.Machine.execEqWait g n s
  | .spill g a n => Sys2Proof.Machine.execSpill g a n s
  | .fill g d n => Sys2Proof.Machine.execFill g d n s
  | .strmRd c port desc => Sys2Proof.Machine.execStrmRd c port desc s
  | .strmWr c port desc => Sys2Proof.Machine.execStrmWr c port desc s
  | .engBar c => Sys2Proof.Machine.execEngBar c s
  | .cpIn c desc => Sys2Proof.Machine.execCpIn c desc s
  | .cpOut c desc => Sys2Proof.Machine.execCpOut c desc s
  | .cpLocal c desc => Sys2Proof.Machine.execCpLocal c desc s
  | .cpPush c port desc => Sys2Proof.Machine.execCpPush c port desc s
  | .cpPushz c port desc => Sys2Proof.Machine.execCpPushz c port desc s
  | .cpPop c port desc => Sys2Proof.Machine.execCpPop c port desc s
  | .cpPopd c port desc => Sys2Proof.Machine.execCpPopd c port desc s
  | .chPush g tag rel n a => Sys2Proof.Machine.execChPush g tag rel n a s
  | .chPop g tag acq d n => Sys2Proof.Machine.execChPop g tag acq d n s
  | .chPeek g tag d n => Sys2Proof.Machine.execChPeek g tag d n s
  | .chTag g d n => Sys2Proof.Machine.execChTag g d n s
  | .chCtl g sub dst a => Sys2Proof.Machine.execChCtl g sub dst a s
  | .steer g inv ty d a p f => Sys2Proof.Machine.execSteer g inv ty d a p f s
  | .merge g inv ty d a b p => Sys2Proof.Machine.execMerge g inv ty d a b p s
  | .amerge g ty d a b c => Sys2Proof.Machine.execAmerge g ty d a b c s
  | .lgen g d a st c => Sys2Proof.Machine.execLgen g d a st c s
  | .br g tgt => Sys2Proof.Machine.execBr g tgt s
  | .brC g cond tgt other => Sys2Proof.Machine.execBrC g cond tgt other s
  | .exit g => Sys2Proof.Machine.execExit g s
  | .exitAbandon g => Sys2Proof.Machine.execExitAbandon g s
  | .loop n count last => Sys2Proof.Machine.execLoop n count last s
  | .loopR n st last => Sys2Proof.Machine.execLoopR n st last s
  | .thrNew g d a blk => Sys2Proof.Machine.execThrNew g d a blk s
  | .grpJoin g a => Sys2Proof.Machine.execGrpJoin g a s
  | .grpLeave g a => Sys2Proof.Machine.execGrpLeave g a s
  | .barSet g region n a => Sys2Proof.Machine.execBarSet g region n a s
  | .barBind g region n a => Sys2Proof.Machine.execBarBind g region n a s
  | .barArrive g region n => Sys2Proof.Machine.execBarArrive g region n s
  | .slotClaim c first countM1 => Sys2Proof.Machine.execSlotClaim c first countM1 s
  | .slotFill c first countM1 chan desc => Sys2Proof.Machine.execSlotFill c first countM1 chan desc s
  | .slotRel c first countM1 => Sys2Proof.Machine.execSlotRel c first countM1 s
  | .cubeMm c desc => Sys2Proof.Machine.execCubeMm c desc s
  | .cubeGate c desc => Sys2Proof.Machine.execCubeGate c desc s
  | .cubeSpread c desc => Sys2Proof.Machine.execCubeSpread c desc s
  | .cubeFold c desc => Sys2Proof.Machine.execCubeFold c desc s
  | .cubeBind c gate chI chO desc => Sys2Proof.Machine.execCubeBind c gate chI chO desc s
  | .cubeUnbind c => Sys2Proof.Machine.execCubeUnbind c s
  | .acsLd g d a off => Sys2Proof.Machine.execAcsLd g d a off s
  | .acsSt g a b off => Sys2Proof.Machine.execAcsSt g a b off s
  | .cirConvert c arr pmask => Sys2Proof.Machine.execCirConvert c arr pmask s
  | .cirSched c arr desc => Sys2Proof.Machine.execCirSched c arr desc s
  | .cirRun c arr => Sys2Proof.Machine.execCirRun c arr s
  | .cirRunf c arr => Sys2Proof.Machine.execCirRunf c arr s
  | .cirHalt c arr => Sys2Proof.Machine.execCirHalt c arr s
  | .cirRevert c arr => Sys2Proof.Machine.execCirRevert c arr s
  | .cirPageout c arr page desc => Sys2Proof.Machine.execCirPageout c arr page desc s
  | .cirPagein c arr page desc => Sys2Proof.Machine.execCirPagein c arr page desc s
  | .sregRd g d a r => Sys2Proof.Machine.execSregRd g d a r s
  | .sregWr g d a b r => Sys2Proof.Machine.execSregWr g d a b r s
  | .capRd g d a off => Sys2Proof.Machine.execCapRd g d a off s
  | .capWr g d a b off => Sys2Proof.Machine.execCapWr g d a b off s
  | .trapRd g n => Sys2Proof.Machine.execTrapRd g n s
  | .trapAct g op d a => Sys2Proof.Machine.execTrapAct g op d a s
  | .trapFwd g d => Sys2Proof.Machine.execTrapFwd g d s
  | .cfgSel g sel other a => Sys2Proof.Machine.execCfgSel g sel other a s
  | .cfgLd c s1 arm start desc => Sys2Proof.Machine.execCfgLd c s1 arm start desc s
  | .preempt c desc => Sys2Proof.Machine.execPreempt c desc s
  | .restore c desc => Sys2Proof.Machine.execRestore c desc s
  | .nmqSub c desc => Sys2Proof.Machine.execNmqSub c desc s
  | .nmqPoll g d a => Sys2Proof.Machine.execNmqPoll g d a s
  | .mark g a => Sys2Proof.Machine.execMark g a s
  | .perfRd g d n => Sys2Proof.Machine.execPerfRd g d n s
  | .engineQueueIssue tile set => Sys2Proof.Machine.execEngineQueueIssue tile set s
  | .commandRetire tile set seq => Sys2Proof.Machine.execCommandRetire tile set seq s
  | .returnDatum tile set grp tid => Sys2Proof.Machine.execReturnDatum tile set grp tid s
  | .returnGroupComplete tile set grp => Sys2Proof.Machine.execReturnGroupComplete tile set grp s
  | .translationWalk walk => Sys2Proof.Machine.execTranslationWalk walk s
  | .atomicPipelineCycle tile => Sys2Proof.Machine.execAtomicPipelineCycle tile s
  | .selection tile set => Sys2Proof.Machine.execSelection tile set s
  | .eoiForward tile set => Sys2Proof.Machine.execEoiForward tile set s
  | .eosForward tile set => Sys2Proof.Machine.execEosForward tile set s
  | .drnForward tile set => Sys2Proof.Machine.execDrnForward tile set s
  | .probeArrival tile set endNo => Sys2Proof.Machine.execProbeArrival tile set endNo s
  | .syncArrival tile set endNo => Sys2Proof.Machine.execSyncArrival tile set endNo s
  | .setCompletion tile set => Sys2Proof.Machine.execSetCompletion tile set s
  | .planeSwap tile => Sys2Proof.Machine.execPlaneSwap tile s
  | .regionComplete region => Sys2Proof.Machine.execRegionComplete region s
  | .regionPlacement launch => Sys2Proof.Machine.execRegionPlacement launch s
  | .preemptiveLaunch launch => Sys2Proof.Machine.execPreemptiveLaunch launch s
  | .preemptionComplete region => Sys2Proof.Machine.execPreemptionComplete region s
  | .strayToken chan => Sys2Proof.Machine.execStrayToken chan s
  | .lullSweep region => Sys2Proof.Machine.execLullSweep region s
  | .borderDelivery chan => Sys2Proof.Machine.execBorderDelivery chan s
  | .circuitStep tile arr => Sys2Proof.Machine.execCircuitStep tile arr s
  | .circuitControlForward tile arr => Sys2Proof.Machine.execCircuitControlForward tile arr s
  | .conversionComplete tile arr => Sys2Proof.Machine.execConversionComplete tile arr s
  | .slotClearDone tile slot => Sys2Proof.Machine.execSlotClearDone tile slot s
  | .cubeDigestsComplete die gid => Sys2Proof.Machine.execCubeDigestsComplete die gid s
  | .cubeStreamFiring tile => Sys2Proof.Machine.execCubeStreamFiring tile s
  | .cubeControlForward tile => Sys2Proof.Machine.execCubeControlForward tile s
  | .portNodeInvocation tile port => Sys2Proof.Machine.execPortNodeInvocation tile port s
  | .bsuLaunch => Sys2Proof.Machine.execBsuLaunch s
  | .bsuResume => Sys2Proof.Machine.execBsuResume s
  | .bsuAbort => Sys2Proof.Machine.execBsuAbort s
  | .bsuQuery => Sys2Proof.Machine.execBsuQuery s
  | .nmqCommandDone => Sys2Proof.Machine.execNmqCommandDone s
  | .bsuNodeFire channel node => Sys2Proof.Machine.execBsuNodeFire channel node s
  | .bsuLoadReturn channel node => Sys2Proof.Machine.execBsuLoadReturn channel node s
  | .bsuLinkArrival channel link => Sys2Proof.Machine.execBsuLinkArrival channel link s
  | .mitigationEnd channel bank => Sys2Proof.Machine.execMitigationEnd channel bank s
  | .mailboxDelivery n => Sys2Proof.Machine.execMailboxDelivery n s
  | .faultDoorbell => Sys2Proof.Machine.execFaultDoorbell s
  | .keyCommandComplete => Sys2Proof.Machine.execKeyCommandComplete s
  | .invalidationComplete tile set => Sys2Proof.Machine.execInvalidationComplete tile set s
  | .checkpointDone => Sys2Proof.Machine.execCheckpointDone s
  | .haltComplete region => Sys2Proof.Machine.execHaltComplete region s
  | .driftDrain tile => Sys2Proof.Machine.execDriftDrain tile s
  | .gustWalkHop tile => Sys2Proof.Machine.execGustWalkHop tile s
  | .treeSync region => Sys2Proof.Machine.execTreeSync region s
  | .engineProgress tile set seq => Sys2Proof.Machine.execEngineProgress tile set seq s
  | .tokenArrival chan => Sys2Proof.Machine.execTokenArrival chan s
  | .slotReturn chan => Sys2Proof.Machine.execSlotReturn chan s
  | .bsuStorePerformed channel node => Sys2Proof.Machine.execBsuStorePerformed channel node s
  | .strayDiscardEnd tile endNo => Sys2Proof.Machine.execStrayDiscardEnd tile endNo s
  | .strayDiscardAll tile => Sys2Proof.Machine.execStrayDiscardAll tile s
  | .nmqTailWrite tail => Sys2Proof.Machine.execNmqTailWrite tail s
  | .activationAlert channel bank bsu => Sys2Proof.Machine.execActivationAlert channel bank bsu s
  | .patrolScrub line correctable => Sys2Proof.Machine.execPatrolScrub line correctable s
  | .storageScrub tile unit offset correctable => Sys2Proof.Machine.execStorageScrub tile unit offset correctable s
  | .channelNarrow channel => Sys2Proof.Machine.execChannelNarrow channel s
  | .channelRetire channel => Sys2Proof.Machine.execChannelRetire channel s
  | .tileHealthClear tile => Sys2Proof.Machine.execTileHealthClear tile s
  | .cxlLinkDown port => Sys2Proof.Machine.execCxlLinkDown port s
  | .clockSupplyFault => Sys2Proof.Machine.execClockSupplyFault s
  | .peerTimeout tile set party => Sys2Proof.Machine.execPeerTimeout tile set party s
  | .inboundAccess node acc => Sys2Proof.Machine.execInboundAccess node acc s
  | .mailboxWrite node n data => Sys2Proof.Machine.execMailboxWrite node n data s
  | .powerOnReset => Sys2Proof.Machine.execPowerOnReset s
  | .recoveryLoad addr => Sys2Proof.Machine.execRecoveryLoad addr s
  | .keyLoad keyid => Sys2Proof.Machine.execKeyLoad keyid s
  | .keyInvalidate keyid => Sys2Proof.Machine.execKeyInvalidate keyid s
  | .xinvAll tile set => Sys2Proof.Machine.execXinvAll tile set s
  | .xinvAsid tile set asid => Sys2Proof.Machine.execXinvAsid tile set asid s
  | .xinvPage tile set asid => Sys2Proof.Machine.execXinvPage tile set asid s
  | .xinvKeyid tile set keyid => Sys2Proof.Machine.execXinvKeyid tile set keyid s
  | .xfsvcWrite tile set v => Sys2Proof.Machine.execXfsvcWrite tile set v s
  | .checkpointSave => Sys2Proof.Machine.execCheckpointSave s
  | .checkpointRestore => Sys2Proof.Machine.execCheckpointRestore s
  | .fltResume tile set tid => Sys2Proof.Machine.execFltResume tile set tid s
  | .fltSkip tile set tid => Sys2Proof.Machine.execFltSkip tile set tid s
  | .fltRetire tile set tid => Sys2Proof.Machine.execFltRetire tile set tid s
  | .fltResumeCommand tile set seq => Sys2Proof.Machine.execFltResumeCommand tile set seq s
  | .fltAbandonCommand tile set seq => Sys2Proof.Machine.execFltAbandonCommand tile set seq s
  | .fltResumeSet tile set => Sys2Proof.Machine.execFltResumeSet tile set s
  | .dbgHalt region => Sys2Proof.Machine.execDbgHalt region s
  | .dbgResume region => Sys2Proof.Machine.execDbgResume region s
  | .dbgStep region => Sys2Proof.Machine.execDbgStep region s
  | .dbgRead region space tile adr => Sys2Proof.Machine.execDbgRead region space tile adr s
  | .dbgWrite region space tile adr => Sys2Proof.Machine.execDbgWrite region space tile adr s
  | .replayDiverge tile kind elem => Sys2Proof.Machine.execReplayDiverge tile kind elem s
  | .perturbRead tile set => Sys2Proof.Machine.execPerturbRead tile set s
  | .enrol node => Sys2Proof.Machine.execEnrol node s
  | .attest => Sys2Proof.Machine.execAttest s
  | .setDebug level => Sys2Proof.Machine.execSetDebug level s
  | .release => Sys2Proof.Machine.execRelease s
  | .powerRequest st => Sys2Proof.Machine.execPowerRequest st s
  | .boardPowerOff => Sys2Proof.Machine.execBoardPowerOff s
  | .i3cCapWrite cap => Sys2Proof.Machine.execI3cCapWrite cap s
  | .i3cWake => Sys2Proof.Machine.execI3cWake s
  | .registerWrite r v => Sys2Proof.Machine.execRegisterWrite r v s
  | .singleFault site => Sys2Proof.Machine.execSingleFault site s
  | .regionEnd region => Sys2Proof.Machine.execRegionEnd region s

end Sys2Proof.Machine
end

