-- ==== Sys2Proof/Machine/Moves.lean ====
section
/-!
DEFINITION. Which moves a state offers (log entry 6), and the moves that are no row of the table. The part's own events are
offered; what the environment, the firmware and the host do comes by the agenda.
-/
namespace Sys2Proof.Machine

/-- Moves of a set. -/
def SetState.moves (t o : Nat) (v : SetState) : List Move :=
  let ends := (v.ent.chin ++ v.ent.pcin).filter (· != 255)
  (if v.sweep.isSome then [.issue t o] else [.happen (.selection t o)]) ++
    [.happen (.engineQueueIssue t o), .happen (.eoiForward t o), .happen (.eosForward t o), .happen (.drnForward t o),
      .happen (.setCompletion t o), .happen (.invalidationComplete t o)] ++
    ends.flatMap (fun e => [.happen (.probeArrival t o e), .happen (.syncArrival t o e)]) ++
    (v.queue.filter (fun c => c.at' != .queued)).flatMap (fun c => [.happen (.engineProgress t o c.seq), .happen (.commandRetire t o c.seq)]) ++
    v.groups.flatMap (fun g => .happen (.returnGroupComplete t o g.1) :: g.2.members.map (fun m => .happen (.returnDatum t o g.1 m.tid)))

/-- Moves of a tile. -/
def Tile.moves (t : Nat) (x : Tile) : List Move :=
  (match x.active with
    | some p => p.sets.flatMap (fun v => v.2.moves t v.1)
    | none => []) ++
    x.arrs.flatMap (fun a => [.happen (.circuitStep t a.1), .happen (.circuitControlForward t a.1), .happen (.conversionComplete t a.1)]) ++
    x.slots.map (fun k => .happen (.slotClearDone t k.1)) ++
    (if x.cube.binding.isSome then [.happen (.cubeStreamFiring t), .happen (.cubeControlForward t)] else []) ++
    (if x.cube.digest.isEmpty then [] else x.cube.digest.map (fun d => .happen (.cubeDigestsComplete (dieOf t) d.1))) ++
    (if x.atomQ.isEmpty then [] else [.happen (.atomicPipelineCycle t)]) ++
    (if x.latch.isSome then [.happen (.planeSwap t)] else []) ++
    (if x.drift.isEmpty then [] else [.happen (.driftDrain t)]) ++
    (if x.gusts.isEmpty then [] else [.happen (.gustWalkHop t)]) ++
    x.ports.map (fun p => .happen (.portNodeInvocation t p.port))

/-- Moves of a channel. -/
def Chan.moves (n : Nat) (c : Chan) : List Move :=
  (if c.fly.isEmpty then [] else [.happen (.tokenArrival n)]) ++ [.happen (.slotReturn n), .happen (.borderDelivery n), .happen (.strayToken n)]

/-- Moves of a bank-side unit. -/
def BankUnit.moves (n : Nat) : List Move :=
  (List.range 16).flatMap (fun k => [.happen (.bsuNodeFire n k), .happen (.bsuLoadReturn n k), .happen (.bsuStorePerformed n k)]) ++
    (List.range 8).map (fun l => .happen (.bsuLinkArrival n l)) ++ [.drain n]

/-- The moves that a state offers when none has been chosen (log entry 6, DESIGN CHOICE). -/
def State.choices (s : State) : List Move :=
  s.tiles.flatMap (fun x => x.2.moves x.1) ++ s.chans.flatMap (fun c => c.2.moves c.1) ++
    s.walks.map (fun w => .happen (.translationWalk w.1)) ++
    s.regions.flatMap (fun r => [.happen (.regionComplete r.1), .happen (.preemptionComplete r.1), .happen (.lullSweep r.1),
      .happen (.haltComplete r.1), .happen (.treeSync r.1)]) ++
    s.waiting.flatMap (fun w => [.happen (.regionPlacement w.1), .happen (.preemptiveLaunch w.1)]) ++
    s.mboxHeld.map (fun h => .happen (.mailboxDelivery h.n)) ++ (if s.bells.isEmpty then [] else [.happen .faultDoorbell]) ++
    [.happen .bsuLaunch, .happen .bsuResume, .happen .bsuAbort, .happen .bsuQuery, .happen .nmqCommandDone, .happen .keyCommandComplete,
      .happen .checkpointDone] ++
    s.units.flatMap (fun u => BankUnit.moves u.1) ++ s.holds.map (fun h => .happen (.mitigationEnd (h / 32) (h % 32))) ++
    s.toCome.flatMap (fun a => .perform a.1 :: (if a.2.kind == .store then [.narrow a.1 1, .narrow a.1 2, .narrow a.1 3] else [])) ++ (if s.cfg.secBusy then [.secDone] else []) ++
    (List.range s.xlat.length).map (fun i => .evict i) ++ (List.range s.wcache.length).map (fun i => .evictWalk i)

/-- A launch reaches the dispatcher: it wakes the part from Idle (R207, R273), and is refused while a checkpoint is busy (R43). -/
def State.arriveLaunch (s : State) (l : Launch) : State :=
  let s1 := if s.cfg.pwr == 1 then s.wake else s
  if s1.cfg.ckptBusy then { s1 with refused := s1.refused.insert s1.nextId 0, nextId := s1.nextId + 1 }
  else { s1 with waiting := s1.waiting ++ [(s1.nextId, l)], nextId := s1.nextId + 1 }

/-- A move other than an issue or an event. -/
def State.make (s : State) (m : Move) : State :=
  match m with
  | .perform i => s.performAcc i
  | .narrow i l => s.narrowAcc i l
  | .spread i t o => s.spreadXlat i t o
  | .drain n => s.drainOne n
  | .evict i => { s with xlat := s.xlat.eraseIdx i }
  | .evictWalk i => { s with wcache := s.wcache.eraseIdx i }
  | .arrive l => s.arriveLaunch l
  | .secDone => s.modCfg (fun c => { c with secBusy := false })
  | .issue _ _ => s
  | .happen _ => s

end Sys2Proof.Machine
end

