-- ==== Sys2Proof/Machine/Step.lean ====
section
/-!
DEFINITION. One step: the next move of the agenda, or, when none has been chosen, a free choice among the moves that the state
offers (log entry 6). A set's sequencer issues one instruction to one pass; an event happens; or another move is made.
-/
namespace Sys2Proof.Machine

/-- A set issues one instruction to one pass. -/
def issueStep (s : State) (t o : Nat) : Host.Outcome State Fault Refusal :=
  match s.fetch t o with
  | .stall s1 => .next s1
  | .trap s1 => .next (s1.issued t o)
  | .run i s1 =>
    match exec i s1 with
    | .next s2 => .next (s2.issued t o)
    | .fault f => .fault f
    | .refused r => .refused r

/-- Make one move. -/
def moveStep (m : Move) (s : State) : Host.Outcome State Fault Refusal :=
  match m with
  | .issue t o => issueStep s t o
  | .happen i => exec i s
  | m => .next (s.make m)

/-- One step of the part. Every step advances the counter that free values are applied to. -/
def step (s : State) : Host.Outcome State Fault Refusal :=
  let s1 := { s with tick := s.tick + 1 }
  match s.agenda with
  | m :: rest => moveStep m { s1 with agenda := rest }
  | [] =>
    match s.choices[s.choose 0 s.choices.length]? with
    | some m => moveStep m s1
    | none => .next s1

/-- The state with one instruction placed where the next step fetches (log entry 5): a loaded and launched set whose
sweep stands at that instruction. -/
def State.withFetchWord (s : State) (nbits w : Nat) : State := s.placeWord (BitVec.ofNat 64 (w % 2 ^ nbits))

end Sys2Proof.Machine
end

