-- ==== Sys2Proof/Safety.lean ====
section
/-!
DEFINITION. What claims are stated in terms of: the canonical form of every memory and map, a pass of one thread that can execute, the
operands that an instruction finds ready, and the state in which such a pass ends.
-/
namespace Sys2Proof.Machine

/-! ### Canonical states -/

/-- The maps and memories of a tile are in canonical form. -/
def Tile.canon (t : Tile) : Bool :=
  Memory.wf t.mem && Memory.wf t.opmem && SMap.wf (0 : Word) t.lvs && SMap.wf (0 : Word) t.acs && SMap.wf (0 : Double) t.pool

/-- Device memory, the table of tiles, and every tile are in canonical form. -/
def State.canon (s : State) : Bool := Memory.wf s.mem && SMap.wf Tile.reset s.tiles && s.tiles.all (fun t => t.2.canon)

/-! ### A pass of one thread -/

/-- The pass in focus when it has one thread, whose guard holds, while no late result of the thread is outstanding and none to a register that
the set shares: where the thread executes, and its set. -/
def State.solo? (s : State) (g : Guard) : Option (Ctx × SetState) :=
  match s.focus? with
  | none => none
  | some (v, w, p) =>
    match p.tids, w.done with
    | [tid], [] =>
      match v.threads.look tid with
      | none => none
      | some th => if (v.groupsOf tid).isEmpty && v.groups.all (fun x => !x.2.marks.any Mark.isShared) && th.guard g then some ({ focusCtx s v w p with tid := tid }, v) else none
    | _, _ => none

/-- The input ends that operands pop, and the output end that a destination pushes. -/
def outOf (e : SetEntry) (dst : Option Operand) : Option (Nat × Operand) := dst.bind (fun x => (x.o.outEnd e).map (fun n => (n, x)))

/-- The values of the sources when nothing holds the operands back (R161, R286): every end is bound and no cube binding has it, every
pop has a token of the right tag and format, the push has room, and no register read is poisoned. -/
def readyOperands (c : Ctx) (s : State) (v : SetState) (srcs : List Operand) (dst : Option Operand) : Option (List Double) :=
  let ins := popEnds v.ent srcs
  let out := outOf v.ent dst
  if (chkEnds (srcs.map Operand.o) (dst.toList.map Operand.o) v c).isSome ||
      ins.any (fun p => s.boundByCube c.tile c.set v.ent true p.1) || out.any (fun p => s.boundByCube c.tile c.set v.ent false p.1) ||
      out.any (fun p => s.roomAt c.tile p.1 == 0) ||
      out.any (fun p => p.2.tag == 3 && p.2.fmt.isSome && s.fmtOut c.tile p.1 != p.2.fmt) ||
      srcs.any (fun x => (s.opdPoison c v.ent x.wide x.o).isSome) then none
  else
    match s.pops c.tile [] ins with
    | .take ks => some (srcValues c s srcs ks)
    | _ => none

/-- The pops of a list of operands, in order. -/
def State.takeOperands (s : State) (c : Ctx) (v : SetState) (srcs : List Operand) : State :=
  (popEnds v.ent srcs).foldl (fun s p => s.popAt c.tile p.1) s

/-! ### How such a pass ends -/

/-- The end of a pass whose one thread has executed and stays in the sweep. -/
def passDone (c : Ctx) (s : State) (m : Option Member) (marks : List Mark) : State :=
  PassSt.close ⟨s, [c.tid], [c.tid], m.toList, 1, false⟩ c marks

/-- The end of a pass whose one thread has executed and has left the sweep. -/
def passGone (c : Ctx) (s : State) : State := PassSt.close ⟨s, [], [], [], 1, false⟩ c []

/-- The end of a pass whose one thread has parked or faulted. -/
def passLeft (c : Ctx) (s : State) : State := PassSt.close ⟨s, [], [], [], 0, false⟩ c []

/-- An instruction on operands has given its result at once: the pops are made, the destination is written or pushed, and the flags
that it raises are set unless `.nf` suppresses them (R150, R320, R321). -/
def resultNow (c : Ctx) (s : State) (v : SetState) (srcs : List Operand) (dst : Operand) (sf : Bool) (r : Double × Exc) : State :=
  passDone c ((writeOpd c (s.takeOperands c v srcs) dst.wide dst.tag dst.o r.1).modThread c.tile c.set c.tid
    (fun th => th.setFlags sf (if sf then Exc.none else r.2))) none []

/-- What a late instruction on operands marks pending: its destination, and ff where it raises flags (R160, R322). -/
def lateMarks (dst : Operand) (flags : Bool) : List Mark :=
  (dst.o.cover dst.wide).map Mark.opd ++ (if flags then [Mark.ff] else [])

/-- An instruction on operands whose result returns late (R322): the pops are made, a channel destination holds its slot, and the
pass's return group holds the result and its flags. -/
def resultLate (c : Ctx) (s : State) (v : SetState) (srcs : List Operand) (dst : Operand) (sf flags : Bool) (r : Double × Exc) : State :=
  let s1 := s.takeOperands c v srcs
  let s2 := match dst.o.outEnd v.ent with
    | some e => s1.reserve c.tile e
    | none => s1
  passDone c s2 (some ⟨c.tid, some dst.o, dst.wide, dst.tag, if sf then Exc.none else r.2, .value r.1, false⟩) (lateMarks dst flags)

/-- An instruction on word sources without a type, whose effect `f` makes: its pops follow the effect. -/
def actDone (c : Ctx) (v : SetState) (srcs : List Operand) (s1 : State) (m : Option Member) (marks : List Mark) : State :=
  passDone c (s1.takeOperands c v srcs) m marks

/-! ### What accesses, routes and commands are, in the terms of their rules -/

/-- No register word that an access reads is poisoned (R159). -/
def readsClean (p : DevOp) (c : Ctx) (s : State) (v : SetState) : Bool := (s.srcPoison c v.ent p.reads).isNone

/-- The predicate bit that a steer or merge finds, with the end it pops (R356). -/
def predBit (c : Ctx) (s : State) (v : SetState) (p : Opd) : Option (Bool × List Nat) :=
  match p.inEnd v.ent with
  | none => some ((readOpd c s false p).getLsbD 0, [])
  | some e =>
    match s.headAt c.tile e with
    | some k => if k.isCtl then none else some (k.val.getLsbD 0, [e])
    | none => none

/-- The value that a route moves from `src` to `dst` when both are ready (R357): a register, or a data token of the type's tag and format that
follows the pops already made. -/
def routeReady (c : Ctx) (s : State) (v : SetState) (ty : Ty) (used : List Nat) (src dst : Opd) : Option Double :=
  let room := (dst.outEnd v.ent).all (fun e => s.roomAt c.tile e != 0 &&
    !(ty.tag == 3 && ty.fmt.isSome && s.fmtOut c.tile e != ty.fmt))
  if !room || (s.opdPoison c v.ent false src).isSome then none
  else
    match src.inEnd v.ent with
    | none => some (readOpd c s false src)
    | some e =>
      match s.popToken c.tile used e with
      | none => none
      | some k =>
        let other := match src with
          | .pc _ => false
          | _ => k.tag != ty.tag || (k.tag == 3 && ty.fmt.isSome && s.fmtIn c.tile e != ty.fmt)
        if k.isCtl || other then none else some (k.val.setWidth 64)

/-- A route made: its pops, then its one write or push. -/
def routeDone (c : Ctx) (s : State) (v : SetState) (ty : Ty) (used : List Nat) (src dst : Opd) (x : Double) : State :=
  passDone c (writeOpd c ((used ++ (src.inEnd v.ent).toList).foldl (fun s e => s.popAt c.tile e) s) false ty.tag dst x) none []

/-- The format S instructions (R307, R365, R386): common fields, the register that gives the descriptor address, whether only a supervisor set
may issue it, and whether its anchor waits for it (R398). -/
def queued? : Instr → Option (SCom × Option (BitVec 4) × Bool × Bool)
  | .strmRd m _ d => some (m, some d, false, false)
  | .strmWr m _ d => some (m, some d, false, false)
  | .engBar m => some (m, none, false, false)
  | .cpIn m d => some (m, some d, false, false)
  | .cpOut m d => some (m, some d, false, false)
  | .cpLocal m d => some (m, some d, false, false)
  | .cpPush m _ d => some (m, some d, false, false)
  | .cpPushz m _ d => some (m, some d, false, false)
  | .cpPop m _ d => some (m, some d, false, false)
  | .cpPopd m _ d => some (m, some d, false, false)
  | .slotClaim m _ _ => some (m, none, false, false)
  | .slotFill m _ _ _ d => some (m, some d, false, false)
  | .slotRel m _ _ => some (m, none, false, false)
  | .cubeMm m d => some (m, some d, false, false)
  | .cubeGate m d => some (m, some d, false, false)
  | .cubeSpread m d => some (m, some d, false, false)
  | .cubeFold m d => some (m, some d, false, false)
  | .cubeBind m _ _ _ d => some (m, some d, false, false)
  | .cubeUnbind m => some (m, none, false, false)
  | .cirConvert m _ _ => some (m, none, false, false)
  | .cirSched m _ d => some (m, some d, false, false)
  | .cirRun m _ => some (m, none, false, false)
  | .cirRunf m _ => some (m, none, false, false)
  | .cirHalt m _ => some (m, none, false, false)
  | .cirRevert m _ => some (m, none, false, false)
  | .cirPageout m _ _ d => some (m, some d, false, false)
  | .cirPagein m _ _ d => some (m, some d, false, false)
  | .cfgLd m _ _ _ d => some (m, some d, true, true)
  | .preempt m d => some (m, some d, true, false)
  | .restore m d => some (m, some d, true, false)
  | .nmqSub m d => some (m, some d, true, false)
  | _ => none

/-! ### Encodings and frames -/

/-- The assigned pairs of opcode and function of R287. -/
def assigned (opc fn : Nat) : Bool :=
  let upTo (n : Nat) : Bool := decide (fn ≤ n)
  match opc with
  | 0x01 => upTo 0x0D
  | 0x02 => upTo 0x0E
  | 0x03 => upTo 0x0B
  | 0x04 => upTo 0x03
  | 0x05 => upTo 0x03
  | 0x10 => upTo 0x12
  | 0x11 => upTo 0x09
  | 0x18 => upTo 0x07
  | 0x19 => upTo 0x04
  | 0x1C => upTo 0x06
  | 0x1D => upTo 0x09
  | 0x1E => upTo 0x05
  | 0x20 => upTo 0x03
  | 0x21 => upTo 0x03
  | 0x22 => upTo 0x0D
  | 0x23 => upTo 0x04
  | 0x24 => upTo 0x00
  | 0x27 => fn == 0x38 || fn == 0x39
  | 0x28 => upTo 0x02
  | 0x29 => upTo 0x06
  | 0x2C => upTo 0x04
  | 0x2D => upTo 0x02
  | 0x2E => upTo 0x00
  | 0x30 => upTo 0x03
  | 0x31 => upTo 0x01
  | 0x34 => upTo 0x02
  | 0x35 => upTo 0x02
  | 0x36 => upTo 0x02
  | 0x37 => upTo 0x05
  | 0x38 => upTo 0x01
  | 0x3A => upTo 0x07
  | 0x3C => upTo 0x0C
  | 0x3D => upTo 0x01
  | _ => false

/-- The LVS words that a destination covers in a thread (R156, R158). -/
def Operand.words (d : Operand) (e : SetEntry) (tid : Nat) : List Nat :=
  match d.o with
  | .x n => e.xWord tid n.toNat :: (if d.wide then [e.xWord tid (n.toNat + 1)] else [])
  | _ => []

/-- The supervisor instructions on operands and commands (R278, R386), with the channel sources and destinations that are checked before. -/
def privileged? : Instr → Option (List Opd × List Opd)
  | .sregWr .. => some ([], [])
  | .capWr .. => some ([], [])
  | .cfgSel _ _ true a => some ([a], [])
  | .cfgLd .. => some ([], [])
  | .preempt .. => some ([], [])
  | .restore .. => some ([], [])
  | .nmqSub .. => some ([], [])
  | .nmqPoll _ d a => some ([a], [d])
  | _ => none

/-! ### The checks that a word passes before its guard is tested (R278) -/

/-- The operands that an instruction reads, and those that it writes, that can name a channel or predicate end (R285). -/
def wordEnds : Instr → List Opd × List Opd
  | .addInt _ _ d a b | .subInt _ _ d a b | .mulInt _ _ d a b | .mulhi _ _ d a b | .divInt _ _ d a b | .remInt _ _ d a b |
    .minInt _ _ d a b | .maxInt _ _ d a b | .adds _ _ d a b | .subs _ _ d a b | .andB _ _ d a b | .orB _ _ d a b | .xorB _ _ d a b |
    .andn _ _ d a b | .shl _ _ d a b | .shr _ _ d a b | .sra _ _ d a b | .rotl _ _ d a b | .bfe _ _ d a b | .addF32 _ _ _ d a b |
    .subF32 _ _ _ d a b | .mulF32 _ _ _ d a b | .minF32 _ _ d a b | .maxF32 _ _ d a b | .divF32 _ _ _ d a b | .copysignF32 _ d a b |
    .addPacked _ _ _ _ _ d a b | .subPacked _ _ _ _ _ d a b | .mulPacked _ _ _ _ _ d a b | .minPacked _ _ _ _ _ d a b |
    .maxPacked _ _ _ _ _ d a b | .pk2 _ _ _ _ d a b | .scl _ _ _ d a b | .cmp _ _ _ _ d a b | .pAnd _ d a b | .pOr _ d a b |
    .pXor _ d a b | .pAndn _ d a b => ([a, b], [d])
  | .mad _ _ d a b c | .dot4Int _ _ d a b c | .bfi _ _ d a b c | .sel _ _ d a b c | .fmaF32 _ _ _ d a b c | .fmsF32 _ _ _ d a b c |
    .fnmaF32 _ _ _ d a b c | .fmaPacked _ _ _ _ _ d a b c | .dot2 _ _ _ d a b c | .dot4B8 _ _ _ _ d a b c => ([a, b, c], [d])
  | .absInt _ _ d a | .negInt _ _ d a | .notB _ _ d a | .popc _ _ d a | .clz _ _ d a | .ctz _ _ d a | .brev _ _ d a | .addImm _ d a _ |
    .mulImm _ d a _ | .andImm _ d a _ | .orImm _ d a _ | .xorImm _ d a _ | .shlImm _ d a _ | .shrImm _ d a _ | .sraImm _ d a _ |
    .minImm _ d a _ | .maxImm _ d a _ | .extLo _ d a | .extHi _ d a | .mov _ _ d a | .absF32 _ d a | .negF32 _ d a | .sqrtF32 _ _ _ d a |
    .rcpF32 _ _ d a | .rsqrtF32 _ _ d a | .exp2F32 _ _ d a | .log2F32 _ _ d a | .classF32 _ d a | .rintF32 _ _ _ d a |
    .absPacked _ _ _ _ _ d a | .negPacked _ _ _ _ _ d a | .cvt _ _ _ _ _ _ d a | .upk _ _ _ d a | .bscale _ _ d a | .cmpImm _ _ d a _ |
    .pNot _ d a | .pMov _ d a => ([a], [d])
  | .movImm _ d _ => ([], [d])
  | .movhi _ d a _ => ([a], [d.opd])
  | .lea _ _ _ d a b | .pack64 _ d a b => ([a, b], [d.opd])
  | .pk4 _ _ _ _ _ (.f32 _) d a b c => ([a, b, c], [d])
  | .pk4 _ _ _ _ _ .bf16 d a b _ => ([a, b], [d])
  | .chPush _ _ _ n a => ([a], [.ch n])
  | .chPop _ _ _ d n | .chPeek _ _ d n | .chTag _ d n => ([.ch n], [d])
  | .chCtl _ sub dst a => (match sub with
      | .eos => []
      | .drn => []
      | _ => [a], [chNameOpd dst])
  | .steer _ _ _ d a p f => ([a, p], [d, f])
  | .merge _ _ _ d a b p => ([a, b, p], [d])
  | .amerge _ _ d a b c => (.ch a :: .ch b :: (c.toList.map Opd.ch), [d])
  | .lgen _ d a _ p => ([.ch a], d.toList.map Opd.ch ++ p.toList.map Opd.pc)
  | .thrNew _ d a _ | .nmqPoll _ d a => ([a], [d])
  | .grpJoin _ a | .grpLeave _ a | .barSet _ _ _ a | .barBind _ _ _ a | .trapAct _ _ _ a | .cfgSel _ _ true a | .mark _ a => ([a], [])
  | .acsLd _ d _ _ => ([], [d])
  | .acsSt _ _ b _ => ([b], [])
  | _ => ([], [])

/-- The blocks that an instruction names, which are thread blocks of its set (R344, R349). -/
def wordBlocks : Instr → List (BitVec 12)
  | .br _ tgt => [tgt]
  | .brC _ _ tgt other => [tgt, other]
  | .thrNew _ _ _ blk => [blk]
  | _ => []

/-- The set types and the block modes in which an instruction may execute (R183, R278, R306, R307). -/
def wordHome : Instr → List SetType × List BlockMode
  | .ldDev _ _ d _ | .ldAcqDev _ _ d _ => ([.ag], if Reg.isS d then [.token, .trap] else allModes)
  | .ldLoc _ _ d _ | .ldAcqLoc _ _ d _ => ([.cp, .rd], if Reg.isS d then [.token, .trap] else allModes)
  | .stDev .. | .stRelDev .. | .nmqPoll .. => ([.ag], allModes)
  | .stLoc .. | .stRelLoc .. => ([.cp, .rd], allModes)
  | .atom _ _ _ _ d _ => ([.rd], if Reg.isS d then [.token, .trap] else allModes)
  | .red .. => ([.rd], allModes)
  | .acsLd .. | .acsSt .. => ([.cp, .rd], [.thread, .token])
  | .br .. | .brC .. => (allTypes, [.thread])
  | .chCtl .. | .lgen .. | .cfgSel .. => (allTypes, [.token])
  | .trapRd .. | .trapAct .. | .trapFwd .. => (allTypes, [.trap])
  | i => if (queued? i).isSome then ([.ag], [.token]) else (allTypes, allModes)

/-- The trap, if any, that an instruction takes at the word, whatever its guard: an end that the set does not bind or a block that it does not
have, then the privilege, then the set type and the block mode (R278). -/
def wordCheck (i : Instr) (v : SetState) (c : Ctx) : Option (BitVec 8) :=
  chkAll [chkEnds (wordEnds i).1 (wordEnds i).2, chkBlocks (wordBlocks i), if (privileged? i).isSome then chkSup else chkNone,
    chkType (wordHome i).1 (wordHome i).2] v c

end Sys2Proof.Machine
end

