-- ==== Sys2Proof/Certificates/Slice0/Obligations.lean ====
section
/-!
DEFINITION. The statements for the provers. A statement about an instruction of a set is about a pass of one thread that can execute
(`State.solo?`), and gives the whole next state, so that it says what stays as well as what changes.
-/
open Sys2Proof Sys2Proof.Machine

/-! ### Lane arithmetic -/

/-- R323 to R325: what each integer instruction writes, by exact integers read by the type; div and rem return late. -/
def Obligations.IntegerArithmeticResults : Prop :=
  (∀ (s : State) (c : Ctx) (v : SetState) (g : Guard) (ty : ITy) (d a b : Opd) (x y : Double),
    s.solo? g = some (c, v) → readyOperands c s v [iOpd ty a, iOpd ty b] (some (iOpd ty d)) = some [x, y] →
    let now (r : Int) : Host.Outcome State Fault Refusal :=
      .next (resultNow c s v [iOpd ty a, iOpd ty b] (iOpd ty d) false (ty.pat r, Exc.none))
    let late (r : Int) : Host.Outcome State Fault Refusal :=
      .next (resultLate c s v [iOpd ty a, iOpd ty b] (iOpd ty d) false false (ty.pat r, Exc.none))
    let m := ty.read x
    let n := ty.read y
    exec (.addInt g ty d a b) s = now (m + n) ∧ exec (.subInt g ty d a b) s = now (m - n) ∧
    exec (.mulInt g ty d a b) s = now (m * n) ∧ exec (.mulhi g ty d a b) s = now (Int.fdiv (m * n) (2 ^ ty.bits)) ∧
    exec (.minInt g ty d a b) s = now (min m n) ∧ exec (.maxInt g ty d a b) s = now (max m n) ∧
    exec (.adds g ty d a b) s = now (max ty.lo (min ty.hi (m + n))) ∧ exec (.subs g ty d a b) s = now (max ty.lo (min ty.hi (m - n))) ∧
    exec (.divInt g ty d a b) s = late (if n = 0 then -1 else Int.tdiv m n) ∧
    exec (.remInt g ty d a b) s = late (if n = 0 then m else m - n * Int.tdiv m n)) ∧
  (∀ (s : State) (c : Ctx) (v : SetState) (g : Guard) (ty : ITy) (d a : Opd) (x : Double),
    s.solo? g = some (c, v) → readyOperands c s v [iOpd ty a] (some (iOpd ty d)) = some [x] →
    exec (.absInt g ty d a) s = .next (resultNow c s v [iOpd ty a] (iOpd ty d) false (ty.pat ((ty.read x).natAbs : Int), Exc.none)) ∧
    exec (.negInt g ty d a) s = .next (resultNow c s v [iOpd ty a] (iOpd ty d) false (ty.pat (-ty.read x), Exc.none))) ∧
  (∀ (s : State) (c : Ctx) (v : SetState) (g : Guard) (ty : ITy) (d a b e : Opd) (x y z : Double),
    s.solo? g = some (c, v) → readyOperands c s v [iOpd ty a, iOpd ty b, iOpd ty e] (some (iOpd ty d)) = some [x, y, z] →
    exec (.mad g ty d a b e) s =
      .next (resultNow c s v [iOpd ty a, iOpd ty b, iOpd ty e] (iOpd ty d) false (ty.pat (ty.read x * ty.read y + ty.read z), Exc.none))) ∧
  (∀ (s : State) (c : Ctx) (v : SetState) (g : Guard) (uns : Bool) (d a b e : Opd) (x y z : Double),
    let quad (o : Opd) : Operand := { o := o, tag := 4 }
    s.solo? g = some (c, v) → readyOperands c s v [quad a, quad b, wOpd e] (some (wOpd d)) = some [x, y, z] →
    exec (.dot4Int g uns d a b e) s = .next (resultNow c s v [quad a, quad b, wOpd e] (wOpd d) false
      (ofWord (BitVec.ofInt 32 ((loWord z).toInt +
        ((List.range 4).map (fun k => quadElem uns (loWord x) k * quadElem uns (loWord y) k)).sum)), Exc.none)))

/-- R326, R327: what each bit operation writes; shift counts are taken modulo the width. -/
def Obligations.BitOperationResults : Prop :=
  (∀ (s : State) (c : Ctx) (v : SetState) (g : Guard) (ty : ITy) (d a b : Opd) (x y : Double),
    s.solo? g = some (c, v) → readyOperands c s v [iOpd ty a, iOpd ty b] (some (iOpd ty d)) = some [x, y] →
    let now (r : Double) : Host.Outcome State Fault Refusal :=
      .next (resultNow c s v [iOpd ty a, iOpd ty b] (iOpd ty d) false (lowBits ty r, Exc.none))
    let n := (y.extractLsb' 0 32).toNat % ty.bits
    exec (.andB g ty d a b) s = now (x &&& y) ∧ exec (.orB g ty d a b) s = now (x ||| y) ∧ exec (.xorB g ty d a b) s = now (x ^^^ y) ∧
    exec (.andn g ty d a b) s = now (x &&& ~~~y) ∧ exec (.shl g ty d a b) s = now (shlVal ty x n) ∧
    exec (.shr g ty d a b) s = now (shrVal ty x n) ∧ exec (.sra g ty d a b) s = now (sraVal ty x n) ∧
    exec (.rotl g ty d a b) s = now (rotlVal ty x n)) ∧
  (∀ (s : State) (c : Ctx) (v : SetState) (g : Guard) (ty : ITy) (d a : Opd) (x : Double),
    s.solo? g = some (c, v) → readyOperands c s v [iOpd ty a] (some (iOpd ty d)) = some [x] →
    let now (r : Double) : Host.Outcome State Fault Refusal :=
      .next (resultNow c s v [iOpd ty a] (iOpd ty d) false (lowBits ty r, Exc.none))
    let u := (lowBits ty x).toNat
    exec (.notB g ty d a) s = now (~~~(lowBits ty x)) ∧ exec (.popc g ty d a) s = now (BitVec.ofNat 64 (popCount u ty.bits)) ∧
    exec (.clz g ty d a) s = now (BitVec.ofNat 64 (clzNat ty.bits u)) ∧ exec (.ctz g ty d a) s = now (BitVec.ofNat 64 (ctzNat u ty.bits 0)) ∧
    exec (.brev g ty d a) s = now (BitVec.ofNat 64 (brevNat u ty.bits ty.bits))) ∧
  (∀ (s : State) (c : Ctx) (v : SetState) (g : Guard) (ty : ITy) (d a b : Opd) (x y : Double),
    s.solo? g = some (c, v) → readyOperands c s v [iOpd ty a, wOpd b] (some (iOpd ty d)) = some [x, y] →
    exec (.bfe g ty d a b) s = .next (resultNow c s v [iOpd ty a, wOpd b] (iOpd ty d) false (bfeVal ty x y, Exc.none))) ∧
  (∀ (s : State) (c : Ctx) (v : SetState) (g : Guard) (ty : ITy) (d a b e : Opd) (x y z : Double),
    s.solo? g = some (c, v) → readyOperands c s v [iOpd ty a, wOpd b, iOpd ty e] (some (iOpd ty d)) = some [x, y, z] →
    exec (.bfi g ty d a b e) s = .next (resultNow c s v [iOpd ty a, wOpd b, iOpd ty e] (iOpd ty d) false (bfiVal ty x y z, Exc.none)))

/-- R280, R328, R341: what each immediate form writes; its width follows D. -/
def Obligations.ImmediateResults : Prop :=
  (∀ (s : State) (c : Ctx) (v : SetState) (g : Guard) (d a : Opd) (imm : BitVec 33) (x : Double),
    let t := immTy d
    s.solo? g = some (c, v) → readyOperands c s v [iOpd t a] (some (iOpd t d)) = some [x] →
    let now (r : Double) : Host.Outcome State Fault Refusal :=
      .next (resultNow c s v [iOpd t a] (iOpd t d) false (lowBits t r, Exc.none))
    let n := (imm.toInt % (t.bits : Int)).toNat
    exec (.addImm g d a imm) s = now (t.pat (t.read x + t.read (immVal t imm))) ∧
    exec (.mulImm g d a imm) s = now (t.pat (t.read x * t.read (immVal t imm))) ∧
    exec (.andImm g d a imm) s = now (x &&& immVal t imm) ∧ exec (.orImm g d a imm) s = now (x ||| immVal t imm) ∧
    exec (.xorImm g d a imm) s = now (x ^^^ immVal t imm) ∧ exec (.shlImm g d a imm) s = now (shlVal t x n) ∧
    exec (.shrImm g d a imm) s = now (shrVal t x n) ∧ exec (.sraImm g d a imm) s = now (sraVal t x n) ∧
    exec (.minImm g d a imm) s = now (t.pat (min (t.read x) (t.read (immVal t imm)))) ∧
    exec (.maxImm g d a imm) s = now (t.pat (max (t.read x) (t.read (immVal t imm))))) ∧
  (∀ (s : State) (c : Ctx) (v : SetState) (g : Guard) (d : Opd) (imm : BitVec 33),
    s.solo? g = some (c, v) → readyOperands c s v [] (some (iOpd (immTy d) d)) = some [] →
    exec (.movImm g d imm) s = .next (resultNow c s v [] (iOpd (immTy d) d) false (immVal (immTy d) imm, Exc.none))) ∧
  (∀ (s : State) (c : Ctx) (v : SetState) (g : Guard) (d : Reg) (a : Opd) (imm : BitVec 33) (x : Double),
    s.solo? g = some (c, v) → readyOperands c s v [wOpd a] (some (dOpd d.opd)) = some [x] →
    exec (.movhi g d a imm) s =
      .next (resultNow c s v [wOpd a] (dOpd d.opd) false (imm.extractLsb' 0 32 ++ loWord x, Exc.none))) ∧
  (∀ (s : State) (c : Ctx) (v : SetState) (g : Guard) (cond : CondImm) (d a : Opd) (imm : BitVec 33) (x : Double),
    s.solo? g = some (c, v) → readyOperands c s v [wOpd a] (some (wOpd d)) = some [x] →
    exec (.cmpImm g cond d a imm) s =
      .next (resultNow c s v [wOpd a] (wOpd d) false (boolWord (cmpImmVal cond (loWord x) imm), Exc.none)))

/-- R329 to R331, R342: address and width forms, moves, select, nop, flag clearing and predicate operations. -/
def Obligations.MoveAndPredicateResults : Prop :=
  (∀ (s : State) (c : Ctx) (v : SetState) (g : Guard) (uns : Bool) (sc : BitVec 2) (d : Reg) (a b : Opd) (x y : Double),
    s.solo? g = some (c, v) → readyOperands c s v [dOpd a, wOpd b] (some (dOpd d.opd)) = some [x, y] →
    exec (.lea g uns sc d a b) s = .next (resultNow c s v [dOpd a, wOpd b] (dOpd d.opd) false
      (BitVec.ofInt 64 ((x.toNat : Int) + (if uns then ((loWord y).toNat : Int) else (loWord y).toInt) * 2 ^ sc.toNat), Exc.none))) ∧
  (∀ (s : State) (c : Ctx) (v : SetState) (g : Guard) (d a : Opd) (x : Double),
    s.solo? g = some (c, v) → readyOperands c s v [dOpd a] (some (wOpd d)) = some [x] →
    exec (.extLo g d a) s = .next (resultNow c s v [dOpd a] (wOpd d) false ((x.extractLsb' 0 32).setWidth 64, Exc.none)) ∧
    exec (.extHi g d a) s = .next (resultNow c s v [dOpd a] (wOpd d) false ((x.extractLsb' 32 32).setWidth 64, Exc.none))) ∧
  (∀ (s : State) (c : Ctx) (v : SetState) (g : Guard) (d : Reg) (a b : Opd) (x y : Double),
    s.solo? g = some (c, v) → readyOperands c s v [wOpd a, wOpd b] (some (dOpd d.opd)) = some [x, y] →
    exec (.pack64 g d a b) s = .next (resultNow c s v [wOpd a, wOpd b] (dOpd d.opd) false (loWord y ++ loWord x, Exc.none))) ∧
  (∀ (s : State) (c : Ctx) (v : SetState) (g : Guard) (ty : Ty) (d a : Opd) (x : Double),
    s.solo? g = some (c, v) → readyOperands c s v [tOpd ty a] (some (tOpd ty d)) = some [x] →
    exec (.mov g ty d a) s = .next (resultNow c s v [tOpd ty a] (tOpd ty d) false (x, Exc.none))) ∧
  (∀ (s : State) (c : Ctx) (v : SetState) (g : Guard) (ty : Ty) (d a b e : Opd) (x y z : Double),
    s.solo? g = some (c, v) → readyOperands c s v [tOpd ty a, tOpd ty b, wOpd e] (some (tOpd ty d)) = some [x, y, z] →
    exec (.sel g ty d a b e) s =
      .next (resultNow c s v [tOpd ty a, tOpd ty b, wOpd e] (tOpd ty d) false (if z ≠ 0 then x else y, Exc.none))) ∧
  (∀ (s : State) (c : Ctx) (v : SetState) (g : Guard) (mask : BitVec 5), s.solo? g = some (c, v) →
    exec (.nop g) s = .next (passDone c (s.modThread c.tile c.set c.tid (fun th => th)) none []) ∧
    exec (.ffclr g mask) s =
      .next (passDone c (s.modThread c.tile c.set c.tid (fun th => { th with ff := th.ff &&& ~~~mask })) none [])) ∧
  (∀ (s : State) (c : Ctx) (v : SetState) (g : Guard) (d a b : Opd) (x y : Double),
    s.solo? g = some (c, v) → readyOperands c s v [wOpd a, wOpd b] (some (wOpd d)) = some [x, y] →
    let now (r : Double) : Host.Outcome State Fault Refusal := .next (resultNow c s v [wOpd a, wOpd b] (wOpd d) false (r, Exc.none))
    exec (.pAnd g d a b) s = now (x &&& y) ∧ exec (.pOr g d a b) s = now (x ||| y) ∧ exec (.pXor g d a b) s = now (x ^^^ y) ∧
    exec (.pAndn g d a b) s = now (x &&& (y ^^^ 1))) ∧
  (∀ (s : State) (c : Ctx) (v : SetState) (g : Guard) (d a : Opd) (x : Double),
    s.solo? g = some (c, v) → readyOperands c s v [wOpd a] (some (wOpd d)) = some [x] →
    exec (.pNot g d a) s = .next (resultNow c s v [wOpd a] (wOpd d) false (x ^^^ 1, Exc.none)) ∧
    exec (.pMov g d a) s = .next (resultNow c s v [wOpd a] (wOpd d) false (x, Exc.none)))

/-- R332 to R334, R340: FP32 arithmetic and compares; what is rounded, by which mode, which flags are raised, and what returns late. exp2
and log2 are rounded from 100 fraction bits (log entry 10). -/
def Obligations.Fp32Results : Prop :=
  (∀ (s : State) (c : Ctx) (v : SetState) (g : Guard) (sf : Bool) (rm : RM) (d a b : Opd) (x y : Double),
    s.solo? g = some (c, v) → readyOperands c s v [fOpd a, fOpd b] (some (fOpd d)) = some [x, y] →
    let now (f : Bool) (r : Double × Exc) : Host.Outcome State Fault Refusal := .next (resultNow c s v [fOpd a, fOpd b] (fOpd d) f r)
    let p := readF32 (loWord x)
    let q := readF32 (loWord y)
    exec (.addF32 g sf rm d a b) s = now sf (fres rm (Exact.add rm p q)) ∧
    exec (.subF32 g sf rm d a b) s = now sf (fres rm (Exact.add rm p q.neg)) ∧
    exec (.mulF32 g sf rm d a b) s = now sf (fres rm (Exact.mul p q)) ∧
    exec (.minF32 g sf d a b) s = now sf (f32MinMax false x y) ∧ exec (.maxF32 g sf d a b) s = now sf (f32MinMax true x y) ∧
    exec (.copysignF32 g d a b) s = now true (ofWord ((loWord x &&& 0x7FFFFFFF) ||| (loWord y &&& 0x80000000)), Exc.none) ∧
    exec (.divF32 g sf rm d a b) s =
      .next (resultLate c s v [fOpd a, fOpd b] (fOpd d) sf true (fres rm (Exact.div p q)))) ∧
  (∀ (s : State) (c : Ctx) (v : SetState) (g : Guard) (sf : Bool) (rm : RM) (d a b e : Opd) (x y z : Double),
    s.solo? g = some (c, v) → readyOperands c s v [fOpd a, fOpd b, fOpd e] (some (fOpd d)) = some [x, y, z] →
    let now (r : Exact × Exc) : Host.Outcome State Fault Refusal :=
      .next (resultNow c s v [fOpd a, fOpd b, fOpd e] (fOpd d) sf (fres rm r))
    let p := readF32 (loWord x)
    let q := readF32 (loWord y)
    let r := readF32 (loWord z)
    exec (.fmaF32 g sf rm d a b e) s = now (Exact.fma rm p q r) ∧ exec (.fmsF32 g sf rm d a b e) s = now (Exact.fma rm p q r.neg) ∧
    exec (.fnmaF32 g sf rm d a b e) s = now (Exact.fma rm p.neg q r)) ∧
  (∀ (s : State) (c : Ctx) (v : SetState) (g : Guard) (sf : Bool) (rm : RM) (d a : Opd) (x : Double),
    s.solo? g = some (c, v) → readyOperands c s v [fOpd a] (some (fOpd d)) = some [x] →
    let late (r : Double × Exc) : Host.Outcome State Fault Refusal := .next (resultLate c s v [fOpd a] (fOpd d) sf true r)
    let p := readF32 (loWord x)
    exec (.absF32 g d a) s = .next (resultNow c s v [fOpd a] (fOpd d) true (ofWord (loWord x &&& 0x7FFFFFFF), Exc.none)) ∧
    exec (.negF32 g d a) s = .next (resultNow c s v [fOpd a] (fOpd d) true (ofWord (loWord x ^^^ 0x80000000), Exc.none)) ∧
    exec (.rintF32 g sf rm d a) s = .next (resultNow c s v [fOpd a] (fOpd d) sf (fres .rne (Exact.rint rm p))) ∧
    exec (.sqrtF32 g sf rm d a) s = late (fres rm (Exact.sqrt p)) ∧ exec (.rcpF32 g sf d a) s = late (fres .rne (Exact.div (Exact.ofInt 1) p)) ∧
    exec (.rsqrtF32 g sf d a) s = late (fres .rne (Exact.rsqrt p)) ∧ exec (.exp2F32 g sf d a) s = late (fres .rne (Exact.exp2 p)) ∧
    exec (.log2F32 g sf d a) s = late (fres .rne (Exact.log2 p))) ∧
  (∀ (s : State) (c : Ctx) (v : SetState) (g : Guard) (d a : Opd) (x : Double),
    s.solo? g = some (c, v) → readyOperands c s v [fOpd a] (some (wOpd d)) = some [x] →
    exec (.classF32 g d a) s = .next (resultNow c s v [fOpd a] (wOpd d) true (BitVec.ofNat 64 (2 ^ f32Class (loWord x)), Exc.none))) ∧
  (∀ (s : State) (c : Ctx) (v : SetState) (g : Guard) (sf : Bool) (cond : Cond) (ty : Ty) (d a b : Opd) (x y : Double),
    s.solo? g = some (c, v) → readyOperands c s v [tOpd ty a, tOpd ty b] (some (wOpd d)) = some [x, y] →
    exec (.cmp g sf cond ty d a b) s = .next (resultNow c s v [tOpd ty a, tOpd ty b] (wOpd d) sf (cmpVal cond ty x y)))

/-- R335, R336: packed arithmetic acts element by element, and the flags are the union of the elements'. -/
def Obligations.PackedResults : Prop :=
  (∀ (s : State) (c : Ctx) (v : SetState) (g : Guard) (sf : Bool) (rm : RM) (sat : Sat) (ty : PTy) (d a b : Opd) (x y : Double),
    s.solo? g = some (c, v) → readyOperands c s v [pOpd ty a, pOpd ty b] (some (pOpd ty d)) = some [x, y] →
    let now (r : Double × Exc) : Host.Outcome State Fault Refusal := .next (resultNow c s v [pOpd ty a, pOpd ty b] (pOpd ty d) sf r)
    exec (.addPacked g sf rm sat ty d a b) s = now (packed2 ty rm sat (Exact.add rm) x y) ∧
    exec (.subPacked g sf rm sat ty d a b) s = now (packed2 ty rm sat (fun p q => Exact.add rm p q.neg) x y) ∧
    exec (.mulPacked g sf rm sat ty d a b) s = now (packed2 ty rm sat Exact.mul x y) ∧
    exec (.minPacked g sf rm sat ty d a b) s = now (packedPick ty false x y) ∧
    exec (.maxPacked g sf rm sat ty d a b) s = now (packedPick ty true x y)) ∧
  (∀ (s : State) (c : Ctx) (v : SetState) (g : Guard) (sf : Bool) (rm : RM) (sat : Sat) (ty : PTy) (d a : Opd) (x : Double),
    s.solo? g = some (c, v) → readyOperands c s v [pOpd ty a] (some (pOpd ty d)) = some [x] →
    exec (.absPacked g sf rm sat ty d a) s = .next (resultNow c s v [pOpd ty a] (pOpd ty d) sf (packedAbs ty x)) ∧
    exec (.negPacked g sf rm sat ty d a) s = .next (resultNow c s v [pOpd ty a] (pOpd ty d) sf (packedNeg ty rm sat x))) ∧
  (∀ (s : State) (c : Ctx) (v : SetState) (g : Guard) (sf : Bool) (rm : RM) (sat : Sat) (ty : PTy) (d a b e : Opd) (x y z : Double),
    s.solo? g = some (c, v) → readyOperands c s v [pOpd ty a, pOpd ty b, pOpd ty e] (some (pOpd ty d)) = some [x, y, z] →
    exec (.fmaPacked g sf rm sat ty d a b e) s =
      .next (resultNow c s v [pOpd ty a, pOpd ty b, pOpd ty e] (pOpd ty d) sf (packed3 ty rm sat (Exact.fma rm) x y z))) ∧
  (∀ (s : State) (c : Ctx) (v : SetState) (g : Guard) (sf : Bool) (rm : RM) (d a b e : Opd) (x y z : Double),
    s.solo? g = some (c, v) → readyOperands c s v [pOpd .bf16 a, pOpd .bf16 b, fOpd e] (some (fOpd d)) = some [x, y, z] →
    exec (.dot2 g sf rm d a b e) s =
      .next (resultNow c s v [pOpd .bf16 a, pOpd .bf16 b, fOpd e] (fOpd d) sf (dot2Val rm x y z))) ∧
  (∀ (s : State) (c : Ctx) (v : SetState) (g : Guard) (sf : Bool) (rm : RM) (f : B8) (d a b e : Opd) (x y z : Double),
    s.solo? g = some (c, v) → readyOperands c s v [pOpd (.b8 f) a, pOpd (.b8 f) b, fOpd e] (some (fOpd d)) = some [x, y, z] →
    exec (.dot4B8 g sf rm f d a b e) s =
      .next (resultNow c s v [pOpd (.b8 f) a, pOpd (.b8 f) b, fOpd e] (fOpd d) sf (dot4B8Val f rm x y z)))

/-- R337 to R339: conversions, packing, unpacking and scaling. -/
def Obligations.ConversionResults : Prop :=
  (∀ (s : State) (c : Ctx) (v : SetState) (g : Guard) (sf : Bool) (rm : RM) (sat : Sat) (dty sty : Ty) (d a : Opd) (x : Double),
    s.solo? g = some (c, v) → readyOperands c s v [tOpd sty a] (some (tOpd dty d)) = some [x] →
    exec (.cvt g sf rm sat dty sty d a) s = .next (resultNow c s v [tOpd sty a] (tOpd dty d) sf (cvtVal rm sat dty sty x))) ∧
  (∀ (s : State) (c : Ctx) (v : SetState) (g : Guard) (sf : Bool) (rm : RM) (sty : Pk2Ty) (d a b : Opd) (x y : Double),
    let o : Operand := { o := d, tag := 2 }
    s.solo? g = some (c, v) → readyOperands c s v [tOpd sty.ty a, tOpd sty.ty b] (some o) = some [x, y] →
    exec (.pk2 g sf rm sty d a b) s = .next (resultNow c s v [tOpd sty.ty a, tOpd sty.ty b] o sf
      (ofHalves (roundBf16 rm (pk2Src sty x)) (roundBf16 rm (pk2Src sty y))))) ∧
  (∀ (s : State) (c : Ctx) (v : SetState) (g : Guard) (sf : Bool) (rm : RM) (sat : Sat) (dty : QuadTy) (hi : Bool) (d a b e : Opd)
      (x y z : Double),
    s.solo? g = some (c, v) → readyOperands c s v [fOpd a, fOpd b, tOpd (quadTy dty) e] (some (tOpd (quadTy dty) d)) = some [x, y, z] →
    exec (.pk4 g sf rm sat dty (.f32 hi) d a b e) s =
      .next (resultNow c s v [fOpd a, fOpd b, tOpd (quadTy dty) e] (tOpd (quadTy dty) d) sf (pk4Val rm sat dty (.f32 hi) x y z))) ∧
  (∀ (s : State) (c : Ctx) (v : SetState) (g : Guard) (sf : Bool) (rm : RM) (sat : Sat) (dty : QuadTy) (d a b e : Opd) (x y : Double),
    s.solo? g = some (c, v) → readyOperands c s v [pOpd .bf16 a, pOpd .bf16 b] (some (tOpd (quadTy dty) d)) = some [x, y] →
    exec (.pk4 g sf rm sat dty .bf16 d a b e) s =
      .next (resultNow c s v [pOpd .bf16 a, pOpd .bf16 b] (tOpd (quadTy dty) d) sf (pk4Val rm sat dty .bf16 x y 0))) ∧
  (∀ (s : State) (c : Ctx) (v : SetState) (g : Guard) (ty : UpkTy) (e : BitVec 2) (d a : Opd) (x : Double),
    s.solo? g = some (c, v) → readyOperands c s v [upkSrc ty a] (some (upkDst ty d)) = some [x] →
    exec (.upk g ty e d a) s = .next (resultNow c s v [upkSrc ty a] (upkDst ty d) true (upkVal ty e.toNat x, Exc.none))) ∧
  (∀ (s : State) (c : Ctx) (v : SetState) (g : Guard) (sf : Bool) (rm : RM) (d a b : Opd) (x y : Double),
    s.solo? g = some (c, v) → readyOperands c s v [fOpd a, wOpd b] (some (fOpd d)) = some [x, y] →
    exec (.scl g sf rm d a b) s =
      .next (resultNow c s v [fOpd a, wOpd b] (fOpd d) sf (fres rm ((readF32 (loWord x)).scale (loWord y).toInt, Exc.none)))) ∧
  (∀ (s : State) (c : Ctx) (v : SetState) (g : Guard) (f : B8) (d a : Opd) (x : Double),
    s.solo? g = some (c, v) → readyOperands c s v [fOpd a] (some (wOpd d)) = some [x] →
    exec (.bscale g f d a) s =
      .next (resultNow c s v [fOpd a] (wOpd d) true (BitVec.ofNat 64 (blockScale f (readF32 (loWord x))), Exc.none)))

/-! ### Memory -/

/-- R59, R295 to R300, R453: a device load or store issues one access, with its datum and in its thread's order. It gets its place at once where its
translation is held and its checks pass, waits for a walk where it is not, and traps where its address is outside the range or misaligned. How an
order is written down, and that an access whose walk ends later keeps its place in that order, are the model's own (log entries 7 and 51). -/
def Obligations.DeviceAccessesIssue : Prop :=
  ∀ (s : State) (c : Ctx) (v : SetState) (g : Guard) (size : LdSize) (data : Reg) (m : MemRef) (i : Instr) (p : DevOp),
    let op (load acq rel : Bool) : DevOp := { load := load, acq := acq, rel := rel, size := size, data := data, m := m }
    (i, p) ∈ [(Instr.ldDev g size data m, op true false false), (.ldAcqDev g size data m, op true true false),
      (.stDev g size data m, op false false false), (.stRelDev g size data m, op false false true)] →
    s.solo? g = some (c, v) → v.ent.typ = .ag → (p.load = true → Reg.isS data = true → c.mode = .token ∨ c.mode = .trap) →
    readsClean p c s v = true →
    let a := p.devAccess c s v
    let s0 := (s.issueAcc a).1
    let n := s.nextId
    let kind : BitVec 3 := if p.load then 0 else 1
    let found := s0.translate c.tile c.set v.regs.xctx v.ent.sup false n a.va kind (!p.load) (s0.walkReady a)
    let marks := if p.load then (data.opd.cover (loadWide data size)).map Mark.opd else []
    let trap (code : BitVec 8) : Host.Outcome State Fault Refusal :=
      let r := s0.xlFault c.tile (xctxAsid v.regs.xctx) a.va (!p.load) { code := code, kind := kind, ac := m.ac }
      .next (passLeft c ((r.1.dropAcc n).threadFault c.tile c.set c.tid c.blk c.idx c.loops false r.2))
    (∀ s1 x, a.va.extractLsb' 56 8 = 0 → a.va.toNat % LdSizeBytes size = 0 → found = .ok s1 x →
      (x.mtype = .config → LdSizeBytes size = 8) → (x.mtype ≠ .peer → s1.memFaults x.pa (LdSizeBytes size) false = false) →
      exec i s = .next (passDone c { s1 with accs := s1.accs.insert n { a with loc := x.loc, after := if p.load then a.after else a.after.eraseDups } }
        (some (p.member c (if x.mtype = .peer then .peer n size else .load n size) n)) marks)) ∧
    (∀ s1 w, a.va.extractLsb' 56 8 = 0 → a.va.toNat % LdSizeBytes size = 0 → found = .wait s1 w →
      exec i s = .next (passDone c s1 (some (p.member c (.place n size) n)) marks)) ∧
    (c.mode ≠ .trap → a.va.extractLsb' 56 8 ≠ 0 → exec i s = trap Code.xlateMiss) ∧
    (c.mode ≠ .trap → a.va.extractLsb' 56 8 = 0 → a.va.toNat % LdSizeBytes size ≠ 0 → exec i s = trap Code.align)

/-- R81, R297, R300: the same for the tile's own memory, whose checks are those of R81; a check that fails traps with its code. That poison which an
earlier store of the thread's own order clears is no fault is the model's reading (log entry 7). -/
def Obligations.LocalAccessesIssue : Prop :=
  ∀ (s : State) (c : Ctx) (v : SetState) (g : Guard) (size : LdSize) (data : Reg) (m : MemRef) (i : Instr) (p : DevOp),
    let op (load acq rel : Bool) : DevOp := { load := load, acq := acq, rel := rel, size := size, data := data, m := m }
    (i, p) ∈ [(Instr.ldLoc g size data m, op true false false), (.ldAcqLoc g size data m, op true true false),
      (.stLoc g size data m, op false false false), (.stRelLoc g size data m, op false false true)] →
    s.solo? g = some (c, v) → v.ent.typ = .cp ∨ v.ent.typ = .rd → (p.load = true → Reg.isS data = true → c.mode = .token ∨ c.mode = .trap) →
    readsClean p c s v = true →
    let ea := eaOf c s m
    let n := s.nextId
    (tileCheck (s.tile c.tile) ea (LdSizeBytes size) (!p.load) false = none →
      exec i s = .next (passDone c (s.issueAcc (p.locAccess c s)).1 (some (p.member c (.load n size) n))
        (if p.load then (data.opd.cover (loadWide data size)).map Mark.opd else []))) ∧
    (∀ code, tileCheck (s.tile c.tile) ea (LdSizeBytes size) (!p.load) false = some code → code ≠ Code.memPoison → c.mode ≠ .trap →
      exec i s = .next (passLeft c (s.threadFault c.tile c.set c.tid c.blk c.idx c.loops false
        { code := code, kind := if p.load then 0 else 1, w1 := BitVec.ofInt 64 ea, ac := m.ac })))

/-- R95, R301 to R303: an atomic or a reduction that the checks of R81 pass joins the tile's pipeline in lane order. -/
def Obligations.AtomicsIssue : Prop :=
  ∀ (s : State) (c : Ctx) (v : SetState) (g : Guard) (sf : Bool) (op : AtomOp) (ty : ATy) (data : Reg) (m : MemRef),
    let n := if ty.wide then 8 else 4
    let ea := eaOf c s m
    let cmp := if op == .cas then (casOpd ty data).cover ty.wide else []
    s.solo? g = some (c, v) → v.ent.typ = .rd →
    s.srcPoison c v.ent ((MemRefRegs m).map (fun o => (o, false)) ++ (data.opd, ty.wide) :: (cmp.map (fun o => (o, false)))) = none →
    tileCheck (s.tile c.tile) ea n true true = none →
    let acc (ret : Bool) : Access :=
      { tile := c.tile, set := c.set, tid := c.tid,
        kind := .atom op ty (if op == .cas then readOpd c s ty.wide (casOpd ty data) else 0) ret, loc := .tile ea.toNat,
        va := BitVec.ofInt 64 ea, bytes := n, data := readOpd c s ty.wide data.opd, cls := classBit m.ac, ac := m.ac, acq := false,
        rel := false, checked := sf, after := s.orderNeeds c.tile c.set c.tid (classBit m.ac) true none, blk := c.blk, idx := c.idx }
    let made (ret : Bool) : State :=
      let s1 := (s.issueAcc (acc ret)).1
      s1.putTile c.tile { s1.tile c.tile with atomQ := (s1.tile c.tile).atomQ ++ [⟨s.nextId, none, 0⟩] }
    let ff : List Mark := if op = .add ∧ ty = .f32 then [.ff] else []
    ((Reg.isS data = true → c.mode = .token ∨ c.mode = .trap) →
      exec (.atom g sf op ty data m) s =
        .next (passDone c (made true) (some ⟨c.tid, some data.opd, ty.wide, 0, 0, .atom s.nextId, false⟩)
          ((data.opd.cover ty.wide).map Mark.opd ++ ff))) ∧
    exec (.red g sf op ty data m) s =
      .next (passDone c (made false)
        (some ⟨c.tid, none, false, 0, 0, if op = .add ∧ ty = .f32 then .atom s.nextId else .check s.nextId, false⟩) ff)

/-- R164, R219, R305, R306: fence, eq.wait, spill and fill. A fence orders the thread's later accesses of its classes after what it knows of
earlier ones, at the level of its scope; one of device or domain scope covers its writes for the walker, the near-memory queue and durability. How
an order is written down, that a fence binds a token block's later commands at the level of the part, and that eq.wait comes after the writes of
retired commands, are the model's reading (log entry 7); that a spill or fill of a held accumulator store traps is its choice (log entry 20). -/
def Obligations.FenceWaitSpillResults : Prop :=
  (∀ (s : State) (c : Ctx) (v : SetState) (g : Guard) (scope : Scope) (mask : BitVec 16), s.solo? g = some (c, v) →
    let lvl := match scope with
      | .set => 1
      | .tile => 2
      | .region => 3
      | _ => 4
    let ns := s.known c.tile c.set c.tid mask lvl
    let covered := if scope = .device ∨ scope = .domain then (s.coverWrites c.tile c.set c.tid mask ns).drainAnswered else s
    exec (.fence g scope mask) s = .next (passDone c (covered.modThread c.tile c.set c.tid (fun th =>
      let kept := (th.after.map (fun x : BitVec 16 × List Need => (x.1, s.live x.2))).filter (fun x => !x.2.isEmpty)
      let since := if th.after.all (fun x => (s.live x.2).length == x.2.length) then th.since else s.tick
      { th with after := if ns.isEmpty then kept else kept ++ [(mask, ns)],
                fenced := if c.mode = .token then s.live th.fenced ++ s.known c.tile c.set c.tid mask 4 else s.live th.fenced,
                since := max since th.seen })) none [])) ∧
  (∀ (s : State) (c : Ctx) (v : SetState) (g : Guard) (n : BitVec 4) (k : Nat), s.solo? g = some (c, v) →
    SMap.get 0 (s.tile c.tile).eq n.toNat = k + 1 →
    exec (.eqWait g n) s =
      .next (passDone c ((s.putTile c.tile { s.tile c.tile with eq := SMap.put 0 (s.tile c.tile).eq n.toNat k }).acquire c.tile c.set c.tid
        (deepNeeds 4 (s.posted c.tile))) none [])) ∧
  (∀ (s : State) (c : Ctx) (v : SetState) (g : Guard) (a : BitVec 5) (n : BitVec 6), s.solo? g = some (c, v) →
    let x := s.tile c.tile
    let w := spillWord v.regs.spmap v.ent c.tid n.toNat
    let val := s.xReg c.tile v.ent c.tid a.toNat
    spEn v.regs.spmap = true → n.toNat < spWords v.regs.spmap → s.opdPoison c v.ent false (.x a) = none →
    (spAcs v.regs.spmap = true → x.heldFor = none) →
    exec (.spill g a n) s = .next (passDone c (if spAcs v.regs.spmap then
        s.putTile c.tile { x with acs := SMap.put 0 x.acs w val, acsPoison := NSet.drop x.acsPoison w }
      else s.putLvs c.tile w val) none [])) ∧
  (∀ (s : State) (c : Ctx) (v : SetState) (g : Guard) (d : BitVec 5) (n : BitVec 6), s.solo? g = some (c, v) →
    let x := s.tile c.tile
    let w := spillWord v.regs.spmap v.ent c.tid n.toNat
    spEn v.regs.spmap = true → n.toNat < spWords v.regs.spmap → (spAcs v.regs.spmap = true → x.heldFor = none) →
    (if spAcs v.regs.spmap then NSet.has x.acsPoison w else NSet.has x.lvsPoison w) = false →
    exec (.fill g d n) s = .next (passDone c s (some ⟨c.tid, some (.x d), false, 0, 0,
      .value ((if spAcs v.regs.spmap then SMap.get 0 x.acs w else s.lvs c.tile w).setWidth 64), false⟩) [.opd (.x d)])) ∧
  (∀ (s : State) (c : Ctx) (v : SetState) (g : Guard) (a d : BitVec 5) (n : BitVec 6), s.solo? g = some (c, v) → c.mode ≠ .trap →
    let trap (f : FaultInfo) : Host.Outcome State Fault Refusal :=
      .next (passLeft c (s.threadFault c.tile c.set c.tid c.blk c.idx c.loops false f))
    s.opdPoison c v.ent false (.x a) = none →
    ((spEn v.regs.spmap && decide (n.toNat < spWords v.regs.spmap)) = false →
      exec (.spill g a n) s = trap { code := Code.tileRange, w1 := BitVec.ofNat 64 n.toNat } ∧
      exec (.fill g d n) s = trap { code := Code.tileRange, w1 := BitVec.ofNat 64 n.toNat }) ∧
    (spEn v.regs.spmap = true → n.toNat < spWords v.regs.spmap → spAcs v.regs.spmap = true → (s.tile c.tile).heldFor.isSome = true →
      exec (.spill g a n) s = trap { code := Code.slotState } ∧ exec (.fill g d n) s = trap { code := Code.slotState }))

/-! ### Engine queues -/

/-- R216, R307, R398, R409: an engine command enters its set's queue with its descriptor address and its order; a full queue parks the anchor, or
gives a tried command's predicate 0. -/
def Obligations.EngineCommandsEnter : Prop :=
  ∀ (s : State) (c : Ctx) (v : SetState) (i : Instr) (m : SCom) (desc : Option (BitVec 4)) (sup waits : Bool),
    queued? i = some (m, desc, sup, waits) → s.solo? m.g = some (c, v) → v.ent.typ = .ag → c.mode = .token →
    (sup = true → v.ent.sup = true) →
    let gate := match v.threads.look c.tid with
      | some th => s.live th.fenced
      | none => []
    let k := newCmd i ((desc.map (fun d => c.s d.toNat)).getD 0) c gate (s.cmdAfter c.tile c.set m.ac) v.nextSeq
    let entered := (s.putSet c.tile c.set { v with queue := v.queue ++ [k] }).tried c m.tq true
    let refused := s.modSet c.tile c.set (fun v => v.count 0x08 1)
    exec i s = .next (
      if v.queue.length < 16 then
        if waits then passLeft c ((entered.modSet c.tile c.set (fun v => v.count 0x03 1)).parkAt c c.idx c.loops (.command v.nextSeq)) else passDone c entered none []
      else if m.tq = none then passLeft c (refused.parkAt c c.idx c.loops .queueFull)
      else passDone c (refused.tried c m.tq false) none [])

/-! ### Channels -/

/-- R352 to R354: ch.push, ch.pop, ch.peek, ch.tag and ch.ctl. A release names what the thread knows of its earlier accesses, and an acquire, or the
pop of a DRN, comes after what its token names; how an order is written down is the model's own, and which of those accesses a plain pop sees is its
reading (log entry 7). -/
def Obligations.ChannelInstructionResults : Prop :=
  (∀ (s : State) (c : Ctx) (v : SetState) (g : Guard) (tag : BitVec 3) (rel : Bool) (n : BitVec 3) (a : Opd) (x : Double),
    s.solo? g = some (c, v) → readyOperands c s v [wOpd a] (some (wOpd (.ch n))) = some [x] →
    exec (.chPush g tag rel n a) s = .next (actDone c v [wOpd a] (s.pushFrom (s.firingOf c.tile c.set c.blk) c.tile (v.ent.chOut n)
      ⟨tag, x.extractLsb' 0 32, if rel = true ∧ s.linkEnd c.tile (v.ent.chOut n) = false then
        s.known c.tile c.set c.tid 0xFFFF (s.pairLevel c.tile (v.ent.chOut n)) else []⟩)
      none [])) ∧
  (∀ (s : State) (c : Ctx) (v : SetState) (g : Guard) (want : Option (BitVec 3)) (acq : Bool) (d : Opd) (n : BitVec 3) (k : Token),
    let e := v.ent.chIn n
    s.solo? g = some (c, v) → readyOperands c s v [] (some (wOpd d)) = some [] → e ≠ 255 →
    s.headAt c.tile e = some k → k.badCtl = false →
    let got (s1 : State) (x : Word) : Host.Outcome State Fault Refusal := .next (passDone c (writeOpd c s1 false 0 d (x.setWidth 64)) none [])
    exec (.chTag g d n) s = got s (k.tag.setWidth 32) ∧
    ((want = none ∨ want = some k.tag) →
      exec (.chPeek g want d n) s = got s k.val ∧
      (s.boundByCube c.tile c.set v.ent true e = false → (k.isCtl = true → v.selfHandled e = true) →
        let s1 := s.popAt c.tile e
        exec (.chPop g want acq d n) s = got (if k.isDrn then s1.acquireSet c.tile c.set k.rel
          else if acq then s1.acquire c.tile c.set c.tid k.rel else s1) k.val))) ∧
  (∀ (s : State) (c : Ctx) (v : SetState) (g : Guard) (sub : CtlSub) (dst : ChName) (a : Opd) (vals : List Double),
    let d := chNameOpd dst
    let e := (d.outEnd v.ent).getD 255
    let srcs : List Operand := if sub = .eos ∨ sub = .drn then [] else [wOpd a]
    s.solo? g = some (c, v) → c.mode = .token → readyOperands c s v srcs (some (wOpd d)) = some vals →
    exec (.chCtl g sub dst a) s = .next (
      if v.carried sub e then passDone c s none []
      else
        let arg : BitVec 24 := match dst with
          | .pc _ => 0
          | .ch _ => (vals.headD 0).extractLsb' 0 24
        actDone c v srcs ((s.pushFrom (s.firingOf c.tile c.set c.blk) c.tile e (ctlToken (ctlCode sub) arg)).modSet c.tile c.set
          (fun v => v.noteCtl sub e)) none []))

/-- R356 to R359: steer, merge and any-merge move one value from the source to the destination that the predicate, or what has arrived,
selects. -/
def Obligations.RoutingResults : Prop :=
  (∀ (s : State) (c : Ctx) (v : SetState) (g : Guard) (inv : Bool) (ty : Ty) (d a p f : Opd) (b : Bool) (used : List Nat) (x : Double),
    let dst := if b != inv then d else f
    s.solo? g = some (c, v) → chkEnds [a, p] [d, f] v c = none → s.anyBound c v [a] [dst] = false →
    predBit c s v p = some (b, used) → routeReady c s v ty used a dst = some x →
    exec (.steer g inv ty d a p f) s = .next (routeDone c s v ty used a dst x)) ∧
  (∀ (s : State) (c : Ctx) (v : SetState) (g : Guard) (inv : Bool) (ty : Ty) (d a b p : Opd) (q : Bool) (used : List Nat) (x : Double),
    let src := if q != inv then a else b
    s.solo? g = some (c, v) → chkEnds [a, b, p] [d] v c = none → s.anyBound c v [src] [d] = false →
    predBit c s v p = some (q, used) → routeReady c s v ty used src d = some x →
    exec (.merge g inv ty d a b p) s = .next (routeDone c s v ty used src d x)) ∧
  (∀ (s : State) (c : Ctx) (v : SetState) (g : Guard) (ty : Ty) (d : Opd) (a b : BitVec 3) (e : Option (BitVec 3)) (k : Nat) (x : Double),
    let ins := [a, b] ++ e.toList
    let me := c.blk * 64 + c.idx
    let src : Opd := .ch (ins.getD k 0)
    let made := s.modSet c.tile c.set (fun v => { v with amLast := v.amLast.insert me k })
    s.solo? g = some (c, v) → chkEnds (ins.map Opd.ch) [d] v c = none → s.anyBound c v [src] [d] = false →
    s.rplMode c.tile = .off →
    (cyclicAfter ins.length (v.amLast.look me)).find? (fun i => s.needMet c.tile (.data ((ins.map v.ent.chIn).getD i 255))) = some k →
    routeReady c s v ty [] src d = some x →
    exec (.amerge g ty d a b e) s = .next (routeDone c made v ty [] src d x))

/-- R360: a loop generator takes a bound while it is inactive, and gives one index and predicate a firing until none is left. -/
def Obligations.LoopGeneratorResults : Prop :=
  (∀ (s : State) (c : Ctx) (v : SetState) (g : Guard) (d : Option (BitVec 3)) (a : BitVec 3) (st : BitVec 4) (p : Option (BitVec 3)) (bound : Word),
    let reg := c.s st.toNat
    let e := v.ent.chIn a
    let f := lgenFire reg bound
    s.solo? g = some (c, v) → c.mode = .token → chkEnds [.ch a] (d.toList.map Opd.ch ++ p.toList.map Opd.pc) v c = none →
    s.anyBound c v (if reg.getLsbD 63 then [] else [.ch a]) (if f.index.isSome then d.toList.map Opd.ch else []) = false →
    (reg.getLsbD 63 = false → (s.headAt c.tile e).map (fun k => (k.tag, k.val)) = some (0, bound)) →
    ((f.index.isNone || d.toList.all (fun n => s.roomAt c.tile (v.ent.chOut n) != 0)) &&
      p.toList.all (fun n => s.roomAt c.tile (v.ent.pcOut n) != 0)) = true →
    let src := s.firingOf c.tile c.set c.blk
    let s1 := if reg.getLsbD 63 then s else s.popAt c.tile e
    let s2 := match f.index, d with
      | some i, some n => s1.pushFrom src c.tile (v.ent.chOut n) ⟨0, i, []⟩
      | _, _ => s1
    let s3 := match p with
      | some n => s2.pushFrom src c.tile (v.ent.pcOut n) ⟨0, if f.pred then 1 else 0, []⟩
      | none => s2
    exec (.lgen g d a st p) s = .next (passDone c (s3.modSet c.tile c.set (fun v => v.putS st.toNat f.after)) none [])) ∧
  (∀ (rem : BitVec 31) (next bound : Word), rem ≠ 0 →
    lgenFire (lgenWord true rem next) bound = ⟨false, some next, true, lgenWord true (rem - 1) (next + 1)⟩) ∧
  (∀ (next bound : Word), lgenFire (lgenWord true 0 next) bound = ⟨false, none, false, lgenWord false 0 next⟩) ∧
  (∀ (rem : BitVec 31) (next bound : Word), bound.toInt ≤ 0 →
    lgenFire (lgenWord false rem next) bound = ⟨true, none, false, lgenWord false 0 0⟩) ∧
  (∀ (rem : BitVec 31) (next bound : Word), 0 < bound.toInt →
    lgenFire (lgenWord false rem next) bound = ⟨true, some 0, true, lgenWord true (bound.extractLsb' 0 31 - 1) 1⟩)

/-! ### Control flow, threads, groups and barriers -/

/-- R346, R347, R349: branches set the next block of the thread, and exits retire it. -/
def Obligations.BranchAndExitResults : Prop :=
  (∀ (s : State) (c : Ctx) (v : SetState) (g : Guard) (tgt : BitVec 12), s.solo? g = some (c, v) → c.mode = .thread →
    chkBlocks [tgt] v c = none →
    exec (.br g tgt) s =
      .next (passDone c (s.modThread c.tile c.set c.tid (fun th => { th with next := some tgt.toNat })) none [])) ∧
  (∀ (s : State) (c : Ctx) (v : SetState) (g : Guard) (cond : Opd) (tgt other : BitVec 12) (x : Double),
    s.solo? g = some (c, v) → c.mode = .thread → chkBlocks [tgt, other] v c = none → readyOperands c s v [wOpd cond] none = some [x] →
    exec (.brC g cond tgt other) s = .next (actDone c v [wOpd cond] (s.modThread c.tile c.set c.tid (fun th =>
      { th with next := some (if loWord x = 1 then tgt else other).toNat })) none [])) ∧
  (∀ (s : State) (c : Ctx) (v : SetState) (g : Guard), s.solo? g = some (c, v) →
    let queued := v.queue.filter (fun x => x.at' == .queued)
    let stays := s.putSet c.tile c.set
      { v.unqueue (fun x => x.at' != .queued) s.tick with abandoned := BitVec.ofNat 5 queued.length }
    exec (.exit g) s = .next (if c.tid = 0 ∧ queued ≠ [] then passLeft c (s.parkAt c c.idx c.loops .exitQueue)
      else passGone c (s.retire c.tile c.set c.tid)) ∧
    exec (.exitAbandon g) s = .next (passGone c (if c.tid = 0 then stays.retire c.tile c.set 0 else s.retire c.tile c.set c.tid)))

/-- R348, R349: a loop instruction sets its level when it issues to the first remaining pass; levels step from 3 down after an instruction. -/
def Obligations.LoopResults : Prop :=
  (∀ (s : State) (c : Ctx) (v : SetState) (w : Sweep) (n : BitVec 2) (last : BitVec 6), s.solo? ⟨false, 7⟩ = some (c, v) → v.sweep = some w →
    chkLoop last v c = none → (w.passes.take w.cur).all (fun p => p.tids.isEmpty) = true →
    let set (count : Nat) (t : State) : State := t.modSet c.tile c.set (fun v => { v with sweep := v.sweep.map (fun x : Sweep =>
      { x with loops := x.loops.put n.toNat ⟨count, x.idx + 1, last.toNat⟩, jump := if count = 0 then some (last.toNat + 1) else none }) })
    (∀ count : BitVec 19, exec (.loop n count last) s = .next (set count.toNat (passDone c s none []))) ∧
    (∀ st : BitVec 4, exec (.loopR n st last) s = .next (set ((c.s st.toNat).extractLsb' 0 32).toNat (passDone c s none [])))) ∧
  (∀ (l : Loops) (n i : Nat), n < 4 → (∀ m, n < m → m < 4 → (l.get m).c = 0 ∨ (l.get m).e ≠ i) → 1 < (l.get n).c → (l.get n).e = i →
    l.after i = (l.put n { l.get n with c := (l.get n).c - 1 }, (l.get n).s)) ∧
  (∀ (l : Loops) (n i : Nat), n < 4 → (∀ m, n < m → m < 4 → (l.get m).c = 0 ∨ (l.get m).e ≠ i) → (l.get n).c = 1 → (l.get n).e = i →
    l.after i = (l.put n { l.get n with c := 0 }).after i) ∧
  (∀ (l : Loops) (i : Nat), (∀ m, m < 4 → (l.get m).c = 0 ∨ (l.get m).e ≠ i) → l.after i = (l, i + 1))

/-- R186, R189 to R191, R361 to R364: thread creation, groups and barriers. -/
def Obligations.ThreadGroupBarrierResults : Prop :=
  (∀ (s : State) (c : Ctx) (v : SetState) (g : Guard) (d a : Opd) (blk : BitVec 12) (x : Double), s.solo? g = some (c, v) →
    chkBlocks [blk] v c = none → readyOperands c s v [wOpd a] (some (wOpd d)) = some [x] →
    let r := s.newThread c.tile c.set c.tid blk.toNat (loWord x)
    exec (.thrNew g d a blk) s = .next (actDone c v [wOpd a] (writeOpd c r.1 false 0 d (BitVec.ofNat 64 r.2)) none [])) ∧
  (∀ (s : State) (c : Ctx) (v : SetState) (g : Guard) (a : Opd) (x : Double), s.solo? g = some (c, v) →
    readyOperands c s v [wOpd a] none = some [x] →
    let key := x.extractLsb' 0 16
    (∀ s1, s.join c.tile c.set c.tid key = some s1 → exec (.grpJoin g a) s = .next (actDone c v [wOpd a] s1 none [])) ∧
    exec (.grpLeave g a) s = .next (actDone c v [wOpd a] (s.leave c.tile c.set c.tid key) none [])) ∧
  (∀ (s : State) (c : Ctx) (v : SetState) (g : Guard) (region : Bool) (n : BitVec 5) (a : Opd) (x : Double), s.solo? g = some (c, v) →
    readyOperands c s v [wOpd a] none = some [x] → s.noBarrier c.tile region n = false →
    let b := s.bar c.tile region n.toNat
    let key := x.extractLsb' 0 16
    let count := (loWord x).toNat
    let held := s.members c.tile region key
    let gives (b : Barrier) : Host.Outcome State Fault Refusal :=
      .next (actDone c v [wOpd a] (s.putBar c.tile region n.toNat b) none [])
    (b.st = .unset ∨ (b.st = .armed ∧ b.waiters = [])) →
    (count ≤ 8191 → exec (.barSet g region n a) s =
      gives { b with st := if count = 0 then .unset else .armed, n := count, reload := count, key := none }) ∧
    exec (.barBind g region n a) s = gives { b with st := if held = 0 then .unset else .armed, n := held, key := some key }) ∧
  (∀ (s : State) (c : Ctx) (v : SetState) (g : Guard) (region : Bool) (n : BitVec 5), s.solo? g = some (c, v) →
    s.noBarrier c.tile region n = false →
    let b := s.bar c.tile region n.toNat
    let after := c.loops.after c.idx
    let me : Party := ⟨c.tile, c.set, c.tid, c.mode == .trap⟩
    let arrived := s.putBar c.tile region n.toNat
      { b with n := b.n - 1, waiters := b.waiters ++ [me], accs := b.accs ++ s.known c.tile c.set c.tid 0xFFFF (if region then 4 else 2) }
    let late := s.putBar c.tile region n.toNat { b with held := b.held ++ [me] }
    (b.st = .armed → exec (.barArrive g region n) s = .next (passGone c
      ((arrived.parkAt c after.2 after.1 (.barrier region n.toNat)).barCheck c.tile region n.toNat))) ∧
    (b.st = .releasing →
      exec (.barArrive g region n) s = .next (passGone c (late.parkAt c after.2 after.1 (.held region n.toNat c.idx)))))

/-! ### Accumulator store, registers and system instructions -/

/-- R379, R380: acs.ld reads its word late, acs.st is a store of the word, both in every alias class. -/
def Obligations.AccumulatorStoreMoves : Prop :=
  (∀ (s : State) (c : Ctx) (v : SetState) (g : Guard) (d a : Opd) (off : BitVec 16) (x : Double) (idx : Nat), s.solo? g = some (c, v) →
    chkAcs v c = none → readyOperands c s v [wOpd a] (some (fOpd d)) = some [x] →
    s.acsIndex c x off 0 = .ok idx → NSet.has (s.tile c.tile).acsPoison idx = false →
    let s1 := (s.issueAcc (acsAccess c .load idx 0 (s.orderNeeds c.tile c.set c.tid 0xFFFF false none))).1
    exec (.acsLd g d a off) s = .next (actDone c v [wOpd a] (match d.outEnd v.ent with
        | some e => s1.reserve c.tile e
        | none => s1) (some ⟨c.tid, some d, false, 1, 0, .acs idx s.nextId, false⟩) ((d.cover false).map Mark.opd))) ∧
  (∀ (s : State) (c : Ctx) (v : SetState) (g : Guard) (a b : Opd) (off : BitVec 16) (x y : Double) (idx : Nat), s.solo? g = some (c, v) →
    chkAcs v c = none → readyOperands c s v [wOpd a, fOpd b] none = some [x, y] →
    s.acsIndex c x off 1 = .ok idx →
    exec (.acsSt g a b off) s = .next (actDone c v [wOpd a, fOpd b] (s.issueAcc (acsAccess c .store idx y
      (s.orderNeeds c.tile c.set c.tid 0xFFFF true none ++ s.passStores c.tile c.set c.base s.nextId (.acs idx) 4).eraseDups)).1 none [])) ∧
  (∀ (s : State) (c : Ctx) (x : Double) (off : BitVec 16) (kind : BitVec 3), ((loWord x).toNat + off.toNat < 131072) →
    (s.tile c.tile).heldFor = none → s.lentCol c.tile (((loWord x).toNat + off.toNat) % 256) = false →
    s.acsIndex c x off kind = .ok ((loWord x).toNat + off.toNat))

/-- R389 to R392, R405: accesses to registers and to configuration space; each is made when its datum or status returns. -/
def Obligations.RegisterAccessesIssue : Prop :=
  (∀ (s : State) (c : Ctx) (v : SetState) (g : Guard) (d : Reg) (a : Opd) (r : SReg) (x : Double) (t : Target), s.solo? g = some (c, v) →
    readyOperands c s v [wOpd a] (some (dOpd d.opd)) = some [x] → ((loWord x).getLsbD 31 = true → v.ent.sup = true) →
    s.resolve c.tile c.set (loWord x) r = some t →
    exec (.sregRd g d a r) s = .next (if r = .eqcnt0 ∨ r = .eqcnt1 then
        actDone c v [wOpd a] s (some ⟨c.tid, some d.opd, true, 0, 0, .sregRd (loWord x) r none, false⟩) ((d.opd.cover true).map Mark.opd)
      else actDone c v [wOpd a] (s.regAccess c false (s.whichReg t r) 0).1
        (some ⟨c.tid, some d.opd, true, 0, 0, .sregRd (loWord x) r (some s.nextId), false⟩) ((d.opd.cover true).map Mark.opd))) ∧
  (∀ (s : State) (c : Ctx) (v : SetState) (g : Guard) (d a b : Opd) (r : SReg) (x y : Double) (t : Target), s.solo? g = some (c, v) →
    v.ent.sup = true → readyOperands c s v [wOpd a, dOpd b] (some (wOpd d)) = some [x, y] → s.resolve c.tile c.set (loWord x) r = some t →
    exec (.sregWr g d a b r) s = .next (actDone c v [wOpd a, dOpd b] (s.regAccess c true (s.whichReg t r) y).1
      (some ⟨c.tid, some d, false, 0, 0, .sregWr (loWord x) r y s.nextId, false⟩) ((d.cover false).map Mark.opd))) ∧
  (∀ (s : State) (c : Ctx) (v : SetState) (g : Guard) (d : Reg) (a : Opd) (off : BitVec 16) (x : Double), s.solo? g = some (c, v) →
    readyOperands c s v [wOpd a] (some (dOpd d.opd)) = some [x] →
    let o := (loWord x).toNat + off.toNat
    o < 65536 → o % 8 = 0 →
    exec (.capRd g d a off) s =
      .next (actDone c v [wOpd a] s (some ⟨c.tid, some d.opd, true, 0, 0, .capRd o, false⟩) ((d.opd.cover true).map Mark.opd))) ∧
  (∀ (s : State) (c : Ctx) (v : SetState) (g : Guard) (d a b : Opd) (off : BitVec 16) (x y : Double), s.solo? g = some (c, v) →
    v.ent.sup = true → readyOperands c s v [wOpd a, dOpd b] (some (wOpd d)) = some [x, y] →
    let o := (loWord x).toNat + off.toNat
    o < 65536 → o % 8 = 0 →
    exec (.capWr g d a b off) s = .next (actDone c v [wOpd a, dOpd b] (s.regAccess c true (BitVec.ofNat 64 (cfgBase + o)) y).1
      (some ⟨c.tid, some d, false, 0, 0, .capWr o y s.nextId, false⟩) ((d.cover false).map Mark.opd))) ∧
  (∀ (s : State) (c : Ctx) (v : SetState) (g : Guard) (d a : Opd) (x : Double), s.solo? g = some (c, v) → v.ent.sup = true →
    v.ent.typ = .ag → readyOperands c s v [wOpd a] (some (wOpd d)) = some [x] →
    let slot := (x.extractLsb' 0 6).toNat
    s.memFaults (s.cfg.slotAddr slot) 8 false = false →
    exec (.nmqPoll g d a) s = .next (actDone c v [wOpd a] (match d.outEnd v.ent with
        | some e => s.reserve c.tile e
        | none => s) (some ⟨c.tid, some d, false, 0, 0, .nmq slot, false⟩) ((d.cover false).map Mark.opd)))

/-- R394 to R396: a trap block reads the oldest record of its view, acts on a record, and forwards the oldest. -/
def Obligations.TrapInstructionResults : Prop :=
  (∀ (s : State) (c : Ctx) (v : SetState) (g : Guard) (n : BitVec 4), s.solo? g = some (c, v) → c.mode = .trap →
    let w : Double × Double × Double × Double := match v.oldest with
      | some e => (e.w0, e.w1, e.w2, e.w3)
      | none => (0, 0, 0, 0)
    exec (.trapRd g n) s = .next (passDone c (s.putSet c.tile c.set
      ((((v.putS n.toNat w.1).putS (n.toNat + 1) w.2.1).putS (n.toNat + 2) w.2.2.1).putS (n.toNat + 3) w.2.2.2)) none [])) ∧
  (∀ (s : State) (c : Ctx) (v : SetState) (g : Guard) (op : TrapOp) (d a : Opd) (x : Double), s.solo? g = some (c, v) → c.mode = .trap →
    readyOperands c s v [wOpd a] (some (wOpd d)) = some [x] →
    let id := (x.extractLsb' 0 12).toNat
    let act := s.fltAct c.tile c.set (trapCode op) id true
    (x.extractLsb' 12 20 ≠ 0 ∨ act = none →
      exec (.trapAct g op d a) s = .next (actDone c v [wOpd a] (writeOpd c s false 0 d 1) none [])) ∧
    (∀ s1, x.extractLsb' 12 20 = 0 → act = some s1 →
      let s2 := if op = .resume ∨ op = .skip then
        s1.acquire c.tile c.set id (s1.trapAccs c.tile c.set) else s1
      exec (.trapAct g op d a) s = .next (actDone c v [wOpd a] (writeOpd c s2 false 0 d 0) none []))) ∧
  (∀ (s : State) (c : Ctx) (v : SetState) (g : Guard) (d : Opd), s.solo? g = some (c, v) → c.mode = .trap →
    readyOperands c s v [] (some (wOpd d)) = some [] →
    exec (.trapFwd g d) s = .next (match s.forward c.tile c.set with
      | none => passDone c (writeOpd c s false 0 d 1) none []
      | some s1 => passDone c (writeOpd c s1 false 0 d 0) none []))

/-- R397, R407, R409: cfg.sel latches a plane, mark gives Drift a record or stalls its set at a full one, perf.rd reads a counter. Counters of time are free (log entries 4
and 44). -/
def Obligations.SelectMarkCounterResults : Prop :=
  (∀ (s : State) (c : Ctx) (v : SetState) (g : Guard) (sel : PlaneSel) (a : Opd), s.solo? g = some (c, v) → c.mode = .token →
    let latch (t : Nat) : State := s.putTile t { s.tile t with latch := match sel with
      | .s0 => some .s0
      | .s1 => some .s1
      | .none => none }
    exec (.cfgSel g sel false a) s = .next (passDone c (latch c.tile) none []) ∧
    (∀ x : Double, v.ent.sup = true → readyOperands c s v [wOpd a] none = some [x] → (loWord x).toNat < 768 →
      exec (.cfgSel g sel true a) s = .next (actDone c v [wOpd a] (latch (loWord x).toNat) none []))) ∧
  (∀ (s : State) (c : Ctx) (v : SetState) (w : Sweep) (g : Guard) (a : Opd) (x : Double), s.solo? g = some (c, v) → v.sweep = some w →
    readyOperands c s v [wOpd a] none = some [x] →
    let ev := s.markEvent c.tile c.set v w (loWord x)
    (s.traceStalls ev = false → exec (.mark g a) s = .next (actDone c v [wOpd a] (s.observe ev) none [])) ∧
    (s.traceStalls ev = true → exec (.mark g a) s = .next (PassSt.close ⟨s.driftStall c.tile c.set, [c.tid], [], [], 0, true⟩ c []))) ∧
  (∀ (s : State) (c : Ctx) (v : SetState) (g : Guard) (d : Reg) (n : BitVec 6), s.solo? g = some (c, v) →
    readyOperands c s v [] (some (dOpd d.opd)) = some [] →
    let k := n.toNat
    exec (.perfRd g d n) s = .next (passDone c (writeOpd c s true 0 d.opd (
      if timed k then ((s.free (64 + k)).extractLsb' 0 48).setWidth 64
      else if k < 16 then BitVec.ofNat 64 (SMap.get 0 v.perf k) else BitVec.ofNat 64 (SMap.get 0 (s.tile c.tile).perf k))) none []))

/-! ### Events: engine queues, returns, translation, the atomic pipeline -/

/-- R215, R219, R251, R316: the head of a queue issues once its unit accepts it, its ports are free, its token is there and Drift does not stall its
set; an engine barrier issues when every earlier command has retired. That sequence numbers are given at issue is the model's reading (log
entry 13). -/
def Obligations.EngineQueueIssues : Prop :=
  ∀ (s : State) (t o : Nat) (v : SetState) (before rest : List Cmd) (c : Cmd),
    s.set? t o = some v → splitQueue v.queue = (before, some (c, rest)) → v.driftHeld = false →
    v.stopped = false → s.runs t = true →
    (∀ m n, c.i.com? = some m → m.wq = some n → 0 < SMap.get 0 (s.tile t).eq n.toNat) → (c.i.onCopyEngine = true → s.copyLoad t < 4) →
    (∀ i ∈ c.gate, s.met i = true) → v.portsFree c.i = true → (isBarrier c.i = true → before = []) →
    let k := { c with at' := CmdAt.issued, seq := v.cmdSeq.toNat, invoc := v.eoiInvoc }
    let s1 := s.putSet t o { v with queue := before ++ k :: rest, cmdSeq := v.cmdSeq + 1 }
    let s2 := match (c.i.com?).bind SCom.wq with
      | some n => s1.putTile t { s1.tile t with eq := SMap.put 0 (s1.tile t).eq n.toNat (SMap.get 0 (s1.tile t).eq n.toNat - 1) }
      | none => s1
    let s3 := (s2.reach t o k).actAtIssue t o { v with queue := before ++ k :: rest } k
    exec (.engineQueueIssue t o) s = .next (if isBarrier c.i then (s3.cmdDone t o k.seq).retireCmd t o v k else s3)

/-- R91, R218: a command whose work is done, and whose accesses are performed, leaves its queue, and posts if it is marked to; a count of 255
holds the post. A command that is not done makes progress. What one move of progress does, and that a resumed copy command waits for one of its engine's
four places, are the model's reading (log entries 39 and 13). -/
def Obligations.CommandsProgressAndRetire : Prop :=
  ∀ (s : State) (t o seq : Nat) (v : SetState) (c : Cmd), s.set? t o = some v → v.cmd? seq = some c → s.runs t = true →
    (c.at' = .issued → c.stage ≠ doneStage → exec (.engineProgress t o seq) s = .next (s.progress t o v c)) ∧
    (c.at' = .resuming → exec (.engineProgress t o seq) s =
      .next (if s.copyLoad t < 4 then s.modCmd t o seq (fun c => { c with at' := .issued }) else s)) ∧
    (c.at' ≠ .stopped → c.stage = doneStage → s.cmdAccs t o seq = [] → s.traceStalls (s.retireEvent t o v c) = false →
      let count (n : BitVec 4) := SMap.get 0 (s.tile t).eq n.toNat
      ((c.i.com?).bind SCom.pq = none →
        exec (.commandRetire t o seq) s = .next ((s.leaveQueue t o c).observe (s.retireEvent t o v c))) ∧
      (∀ n, (c.i.com?).bind SCom.pq = some n → count n < 255 →
        exec (.commandRetire t o seq) s = .next (((s.putTile t { s.tile t with eq := SMap.put 0 (s.tile t).eq n.toNat (count n + 1) }).leaveQueue
          t o c).observe (s.retireEvent t o v c))) ∧
      (∀ n, (c.i.com?).bind SCom.pq = some n → 255 ≤ count n →
        exec (.commandRetire t o seq) s = .next (s.modCmd t o c.seq (fun c => { c with at' := .posting }))))

/-- R160, R161, R223: a datum returns when its access may be performed, and is written; one that fails at memory faults its thread; a group's
marks clear with its last datum. An access that missed is placed again first. That an access is performed at one point for every party, that a late
placement is part of its access, and that another node's answer is free, is the model's own (log entries 7, 42 and 51). -/
def Obligations.DataReturn : Prop :=
  ∀ (s : State) (t o gid : Nat) (v : SetState) (grp : Group), s.set? t o = some v → v.groups.look gid = some grp →
    (grp.members.all Member.done = true →
      exec (.returnGroupComplete t o gid) s = .next (s.putSet t o { v with groups := v.groups.erase gid })) ∧
    (∀ (m : Member) (tid : Nat), grp.members.find? (fun m => m.tid == tid && !m.done) = some m →
      (∀ x, (m.late = .value x ∨ m.late = .reply x) → exec (.returnDatum t o gid tid) s = .next (s.deliverDatum t o v grp gid m x)) ∧
      (∀ (i : Nat) (size : LdSize) (a : Access), (m.late = .load i size ∨ m.late = .peer i size) → SMap.look s.accs i = some a →
        s.accReady a = true →
        let at' := s.readStep a
        exec (.returnDatum t o gid tid) s = .next (match s.accRead a at' with
          | .ok n => ((s.finish i (s.readOrder a)).sawAt a.tile a.set a.tid (at'.elim s.tick (· - 1)) a.acq).deliverDatum t o v grp gid m
              (extendLoad size n)
          | .error code => (s.dropAcc i).lateFault t o gid grp tid (s.accFault a code))) ∧
      (∀ (i : Nat) (size : LdSize) (a : Access), m.late = .place i size → SMap.look s.accs i = some a →
        exec (.returnDatum t o gid tid) s = .next (match s.placeAcc i a with
          | .fault s1 f => s1.lateFault t o gid grp tid f
          | .wait s1 _ => s1
          | .ok s1 x => s1.relate t o gid tid (if x.mtype = .peer then .peer i size else .load i size))) ∧
      (∀ (r : SReg) (w : Word) (x : Double) (i : Nat), m.late = .sregWr w r x i → (SMap.look s.accs i).all s.accReady = true →
        let p := (s.answered i).lateSregWr t o w r x
        exec (.returnDatum t o gid tid) s = .next (p.1.deliverDatum t o v grp gid m (if p.2 then 1 else 0)))) ∧
    (∀ (tid i : Nat) (m : Member) (a : Access) (dev : Nat) (pa : Nat) (size : LdSize), v.groups = [(gid, grp)] →
      grp.members = [m] → m.tid = tid → m.done = false → (m.late = .peer i size ∨ m.late = .check i) → SMap.look s.accs i = some a →
      a.loc = .peer dev pa →
      exec (.peerTimeout t o tid) s = .next ((s.dropAcc i).lateFault t o gid grp tid (s.accFault a Code.memPoison)))

/-- R50, R52, R95: a walk caches its leaf for every waiter and the table entries that it read, and one that fails is kept for its waiters and
caches no leaf; an atomic at the head of an idle pipeline is accepted: the old value is the answer, and the new value is on its way to memory. Which
caches a leaf enters, which of their leaves are kept, and how the caches differ in size, is the model's reading (log entry 45). -/
def Obligations.WalksAndAtomics : Prop :=
  (∀ (s : State) (id : Nat) (w : Walk), SMap.look s.walks id = some w → w.res = none →
    let r := s.walkFrom w.die w.asid w.va 4 0 (xctxRoot w.xctx) []
    exec (.translationWalk id) s = .next (match r.1 with
      | .error none => s
      | .error (some f) => { s with walks := s.walks.insert id { w with res := some f } }.cacheEntries w.die r.2
      | .ok (e, level) =>
        let base := w.va / 2 ^ pageBits level * 2 ^ pageBits level
        ((w.waiters.flatMap (fun x => (s.cachesOf x.tile x.set).map (fun k => (⟨k, w.asid, base, level, e⟩ : Xlat)))).foldl State.cacheLeaf
          { s with walks := s.walks.erase id }).cacheEntries w.die r.2)) ∧
  (∀ (s : State) (x : Xlat), s.xlat.contains x = false →
    (s.xlat.filter (fun y => y.at' == x.at')).length < x.at'.capacity → s.cacheLeaf x = { s with xlat := s.xlat ++ [x] }) ∧
  (∀ (s : State) (x : Xlat), s.xlat.contains x = true → s.cacheLeaf x = s) ∧
  (∀ (s : State) (t i : Nat) (a : Access) (op : AtomOp) (ty : ATy) (cmp : Double) (ret : Bool), s.canon = true →
    (s.tile t).atomQ = [⟨i, none, 0⟩] → SMap.look s.accs i = some a → a.kind = .atom op ty cmp ret → a.after = [] → s.overShown i a = false →
    s.rplMode t = .off → a.set ≠ portSet → tileCheck (s.tile t) a.tileAddr a.bytes true true = none →
    exec (.atomicPipelineCycle t) s = .next (s.acceptAtom t i a) ∧
    (let old : Double := BitVec.ofNat 64 (Memory.readLE (s.tile t).mem a.tileAddr a.bytes)
     let r := atomNew op ty old a.data cmp
     let s0 := s.modSet t a.set (fun v => { v with atomCount := v.atomCount + 1 })
     let s1 := (s0.putTile t { s0.tile t with atomQ := [⟨i, some 0, r.1⟩] }).modSet t a.set (fun v => { v with
       groups := v.groups.map (fun g => (g.1, { g.2 with members := g.2.members.map (fun m =>
         if m.late == .atom i then { m with late := .reply old, flags := if a.checked then Exc.none else r.2 } else m) })) })
     s.acceptAtom t i a = { s1 with accs := s1.accs.insert i { a with after := s.readOrder a } }.sawAt t a.set a.tid s.tick false))

/-! ### Events: selection and control tokens -/

/-- R208 to R211, R244: a selector takes a ready block and forms its sweep, once no sweep runs, and with the breakpoints that the set's registers
hold now; the firing of a token or trap block is noted and may be sampled, and one that goes on is no new firing. -/
def Obligations.SelectionFormsSweep : Prop :=
  ∀ (s : State) (t o n : Nat) (v0 : SetState) (b : Block) (w : Sweep), s.set? t o = some v0 → v0.sweep = none → v0.stopped = false →
    v0.fwd = [] → v0.driftHeld = false → s.runs t = true →
    let v := { v0 with regs := { v0.regs with bkptOn := v0.regs.bkpt } }
    v.blocks.findIdx? (s.testsBound t o v) = none → v.pick (s.readyBlocks t v) = some n →
    v.blocks[n]? = some b → (s.formSweep t v n b).sweep = some w →
    let s1 := s.putSet t o ({ s.formSweep t v n b with
      ready := v.afterPick (s.readyBlocks t v) n, selections := v.selections + 1 }.count 0x02 1)
    (v.underWay n b = true → exec (.selection t o) s = .next (s1.endIfPast t o)) ∧
    (v.underWay n b = false → s.traceStalls (s.selEvent t o v n b w) = false →
      s.bkptHit v (s.blockNode t o n) v.eoiInvoc (b.mode != BlockMode.thread) = none →
      let s2 := s1.observe (s1.selEvent t o v n b w)
      let note := s1.blockNote t o v n b
      exec (.selection t o) s = .next (State.endIfPast (if b.mode = .thread then s2
        else (s2.noteFiring t 0 (blockKey o n) note).probeFiring t note) t o))

/-- R194, R195, R255: EOI, EOS and DRN are forwarded once every automatic end has them at its head; PROBE and SYNC are taken as they come; a
complete set pushes its own EOS and then DRN. That EOS and DRN are pushed once, and that source ends count as passed, is the model's reading (log
entry 17); so is that each set keeps the SYNC ids that it has passed on, and the tile the last one (log entry 37). -/
def Obligations.ControlTokensForward : Prop :=
  ∀ (s : State) (t o : Nat) (v : SetState), s.set? t o = some v → s.seqFree t v = true → s.seqHeads t o v = none →
    let ends := s.autoEnds t o v
    let data := ends.filter (fun e => !isPred e)
    let open' := ends.filter (fun e => !s.sourceEnd t e && !NSet.has (s.tile t).passed e)
    (ends ≠ [] → ends.all (fun e => s.headSub t e 1) = true → (s.argsAt t ends).length ≤ 1 →
      exec (.eoiForward t o) s = .next ((s.popAll t ends).emit t o 1 ((s.argsAt t ends).headD v.eoiInvoc))) ∧
    (data ≠ [] → data.all (fun e => s.headSub t e 2) = true → (s.argsAt t data).length ≤ 1 →
      exec (.eosForward t o) s = .next (if v.eosSeen = true ∨ v.eosOut ≠ [] then s.popAll t data
        else (s.popAll t data).emit t o 2 ((s.argsAt t data).headD 0))) ∧
    (open' ≠ [] → open'.all (fun e => s.headSub t e 3) = true → v.completed = true → s.setAccs t o v = false →
      exec (.drnForward t o) s =
        .next ((((s.popAll t open').acquireSet t o (s.relsAt t open')).modSet t o (fun v => { v with drnPassed := true })).emit t o 3 0)) ∧
    (∀ e k, e ∈ ends → s.headAt t e = some k → k.isCtl = true → k.badCtl = false →
      (k.sub = 4 → exec (.probeArrival t o e) s =
        .next ((s.popAt t e).modSet t o (fun v => { v with probes := v.probes.insert e (k.arg.extractLsb' 0 16) }))) ∧
      (k.sub = 5 → s.traceStalls (syncEvent t o v true) = false →
        let s1 := s.popAt t e
        exec (.syncArrival t o e) s = .next (if NSet.has v.syncs k.arg.toNat then s1
          else (((s1.putTile t { s1.tile t with lastSync := k.arg }).modSet t o (fun v => { v with syncs := NSet.add v.syncs k.arg.toNat })).observe
            (syncEvent t o v true)).emit t o 5 k.arg))) ∧
    (v.complete = true → v.completed = false →
      let s1 := s.modSet t o (fun v => { v with completed := true })
      exec (.setCompletion t o) s = .next (if v.eosSeen = true then s1 else s1.emit t o 2 0)) ∧
    (∀ e, v.eosSeen = false → NSet.has v.eosOut e = true → ∀ arg rel, (e, ctlToken 2 arg) ∉ v.copies 2 0 rel) ∧
    (v.complete = true → v.completed = true → v.drnPassed = false → s.setAccs t o v = false → ends.all (s.passedAt t) = true →
      exec (.setCompletion t o) s = .next ((s.modSet t o (fun v => { v with drnPassed := true })).emit t o 3 0))

/-- R10, R125, R131, R352: a token arrives at its consumer once what it releases is performed, a slot return at its producer, a border packet in
sequence order. What a release waits for is the model's reading (log entry 7), and which tokens count as late is its choice (log entry 53). -/
def Obligations.ChannelsMoveTokens : Prop :=
  ∀ (s : State) (n : Nat) (c : Chan) (k : Token) (rest : List Token), s.chans.look n = some c →
    (c.fly = k :: rest → s.released k = false → exec (.tokenArrival n) s = .next s) ∧
    (c.fly = k :: rest → s.released k = true →
      exec (.tokenArrival n) s = .next (s.putChan n (
        if c.cross = true ∧ fromLink c = false then { c with fly := rest, win := c.win ++ [k], sent := c.sent + 1 }
        else { c with fly := rest, buf := c.buf ++ [k], late := if s.arrivesLate c then c.late + 1 else c.late }))) ∧
    (0 < c.rets → (∀ t e, c.cons = .tile t e → (s.tile t).strayBusy = false) →
      exec (.slotReturn n) s = .next (s.putChan n { c with free := c.free + 1, rets := c.rets - 1 }).prune) ∧
    (fromLink c = false → c.win = k :: rest → (∀ u l, c.cons ≠ .link u l) →
      (∀ a b e, c.cons ≠ .remote a b e) → s.rplMode ((c.consTile.map Prod.fst).getD 0) = .off →
      exec (.borderDelivery n) s = .next (s.putChan n { s.enterBuf c k with win := rest, delivered := c.delivered + 1 }))

/-! ### Events: planes and regions -/

/-- R186, R193, R198, R199: a drained tile with no stray token, no access to perform and no EOS or DRN to push swaps to the loaded plane that
its latch names; the plane starts afresh and the latch is clear. That the swap waits for those pushes is the model's reading (log entry 17);
what it does to barriers and groups is the model's choice (log entry 16). -/
def Obligations.TileSwapsPlane : Prop :=
  ∀ (s : State) (t : Nat) (l : Latch) (p : Plane), s.canon = true → (s.tile t).latch = some l → (s.tile t).shadow l = some p →
    s.counts t = true → s.tileAccs t = false → s.owing t = false → s.strays t = 0 → s.stopped = false →
    (∀ x, (s.regionOf t).bind s.region? = some x → x.st = .running) →
    exec (.planeSwap t) s = .next (s.swapTo t l) ∧ ((s.swapTo t l).tile t).latch = none ∧
    (let ns := (s.live (p.knew ++ (s.setsOf t).flatMap (fun v => v.2.knew)) ++ s.tileNeeds t).eraseDups
     ((s.swapTo t l).tile t).active =
       some { p with sets := p.sets.map (fun v => (v.1, v.2.go s.tick ns)), data := [], joins := none, knew := [] })

/-- R196, R207, R232, R439: the end of a region at its end barrier, placement and pre-emption by the dispatcher, the end of a pre-emption, and
the end that system software gives. When a launch waits or is dropped, what a pre-emption saves and what an end keeps are the model's
reading (log entries 19, 20 and 22). -/
def Obligations.RegionsComeAndGo : Prop :=
  (∀ (s : State) (r : Nat) (x : Region), s.region? r = some x →
    (x.st = .running → x.halt = .none → x.joining = [] → x.tiles.all s.tileDone = true →
      let s1 := x.tiles.foldl (fun s t => s.planeEnd t) s
      exec (.regionComplete r) s = .next ((((s1.chans.filter (fun c => c.2.touches x.tiles)).foldl (fun s c => s.undropLink c.2) s1).endWrites
        x.tiles).modRegion r (fun x => { x with st := .complete }))) ∧
    (∀ full, x.st = .preempting full → s.landed x = true → s.stopped = false → s.holds = [] → x.byCmd = none →
      exec (.preemptionComplete r) s = .next ((x.tiles.foldl (fun s t => s.saveTile r full t (SMap.get 0 x.saves t)) s).endWrites x.tiles |>.modRegion r
        (fun x => { x with st := .preempted full, byCmd := none }))) ∧
    (x.byCmd = none →
      let s1 := s.endUnits r (if x.st.holds then x.tiles else [])
      let s2 := (if x.st.holds then x.tiles.foldl State.endTile s1 else s1).dropSaves r
      exec (.regionEnd r) s = .next { s2 with regions := s2.regions.erase r }.prune)) ∧
  (∀ (s : State) (i : Nat) (l : Launch), s.waiting.find? (fun w => w.1 == i) = some (i, l) → s.dispatches = true →
    s.launchFirst i l = true → s.imageReadable l.img = true → s.imageHeld l.img = false →
    let gone := { s with waiting := s.waiting.filter (fun w => w.1 != i) }
    let refused (code : BitVec 8) : State := { gone with refused := s.refused.insert i code }
    (∀ m, s.cfg.ckptBusy = false → s.launchFree l = true → s.checkLaunch l = .ok m →
      (∀ t ∈ imgTiles m.sets, (s.tile t).heldFor = none) →
      let src : ImgPiece := ⟨l.img, max 32 (imgHead (doubles 4 (Memory.bytes s.mem l.img 32))).len, 0, false⟩
      exec (.regionPlacement i) s = .next (gone.placeImage m l.prio src)) ∧
    (∀ e, s.cfg.ckptBusy = false → s.launchFree l = true → s.checkLaunch l = .error e → exec (.regionPlacement i) s = .next (refused e)) ∧
    (s.cfg.ckptBusy = false → s.launchFree l = false → exec (.regionPlacement i) s = .next s) ∧
    (s.cfg.ckptBusy = true → exec (.regionPlacement i) s = .next (refused 0)) ∧
    (∀ e, l.preempt = true → s.cfg.ckptBusy = false → s.checkLaunch l = .error e → exec (.preemptiveLaunch i) s = .next (refused e)) ∧
    (∀ m r x, l.preempt = true → s.cfg.ckptBusy = false → s.checkLaunch l = .ok m → s.regions.find? (fun r => r.2.st == .running && r.2.prio < l.prio && r.2.joining.isEmpty &&
        r.2.tiles.any (s.launchTiles l).contains) = some (r, x) →
      let areas := x.tiles.filterMap (fun t => (SMap.look l.saves t).map (fun a => (t, a * 65536)))
      areas.length = x.tiles.length → areasOk (areas.map Prod.snd) = true →
      exec (.preemptiveLaunch i) s = .next (s.beginPreempt r false areas none)))

/-! ### Events: strays and Lull -/

/-- R199, R200, R205, R206: a stray token has one notice; a discard removes stray tokens as pops would, and one with nothing to discard at its end is
refused; a sweep of Lull counts, and a count that repeats STILL times (64 for 0) with nodes waiting is reported once. Which counts are
compared and which nodes are named is the model's reading (log entry 23). -/
def Obligations.StraysAndDeadlocks : Prop :=
  (∀ (s : State) (n t e : Nat) (c : Chan), s.chans.look n = some c → c.cons = .tile t e → c.strays < s.strayCount c →
    exec (.strayToken n) s = .next ((s.putChan n { c with strays := c.strays + 1 }).notice t (s.endSet t e) 0 (s.node t 1 e)
      (((s.set? t (s.endSet t e)).map SetState.eoiInvoc).getD 0) { notice := true } { code := Code.strayToken, elem := BitVec.ofNat 48 e })) ∧
  (∀ (s : State) (t e : Nat), s.canon = true → (s.tile t).strayBusy = false → e < 192 →
    let s1 := s.discard t (some e)
    exec (.strayDiscardEnd t e) s = .next (
      if s.strayAt t e then s1.putTile t { s1.tile t with strayEnd := BitVec.ofNat 8 e }
      else s.putTile t { s.tile t with strayErr := true }) ∧
    (s.strayAt t e = true → (s1.tile t).strayBusy = true)) ∧
  (∀ (s : State) (t : Nat), s.canon = true → (s.tile t).strayBusy = false →
    let s1 := s.discard t none
    exec (.strayDiscardAll t) s = .next (s1.putTile t { s1.tile t with strayEnd := 0 })) ∧
  (∀ (s : State) (t e n : Nat) (c : Chan), s.chans.look n = some c → c.cons = .tile t e → s.isStray c = true →
    let k := s.strayCount c
    (s.discard t (some e)).chans.look n = some { c with
      buf := c.buf.take (c.buf.length - k), rets := c.rets + k, popped := c.popped + k, strays := 0, late := 0 }) ∧
  (∀ (s : State) (r : Nat) (x : Region), s.region? r = some x → x.st = .running → x.halt = .none → s.stopped = false →
    let now := s.lullCounts r x
    let same := now == x.lullLast
    let still := if same then x.lullStill + 1 else 0
    let due := same && decide ((if x.still = 0 then 64 else x.still.toNat) ≤ still) && !x.lullSaid && !(s.lullWaits r x).isEmpty
    let s1 := s.modRegion r (fun y => { y with lullLast := now, lullStill := still,
                                               lullQuiet := if quietCounts now then y.lullQuiet + 1 else 0,
                                               quiescent := quietCounts now && decide (1 ≤ y.lullQuiet),
                                               lullSaid := same && (y.lullSaid || due) })
    exec (.lullSweep r) s = .next (if due then s1.deadlock r (s.lullWaits r x) else s1))

/-! ### Events: circuits, slots and the cube -/

/-- R102, R108, R115: a circuit's HALT step, a step whose page is absent, one that is performed in its turn, its control tokens, and the end of a
conversion. What a conversion leaves in the held values is free (log entry 4); which circuits step together in one cycle is the model's reading
(log entry 50). -/
def Obligations.CircuitEvents : Prop :=
  (∀ (s : State) (t a : Nat), let r := s.arr t a
    let w := r.stepAt r.step.toNat
    let head := if stPop w then s.headAt t r.ice else none
    let ev := s.cirEvent t a r w
    r.mode = .running → s.runs t = true →
    (stKind w = 2 → r.hev = false → exec (.circuitStep t a) s = .next (s.putArr t a { r with mode := .halted, absent := false })) ∧
    (stKind w ≠ 2 → r.present.getLsbD (stCtx w / 16) = false → r.absent = false →
      exec (.circuitStep t a) s = .next ((s.cirRecord t a true Code.ctxAbsent 7 0).putArr t a { r with absent := true })) ∧
    (stKind w ≠ 2 → r.present.getLsbD (stCtx w / 16) = true → (stPop w = true → ∃ k, s.headAt t r.ice = some k ∧ k.isCtl = false) →
      (stEmit w = true → s.roomAt t r.oce ≠ 0) → (stPort w = 1 → s.cirAccs t a = []) → s.traceStalls ev = false →
      s.cirMatch t a r ev = none →
      exec (.circuitStep t a) s = .next (match s.cirTurn? t a with
        | none => s
        | some s1 => s1.cirPerform t a r w head ev)) ∧
    (NSet.has (s.tile t).cirTurn a = true → s.cirTurn? t a = some (s.putTile t { s.tile t with cirTurn := NSet.drop (s.tile t).cirTurn a })) ∧
    (∀ k, stKind w ≠ 2 → stPop w = true → r.present.getLsbD (stCtx w / 16) = true → s.headAt t r.ice = some k → k.isCtl = true →
      k.badCtl = false → (r.oce ≠ 255 → s.roomAt t r.oce ≠ 0) →
      let s0 := s.popAt t r.ice
      let s1 := if r.iacq = true ∨ k.isDrn = true then s0.cirAcquire t a k.rel else s0
      let rel := if k.isDrn then s1.cirNeeds t a 4 (s1.arr t a) else if r.orel then s1.cirNeeds t a 2 (s1.arr t a) else []
      let s2 := if r.oce ≠ 255 then s1.pushAt t r.oce { k with rel := rel } else s1
      exec (.circuitControlForward t a) s = .next (if k.sub = 1 ∧ r.oce ≠ 255 then s2.modArr t a (fun r => { r with eoi := r.eoi + 1 }) else s2))) ∧
  (∀ (s : State) (t a o : Nat) (c : Cmd) (m : SCom) (arr : BitVec 5) (pm : BitVec 8), let r := s.arr t a
    r.mode = .converting → s.writesInto t a = false → r.cmds = [(o, c.seq)] → s.cubeCmd t (o, c.seq) = some c →
    c.i = .cirConvert m arr pm → c.stage = 2 →
    (∀ p b, pm.getLsbD p = true → p < 8 → b ∈ pageSpans a p → (s.tile t).poisonIn b 256 = none ∧ (s.tile t).badContext b 256 = none) →
    exec (.conversionComplete t a) s = .next ((s.putArr t a { r with
      mode := .halted, present := pm, vals := (s.free 40).extractLsb' 0 32, step := 0, latch := (s.free 41).extractLsb' 0 32,
      valid := (s.free 42).getLsbD 0, pdata := 0, cycles := 0, first := false, hdr := [], sched := [], taken := 0, eoi := 0,
      absent := false, holds := false, knew := [], since := 0 }).cmdDone t o c.seq))

/-- R167, R175, R176, R180, R367: a slot's clearing ends, digests settle a cooperative command, a binding takes tokens and fires, and control
tokens pass it between panels. That one move takes or fires one token, and the port nodes of a state, are the model's own (log entries 12
and 39). -/
def Obligations.SlotAndCubeEvents : Prop :=
  (∀ (s : State) (t n : Nat), s.nextClear t n = true →
    exec (.slotClearDone t n) s = .next ((s.zeroSlot t n).putSlot t n { s.slot t n with st := .claimed })) ∧
  (∀ (s : State) (r : Nat) (x : Region) (u die gid : Nat) (us : List Nat) (d : Nat × Nat), s.regions = [(r, x)] →
    x.tiles.filter (fun u => dieOf u == die && grpEn (s.cubegrp u) && grpGid (s.cubegrp u) == gid) = u :: us →
    (s.tile u).cube.digest.find? (fun x : Nat × Nat => us.all (fun w => (SMap.look (s.tile w).cube.digest x.1).isSome)) = some d →
    exec (.cubeDigestsComplete die gid) s = .next (s.settle (u :: us) d.1)) ∧
  (∀ (s : State) (t : Nat) (b : Binding) (v : SetState), (s.tile t).cube.binding = some b → s.set? t b.set = some v → b.fault = false →
    s.runs t = true →
    let e := v.ent.chIn b.chI
    let eo := v.ent.chOut b.chO
    let panel := 32 * b.desc.k
    (∀ k, s.headAt t e = some k → b.fill < panel → exec (.cubeStreamFiring t) s = .next (s.bindTake t b e k)) ∧
    (s.headAt t e = none → panel ≤ b.fill → 0 < s.roomAt t eo → exec (.cubeStreamFiring t) s = .next (s.bindFire t v b eo)) ∧
    (∀ k, s.headAt t e = some k → k.isCtl = true → k.badCtl = false → b.headed = false → b.fill = 0 → s.roomAt t eo ≠ 0 →
      let s1 := (s.popAt t e).pushAt t eo { k with rel := if k.isDrn then s.tileNeeds t else [] }
      (k.sub = 1 → exec (.cubeControlForward t) s = .next (s1.modBinding t (fun b => { b with panel := 0 }))) ∧
      (k.sub = 2 → exec (.cubeControlForward t) s =
        .next (s1.modSet t b.set (fun v => { v with eosOut := NSet.add v.eosOut eo }))) ∧
      (k.sub = 3 → s.tileAccs t = false → exec (.cubeControlForward t) s =
        .next (((s1.acquireSet t b.set k.rel).modSet t b.set (fun v => { v with drnOut := NSet.add v.drnOut eo })).endBinding t)))) ∧
  (∀ (s : State) (t k : Nat) (p : PortNode), (s.tile t).ports.find? (fun p => p.port == k) = some p → p.fault = false → s.runs t = true →
    (s.tile t).heldFor = none →
    let a := if p.dir ≤ 1 then s.portRead t p else s.portWrite t p
    (∀ s1, a = .quiet s1 → exec (.portNodeInvocation t k) s = .next s1) ∧
    (∀ s1 f, a = .fault s1 f → exec (.portNodeInvocation t k) s = .next (s1.portFault t p f)) ∧
    (∀ cond act, a = .fire cond act → let ev := s.nodeEvent t p.set 5 p.port p.invoc [cond]
      s.traceStalls ev = false → s.portMatch t p ev = none →
      exec (.portNodeInvocation t k) s =
        .next ((act (ev.note.map (fun n => (elemKey 5 p.port, n.num)))).nodeNoted t 5 p.port (.port t p.port) ev)))

/-! ### Events: near memory -/

/-- R71 to R74: the head of the queue is taken by its OP, and answered when its outcome is settled. When HEAD advances and an answer is
written is the model's reading (log entry 24). -/
def Obligations.NearMemoryCommands : Prop :=
  (∀ (s : State), let h := s.cfg.nmqHead
    let a := s.cfg.slotBase h.toNat
    let d0 := s.seePlain a
    let d1 := s.seePlain (a + 8)
    let n := (d1.extractLsb' 0 9).toNat
    let s1 := s.modCfg (fun c => { c with nmqHead := c.nmqHead + 1 })
    h ≠ s.cfg.nmqTail → s.stopped = false → s.cfg.pwr = 0 → s.sectionHeld d1 = false → s.bankHeld a = false → s.memFaults a 64 false = false → d0.extractLsb' 48 12 = 0 → d0.extractLsb' 0 32 = 0 →
    ((d0.extractLsb' 60 4).toNat = 1 → d1.extractLsb' 48 16 = 0 → ∀ r, s1.launchCheck (d1.extractLsb' 0 48).toNat = .error r →
      exec .bsuLaunch s = .next (s1.nmqAdd h.toNat (some r) [])) ∧
    ((d0.extractLsb' 60 4).toNat = 1 → d1.extractLsb' 48 16 = 0 → ∀ ents, s1.launchCheck (d1.extractLsb' 0 48).toNat = .ok ents →
      exec .bsuLaunch s = .next ((ents.map entChan).foldl State.settleUnit (ents.foldl (fun s e => s.putUnit (entChan e)
        ((s.unit (entChan e)).launched e)) (s1.nmqAdd h.toNat none (ents.map entChan))))) ∧
    (d1.extractLsb' 9 55 = 0 → n < 384 →
      ((d0.extractLsb' 60 4).toNat = 2 → (s1.unit n).st = .faulted → s1.unitHeld n = false →
        exec .bsuResume s = .next ((((s1.putUnit n { s1.unit n with st := .running }).unitStatus n 9).nmqAdd h.toNat none
          [n]).settleUnit n)) ∧
      ((d0.extractLsb' 60 4).toNat = 2 → (s1.unit n).st ≠ .idle → s1.unitHeld n = true →
        exec .bsuResume s = .next (s1.nmqAdd h.toNat (some (3, n)) [])) ∧
      ((d0.extractLsb' 60 4).toNat = 3 → (s1.unit n).st ≠ .idle → s1.unitHeld n = true →
        exec .bsuAbort s = .next (s1.nmqAdd h.toNat (some (3, n)) [])) ∧
      ((d0.extractLsb' 60 4).toNat = 3 → (s1.unit n).st ≠ .idle → s1.unitHeld n = false →
        exec .bsuAbort s = .next ((s1.nmqAdd h.toNat none [n]).abortUnit n)) ∧
      ((d0.extractLsb' 60 4).toNat = 4 → (s1.unit n).st = .idle →
        exec .bsuQuery s = .next (s1.nmqAdd h.toNat (some ((s1.unit n).status, n)) [])))) ∧
  (∀ (s : State) (c : NmqCmd) (st : BitVec 8) (n : Nat), s.nmq.find? (fun c : NmqCmd => c.outcome.isSome) = some c → c.outcome = some (st, n) →
    s.bankHeld (s.cfg.slotBase c.slot) = false → s.memFaults (s.cfg.slotBase c.slot) 64 false = false →
    exec .nmqCommandDone s = .next ({ s with nmq := s.nmq.filter (· != c) }.nmqWrite c.slot st n)) ∧
  (∀ (s : State) (tail : BitVec 6), (s.cfg.pwr ≠ 3 → exec (.nmqTailWrite tail) s = .next { s with cfg := { s.cfg with nmqTail := tail } }) ∧
    (s.cfg.pwr = 3 → exec (.nmqTailWrite tail) s = .next s))

/-- R62, R63, R67, R74: a bank-side node fires on data at every input, its loads return in order, its stores are performed, and packets reach
its links. The checks of a store and the credits of a link are the model's reading (log entries 25 and 28), and so is that a store is performed for its
own unit at once and for every other party when its unit's write buffer drains (log entry 7). -/
def Obligations.BankUnitEvents : Prop :=
  ∀ (s : State) (n : Nat), let u := s.unit n
    (∀ (k : Nat) (heads : List (Nat × Token)), let d := u.node k
      s.unitRuns n = true → k < 16 → d.kind ≠ 0 → d.kind ≠ 0x12 → u.outFree k = true → SMap.look u.runs k = none → d.ins ≠ [] →
      d.ins.map (fun i => (SMap.look u.arcs (4 * k + i.1)).map (fun x => (i.1, x))) = heads.map some →
      heads.all (fun h => !h.2.isCtl) = true →
      exec (.bsuNodeFire n k) s = .next ((s.bsuData n k heads).settleUnit n)) ∧
    (∀ (k : Nat) (l : BsuLoad) (rest : List BsuLoad), SMap.get [] u.loads k = l :: rest → l.val = none →
      exec (.bsuLoadReturn n k) s = .next (s.bsuLoad n k l)) ∧
    (∀ (k : Nat) (l : BsuLoad) (x : Word), SMap.get [] u.loads k = [l] → l.val = some x → s.unitRuns n = true → u.clearOut k = true →
      exec (.bsuLoadReturn n k) s =
        .next ((s.putUnit n ({ u with loads := SMap.put [] u.loads k [] }.emit k ⟨(u.node k).fmt, x, []⟩)).settleUnit n)) ∧
    (∀ (k : Nat) (w : BsuStore) (rest : List BsuStore), SMap.get [] u.stores k = w :: rest → u.st = .running → s.stopped = false → s.cfg.pwr = 0 → u.clearOut k = true →
      s.bankHeld (bsuAddr n w.off) = false → s.bsuBad n w.off (u.node k).size = none →
      exec (.bsuStorePerformed n k) s = .next ((s.putUnit n ({ u with
        stores := SMap.put [] u.stores k rest,
        wbuf := u.wbuf ++ [(⟨entKey u.ent, bsuAddr n w.off, natBytes (u.node k).size w.data.toNat⟩ : BsuWrite)] }.emit k ⟨0, 0, []⟩)).settleUnit n)) ∧
    (∀ (l i : Nat) (c : Chan) (x : Token) (rest : List Token),
      s.chans.find? (fun c => c.2.cons == .link n l && !c.2.win.isEmpty && !s.shadowed c.2) = some (i, c) → c.win = x :: rest →
      NSet.has u.dropping l = false → (SMap.get [] u.links l).length < 64 →
      exec (.bsuLinkArrival n l) s = .next ((s.putChan i { c with win := rest, delivered := c.delivered + 1 }).putUnit n
        { u with links := SMap.put [] u.links l (SMap.get [] u.links l ++ [{ x with rel := [] }]) }))

/-! ### Events: memory health and single faults -/

/-- R27, R29, R33, R36, R240: scrubbing and repair. A correctable error is counted and logged once in 4,096, an uncorrectable one poisons its line
or storage word and is reported once; a narrowed or retired channel raises both version numbers, and an alert holds its bank, whose
release lets the records that waited for it go to their rings. Row, bank and
time are free, and the record of a poisoned line is the model's reading (log entries 4, 11, 27 and 34). -/
def Obligations.MemoryHealthEvents : Prop :=
  (∀ (s : State) (line : Nat), line * 64 < devEnd → s.bankHeld (line * 64) = false →
    let n := chanOf (line * 64)
    exec (.patrolScrub line none) s = .next s ∧
    (¬ (SMap.get 0 s.corr n + 1) % 4096 = 0 →
      exec (.patrolScrub line (some true)) s = .next { s with corr := SMap.put 0 s.corr n (SMap.get 0 s.corr n + 1) }) ∧
    ((SMap.get 0 s.corr n + 1) % 4096 = 0 →
      exec (.patrolScrub line (some true)) s =
        .next ({ s with corr := SMap.put 0 s.corr n (SMap.get 0 s.corr n + 1) }.logEvent 2 false 0 0 n)) ∧
    (s.linePoison line = true → exec (.patrolScrub line (some false)) s = .next s) ∧
    (s.linePoison line = false → ∃ row bank, exec (.patrolScrub line (some false)) s =
      .next ({ s with poison := NSet.add s.poison line }.logEvent 3 false row bank n))) ∧
  (∀ (s : State) (t off : Nat) (u : Unit5), t < 768 → off < unitSize u → (s.tile t).unitPoison u off = false →
    exec (.storageScrub t u off (some false)) s = .next ((s.putTile t ((s.tile t).poisonUnit u off)).latent t u off) ∧
    exec (.storageScrub t u off (some true)) s = .next s ∧ exec (.storageScrub t u off none) s = .next s) ∧
  (∀ (s : State) (n : Nat), n < 384 → NSet.has s.cfg.retired n = false →
    exec (.channelRetire n) s = .next (((s.modCfg (fun c => { c with
      retired := NSet.add c.retired n, narrowed := NSet.drop c.narrowed n, cmapver := c.cmapver + 1, memGen := c.memGen + 1 })).logEvent 5
        false 0 0 n).unitHw n 7) ∧
    (NSet.has s.cfg.narrowed n = false → exec (.channelNarrow n) s = .next ((s.modCfg (fun c => { c with
      narrowed := NSet.add c.narrowed n, cmapver := c.cmapver + 1, memGen := c.memGen + 1 })).logEvent 4 false 0 0 n))) ∧
  (∀ (s : State) (t : Nat), t < 768 → s.cfg.healthy t = true → exec (.tileHealthClear t) s =
    .next { s with cfg := { s.cfg with health := SMap.put true s.cfg.health t false, gridGen := s.cfg.gridGen + 1 } }) ∧
  (∀ (s : State) (p : Nat), p < 8 → s.cfg.tierUp.getLsbD p = true → exec (.cxlLinkDown p) s =
    .next { s with cfg := { s.cfg with tierUp := setBit s.cfg.tierUp p false, tierGen := s.cfg.tierGen + 1 } }) ∧
  (∀ (s : State) (n bank : Nat), bank < 32 →
    (∃ row, exec (.activationAlert n bank false) s =
      .next ({ s with holds := NSet.add s.holds (n * 32 + bank) }.logEvent 1 false row bank n)) ∧
    (∃ row now, exec (.activationAlert n bank true) s =
      .next (({ s with holds := NSet.add s.holds (n * 32 + bank) }.logEvent 1 true row bank n).alertUnit n now)) ∧
    exec (.mitigationEnd n bank) s = .next { s with holds := NSet.drop s.holds (n * 32 + bank) }.flushRings)

/-- R239: a clock or supply fault stops the part and every set of a running region; a single fault goes to the unit that it strikes, and a link's
retry is not seen. What a clock fault stops and which unit a channel's fault names are the model's reading (log entries 31 and 32). -/
def Obligations.HardwareFaultEvents : Prop :=
  (∀ (s : State), ∃ t : State, exec .clockSupplyFault s = .next t ∧ t.stopped = true ∧
    t = { (((s.regions.filter (fun r => r.2.st == .running)).flatMap (fun r => s.regionSets r.1)).foldl (fun s v =>
      s.setFaultAt v.1 v.2.1 { code := Code.hwDetected, elem := 0x0A } 0 0 0) s) with stopped := true } ∧
    (∀ r x u o v, (r, x) ∈ s.regions → x.st = .running → (u, o, v) ∈ s.regionSets r →
      (t.set? u o).map (fun w => (w.stopped, w.setFault)) = some (true, true)) ∧
    (∀ u o, (∀ r x v, (r, x) ∈ s.regions → x.st = .running → (u, o, v) ∉ s.regionSets r) →
      (t.set? u o).map (fun w => (w.stopped, w.setFault)) = (s.set? u o).map (fun w => (w.stopped, w.setFault)))) ∧
  (∀ (s : State), exec (.singleFault .link) s = .next s ∧
    (∀ t, exec (.singleFault (.cube t)) s = .next (s.putTile t { s.tile t with cube := { (s.tile t).cube with bad := true } })) ∧
    (∀ t u off, t < 768 → off < unitSize u →
      exec (.singleFault (.storage t u off false)) s = .next (s.putTile t ((s.tile t).poisonUnit u off)) ∧
      exec (.singleFault (.storage t u off true)) s = .next s) ∧
    (∀ line, line * 64 < devEnd → exec (.singleFault (.device line false)) s = .next (s.poisonLine line) ∧
      exec (.singleFault (.device line true)) s = .next (s.corrected (chanOf (line * 64)))) ∧
    (∀ line p, devEnd ≤ line * 64 → s.cfg.place (line * 64) = .tier p →
      exec (.singleFault (.device line false)) s = .next { s with poison := NSet.add s.poison line } ∧
      exec (.singleFault (.device line true)) s = .next s) ∧
    (∀ t o, exec (.singleFault (.sequencer t o)) s = .next (s.setFaultAt t o { code := Code.hwDetected, elem := 0x03 } 0 0 0)) ∧
    (∀ n, exec (.singleFault (.base n)) s = .next (s.unitHw n 8)) ∧
    (∀ n c m l, s.chans.look n = some c → c.cons = .link m l → exec (.singleFault (.channel n)) s = .next (s.unitHw m 4)) ∧
    (∀ n c t e, s.chans.look n = some c → c.cons = .tile t e →
      let f : FaultInfo := { code := Code.hwDetected, elem := 0x04 }
      let circuit := (s.tile t).arrs.find? (fun a => a.2.holds && a.2.ice == e)
      let port := (s.tile t).ports.find? (fun p => p.input == some e)
      (∀ a r, circuit = some (a, r) → let g : FaultInfo := { f with ac := r.pac }
        exec (.singleFault (.channel n)) s = .next ((s.tileRecord t (recWord0 g { cir := true } t (r.lastSet.getD 0) a r.step.toNat 0) 0
          (recWord2 (s.node t 3 a) r.eoi) (recWord3 g)).modArr t a (fun r => { r with mode := .halted, absent := false }))) ∧
      (∀ p, circuit = none → port = some p → exec (.singleFault (.channel n)) s = .next (s.portFault t p f)) ∧
      (∀ o v, circuit = none → port = none → s.endSet? t e = some o → s.set? t o = some v →
        (∀ b, (s.tile t).cube.binding = some b → s.boundByCube t o v.ent true e = true → exec (.singleFault (.channel n)) s =
          .next ((s.modBinding t (fun b => { b with fault := true })).notice t b.set 0 (s.node t 4 0) v.eoiInvoc { node := true } f)) ∧
        (∀ k, s.boundByCube t o v.ent true e = false → v.popper e = some k →
          exec (.singleFault (.channel n)) s = .next (s.stopCmd t o k f)) ∧
        (s.boundByCube t o v.ent true e = false → v.popper e = none →
          exec (.singleFault (.channel n)) s = .next (s.setFaultAt t o f 0 0 0))) ∧
      (circuit = none → port = none → s.endSet? t e = none →
        exec (.singleFault (.channel n)) s = .next (s.notice t 0 0 0xFFFFFFFF 0 { notice := true } f))) ∧
    (∀ die i x, s.xlat[i]? = some x → x.at'.dieNo = die →
      exec (.singleFault (.translation die i)) s = .next { s with xlat := s.xlat.eraseIdx i }) ∧
    (∀ t o tid v w, s.set? t o = some v → v.sweep = some w → v.stopped = false →
      (w.passes.drop w.cur).any (fun p => p.tids.contains tid) = true → w.mode ≠ .trap →
      exec (.singleFault (.lane t o tid)) s = .next ((s.modSet t o (fun v => v.outOfSweep tid)).threadFault t o tid w.blk w.idx w.loops false
        { code := Code.hwDetected, elem := 0x02 })))

/-! ### Events: the domain and the host -/

/-- R262: what another node's access does: in Active and Idle a write of its size and alignment to memory that it may reach is accepted as a store
of those bytes, and of a whole line as one that clears its poison; a refused access and a read change nothing, and in Retain and Off no
access to memory acts. When an accepted write is performed (StoresWriteTheirBytes) and which configuration writes act is the model's reading
(log entries 7 and 33). -/
def Obligations.InboundAccesses : Prop :=
  ∀ (s : State) (node : Nat),
    let accepted (pa n : Nat) (loc : Place2) (w : Double) (r : Host.Outcome State Fault Refusal) : Prop :=
      ∃ t : State, ∃ a : Access, r = .next t ∧ t = { s with nextId := t.nextId, accs := t.accs } ∧
        t.accs = s.accs.insert s.nextId a ∧ t.nextId = s.nextId + 1 ∧ a.kind = .store ∧ a.loc = loc ∧ a.bytes = n ∧ a.data = w ∧
        (∀ i b, (i, b) ∈ s.toCome → b.tile = 1024 + node → b.va.toNat / 64 = pa / 64 → (⟨i, 4, false⟩ : Need) ∈ a.after)
    (∀ pa n, exec (.inboundAccess node (.read pa n)) s = .next s) ∧
    (∀ pa n w, 0 < n → n ≤ 8 → pa % n = 0 → s.cfg.place pa ≠ .config →
      (s.cfg.pwr.toNat < 2 → s.inboundOk pa n false = true → accepted pa n (.dev pa 0) w (exec (.inboundAccess node (.write pa n w)) s)) ∧
      (2 ≤ s.cfg.pwr.toNat ∨ s.inboundOk pa n false = false → exec (.inboundAccess node (.write pa n w)) s = .next s)) ∧
    (∀ line w, s.cfg.pwr.toNat < 2 → s.inboundOk (line * 64) 64 true = true →
      accepted (line * 64) 64 (.line line w) 0 (exec (.inboundAccess node (.writeLine line w)) s)) ∧
    (∀ line w, 2 ≤ s.cfg.pwr.toNat ∨ s.inboundOk (line * 64) 64 true = false → exec (.inboundAccess node (.writeLine line w)) s = .next s) ∧
    (∀ pa w, pa % 8 = 0 → s.cfg.place pa = .config →
      (s.cfg.pwr ≠ 3 → exec (.inboundAccess node (.write pa 8 w)) s = .next (s.cfgWrite (pa - cfgBase) w (s.cfg.svFrom node) node).1) ∧
      (s.cfg.pwr = 3 → exec (.inboundAccess node (.write pa 8 w)) s = .next s))

/-- R264, R231: a mailbox write pushes one token at the bound end of a running region while a slot is free, nothing is held before it and what its node
wrote before it is performed, is held otherwise, and is dropped when the mailbox or its word is not valid; what is held is delivered later,
doorbells by mailbox 3. That a write waits for a region that does not run, and how it waits for its node's writes, is the model's reading (log
entries 30 and 7). -/
def Obligations.MailboxesAndDoorbells : Prop :=
  (∀ (s : State) (node : Nat) (n : BitVec 2) (w : BitVec 64) (t e i : Nat) (c : Chan), s.cfg.pwr = 0 → s.cfg.booted = true → n ≠ 3 →
    w.extractLsb' 35 29 = 0 → s.mboxEnd n.toNat = some (t, e) → s.inChan t e = some (i, c) → s.inflowHeld t = false → s.rplMode t = .off →
    let k : Token := ⟨w.extractLsb' 32 3, w.extractLsb' 0 32, s.inboundIds node⟩
    (s.mboxHeld.any (fun h => h.n.toNat == n.toNat) = false → 0 < c.free → (s.inboundIds node).all s.met = true →
      exec (.mailboxWrite node n w) s = .next (s.putChan i { c.note none with free := c.free - 1, fly := c.fly ++ [k] })) ∧
    (s.mboxHeld.any (fun h => h.n.toNat == n.toNat) = true ∨ c.free = 0 ∨ (s.inboundIds node).all s.met = false →
      exec (.mailboxWrite node n w) s =
        .next { s with mboxHeld := s.mboxHeld ++ [(⟨n, node, w.extractLsb' 32 3, w.extractLsb' 0 32, s.inboundIds node⟩ : MboxHeld)] }) ∧
    (∀ h, s.mboxHeld.find? (fun h => h.n.toNat == n.toNat) = some h →
      (0 < c.free → h.rel.all s.met = true → exec (.mailboxDelivery n) s =
        .next ({ s with mboxHeld := dropHeld n.toNat s.mboxHeld }.putChan i { c.note none with
          free := c.free - 1, fly := c.fly ++ [(⟨h.tag, h.val, h.rel⟩ : Token)] })) ∧
      (c.free = 0 ∨ h.rel.all s.met = false → exec (.mailboxDelivery n) s = .next s))) ∧
  (∀ (s : State) (node : Nat) (n : BitVec 2) (w : BitVec 64), s.cfg.pwr = 0 →
    (n = 3 ∨ s.cfg.booted = false ∨ w.extractLsb' 35 29 ≠ 0 ∨ (s.mboxEnd n.toNat = none ∧ s.mboxSaved n.toNat = false)) →
    exec (.mailboxWrite node n w) s = .next s) ∧
  (∀ (s : State) (a : Nat) (rest : List Nat) (t e i : Nat) (c : Chan), s.bells = a :: rest → s.mboxEnd 3 = some (t, e) →
    s.inChan t e = some (i, c) → s.inflowHeld t = false → s.rplMode t = .off →
    (0 < c.free → exec .faultDoorbell s = .next { s.putChan i { c.note none with
        free := c.free - 1, fly := c.fly ++ [(⟨0, BitVec.ofNat 32 (a / 4096), []⟩ : Token)] } with bells := rest }) ∧
    (c.free = 0 → exec .faultDoorbell s = .next s) ∧ exec (.mailboxDelivery 3) s = exec .faultDoorbell s)

/-- R6, R273, R389, R392: a register written by system software changes by its map: a supervisor register that no rule of its own refuses keeps the
bits that its map does not name, a ring's LOST clears where 1 is written, a configuration double changes the fields that are written, and one
that holds a command does what the command's event does. -/
def Obligations.RegisterWrites : Prop :=
  (∀ (s : State) (n : RegName) (w : Double), s.cfg.pwr = 3 → exec (.registerWrite n w) s = .next s) ∧
  (∀ (s : State) (t o : Nat) (r : SReg) (w : Double), let g := tgt t o
    let old := s.sregRead g r
    s.cfg.pwr ≠ 3 → r ≠ .xinvcmd → r ≠ .xfsvc → r ≠ .fltcmd → r ≠ .straycmd → r ≠ .dbgcmd →
    (s.sregRefuses g r w old = true → exec (.registerWrite (.sreg t o r) w) s = .next s) ∧
    (s.sregRefuses g r w old = false → svMask r ≠ 0 → r ≠ .rfqbase → r ≠ .trcbase → exec (.registerWrite (.sreg t o r) w) s =
      .next (s.sregPut g r ((old &&& ~~~(svMask r)) ||| (w &&& svMask r)))) ∧
    (s.sregRefuses g r w old = false → r = .rfqbase ∨ r = .trcbase → exec (.registerWrite (.sreg t o r) w) s =
      .next (s.sregPut g r ((old &&& ~~~(svMask r) &&& ~~~(w &&& 2)) ||| (w &&& svMask r)))) ∧
    (svMask r = 0 → exec (.registerWrite (.sreg t o r) w) s = .next s)) ∧
  (∀ (s : State) (off : Nat) (w : Double), s.cfg.pwr ≠ 3 →
    (s.cfg.capAt off = some (2, 1) → w.extractLsb' 56 2 = 0 → exec (.registerWrite (.config off) w) s =
      .next { s with cfg := { s.cfg with keyErr := s.cfg.keyErr && !w.getLsbD 62, keyId := w.extractLsb' 0 12 } }) ∧
    (∀ k, s.cfg.capAt off = some (2, 1) → exec (.registerWrite (.config off) (keyWord 1 k)) s = exec (.keyLoad k) s ∧
      exec (.registerWrite (.config off) (keyWord 2 k)) s = exec (.keyInvalidate k) s) ∧
    (∀ i, i < 4 →
      (s.cfg.capAt off = some (2, 2 + i) → ∃ x : BitVec 256, exec (.registerWrite (.config off) w) s =
        .next { s with cfg := { s.cfg with keyData1 := x } } ∧
        ∀ j, j < 4 → x.extractLsb' (64 * j) 64 = if j = i then w else s.cfg.keyData1.extractLsb' (64 * j) 64) ∧
      (s.cfg.capAt off = some (2, 6 + i) → ∃ x : BitVec 256, exec (.registerWrite (.config off) w) s =
        .next { s with cfg := { s.cfg with keyData2 := x } } ∧
        ∀ j, j < 4 → x.extractLsb' (64 * j) 64 = if j = i then w else s.cfg.keyData2.extractLsb' (64 * j) 64) ∧
      (s.cfg.capAt off = some (4, 2 + i) →
        exec (.registerWrite (.config off) w) s = exec (.mailboxWrite s.cfg.devid.toNat (BitVec.ofNat 2 i) w) s)) ∧
    (s.cfg.capAt off = some (4, 6) → exec (.registerWrite (.config off) w) s = .next { s with cfg := { s.cfg with
      mbxTile := w.extractLsb' 48 10, mbxEnd := w.extractLsb' 16 32, mbxEn := w.getLsbD 0 } }) ∧
    (s.cfg.capAt off = some (4, 7) → exec (.registerWrite (.config off) w) s = .next { s with cfg := { s.cfg with
      peerSize := w.extractLsb' 48 16, peerBase := w.extractLsb' 30 18 } }) ∧
    (s.cfg.capAt off = some (5, 3) →
      exec (.registerWrite (.config off) w) s = .next { s with cfg := { s.cfg with nmqTail := w.extractLsb' 8 6 } }) ∧
    (s.cfg.capAt off = some (1, 15) → w.extractLsb' 0 2 = 0 → exec (.registerWrite (.config off) w) s = .next { s with cfg := { s.cfg with
      ckptDone := s.cfg.ckptDone && !w.getLsbD 62, ckptErr := s.cfg.ckptErr && !w.getLsbD 61 } }) ∧
    (s.cfg.capAt off = some (1, 15) → exec (.registerWrite (.config off) 1) s = exec .checkpointSave s ∧
      exec (.registerWrite (.config off) 2) s = exec .checkpointRestore s) ∧
    (s.cfg.capAt off = some (11, 2) → w.extractLsb' 52 4 = 0 → exec (.registerWrite (.config off) w) s = .next { s with cfg := { s.cfg with
      secErr := s.cfg.secErr && !w.getLsbD 62, secArg := w.extractLsb' 48 4, secBuf := w.extractLsb' 6 42 } }) ∧
    (s.cfg.capAt off = some (11, 3) → exec (.registerWrite (.config off) w) s = exec (.recoveryLoad (w.extractLsb' 0 58)) s) ∧
    (s.cfg.capAt off = some (1, 14) →
      exec (.registerWrite (.config off) w) s = .next { s with cfg := { s.cfg with ckptDst := w.extractLsb' 16 32 } }) ∧
    (s.cfg.capAt off = some (1, 16) →
      exec (.registerWrite (.config off) w) s = .next { s with cfg := { s.cfg with logBase := w.extractLsb' 12 36 } }) ∧
    (s.cfg.capAt off = some (1, 17) → exec (.registerWrite (.config off) w) s =
      .next { s with cfg := { s.cfg with logLost := s.cfg.logLost && !w.getLsbD 63, logRd := w.extractLsb' 0 8 } }) ∧
    (s.cfg.capAt off = some (5, 2) →
      exec (.registerWrite (.config off) w) s = .next { s with cfg := { s.cfg with nmqBase := w.extractLsb' 12 36 } }) ∧
    (s.cfg.capAt off = some (10, 1) → exec (.registerWrite (.config off) w) s = .next { s with cfg := { s.cfg with
      powerCap := BitVec.ofNat 16 (max 800 (min 3200 (w.extractLsb' 0 16).toNat)) } }) ∧
    (s.cfg.capAt off = none → exec (.registerWrite (.config off) w) s = .next s))

/-! ### Events: security, power, keys and checkpoints -/

/-- R267, R269 to R275: enrolment, attestation, the debug level with its token, release and power requests, each as its rule allows it and refused
with ERR and its code otherwise, nothing else changed; power-off, which keeps persistent memory of the tier alone, power-on, recovery, and
the management controller's writes. Nonces, BUSY, secrets, other nodes' bytes and the tier's links are free (log entries 3, 4 and 49). -/
def Obligations.SecurityAndPowerEvents : Prop :=
  (∀ (s : State), let c := s.cfg
    let refused (code : BitVec 6) : Host.Outcome State Fault Refusal := .next (s.modCfg (fun c => { c with secErr := true, secEcode := code }))
    let a := c.secBuf.toNat * 64
    (c.pwr = 3 → (∀ node, exec (.enrol node) s = .next s) ∧ exec .attest s = .next s ∧ (∀ l, exec (.setDebug l) s = .next s) ∧
      exec .release s = .next s ∧ (∀ p, exec (.powerRequest p) s = .next s)) ∧
    (c.pwr ≠ 3 → c.secBusy = true → (∀ node, exec (.enrol node) s = refused 4) ∧ exec .attest s = refused 4 ∧
      (∀ l, exec (.setDebug l) s = refused 4) ∧ exec .release s = refused 4 ∧ (∀ p, exec (.powerRequest p) s = refused 4)) ∧
    (c.pwr ≠ 3 → c.secBusy = false →
      (∀ node, c.sec = 0 → c.dbg = 0 → s.bufOk a 96 = true → ∃ busy, exec (.enrol node) s = .next (s.modCfg (fun c => { c with
          secArg := 0, secBusy := busy, sec := 1, sealKey := some (Memory.bytes s.mem a 96), enrolledHost := some node }))) ∧
      (∀ node, c.sec = 0 → c.dbg = 0 → s.bufOk a 96 = false → exec (.enrol node) s = refused 5) ∧
      (∀ node, c.sec ≠ 0 ∨ c.dbg ≠ 0 → exec (.enrol node) s = refused 1) ∧
      (c.sec = 0 ∨ c.dbg = 2 ∨ (c.sec = 1 ∧ c.dbg ≠ 0) → exec .attest s = refused 1) ∧
      (¬ (c.sec = 0 ∨ c.dbg = 2 ∨ (c.sec = 1 ∧ c.dbg ≠ 0)) →
        (s.bufOk a 0x140 = false → exec .attest s = refused 5) ∧
        (s.bufOk a 0x140 = true → ∃ t sig, exec .attest s = .next t ∧ t.cfg.sec = 2 ∧ t.cfg.dbg = c.dbg ∧ t.cfg.nonce ≠ c.nonce ∧
          t.tiles = s.tiles ∧ t.keys = s.keys ∧ t.regions = s.regions ∧ t.chans = s.chans ∧
          (∀ h, s.canon = true → c.fwHash = some h → sig.length = 96 ∧ Memory.bytes t.mem (a + 0x40) 0x100 = natBytes 8 s.ident.toNat ++
            natBytes 8 t.cfg.secst.toNat ++ bigBytes 48 h.toNat ++ bigBytes 48 (sha384 (c.sealKey.getD [])) ++ Memory.bytes s.mem a 48 ++ sig) ∧
          (s.canon = true → ∀ b, b < a + 0x40 ∨ a + 0x140 ≤ b → Memory.read t.mem b = Memory.read s.mem b))) ∧
      (∀ lvl, lvl ≠ 3 →
        let allowed : Prop := ∃ n busy, n ≠ c.nonce ∧ exec (.setDebug lvl) s =
          .next (s.modCfg (fun c => { c with secArg := lvl.setWidth 4, secBusy := busy, dbg := lvl, nonce := n }))
        let tok := Memory.bytes s.mem a 32
        (held c.sec lvl c.pwr = .free → allowed) ∧ (held c.sec lvl c.pwr = .refused → exec (.setDebug lvl) s = refused 1) ∧
        (held c.sec lvl c.pwr = .token → lvl < c.dbg → allowed) ∧
        (held c.sec lvl c.pwr = .token → ¬ lvl < c.dbg →
          (s.bufOk a 128 = false ∨ tokenShape tok lvl = false → exec (.setDebug lvl) s = refused 5) ∧
          (s.bufOk a 128 = true → tokenShape tok lvl = true →
            (s.sealed tok (Memory.bytes s.mem (a + 32) 96) = false → exec (.setDebug lvl) s = refused 2) ∧
            (s.sealed tok (Memory.bytes s.mem (a + 32) 96) = true → BitVec.ofNat 64 (bytesNat (tok.take 8)) ≠ c.nonce →
              exec (.setDebug lvl) s = refused 3) ∧
            (s.sealed tok (Memory.bytes s.mem (a + 32) 96) = true → BitVec.ofNat 64 (bytesNat (tok.take 8)) = c.nonce → allowed)))) ∧
      exec (.setDebug 3) s = refused 5 ∧
      (∃ t, exec .release s = .next t ∧ t.cfg.sec = 0 ∧ t.cfg.dbg = 0 ∧ t.cfg.sealKey = none ∧ t.cfg.enrolledHost = none ∧ t.cfg.keyPend = none ∧
        t.cfg.nonce ≠ c.nonce ∧ t.mem = s.mem ∧ t.tiles = s.tiles ∧ (s.canon = true → ∀ k : BitVec 12, SMap.look t.keys k.toNat = none)) ∧
      exec (.powerRequest 0) s = refused 1 ∧
      (c.pwr = 2 → exec (.powerRequest 1) s = refused 1 ∧ exec (.powerRequest 2) s = refused 1) ∧
      (c.pwr ≠ 2 → s.noRegion = true → ∃ busy, exec (.powerRequest 1) s =
        .next (s.modCfg (fun c => { c with secArg := 1, secBusy := busy, pwr := 1 }))) ∧
      (c.pwr ≠ 2 → s.noRegion = false → exec (.powerRequest 1) s = refused 1) ∧
      (c.pwr ≠ 2 → s.noRegion = true → c.ckptBusy = false → c.dbg ≠ 2 → ∃ busy, exec (.powerRequest 2) s =
        .next (s.modCfg (fun c => { c with secArg := 2, secBusy := busy, pwr := 2 }))) ∧
      (s.noRegion = false ∨ c.ckptBusy = true ∨ c.dbg = 2 → exec (.powerRequest 2) s = refused 1) ∧
      exec (.powerRequest 3) s = .next s.powerOff)) ∧
  (∀ (s : State), let t := s.powerOff
    exec .boardPowerOff s = .next t ∧ t.cfg.pwr = 3 ∧ t.tiles = [] ∧ t.keys = [] ∧ t.regions = [] ∧ t.cfg.sealKey = none ∧ t.cfg.sec = 0 ∧
    t.cfg.dbg = 0 ∧ (∀ m, m ∈ t.mem → ∃ p, s.cfg.place m.1 = .tier p ∧ s.cfg.tierPersist.getLsbD p = true) ∧
    (s.fresh = [] → ∀ m p, m ∈ s.mem → s.cfg.place m.1 = .tier p → s.cfg.tierPersist.getLsbD p = true → m ∈ t.mem)) ∧
  (∀ (s : State), ∃ boot n h up, exec .powerOnReset s = .next (s.unpowered { s.cfg.rebooted with
      bootst := boot, nonce := n, fwHash := h, tierUp := s.cfg.tierPop &&& up }) ∧
    (boot = 0 ∧ h.isSome = true ∨ boot = 1 ∧ h = none)) ∧
  (∀ (s : State) (a : BitVec 58), let waits := a ≠ 0 ∧ (s.cfg.bootst = 1 ∨ s.cfg.bootst = 2)
    let ok (h : BitVec 384) : Host.Outcome State Fault Refusal :=
      .next (s.modCfg (fun c => { c with recovAddr := a, bootst := 3, fwHash := some h }))
    let bad : Host.Outcome State Fault Refusal := .next (s.modCfg (fun c => { c with recovAddr := a, bootst := 2 }))
    (¬ waits → exec (.recoveryLoad a) s = .next (s.modCfg (fun c => { c with recovAddr := a }))) ∧
    (waits → a.extractLsb' 48 10 = s.cfg.devid → let pa := (a.extractLsb' 0 48).toNat
      let len := Memory.readLE s.mem (pa + 8) 8 % 2 ^ 32
      let img := Memory.bytes s.mem pa len
      (s.memFaults pa (max len 16) false = false → fwOk s.cfg.svn img = true →
        exec (.recoveryLoad a) s = ok (BitVec.ofNat 384 (sha384 img))) ∧
      (len < 112 ∨ s.memFaults pa (max len 16) false = true ∨ fwOk s.cfg.svn img = false → exec (.recoveryLoad a) s = bad)) ∧
    (waits → a.extractLsb' 48 10 ≠ s.cfg.devid → exec (.recoveryLoad a) s = bad ∨ ∃ h, exec (.recoveryLoad a) s = ok h)) ∧
  (∀ (s : State) (cap : BitVec 16),
    (s.cfg.pwr ≠ 3 → exec (.i3cCapWrite cap) s = .next (s.modCfg (fun c => { c with
      pwr := if c.pwr = 2 then 1 else c.pwr, powerCap := BitVec.ofNat 16 (max 800 (min 3200 cap.toNat)) }))) ∧
    (s.cfg.pwr = 3 → exec (.i3cCapWrite cap) s = .next s) ∧
    (s.cfg.pwr = 2 → exec .i3cWake s = .next (s.modCfg (fun c => { c with pwr := 1 }))) ∧ (s.cfg.pwr ≠ 2 → exec .i3cWake s = .next s))

/-- R31, R32, R42, R43, R45: a key command starts, and ends once no access under the id is outstanding; a checkpoint is refused with its code or
runs, and ends with DONE, or with ERR and code 3 where its memory is no longer there; no command acts with the power off. What a failed operation
has copied is free (log entry 4). That ERR, DONE and the code of an earlier command stay until 1 is written or another code is, and that equal
keys refuse an invalidation too, is the model's choice (log entry 41); so are the code of a restore whose source is gone and the work of a
bank-side unit (log entry 48). -/
def Obligations.KeyAndCheckpointEvents : Prop :=
  (∀ (s : State) (k : BitVec 12), s.cfg.pwr = 3 → exec (.keyLoad k) s = .next s ∧ exec (.keyInvalidate k) s = .next s ∧
    exec .checkpointSave s = .next s ∧ exec .checkpointRestore s = .next s) ∧
  (∀ (s : State) (k : BitVec 12), let c := s.cfg
    c.pwr ≠ 3 →
    (c.keyBusy = false → c.ckptBusy = false → k ≠ 0 → c.keyData1 ≠ c.keyData2 →
      exec (.keyLoad k) s = .next ((s.dropKey k).modCfg (fun c =>
        { c with keyBusy := true, keyId := k, keyAct := k, keyPend := some (c.keyData1, c.keyData2) })) ∧
      exec (.keyInvalidate k) s = .next ((s.dropKey k).modCfg (fun c => { c with keyBusy := true, keyId := k, keyAct := k, keyPend := none }))) ∧
    (c.keyBusy = true ∨ c.ckptBusy = true ∨ k = 0 ∨ c.keyData1 = c.keyData2 →
      exec (.keyLoad k) s = .next (s.modCfg (fun c => { c with keyErr := true })) ∧
      exec (.keyInvalidate k) s = .next (s.modCfg (fun c => { c with keyErr := true })))) ∧
  (∀ (s : State), (s.cfg.keyBusy = true → s.keyInUse s.cfg.keyAct = false →
    exec .keyCommandComplete s = .next { s with
      oldKeys := s.oldKeys.erase s.cfg.keyAct.toNat,
      keys := (match s.cfg.keyPend with
        | some p => s.keys.insert s.cfg.keyAct.toNat (p.2 ++ p.1)
        | none => s.keys),
      cfg := { s.cfg with keyBusy := false, keyPend := none, keyData1 := 0, keyData2 := 0 } }) ∧
    (s.cfg.keyBusy = false ∨ s.keyInUse s.cfg.keyAct = true → exec .keyCommandComplete s = .next s)) ∧
  (∀ (s : State), (s.cfg.pwr ≠ 3 → s.ckptRefusal = none →
      exec .checkpointSave s = .next (s.modCfg (fun c => { c with ckptBusy := true, ckptRestore := false, ckptProgress := 0 })) ∧
      exec .checkpointRestore s = .next (s.modCfg (fun c => { c with ckptBusy := true, ckptRestore := true, ckptProgress := 0 }))) ∧
    (∀ e, s.cfg.pwr ≠ 3 → s.ckptRefusal = some e →
      exec .checkpointSave s = .next (s.modCfg (fun c => { c with ckptErr := true, ckptEcode := e })) ∧
      exec .checkpointRestore s = .next (s.modCfg (fun c => { c with ckptErr := true, ckptEcode := e }))) ∧
    (s.cfg.ckptBusy = false ∨ s.holds ≠ [] → exec .checkpointDone s = .next s) ∧
    (s.cfg.ckptBusy = true → s.holds = [] → s.cfg.persistRange s.cfg.ckptAddr (1539 * gib) = true → exec .checkpointDone s =
      .next ((if s.cfg.ckptRestore then s.restoreAll s.cfg.ckptAddr (fun _ => true) else s.saveAll s.cfg.ckptAddr (fun _ => true)).modCfg (fun c =>
        { c with ckptBusy := false, ckptDone := true, ckptProgress := 1536 }))) ∧
    (s.cfg.ckptBusy = true → s.holds = [] → s.cfg.persistRange s.cfg.ckptAddr (1539 * gib) = false → ∃ t, exec .checkpointDone s = .next t ∧
      t.cfg.ckptBusy = false ∧ t.cfg.ckptErr = true ∧ t.cfg.ckptEcode = 3))

/-! ### Events: translation, fault handling, debugging and trace -/

/-- R54, R55: an invalidation drops what it names, is busy until the accesses translated before it have completed, and is refused while busy; a
write of XFSVC drops the entry that it names. What the caches hold is the model's own (log entry 45). -/
def Obligations.TranslationControlEvents : Prop :=
  ∀ (s : State) (t o : Nat) (v : SetState), s.set? t o = some v →
    let start (s1 : State) (key : BitVec 12) (asid : BitVec 16) (wait : List Nat) : Host.Outcome State Fault Refusal :=
      .next (s1.modSet t o (fun v => { v with regs := { v.regs with xinvBusy := true, xinvKeyid := key, xinvAsid := asid, xinvWait := wait } }))
    let refused : Host.Outcome State Fault Refusal := .next (s.modSet t o (fun v => { v with regs := { v.regs with xinvErr := true } }))
    (v.regs.xinvBusy = false →
      exec (.xinvAll t o) s = start { s with xlat := [], wcache := [], coal := [] } 0 0 (s.translated none) ∧
      (∀ a, exec (.xinvAsid t o a) s = start { s with
        xlat := s.xlat.filter (fun x => x.asid != a), wcache := s.wcache.filter (fun x => x.asid != a),
        coal := s.coal.filter (fun x => x.asid != a) } 0 a (s.translated (some a))) ∧
      (∀ a, exec (.xinvPage t o a) s = start { s with
        xlat := s.xlat.filter (fun x => !(x.asid == a && x.covers v.regs.xinvAddr.toNat)),
        wcache := s.wcache.filter (fun x => x.asid != a), coal := s.coal.filter (fun x => x.asid != a) } 0 a (s.translated (some a))) ∧
      (∀ k, exec (.xinvKeyid t o k) s = start { s with xlat := s.xlat.filter (fun x => leafKey x.leaf != k), coal := [] } k 0
        (s.translated none))) ∧
    (v.regs.xinvBusy = true → exec (.xinvAll t o) s = refused ∧ (∀ a, exec (.xinvAsid t o a) s = refused) ∧
      (∀ a, exec (.xinvPage t o a) s = refused) ∧ (∀ k, exec (.xinvKeyid t o k) s = refused) ∧
      (v.regs.xinvWait.all s.done = true → exec (.invalidationComplete t o) s =
        .next (s.modSet t o (fun v => { v with regs := { v.regs with xinvBusy := false, xinvWait := [] } })))) ∧
    (∀ w, exec (.xfsvcWrite t o w) s = .next { s with coal := s.coal.filter (fun c =>
      !(c.asid == xctxAsid v.regs.xctx && c.vpn == (w.extractLsb' 16 40).toNat && c.wr == w.getLsbD 0)) })

/-- R229, R230, R378: the actions on a faulted thread, on a stopped command and on a set, when the record that they name is there; refused otherwise.
An abandoned command leaves its queue without Post, its record is dropped and its effects stand; a read stream with tokens that still flow leaves
once they have. That the actions are done at once is the model's choice (log entry 41), and that a resumed copy command waits for one of its
engine's four places is its reading (log entry 13). -/
def Obligations.FaultHandlingEvents : Prop :=
  (∀ (s : State) (t o id : Nat) (v : SetState), s.set? t o = some v → id < 4096 →
    let kept (s1 : State) : Host.Outcome State Fault Refusal :=
      .next (s1.modSet t o (fun v => { v with regs := { v.regs with fltId := BitVec.ofNat 12 id } }))
    let refused : Host.Outcome State Fault Refusal := .next (s.modSet t o (fun v => { v with regs := { v.regs with fltErr := true } }))
    (∀ th blk idx, v.threads.look id = some th → th.place = .faulted blk idx → v.setFault = false → (v.entry? false id false).isSome = true →
      exec (.fltResume t o id) s = kept (s.putSet t o (v.resumeAt id blk idx)) ∧
      (idx < ((v.blocks[blk]?).map Block.len).getD 0 → exec (.fltSkip t o id) s = kept (s.putSet t o (v.resumeAt id blk (idx + 1)))) ∧
      (((v.blocks[blk]?).map Block.len).getD 0 ≤ idx → exec (.fltSkip t o id) s = refused) ∧
      exec (.fltRetire t o id) s = kept ((s.putSet t o ((v.putThread id { th with retiring := true, next := none }).dropRecord false id)).exitThread
        t o id blk (((v.blocks[blk]?).map Block.len).getD 0))) ∧
    (v.setFault = false → s.stoppedBinding t o id = false → (v.entry? true id false).isSome = true →
      exec (.fltResumeCommand t o id) s = kept (s.putSet t o ({ v with queue := v.queue.map (fun c : Cmd =>
        if c.seq == id && c.at' == CmdAt.stopped then
          { c with at' := if c.i.onCopyEngine then .resuming else .issued, ds := if c.stage = 0 then [] else c.ds }
        else c) }.dropRecord true id)) ∧
      ∃ s1 v1, exec (.fltAbandonCommand t o id) s = kept s1 ∧ s1.set? t o = some v1 ∧ v1.faulted = (v.dropRecord true id).faulted ∧
        v1.queue = (if (v.cmd? id).any Cmd.flows = true then v.queue.map (fun c =>
            if c.seq == id && c.at' != .queued then { c with at' := .issued, stage := flowStage } else c)
          else v.queue.filter (fun c => c.at' == .queued || c.seq != id)) ∧
        v1.threads = v.threads ∧ v1.sreg = v.sreg ∧ (s1.tile t).eq = (s.tile t).eq ∧ (s1.tile t).mem = (s.tile t).mem ∧
        (∀ u, u ≠ t → s1.tile u = s.tile u) ∧ s1.mem = s.mem ∧ s1.accs = s.accs ∧ s1.chans = s.chans) ∧
    (v.setFault = false → s.stoppedBinding t o id = true →
      exec (.fltResumeCommand t o id) s = kept (s.modBinding t (fun b => { b with fault := false })) ∧
      exec (.fltAbandonCommand t o id) s = kept (s.endBinding t)) ∧
    (v.setFault = true ∨ (v.entry? false id false).isNone = true →
      exec (.fltResume t o id) s = refused ∧ exec (.fltSkip t o id) s = refused ∧ exec (.fltRetire t o id) s = refused) ∧
    (v.setFault = true ∨ (s.stoppedBinding t o id = false ∧ (v.entry? true id false).isNone = true) →
      exec (.fltResumeCommand t o id) s = refused ∧ exec (.fltAbandonCommand t o id) s = refused)) ∧
  (∀ (s : State) (t o : Nat) (v : SetState), s.set? t o = some v →
    (v.setFault = true → exec (.fltResumeSet t o) s = .next ((s.putSet t o { v with stopped := false, setFault := false }).modSet t o
      (fun v => { v with regs := { v.regs with fltId := 0 } }))) ∧
    (v.setFault = false → exec (.fltResumeSet t o) s = .next (s.modSet t o (fun v => { v with regs := { v.regs with fltErr := true } }))))

/-- R245 to R248, R428: the debugger halts a region that runs or is complete, resumes and steps a halted one, and reads and writes the state of a halted region's tiles;
a halt is complete once nothing issued is outstanding; refused otherwise, with ERR. -/
def Obligations.DebuggerEvents : Prop :=
  ∀ (s : State) (r : Nat) (x : Region), s.region? r = some x →
    let named (sp : BitVec 3) (t : Nat) (a : BitVec 21) (s : State) : Host.Outcome State Fault Refusal :=
      .next (s.modRegion r (fun x => { x with dbgSpace := sp, dbgTile := BitVec.ofNat 10 t, dbgAddr := a }))
    let refused : Host.Outcome State Fault Refusal := .next (s.modRegion r (fun x => { x with dbgErr := true }))
    (s.dbgControl = true → x.halt ≠ .halted → x.dbgBusy = false → x.st = .running ∨ x.st = .complete →
      exec (.dbgHalt r) s = named 0 0 0 (s.halt r .none 0xFF)) ∧
    (s.dbgControl = true → x.halt = .halted →
      exec (.dbgHalt r) s = refused ∧
      exec (.dbgResume r) s = named 0 0 0 (s.modRegion r (fun x => x.goOn .none)) ∧
      exec (.dbgStep r) s = named 0 0 0 (s.modRegion r (fun x => x.goOn .stepping)) ∧
      (∀ sp t a p, sp ≠ 7 → t < 1024 → x.tiles.contains t = true → s.dbgPlace sp t a.toNat = some p →
        exec (.dbgRead r sp t a) s = named sp t a (s.modRegion r (fun x =>
          { x with dbgData := (s.dbgGet t p).1, dbgErr := x.dbgErr || (s.dbgGet t p).2 })) ∧
        exec (.dbgWrite r sp t a) s = named sp t a (s.dbgPut t p x.dbgData)) ∧
      (∀ sp t a, t < 1024 → sp = 7 ∨ x.tiles.contains t = false ∨ s.dbgPlace sp t a.toNat = none →
        exec (.dbgRead r sp t a) s = refused ∧ exec (.dbgWrite r sp t a) s = refused)) ∧
    (s.dbgControl = false ∨ x.halt ≠ .halted → (∀ sp t a, exec (.dbgRead r sp t a) s = refused ∧ exec (.dbgWrite r sp t a) s = refused) ∧
      exec (.dbgResume r) s = refused ∧ exec (.dbgStep r) s = refused) ∧
    (s.dbgControl = false ∨ x.dbgBusy = true ∨ (x.st ≠ .running ∧ x.st ≠ .complete) → exec (.dbgHalt r) s = refused) ∧
    (x.halt = .halting → s.settled x = true → exec (.haltComplete r) s =
      .next (x.hits.foldl (fun s h => s.debugStop r h) (s.modRegion r (fun x => { x with halt := .halted })))) ∧
    (x.halt ≠ .halting ∨ s.settled x = false → exec (.haltComplete r) s = .next s)

/-- R6, R251, R253 to R255, R259: Drift drains in order into a trace ring with room, and is dropped where there is no ring; a Gust walk takes one
hop; a tree SYNC reaches every tile of a region that asks for it; a bound divergence is reported; a read of PERTURB clears it. The end
reasons of a walk, the LOST record, the reach of a tree SYNC and the divergence test are the model's reading (log entries 35 to 38). -/
def Obligations.TraceEvents : Prop :=
  (∀ (s : State) (t o : Nat) (v : SetState) (rest : List (Nat × SetState)) (k : TraceRec) (ks : List TraceRec),
    (s.tile t).drift = k :: ks → (s.tile t).driftLost = 0 → s.setsOf t = (o, v) :: rest → s.canon = true →
    (s.ringBankHeld v.regs.trcbase = true → exec (.driftDrain t) s = .next s) ∧
    (s.ringBankHeld v.regs.trcbase = false →
    (∀ s1 a, s.ringPut v.regs.trcbase k.w0 k.w1 k.w2 k.w3 = .wrote s1 a →
      exec (.driftDrain t) s = .next ((s1.putTile t { s1.tile t with drift := ks }).driftRoom t)) ∧
    (∀ a, s.ringPut v.regs.trcbase k.w0 k.w1 k.w2 k.w3 = .full a → exec (.driftDrain t) s = .next s) ∧
    (s.ringPut v.regs.trcbase k.w0 k.w1 k.w2 k.w3 = .off → exec (.driftDrain t) s = .next ((s.putTile t { s.tile t with drift := ks }).driftRoom t)))) ∧
  (∀ (s : State) (t : Nat) (g : Gust) (rest : List Gust), (s.tile t).gusts = g :: rest →
    let h := s.hopEnd t g
    let ev := pathEvent t g h.1
    let s1 := (s.putTile t { s.tile t with gusts := rest }).observe ev
    (s.dbgObserve = false → exec (.gustWalkHop t) s = .next s) ∧
    (s.dbgObserve = true → s.traceStalls ev = true → exec (.gustWalkHop t) s = .next (s.driftStall t g.set)) ∧
    (s.dbgObserve = true → s.traceStalls ev = false → h.2 = none → exec (.gustWalkHop t) s = .next s1) ∧
    (∀ u n, s.dbgObserve = true → s.traceStalls ev = false → h.2 = some (u, n) → exec (.gustWalkHop t) s = .next (s1.putTile u { s1.tile u with
      gusts := (s1.tile u).gusts ++ [⟨g.probe, g.hop + 1, g.left - 1, n.set, n⟩] })) ∧
    (2 ≤ g.note.last → h = (2, none)) ∧
    (∀ e i c u, g.note.last < 2 → g.note.inEnd = some e → s.inChan t e = some (i, c) → (∃ eo, c.prod = .tile u eo) →
      (c.maker g.note.pops = none → h = (4, none)) ∧ (c.maker g.note.pops = some none → h = (5, none)) ∧
      (∀ key num n, c.maker g.note.pops = some (some (key, num)) →
        (((s.tile u).notes.look key).getD []).find? (fun n => n.num == num) = some n → h = if g.left ≤ 1 then (3, none) else (0, some (u, n))))) ∧
  (∀ (s : State) (r : Nat) (x : Region), s.region? r = some x → x.st = .running → s.dbgObserve = true →
    (∀ t v, t ∈ x.tiles → s.syncSet t = some v → s.traceStalls (syncEvent t v.1 v.2 false) = false) →
    ((s.regionSets r).any (fun v => (v.2.2.trcctl).extractLsb' 24 8 != 0) = true → exec (.treeSync r) s =
      .next (x.tiles.foldl (fun s t => s.treeSyncAt t (x.syncId + 1)) (s.modRegion r (fun y => { y with syncId := y.syncId + 1 })))) ∧
    ((s.regionSets r).any (fun v => (v.2.2.trcctl).extractLsb' 24 8 != 0) = false → exec (.treeSync r) s = .next s)) ∧
  (∀ (s : State) (t kind elem : Nat) (w : Double), let c := s.chooser t kind elem
    s.hindLook t kind elem = some w → s.rplMode t = .strict ∨ s.rplMode t = .advisory → s.halting t = false → s.runs t = true → c.able = true →
    (c.choices.contains w = false → exec (.replayDiverge t kind elem) s = .next (s.diverge t c.set c.blk kind elem c.elem c.node c.invoc w 2)) ∧
    (c.choices.contains w = true → exec (.replayDiverge t kind elem) s = .next s)) ∧
  (∀ (s : State) (t o : Nat) (v : SetState), s.set? t o = some v →
    exec (.perturbRead t o) s = .next (s.modSet t o (fun v => { v with regs := { v.regs with perturb := 0 } })))

/-! ### The instruction word -/

/-- R287: words that the spec's entries write out decode to the instructions that they stand for. -/
def Obligations.WordsOfTheSpecDecode : Prop :=
  let t7 : Guard := ⟨false, 7⟩
  decodeWord 0x0403840208000000 = .ok (.addInt t7 .i32 (.x 4) (.x 1) (.x 2)) ∧
  decodeWord 0x04B3A24084020000 = .ok (.adds t7 .i64 (.s 2) (.s 0) (.s 1)) ∧
  decodeWord 0x04D38602081F0020 = .ok (.dot4Int t7 true (.x 6) (.x 1) (.x 2) (.x 3)) ∧
  decodeWord 0x08D3870208010000 = .ok (.bfe t7 .n32 (.x 7) (.x 1) (.x 2)) ∧
  decodeWord 0x0C13880FFFFFFFFF = .ok (.mulImm t7 (.x 8) (.x 7) 0x1FFFFFFFF) ∧
  decodeWord 0x1003A34404000040 = .ok (.lea t7 false 2 (.s 3) (.s 2) (.x 1)) ∧
  decodeWord 0x1403800000000000 = .ok (.nop t7) ∧
  decodeWord 0x1423830209A40000 = .ok (.sel t7 .f32 (.x 3) (.x 1) (.x 2) (.q 4)) ∧
  decodeWord 0xF033A80000000000 = .ok (.trapRd t7 8) ∧
  decodeWord 0xF053B10000000000 = .ok (.trapFwd t7 (.q 1))

/-- R277 to R287: decoding is encoding undone: every well-formed instruction is read back from its word. -/
def Obligations.DecodeEncodeAgree : Prop := ∀ (i : Instr) (w : Double), i.wf = true → encode i = some w → decodeWord w = .ok i

/-- R277 to R287: every word that decodes is the one word of its instruction, which is well formed: decoding ignores no bit. -/
def Obligations.DecodedWordsReencode : Prop := ∀ (w : Double) (i : Instr), decodeWord w = .ok i → i.wf = true ∧ encode i = some w

/-- R288: a word is refused as ILLEGAL_OP exactly when the map of R287 does not list its opcode and function, whatever its other bits, and
before any other check of R278; the threads of a pass take the trap of a refused word at it, each as a fault of its own. -/
def Obligations.UnlistedEncodingsAreIllegal : Prop :=
  (∀ (w : Double), decodeWord w = .error .illegalOp ↔ assigned (w.extractLsb' 58 6).toNat (w.extractLsb' 52 6).toNat = false) ∧
  (∀ (w : Double) (e : BadWord), decodeWord w = .error e → e = .illegalOp ∨ e = .reservedField) ∧
  (∀ (s : State) (t o : Nat) (v : SetState) (x : Sweep) (p : Pass) (b : Block) (e : BadWord), s.set? t o = some v → v.sweep = some x →
    x.passes[x.cur]? = some p → v.blocks[x.blk]? = some b → v.stopped = false → v.driftHeld = false → s.runs t = true →
    let a := poolWord o b x.idx
    let code := if e = .reservedField then Code.reservedField else Code.illegalOp
    let s1 := s.atIssue t o v (x.mode == .trap) x.idx p
    let c := focusCtx s1 v x p
    NSet.has (s.tile t).poolPoison a = false → decodeWord (SMap.get 0 (s.tile t).pool a) = .error e →
    issueStep s t o = .next (((p.tids.foldl (trapPass c code) ⟨s1, [], [], [], 0, false⟩).close c []).issued t o)) ∧
  (∀ (c : Ctx) (code : BitVec 8) (s : State) (tid : Nat) (keep : List Nat),
    let trapped (inTrap : Bool) : State := s.threadFault c.tile c.set tid c.blk c.idx c.loops inTrap { code := code };
    s.storesOf { c with tid := tid } = [] →
      (c.mode ≠ .trap → trapPass c code ⟨s, keep, [], [], 0, false⟩ tid = ⟨trapped false, keep, [], [], 0, false⟩) ∧
      (c.mode = .trap → trapPass c code ⟨s, keep, [], [], 0, false⟩ tid = ⟨trapped true, keep ++ [tid], [], [], 0, true⟩))

/-- R324: the cases of integer division; b = 0 gives all ones and a, and the most negative number divided by -1 gives itself and 0; both results
are written late, as a w-bit pattern. -/
def Obligations.DivisionCases : Prop :=
  ∀ (s : State) (c : Ctx) (v : SetState) (g : Guard) (ty : ITy) (d a b : Opd) (x y : Double),
    s.solo? g = some (c, v) → readyOperands c s v [iOpd ty a, iOpd ty b] (some (iOpd ty d)) = some [x, y] →
    let m := ty.read x
    let n := ty.read y
    let gives (i : Instr) (r : Double) : Prop :=
      exec i s = .next (resultLate c s v [iOpd ty a, iOpd ty b] (iOpd ty d) false false (r, Exc.none))
    let ones : Double := if ty.bits = 32 then 0xFFFFFFFF else 0xFFFFFFFFFFFFFFFF
    (n = 0 → gives (.divInt g ty d a b) ones ∧ gives (.remInt g ty d a b) (ty.pat m)) ∧
    (ty.signed = true → m = -2 ^ (ty.bits - 1) → n = -1 →
      gives (.divInt g ty d a b) (ty.pat (-2 ^ (ty.bits - 1))) ∧ gives (.remInt g ty d a b) 0) ∧
    (n ≠ 0 → ¬ (ty.signed = true ∧ m = -2 ^ (ty.bits - 1) ∧ n = -1) → ∃ q r : Int, m = q * n + r ∧ (0 ≤ r ∧ r < n.natAbs ∨ -(n.natAbs : Int) < r ∧ r ≤ 0) ∧
      (r = 0 ∨ (0 < r ↔ 0 < m)) ∧ ty.read (ty.pat q) = q ∧ gives (.divInt g ty d a b) (ty.pat q) ∧ gives (.remInt g ty d a b) (ty.pat r))

/-! ### The machine as a whole -/

/-- The canonical form of the state (MEMORY of this model: a rising list without an entry that reads as an unlisted one) is kept by every step.
The form is the model's own (log entry 1), not a rule of the spec. -/
def Obligations.CanonicalFormIsKept : Prop := ∀ s s' : State, s.canon = true → step s = .next s' → s'.canon = true

/-- What reset leaves: the canonical form, no region, tile, key, access or token, and the values that R267, R269, R272 and R275 give. Memory
of zeros, no CXL device and no valid key are the model's choice (log entries 1 and 2). -/
def Obligations.ResetState : Prop :=
  State.reset.canon = true ∧ State.reset.regions = [] ∧ State.reset.tiles = [] ∧ State.reset.chans = [] ∧ State.reset.keys = [] ∧
  State.reset.accs = [] ∧ State.reset.xlat = [] ∧ State.reset.poison = [] ∧ State.reset.units = [] ∧ State.reset.stopped = false ∧
  State.reset.cfg.sec = 0 ∧ State.reset.cfg.dbg = 0 ∧ State.reset.cfg.pwr = 0 ∧ State.reset.cfg.powerCap = 3200 ∧
  State.reset.cfg.nmqHead = 0 ∧ State.reset.cfg.nmqTail = 0 ∧ State.reset.cfg.mbxEn = false ∧ State.reset.cfg.ckptBusy = false ∧
  (∀ t n, State.reset.set? t n = none) ∧ (∀ a, Memory.read State.reset.mem a = 0)

/-- A step makes the first move of the agenda: an event happens, another move is made, and a set's sequencer executes the instruction that the pool
word of its sweep decodes to, for the pass in turn, and then advances. The agenda that orders the moves is the model's own (log entry 6). -/
def Obligations.StepRunsTheDecodedInstruction : Prop :=
  ∀ (s : State) (rest : List Move), let s1 := { s with tick := s.tick + 1, agenda := rest }
    (∀ i, s.agenda = .happen i :: rest → step s = exec i s1) ∧
    (∀ i, s.agenda = .perform i :: rest → step s = .next (s1.performAcc i)) ∧
    (∀ l, s.agenda = .arrive l :: rest → step s = .next (s1.arriveLaunch l)) ∧
    (∀ t o v x p b i, s.agenda = .issue t o :: rest → s.set? t o = some v → v.sweep = some x → x.passes[x.cur]? = some p →
      v.blocks[x.blk]? = some b → v.stopped = false → v.driftHeld = false → s.runs t = true → NSet.has (s.tile t).poolPoison (poolWord o b x.idx) = false →
      decodeWord (SMap.get 0 (s.tile t).pool (poolWord o b x.idx)) = .ok i →
      step s = match exec i (s1.atIssue t o v (x.mode == .trap) x.idx p) with
        | .next s2 => .next (s2.issued t o)
        | .fault f => .fault f
        | .refused r => .refused r)

/-- R277, R278: an instruction whose guard does not hold for the one thread of its pass takes the trap of the first check that its word fails; when the
word passes them all it is skipped: the thread stays in the pass, and nothing else changes. -/
def Obligations.FalseGuardsSkip : Prop :=
  ∀ (i : Instr) (w : Double) (s : State) (v : SetState) (x : Sweep) (p : Pass) (tid : Nat) (th : Thread), encode i = some w →
    s.focus? = some (v, x, p) → p.tids = [tid] → x.done = [] → v.threads.look tid = some th → v.groupsOf tid = [] → th.guard i.guard = false →
    let c := { focusCtx s v x p with tid := tid }
    (wordCheck i v c = none → exec i s = .next (PassSt.close ⟨s, [tid], [tid], [], 0, false⟩ c [])) ∧
    (∀ code, wordCheck i v c = some code →
      exec i s = .next (PassSt.close ⟨s.threadFault c.tile c.set tid c.blk c.idx c.loops (c.mode == .trap) { code := code },
        if c.mode == .trap then [tid] else [], [], [], 0, c.mode == .trap⟩ c []))

/-- R159, R183, R223, R226, R278: a supervisor instruction in another set takes PRIVILEGE, a command or device access where its set type or block
mode forbids it takes TYPE_VIOLATION, a read of a poisoned register takes MEM_POISON with its LVS offset; and what taking a thread fault does: the
thread is parked at its instruction and joins the faulted vector with its record. The order among an instruction's own causes is the model's
reading (log entry 43). -/
def Obligations.TrapsAndThreadFaults : Prop :=
  (∀ (s : State) (c : Ctx) (v : SetState) (i : Instr), s.solo? i.guard = some (c, v) → c.mode ≠ .trap →
    let trap (f : FaultInfo) : Host.Outcome State Fault Refusal :=
      .next (passLeft c (s.threadFault c.tile c.set c.tid c.blk c.idx c.loops false f))
    (∀ a d, privileged? i = some (a, d) → chkEnds a d v c = none → v.supervisor = false → exec i s = trap { code := Code.privilege }) ∧
    (∀ m d sup waits, queued? i = some (m, d, sup, waits) → (sup = true → v.supervisor = true) → v.ent.typ ≠ .ag ∨ c.mode ≠ .token →
      exec i s = trap { code := Code.typeViolation }) ∧
    (∀ g z d m, i = .ldDev g z d m ∨ i = .ldAcqDev g z d m ∨ i = .stDev g z d m ∨ i = .stRelDev g z d m → v.ent.typ ≠ .ag →
      exec i s = trap { code := Code.typeViolation }) ∧
    (∀ g z d m, i = .ldLoc g z d m ∨ i = .ldAcqLoc g z d m ∨ i = .stLoc g z d m ∨ i = .stRelLoc g z d m → v.ent.typ = .ag →
      exec i s = trap { code := Code.typeViolation }) ∧
    (∀ g ty d a b, i = .addInt g ty (.x d) (.x a) (.x b) → ty.bits = 32 →
      NSet.has (s.tile c.tile).lvsPoison (v.ent.xWord c.tid a.toNat) = true →
      exec i s = trap { code := Code.memPoison, w1 := BitVec.ofNat 64 (v.ent.xWord c.tid a.toNat * 4) })) ∧
  (∀ (s : State) (t o tid blk idx : Nat) (loops : Loops) (f : FaultInfo) (v : SetState) (th : Thread), s.set? t o = some v →
    v.threads.look tid = some th → v.hasTrap = true →
    let s1 := s.threadFault t o tid blk idx loops false f
    s1.thread? t o tid = some { th with place := .faulted blk idx, loops := loops } ∧
    (s1.set? t o).map SetState.faulted = some (v.faulted ++ [⟨recWord0 f {} t o tid blk idx, f.w1,
      recWord2 (s.blockNode t o blk) v.eoiInvoc, recWord3 f, false, tid, false⟩]) ∧
    s1.mem = s.mem ∧ (∀ u, u ≠ t → s1.tile u = s.tile u) ∧ (∀ q, q ≠ tid → s1.thread? t o q = s.thread? t o q) ∧
    (∀ w, s1.lvs t w = s.lvs t w))

/-- R3, R156, R158, R159: a write of memory or of a register is read back, leaves every other byte or word as it was, and keeps the canonical
form. -/
def Obligations.MemoryAndRegisterLaws : Prop :=
  (∀ (m : Memory) (a n v : Nat), Memory.wf m = true →
    Memory.wf (Memory.writeLE m a n v) = true ∧ Memory.readLE (Memory.writeLE m a n v) a n = v % 256 ^ n ∧
    (∀ b k, b + k ≤ a ∨ a + n ≤ b → Memory.readLE (Memory.writeLE m a n v) b k = Memory.readLE m b k) ∧
    (∀ b, Memory.read (Memory.writeLE m a n v) b =
      if a ≤ b ∧ b < a + n then BitVec.ofNat 8 (v / 256 ^ (b - a)) else Memory.read m b)) ∧
  (∀ (m m' : Memory), Memory.wf m = true → Memory.wf m' = true → (∀ a, Memory.read m a = Memory.read m' a) → m = m') ∧
  (∀ (s : State) (t w : Nat) (x : Word), s.canon = true →
    (s.putLvs t w x).canon = true ∧ (s.putLvs t w x).lvs t w = x ∧ NSet.has ((s.putLvs t w x).tile t).lvsPoison w = false ∧
    (∀ u k, (u, k) ≠ (t, w) → (s.putLvs t w x).lvs u k = s.lvs u k) ∧ (s.putLvs t w x).mem = s.mem ∧
    (∀ u, u ≠ t → (s.putLvs t w x).tile u = s.tile u)) ∧
  (∀ (s : State) (pa : Nat) (x : Double), s.canon = true → (s.writePlain pa x).canon = true ∧ (s.writePlain pa x).readPlain pa = x ∧
    (s.writePlain pa x).tiles = s.tiles)

/-- The frame of an instruction on operands, for every destination: device memory, other tiles, other threads, the tile's other storage, and every
register but the destination are as they were; the thread's flags only grow, and not at all under SF. One whose result is late (R322) writes no
register and no flag yet: it holds its slot, and its group marks what is to come. The pops and the end of the pass change nothing else of what an
action has done. -/
def Obligations.ResultFrame : Prop :=
  let quiet (c : Ctx) (s t : State) : Prop := let x := s.tile c.tile
    let y := t.tile c.tile
    (t.mem = s.mem ∧ t.poison = s.poison ∧ t.keys = s.keys ∧ t.cfg = s.cfg ∧ t.regions = s.regions ∧ t.accs = s.accs ∧ t.xlat = s.xlat ∧
      t.units = s.units ∧ t.nodes = s.nodes) ∧
    (∀ u, u ≠ c.tile → t.tile u = s.tile u) ∧
    (y.mem = x.mem ∧ y.opmem = x.opmem ∧ y.acs = x.acs ∧ y.pool = x.pool ∧ y.eq = x.eq ∧ y.arrs = x.arrs ∧ y.cube = x.cube ∧ y.slots = x.slots) ∧
    (∀ w, t.lvs c.tile w = s.lvs c.tile w) ∧ (∀ o, o ≠ c.set → t.set? c.tile o = s.set? c.tile o) ∧
    (∀ q, t.thread? c.tile c.set q = s.thread? c.tile c.set q) ∧
    (t.set? c.tile c.set).map SetState.sreg = (s.set? c.tile c.set).map SetState.sreg ∧
    (t.set? c.tile c.set).map SetState.k = (s.set? c.tile c.set).map SetState.k
  (∀ (s : State) (g : Guard) (c : Ctx) (v : SetState) (srcs : List Operand) (d : Operand) (sf flags : Bool) (r : Double × Exc), s.canon = true →
    s.solo? g = some (c, v) →
    let t := resultLate c s v srcs d sf flags r
    let m : Member := ⟨c.tid, some d.o, d.wide, d.tag, if sf then Exc.none else r.2, .value r.1, false⟩
    quiet c s t ∧ (∃ k : Group, (t.set? c.tile c.set).map SetState.groups = some (v.groups.insert s.nextId k) ∧ k.members = [m] ∧
      k.marks = lateMarks d flags) ∧
    ((∀ n, d.o ≠ .ch n) → (∀ n, d.o ≠ .pc n) → popEnds v.ent srcs = [] → t.chans = s.chans)) ∧
  (∀ (s : State) (c : Ctx) (v : SetState) (srcs : List Operand) (m : Option Member) (marks : List Mark), s.canon = true →
    let t := actDone c v srcs s m marks
    quiet c s t ∧ (m = none → (t.set? c.tile c.set).map SetState.groups = (s.set? c.tile c.set).map SetState.groups) ∧
    (popEnds v.ent srcs = [] → t.chans = s.chans)) ∧
  (∀ (s : State) (g : Guard) (c : Ctx) (v : SetState) (srcs : List Operand) (d : Operand) (sf : Bool) (r : Double × Exc), s.canon = true →
    s.solo? g = some (c, v) →
    let t := resultNow c s v srcs d sf r
    let x := s.tile c.tile
    let y := t.tile c.tile
    (t.mem = s.mem ∧ t.poison = s.poison ∧ t.keys = s.keys ∧ t.cfg = s.cfg ∧ t.regions = s.regions ∧ t.accs = s.accs ∧ t.xlat = s.xlat ∧
      t.units = s.units ∧ t.nodes = s.nodes) ∧
    (∀ u, u ≠ c.tile → t.tile u = s.tile u) ∧
    (y.mem = x.mem ∧ y.opmem = x.opmem ∧ y.acs = x.acs ∧ y.pool = x.pool ∧ y.eq = x.eq ∧ y.arrs = x.arrs ∧ y.cube = x.cube ∧ y.slots = x.slots) ∧
    (∀ w, w ∉ d.words v.ent c.tid → t.lvs c.tile w = s.lvs c.tile w) ∧
    (∀ o, o ≠ c.set → t.set? c.tile o = s.set? c.tile o) ∧
    (∀ q, q ≠ c.tid → t.thread? c.tile c.set q = s.thread? c.tile c.set q) ∧
    ((∀ n, d.o ≠ .s n) → (t.set? c.tile c.set).map SetState.sreg = some v.sreg) ∧
    (∀ n m, d.o = .s m → n ≠ m → SMap.wf (0 : Double) v.sreg = true →
      (t.set? c.tile c.set).map (fun w => SMap.look w.sreg n.toNat) = some (SMap.look v.sreg n.toNat)) ∧
    ((∀ n, d.o ≠ .k n) → (t.set? c.tile c.set).map SetState.k = some v.k) ∧
    (∀ th, v.threads.look c.tid = some th → ∃ th', t.thread? c.tile c.set c.tid = some th' ∧
      th'.ff = (if sf then th.ff else th.ff ||| r.2) ∧ th'.place = th.place ∧ th'.loops = th.loops ∧ ((∀ n, d.o ≠ .q n) → th'.q = th.q)) ∧
    ((∀ n, d.o ≠ .ch n) → (∀ n, d.o ≠ .pc n) → popEnds v.ent srcs = [] → t.chans = s.chans))

/-- R82, R299, R300: a store that its order allows is performed at the address that it issued with: it writes exactly its bytes, lowest first;
no other byte of the machine and no register of an LVS changes, and the access is no more among those to come. That a store is
performed at one point is the model's own (log entry 7). -/
def Obligations.StoresWriteTheirBytes : Prop :=
  ∀ (s : State) (i : Nat) (a : Access), s.canon = true → SMap.look s.accs i = some a → a.kind = .store → a.pending = true →
    s.accReady a = true → s.overShown i a = false →
    let t := s.performAcc i
    let byte (k : Nat) : Byte := BitVec.ofNat 8 (a.data.toNat / 256 ^ k)
    let tilesKept := (∀ u, (t.tile u).mem = (s.tile u).mem) ∧ (∀ u w, t.lvs u w = s.lvs u w)
    (∀ x, a.loc = .tile x → NSet.has (s.tile a.tile).memPoison (x / 8) = false ∨ a.bytes = 8 →
      t.toCome = s.toCome.erase i ∧ t.mem = s.mem ∧ (∀ u, u ≠ a.tile → (t.tile u).mem = (s.tile u).mem) ∧ (∀ u w, t.lvs u w = s.lvs u w) ∧
      (∀ b, Memory.read (t.tile a.tile).mem b = if x ≤ b ∧ b < x + a.bytes then byte (b - x) else Memory.read (s.tile a.tile).mem b)) ∧
    (∀ pa, a.loc = .dev pa 0 → s.cfg.place pa ≠ .config → s.memFaults pa a.bytes false = false →
      t.toCome = s.toCome.erase i ∧ tilesKept ∧
      (∀ b, Memory.read t.mem b = if pa ≤ b ∧ b < pa + a.bytes then byte (b - pa) else Memory.read s.mem b)) ∧
    (∀ l w, a.loc = .line l w → s.memFaults (64 * l) 64 true = false → t.toCome = s.toCome.erase i ∧ tilesKept ∧
      NSet.has t.poison l = false ∧ (∀ m, m ≠ l → NSet.has t.poison m = NSet.has s.poison m) ∧
      (∀ b, Memory.read t.mem b = if 64 * l ≤ b ∧ b < 64 * l + 64 then BitVec.ofNat 8 (w.toNat / 256 ^ (b - 64 * l)) else Memory.read s.mem b)) ∧
    (∀ pa k, a.loc = .dev pa k → s.cfg.place pa ≠ .config → pa % 64 + a.bytes ≤ 64 →
      t.toCome = s.toCome.erase i ∧ tilesKept ∧ (∀ b, b / 64 ≠ pa / 64 → Memory.read t.mem b = Memory.read s.mem b))
end

