-- ==== Sys2Proof/Laws/Pass.lean ====
section
/-! SUPPORT. What `withPass`, `laneExec` and `serveActs` do for a pass of one thread that can execute. -/
namespace Sys2Proof.Machine

theorem State.solo?_spec {s : State} {g : Guard} {c : Ctx} {v : SetState} (h : s.solo? g = some (c, v)) :
    ∃ w p th, s.focus? = some (v, w, p) ∧ p.tids = [c.tid] ∧ w.done = [] ∧ v.threads.look c.tid = some th ∧
      v.groupsOf c.tid = [] ∧ v.groups.all (fun x => !x.2.marks.any Mark.isShared) = true ∧ th.guard g = true ∧ { c with tid := 0 } = focusCtx s v w p ∧
      s.set? c.tile c.set = some v := by
  unfold State.solo? at h
  split at h
  · cases h
  · next v' w p hf =>
    split at h
    · next tid ht hd =>
      split at h
      · cases h
      · next th hth =>
        split at h
        · next hg =>
          simp only [Option.some.injEq, Prod.mk.injEq] at h
          obtain ⟨rfl, rfl⟩ := h
          rw [Bool.and_eq_true, Bool.and_eq_true, List.isEmpty_iff] at hg
          refine ⟨w, p, th, hf, ht, hd, hth, hg.1.1, hg.1.2, hg.2, rfl, ?_⟩
          unfold State.focus? at hf
          split at hf
          · cases hf
          · next v2 hv =>
            split at hf
            · cases hf
            · split at hf
              · cases hf
              · cases hf; exact hv
        · cases h
    · cases h

theorem List.filter_eq_nil_of_imp {α : Type} {p q : α → Bool} {l : List α} (h : ∀ x, q x = true → p x = true) (hp : l.filter p = []) :
    l.filter q = [] := by
  simp only [List.filter_eq_nil_iff] at hp ⊢
  exact fun x hx hq => hp x hx (h x hq)

theorem SetState.pendingOn_of_groupsOf {v : SetState} {tid : Nat} (h : v.groupsOf tid = [])
    (hs : v.groups.all (fun x => !x.2.marks.any Mark.isShared) = true) (ms : List Mark) : v.pendingOn tid ms = [] := by
  simp only [SetState.groupsOf, SetState.pendingOn, List.map_eq_nil_iff, List.filter_eq_nil_iff, List.all_eq_true, List.any_eq_true,
    Bool.and_eq_true, Bool.or_eq_true, Bool.not_eq_true', List.any_eq_false, Bool.not_eq_true] at h hs ⊢
  rintro x hx ⟨m, hm, -, hm1 | hm1⟩
  · exact absurd hm1 (by simp [hs x hx m hm])
  · exact h x hx hm1

/-- A guard's predicate register is a thread's own: no group of another thread marks it for this one. -/
theorem SetState.pendingOn_guard {v : SetState} {tid : Nat} (h : v.groupsOf tid = []) (n : BitVec 3) :
    v.pendingOn tid [.opd (.q n)] = [] := by
  simp only [SetState.groupsOf, SetState.pendingOn, List.map_eq_nil_iff, List.filter_eq_nil_iff, List.any_eq_true,
    Bool.and_eq_true, Bool.or_eq_true] at h ⊢
  rintro x hx ⟨m, -, hm, hs | hg⟩
  · simp only [List.contains_eq_mem, List.mem_singleton, decide_eq_true_eq] at hm
    subst hm
    cases hs
  · exact h x hx hg

theorem SetState.storePending_of_groupsOf {v : SetState} {tid : Nat} (h : v.groupsOf tid = []) : v.storePending tid = [] := by
  simp only [SetState.groupsOf, SetState.storePending, List.map_eq_nil_iff, List.filter_eq_nil_iff, List.any_eq_true] at h ⊢
  rintro x hx ⟨m, hm, hq⟩
  exact h x hx ⟨m, hm, (Bool.and_eq_true _ _ ▸ hq).1⟩

/-- A pass of one thread whose checks pass ends as its service of that thread says. -/
theorem withPass_solo {s : State} {g : Guard} {c : Ctx} {v : SetState} {chk : SetState → Ctx → Option (BitVec 8)} {marks : List Mark}
    {serve : Ctx → State → Serve} (h : s.solo? g = some (c, v)) (hc : chk v { c with tid := 0 } = none) :
    withPass s g chk marks serve = .next (match serve c s with
      | .ok s1 m => passDone c s1 m marks
      | .park s1 why => PassSt.close ⟨s1.parkAt c c.idx c.loops why, [], [], [], 0, false⟩ c marks
      | .fault s1 f => PassSt.close ⟨s1.threadFault c.tile c.set c.tid c.blk c.idx c.loops (c.mode == .trap) f,
          if c.mode == .trap then [c.tid] else [], [], [], 0, c.mode == .trap⟩ c marks
      | .setFault s1 f => PassSt.close ⟨s1.setFaultAt c.tile c.set f c.tid c.blk c.idx, [c.tid], [], [], 0, true⟩ c marks
      | .gone s1 => PassSt.close ⟨s1, [], [], [], 1, false⟩ c marks
      | .stall s1 => PassSt.close ⟨s1, [c.tid], [], [], 0, true⟩ c marks) := by
  obtain ⟨w, p, th, hf, ht, hd, hth, hg, hsh, hgd, hctx, hs⟩ := State.solo?_spec h
  unfold withPass
  simp only [hf]
  rw [← hctx, hc]
  simp only [ht, hd, List.foldl_cons, List.foldl_nil]
  unfold passStep
  simp only [hs, hth, SetState.storePending_of_groupsOf hg, SetState.pendingOn_of_groupsOf hg hsh, hgd]
  simp only [List.contains_nil, Bool.false_eq_true, if_false, List.isEmpty_nil, Bool.not_true, ite_self, Bool.or_self]
  cases serve c s <;> simp [passDone, PassSt.close] <;> rfl

theorem passDone_none (c : Ctx) (s : State) (marks : List Mark) : passDone c s none marks = passDone c s none [] := rfl

/-- Operands that are ready are popped and read. -/
theorem readyOperands_spec {c : Ctx} {s : State} {v : SetState} {srcs : List Operand} {dst : Option Operand} {vals : List Double}
    (h : readyOperands c s v srcs dst = some vals) :
    chkEnds (srcs.map Operand.o) (dst.toList.map Operand.o) v c = none ∧
    (popEnds v.ent srcs).any (fun p => s.boundByCube c.tile c.set v.ent true p.1) = false ∧
    (outOf v.ent dst).any (fun p => s.boundByCube c.tile c.set v.ent false p.1) = false ∧
    (outOf v.ent dst).any (fun p => s.roomAt c.tile p.1 == 0) = false ∧
    (outOf v.ent dst).any (fun p => p.2.tag == 3 && p.2.fmt.isSome && s.fmtOut c.tile p.1 != p.2.fmt) = false ∧
    srcs.findSome? (fun x => s.opdPoison c v.ent x.wide x.o) = none ∧
    ∃ ks, s.pops c.tile [] (popEnds v.ent srcs) = .take ks ∧ vals = srcValues c s srcs ks := by
  unfold readyOperands at h
  simp only at h
  split at h
  · cases h
  · next hn =>
    simp only [Bool.or_eq_true, not_or, Bool.not_eq_true] at hn
    obtain ⟨⟨⟨⟨⟨h1, h2⟩, h3⟩, h4⟩, h5⟩, h6⟩ := hn
    split at h
    · next ks hk =>
      refine ⟨by simpa using h1, h2, h3, h4, h5, ?_, ks, hk, (Option.some.inj h).symm⟩
      rw [List.findSome?_eq_none_iff]
      intro x hx
      have := List.any_eq_false.1 h6 x hx
      simpa using this
    · cases h

/-- An instruction on operands that are ready, with an immediate result. -/
theorem laneExec_now {s : State} {g : Guard} {c : Ctx} {v : SetState} {srcs : List Operand} {d : Operand} {flags sf : Bool}
    {f : List Double → Double × Exc} {vals : List Double} (h : s.solo? g = some (c, v))
    (hr : readyOperands c s v srcs (some d) = some vals) :
    laneExec g { srcs := srcs, dst := some d, late := false, flags := flags, sf := sf, f := f } s =
      .next (resultNow c s v srcs d sf (f vals)) := by
  obtain ⟨w, p, th, hf, ht, hdn, hth, hg, hsh, hgd, hctx, hs⟩ := State.solo?_spec h
  obtain ⟨h1, h2, h3, h4, h5, h6, ks, hk, rfl⟩ := readyOperands_spec hr
  unfold laneExec
  rw [withPass_solo h h1]
  unfold serveLane
  unfold outOf at h3 h4 h5
  simp only [hs, SetState.pendingOn_of_groupsOf hg hsh, h2, h3, h4, h5, h6, hk, List.isEmpty_nil, Bool.not_true, Bool.false_eq_true,
    if_false, Bool.or_self]
  rfl

/-- An instruction on operands that are ready, with a late result. -/
theorem laneExec_late {s : State} {g : Guard} {c : Ctx} {v : SetState} {srcs : List Operand} {d : Operand} {flags sf : Bool}
    {f : List Double → Double × Exc} {vals : List Double} (h : s.solo? g = some (c, v))
    (hr : readyOperands c s v srcs (some d) = some vals) :
    laneExec g { srcs := srcs, dst := some d, late := true, flags := flags, sf := sf, f := f } s =
      .next (resultLate c s v srcs d sf flags (f vals)) := by
  obtain ⟨w, p, th, hf, ht, hdn, hth, hg, hsh, hgd, hctx, hs⟩ := State.solo?_spec h
  obtain ⟨h1, h2, h3, h4, h5, h6, ks, hk, rfl⟩ := readyOperands_spec hr
  unfold laneExec
  rw [withPass_solo h h1]
  unfold serveLane
  unfold outOf at h3 h4 h5
  simp only [hs, SetState.pendingOn_of_groupsOf hg hsh, h2, h3, h4, h5, h6, hk, List.isEmpty_nil, Bool.not_true, Bool.false_eq_true,
    if_false, if_true, Bool.or_self]
  unfold resultLate lateMarks LaneSpec.marks State.takeOperands
  simp only [Option.toList_some, List.flatMap_cons, List.flatMap_nil, List.append_nil, Option.map_some, Option.getD_some, Option.bind_some]
  cases hoe : d.o.outEnd v.ent <;> rfl

/-- An instruction whose effect is more than one value, on operands that are ready. -/
theorem serveActs_ready {s : State} {g : Guard} {c : Ctx} {v : SetState} {srcs : List Operand} {dst : Option Operand} {vals : List Double}
    {k : State → List Double → Serve} {s1 : State} {m : Option Member} (h : s.solo? g = some (c, v))
    (hr : readyOperands c s v srcs dst = some vals) (hk : k s vals = .ok s1 m) :
    serveActs c s srcs dst k = .ok (s1.takeOperands c v srcs) m := by
  obtain ⟨w, p, th, hf, ht, hdn, hth, hg, hsh, hgd, hctx, hs⟩ := State.solo?_spec h
  obtain ⟨h1, h2, h3, h4, h5, h6, ks, hks, rfl⟩ := readyOperands_spec hr
  unfold serveActs
  unfold outOf at h3 h4 h5
  simp only [hs, SetState.pendingOn_of_groupsOf hg hsh, h2, h3, h4, h6, hks, List.isEmpty_nil, Bool.not_true, Bool.false_eq_true, if_false,
    Bool.or_self, hk]
  rfl

/-- An instruction on operands that are ready, whose effect goes on, for the pass in focus. -/
theorem withPass_acts {s : State} {g : Guard} {c : Ctx} {v : SetState} {chk : SetState → Ctx → Option (BitVec 8)} {marks : List Mark}
    {srcs : List Operand} {dst : Option Operand} {vals : List Double} {k : Ctx → State → List Double → Serve} {s1 : State} {m : Option Member}
    (h : s.solo? g = some (c, v)) (hc : chk v { c with tid := 0 } = none) (hr : readyOperands c s v srcs dst = some vals)
    (hk : k c s vals = .ok s1 m) :
    withPass s g chk marks (fun c s => serveActs c s srcs dst (k c)) = .next (actDone c v srcs s1 m marks) := by
  rw [withPass_solo h hc, serveActs_ready h hr hk]
  rfl

/-- Ends of a part of an instruction's operands are bound when the ends of all are. -/
theorem chkEnds_of_ready {c : Ctx} {s : State} {v : SetState} {srcs : List Operand} {dst : Option Operand} {vals : List Double}
    {a b : List Opd} {c' : Ctx} (h : readyOperands c s v srcs dst = some vals) (ha : ∀ o ∈ a, o ∈ srcs.map Operand.o)
    (hb : ∀ o ∈ b, o ∈ dst.toList.map Operand.o) : chkEnds a b v c' = none := by
  have := (readyOperands_spec h).1
  unfold chkEnds at this ⊢
  split at this
  · cases this
  · next hn =>
    simp only [Bool.or_eq_true, List.any_eq_true, beq_iff_eq, not_or, not_exists, not_and] at hn
    rw [if_neg]
    simp only [Bool.or_eq_true, List.any_eq_true, beq_iff_eq, not_or, not_exists, not_and]
    exact ⟨fun o ho => hn.1 o (ha o ho), fun o ho => hn.2 o (hb o ho)⟩

end Sys2Proof.Machine
end

