-- ==== Sys2Proof/Laws/Sparse.lean ====
section
/-! SUPPORT. Laws of sparse maps and byte memories: a read after a write, and that every operation keeps the canonical form. -/
namespace Sys2Proof.Machine

/-- Every key is at least `lo`, and keys rise. -/
def SMap.risesFrom {α : Type} : Nat → SMap α → Prop
  | _, [] => True
  | lo, (k, _) :: m => lo ≤ k ∧ SMap.risesFrom (k + 1) m

theorem SMap.risesFrom_mono {α : Type} {lo lo' : Nat} {m : SMap α} (h : lo' ≤ lo) (hm : SMap.risesFrom lo m) :
    SMap.risesFrom lo' m := by
  cases m with
  | nil => trivial
  | cons p m => exact ⟨h.trans hm.1, hm.2⟩

theorem SMap.risesFrom_of_wfFrom {α : Type} [DecidableEq α] {d : α} {lo : Nat} {m : SMap α} (h : SMap.wfFrom d lo m = true) :
    SMap.risesFrom lo m := by
  induction m generalizing lo with
  | nil => trivial
  | cons p m ih =>
    simp only [SMap.wfFrom, Bool.and_eq_true, decide_eq_true_eq] at h
    exact ⟨h.1.1, ih h.2⟩

theorem SMap.look_lt {α : Type} {lo n : Nat} {m : SMap α} (hm : SMap.risesFrom lo m) (h : n < lo) : m.look n = none := by
  cases m with
  | nil => rfl
  | cons p m =>
    have := hm.1
    simp [SMap.look, show n ≠ p.1 by omega, show n < p.1 by omega]

theorem SMap.look_insert_same {α : Type} (m : SMap α) (n : Nat) (v : α) : (m.insert n v).look n = some v := by
  induction m with
  | nil => simp [SMap.insert, SMap.look]
  | cons p m ih =>
    simp only [SMap.insert]
    split
    · simp [SMap.look]
    · split
      · simp [SMap.look]
      · simp [SMap.look, *]

theorem SMap.look_insert_other {α : Type} {lo : Nat} {m : SMap α} (hm : SMap.risesFrom lo m) {n k : Nat} (v : α) (h : k ≠ n) :
    (m.insert n v).look k = m.look k := by
  induction m generalizing lo with
  | nil => simp [SMap.insert, SMap.look, h]
  | cons p m ih =>
    obtain ⟨q, w⟩ := p
    simp only [SMap.insert]
    split
    · next e => subst e; simp [SMap.look, h]
    · split
      · next h1 h2 =>
        by_cases hk : k < n
        · simp [SMap.look, h, hk, show k ≠ q by omega, show k < q by omega]
        · simp [SMap.look, h, hk]
      · simp only [SMap.look, ih hm.2]

theorem SMap.look_erase_same {α : Type} {lo : Nat} {m : SMap α} (hm : SMap.risesFrom lo m) (n : Nat) : (m.erase n).look n = none := by
  induction m generalizing lo with
  | nil => rfl
  | cons p m ih =>
    obtain ⟨q, w⟩ := p
    simp only [SMap.erase]
    split
    · next e => subst e; exact SMap.look_lt hm.2 (by omega)
    · split
      · next h1 h2 => simp [SMap.look, h1, h2]
      · next h1 h2 => simp [SMap.look, h1, h2, ih hm.2]

theorem SMap.look_erase_other {α : Type} {lo : Nat} {m : SMap α} (hm : SMap.risesFrom lo m) {n k : Nat} (h : k ≠ n) :
    (m.erase n).look k = m.look k := by
  induction m generalizing lo with
  | nil => rfl
  | cons p m ih =>
    obtain ⟨q, w⟩ := p
    simp only [SMap.erase]
    split
    · next e =>
      subst e
      simp only [SMap.look, h, if_false]
      split
      · exact SMap.look_lt hm.2 (by omega)
      · rfl
    · split
      · rfl
      · simp only [SMap.look, ih hm.2]

/-- A read after a write to the same key. -/
theorem SMap.get_put_same {α : Type} [DecidableEq α] {d : α} {lo : Nat} {m : SMap α} (hm : SMap.risesFrom lo m) (n : Nat) (v : α) :
    SMap.get d (SMap.put d m n v) n = v := by
  simp only [SMap.put, SMap.get]
  split
  · next e => rw [SMap.look_erase_same hm]; exact e.symm
  · simp [SMap.look_insert_same]

/-- A write leaves every other key alone. -/
theorem SMap.get_put_other {α : Type} [DecidableEq α] {d : α} {lo : Nat} {m : SMap α} (hm : SMap.risesFrom lo m) {n k : Nat} (v : α)
    (h : k ≠ n) : SMap.get d (SMap.put d m n v) k = SMap.get d m k := by
  simp only [SMap.put, SMap.get]
  split
  · rw [SMap.look_erase_other hm h]
  · rw [SMap.look_insert_other hm v h]

theorem SMap.wfFrom_mono {α : Type} [DecidableEq α] {d : α} {lo lo' : Nat} {m : SMap α} (h : lo' ≤ lo) (hm : SMap.wfFrom d lo m = true) :
    SMap.wfFrom d lo' m = true := by
  cases m with
  | nil => rfl
  | cons p m =>
    simp only [SMap.wfFrom, Bool.and_eq_true, decide_eq_true_eq] at hm ⊢
    exact ⟨⟨h.trans hm.1.1, hm.1.2⟩, hm.2⟩

theorem SMap.wfFrom_insert {α : Type} [DecidableEq α] {d : α} {lo n : Nat} {m : SMap α} {v : α} (hm : SMap.wfFrom d lo m = true)
    (hn : lo ≤ n) (hv : v ≠ d) : SMap.wfFrom d lo (m.insert n v) = true := by
  induction m generalizing lo with
  | nil => simp [SMap.insert, SMap.wfFrom, hn, hv]
  | cons p m ih =>
    obtain ⟨q, w⟩ := p
    simp only [SMap.wfFrom, Bool.and_eq_true, decide_eq_true_eq] at hm
    simp only [SMap.insert]
    split
    · next e => subst e; simp [SMap.wfFrom, hn, hv, hm.2]
    · split
      · next h1 h2 => simp [SMap.wfFrom, hn, hv, hm.1.2, hm.2]; omega
      · next h1 h2 => simp [SMap.wfFrom, hm.1.1, hm.1.2, ih hm.2 (by omega)]

theorem SMap.wfFrom_erase {α : Type} [DecidableEq α] {d : α} {lo n : Nat} {m : SMap α} (hm : SMap.wfFrom d lo m = true) :
    SMap.wfFrom d lo (m.erase n) = true := by
  induction m generalizing lo with
  | nil => rfl
  | cons p m ih =>
    obtain ⟨q, w⟩ := p
    have h := hm
    simp only [SMap.wfFrom, Bool.and_eq_true, decide_eq_true_eq] at h
    simp only [SMap.erase]
    split
    · exact SMap.wfFrom_mono (by omega) h.2
    · split
      · exact hm
      · simp [SMap.wfFrom, h.1.1, h.1.2, ih h.2]

/-- A write keeps the canonical form. -/
theorem SMap.wf_put {α : Type} [DecidableEq α] {d : α} {m : SMap α} (hm : SMap.wf d m = true) (n : Nat) (v : α) :
    SMap.wf d (SMap.put d m n v) = true := by
  simp only [SMap.put, SMap.wf] at *
  split
  · exact SMap.wfFrom_erase hm
  · next h => exact SMap.wfFrom_insert hm (Nat.zero_le n) h

theorem SMap.rises_of_wf {α : Type} [DecidableEq α] {d : α} {m : SMap α} (hm : SMap.wf d m = true) : SMap.risesFrom 0 m :=
  SMap.risesFrom_of_wfFrom hm

/-- Two maps in canonical form that read the same are the same. -/
theorem SMap.wfFrom_ext {α : Type} [DecidableEq α] {d : α} {lo : Nat} {m m' : SMap α} (hm : SMap.wfFrom d lo m = true)
    (hm' : SMap.wfFrom d lo m' = true) (h : ∀ n, SMap.get d m n = SMap.get d m' n) : m = m' := by
  induction m generalizing lo m' with
  | nil =>
    cases m' with
    | nil => rfl
    | cons p m' =>
      simp only [SMap.wfFrom, Bool.and_eq_true, decide_eq_true_eq] at hm'
      have := h p.1
      simp [SMap.get, SMap.look] at this
      exact absurd this.symm hm'.1.2
  | cons p m ih =>
    obtain ⟨k, v⟩ := p
    simp only [SMap.wfFrom, Bool.and_eq_true, decide_eq_true_eq] at hm
    cases m' with
    | nil =>
      have := h k
      simp [SMap.get, SMap.look] at this
      exact absurd this hm.1.2
    | cons p' m' =>
      obtain ⟨k', v'⟩ := p'
      simp only [SMap.wfFrom, Bool.and_eq_true, decide_eq_true_eq] at hm'
      have hk : k = k' := by
        rcases Nat.lt_trichotomy k k' with hlt | heq | hgt
        · have := h k
          simp [SMap.get, SMap.look, hlt, show k ≠ k' by omega] at this
          exact absurd this hm.1.2
        · exact heq
        · have := h k'
          simp [SMap.get, SMap.look, hgt, show k' ≠ k by omega] at this
          exact absurd this.symm hm'.1.2
      subst hk
      have hv : v = v' := by simpa [SMap.get, SMap.look] using h k
      subst hv
      congr 1
      refine ih hm.2 hm'.2 (fun n => ?_)
      by_cases hn : n ≤ k
      · rw [SMap.get, SMap.get, SMap.look_lt (SMap.risesFrom_of_wfFrom hm.2) (by omega), SMap.look_lt (SMap.risesFrom_of_wfFrom hm'.2) (by omega)]
      · have := h n
        simpa [SMap.get, SMap.look, show n ≠ k by omega, show ¬ n < k by omega] using this

/-! ### Byte memories -/

theorem Memory.wf_write {m : Memory} (hm : Memory.wf m = true) (a : Nat) (b : Byte) : Memory.wf (Memory.write m a b) = true :=
  SMap.wf_put hm a b

theorem Memory.read_write_same {m : Memory} (hm : Memory.wf m = true) (a : Nat) (b : Byte) : Memory.read (Memory.write m a b) a = b :=
  SMap.get_put_same (SMap.rises_of_wf hm) a b

theorem Memory.read_write_other {m : Memory} (hm : Memory.wf m = true) {a c : Nat} (b : Byte) (h : c ≠ a) :
    Memory.read (Memory.write m a b) c = Memory.read m c :=
  SMap.get_put_other (SMap.rises_of_wf hm) b h

theorem Memory.wf_writeLE {m : Memory} (hm : Memory.wf m = true) (a n v : Nat) : Memory.wf (Memory.writeLE m a n v) = true := by
  induction n generalizing m a v with
  | zero => exact hm
  | succ n ih => exact ih (Memory.wf_write hm _ _) _ _

theorem Memory.wf_writeBytes {m : Memory} (hm : Memory.wf m = true) (a : Nat) (bs : List Byte) :
    Memory.wf (Memory.writeBytes m a bs) = true := by
  induction bs generalizing m a with
  | nil => exact hm
  | cons b bs ih => exact ih (Memory.wf_write hm _ _) _

/-- A write of `n` bytes leaves every byte outside them alone. -/
theorem Memory.read_writeLE_outside {m : Memory} (hm : Memory.wf m = true) {a n c : Nat} (v : Nat) (h : c < a ∨ a + n ≤ c) :
    Memory.read (Memory.writeLE m a n v) c = Memory.read m c := by
  induction n generalizing m a v with
  | zero => rfl
  | succ n ih =>
    rw [Memory.writeLE, ih (Memory.wf_write hm _ _) _ (by omega), Memory.read_write_other hm _ (by omega)]

/-- Byte `i` of a write of `n` bytes. -/
theorem Memory.read_writeLE_inside {m : Memory} (hm : Memory.wf m = true) {a n i : Nat} (v : Nat) (h : i < n) :
    Memory.read (Memory.writeLE m a n v) (a + i) = BitVec.ofNat 8 (v / 256 ^ i) := by
  induction n generalizing m a v i with
  | zero => omega
  | succ n ih =>
    cases i with
    | zero =>
      rw [Memory.writeLE, Memory.read_writeLE_outside (Memory.wf_write hm _ _) _ (by omega)]
      simpa using Memory.read_write_same hm a (BitVec.ofNat 8 v)
    | succ i =>
      rw [Memory.writeLE, show a + (i + 1) = a + 1 + i by omega, ih (Memory.wf_write hm _ _) _ (by omega), Nat.div_div_eq_div_mul,
        Nat.pow_succ, Nat.mul_comm 256]

theorem Memory.read_writeBytes_outside {m : Memory} (hm : Memory.wf m = true) {a c : Nat} (bs : List Byte)
    (h : c < a ∨ a + bs.length ≤ c) : Memory.read (Memory.writeBytes m a bs) c = Memory.read m c := by
  induction bs generalizing m a with
  | nil => rfl
  | cons b bs ih =>
    simp only [List.length_cons] at h
    rw [Memory.writeBytes, ih (Memory.wf_write hm _ _) (by omega), Memory.read_write_other hm _ (by omega)]

/-! ### Membership -/

theorem SMap.mem_of_look {α : Type} {m : SMap α} {n : Nat} {v : α} (h : m.look n = some v) : (n, v) ∈ m := by
  induction m with
  | nil => cases h
  | cons x m ih =>
    obtain ⟨a, b⟩ := x
    simp only [SMap.look] at h
    split at h
    · next e => cases h; subst e; exact List.mem_cons_self
    · split at h
      · cases h
      · exact List.mem_cons_of_mem _ (ih h)

theorem SMap.mem_insert {α : Type} {m : SMap α} {n : Nat} {v : α} {x : Nat × α} (h : x ∈ m.insert n v) : x ∈ m ∨ x.2 = v := by
  induction m with
  | nil => simp only [SMap.insert, List.mem_singleton] at h; right; rw [h]
  | cons y m ih =>
    obtain ⟨a, b⟩ := y
    simp only [SMap.insert] at h
    split at h
    · simp only [List.mem_cons] at h
      rcases h with h | h
      · right; rw [h]
      · left; exact List.mem_cons_of_mem _ h
    · split at h
      · simp only [List.mem_cons] at h
        rcases h with h | h | h
        · right; rw [h]
        · left; rw [h]; exact List.mem_cons_self
        · left; exact List.mem_cons_of_mem _ h
      · simp only [List.mem_cons] at h
        rcases h with h | h
        · left; rw [h]; exact List.mem_cons_self
        · rcases ih h with h | h
          · left; exact List.mem_cons_of_mem _ h
          · right; exact h

theorem SMap.mem_erase {α : Type} {m : SMap α} {n : Nat} {x : Nat × α} (h : x ∈ m.erase n) : x ∈ m := by
  induction m with
  | nil => exact h
  | cons y m ih =>
    obtain ⟨a, b⟩ := y
    simp only [SMap.erase] at h
    split at h
    · exact List.mem_cons_of_mem _ h
    · split at h
      · exact h
      · simp only [List.mem_cons] at h ⊢
        rcases h with h | h
        · exact .inl h
        · exact .inr (ih h)

theorem SMap.mem_put {α : Type} [DecidableEq α] {d : α} {m : SMap α} {n : Nat} {v : α} {x : Nat × α} (h : x ∈ SMap.put d m n v) :
    x ∈ m ∨ x.2 = v := by
  unfold SMap.put at h
  split at h
  · exact .inl (SMap.mem_erase h)
  · exact SMap.mem_insert h

end Sys2Proof.Machine
end

