-- ==== Sys2Proof/Laws/State.lean ====
section
/-! SUPPORT. Which fields of the state each named update leaves as they are. -/
namespace Sys2Proof.Machine

/-! ### State.putTile -/

@[simp] theorem State.putTile_mem (s : State) (t : Nat) (v : Tile) : (s.putTile t v).mem = s.mem := rfl
@[simp] theorem State.putTile_poison (s : State) (t : Nat) (v : Tile) : (s.putTile t v).poison = s.poison := rfl
@[simp] theorem State.putTile_fresh (s : State) (t : Nat) (v : Tile) : (s.putTile t v).fresh = s.fresh := rfl
@[simp] theorem State.putTile_keys (s : State) (t : Nat) (v : Tile) : (s.putTile t v).keys = s.keys := rfl
@[simp] theorem State.putTile_oldKeys (s : State) (t : Nat) (v : Tile) : (s.putTile t v).oldKeys = s.oldKeys := rfl
@[simp] theorem State.putTile_cfg (s : State) (t : Nat) (v : Tile) : (s.putTile t v).cfg = s.cfg := rfl
@[simp] theorem State.putTile_units (s : State) (t : Nat) (v : Tile) : (s.putTile t v).units = s.units := rfl
@[simp] theorem State.putTile_nmq (s : State) (t : Nat) (v : Tile) : (s.putTile t v).nmq = s.nmq := rfl
@[simp] theorem State.putTile_holds (s : State) (t : Nat) (v : Tile) : (s.putTile t v).holds = s.holds := rfl
@[simp] theorem State.putTile_corr (s : State) (t : Nat) (v : Tile) : (s.putTile t v).corr = s.corr := rfl
@[simp] theorem State.putTile_xlat (s : State) (t : Nat) (v : Tile) : (s.putTile t v).xlat = s.xlat := rfl
@[simp] theorem State.putTile_wcache (s : State) (t : Nat) (v : Tile) : (s.putTile t v).wcache = s.wcache := rfl
@[simp] theorem State.putTile_walks (s : State) (t : Nat) (v : Tile) : (s.putTile t v).walks = s.walks := rfl
@[simp] theorem State.putTile_coal (s : State) (t : Nat) (v : Tile) : (s.putTile t v).coal = s.coal := rfl
@[simp] theorem State.putTile_chans (s : State) (t : Nat) (v : Tile) : (s.putTile t v).chans = s.chans := rfl
@[simp] theorem State.putTile_nodes (s : State) (t : Nat) (v : Tile) : (s.putTile t v).nodes = s.nodes := rfl
@[simp] theorem State.putTile_regions (s : State) (t : Nat) (v : Tile) : (s.putTile t v).regions = s.regions := rfl
@[simp] theorem State.putTile_waiting (s : State) (t : Nat) (v : Tile) : (s.putTile t v).waiting = s.waiting := rfl
@[simp] theorem State.putTile_refused (s : State) (t : Nat) (v : Tile) : (s.putTile t v).refused = s.refused := rfl
@[simp] theorem State.putTile_saves (s : State) (t : Nat) (v : Tile) : (s.putTile t v).saves = s.saves := rfl
@[simp] theorem State.putTile_bells (s : State) (t : Nat) (v : Tile) : (s.putTile t v).bells = s.bells := rfl
@[simp] theorem State.putTile_ringHeld (s : State) (t : Nat) (v : Tile) : (s.putTile t v).ringHeld = s.ringHeld := rfl
@[simp] theorem State.putTile_mboxHeld (s : State) (t : Nat) (v : Tile) : (s.putTile t v).mboxHeld = s.mboxHeld := rfl
@[simp] theorem State.putTile_accs (s : State) (t : Nat) (v : Tile) : (s.putTile t v).accs = s.accs := rfl
@[simp] theorem State.putTile_nextId (s : State) (t : Nat) (v : Tile) : (s.putTile t v).nextId = s.nextId := rfl
@[simp] theorem State.putTile_agenda (s : State) (t : Nat) (v : Tile) : (s.putTile t v).agenda = s.agenda := rfl
@[simp] theorem State.putTile_focusTile (s : State) (t : Nat) (v : Tile) : (s.putTile t v).focusTile = s.focusTile := rfl
@[simp] theorem State.putTile_focusSet (s : State) (t : Nat) (v : Tile) : (s.putTile t v).focusSet = s.focusSet := rfl
@[simp] theorem State.putTile_tick (s : State) (t : Nat) (v : Tile) : (s.putTile t v).tick = s.tick := rfl
@[simp] theorem State.putTile_stopped (s : State) (t : Nat) (v : Tile) : (s.putTile t v).stopped = s.stopped := rfl

/-! ### State.putChan -/

@[simp] theorem State.putChan_mem (s : State) (n : Nat) (v : Chan) : (s.putChan n v).mem = s.mem := rfl
@[simp] theorem State.putChan_poison (s : State) (n : Nat) (v : Chan) : (s.putChan n v).poison = s.poison := rfl
@[simp] theorem State.putChan_fresh (s : State) (n : Nat) (v : Chan) : (s.putChan n v).fresh = s.fresh := rfl
@[simp] theorem State.putChan_keys (s : State) (n : Nat) (v : Chan) : (s.putChan n v).keys = s.keys := rfl
@[simp] theorem State.putChan_oldKeys (s : State) (n : Nat) (v : Chan) : (s.putChan n v).oldKeys = s.oldKeys := rfl
@[simp] theorem State.putChan_cfg (s : State) (n : Nat) (v : Chan) : (s.putChan n v).cfg = s.cfg := rfl
@[simp] theorem State.putChan_units (s : State) (n : Nat) (v : Chan) : (s.putChan n v).units = s.units := rfl
@[simp] theorem State.putChan_nmq (s : State) (n : Nat) (v : Chan) : (s.putChan n v).nmq = s.nmq := rfl
@[simp] theorem State.putChan_holds (s : State) (n : Nat) (v : Chan) : (s.putChan n v).holds = s.holds := rfl
@[simp] theorem State.putChan_corr (s : State) (n : Nat) (v : Chan) : (s.putChan n v).corr = s.corr := rfl
@[simp] theorem State.putChan_xlat (s : State) (n : Nat) (v : Chan) : (s.putChan n v).xlat = s.xlat := rfl
@[simp] theorem State.putChan_wcache (s : State) (n : Nat) (v : Chan) : (s.putChan n v).wcache = s.wcache := rfl
@[simp] theorem State.putChan_walks (s : State) (n : Nat) (v : Chan) : (s.putChan n v).walks = s.walks := rfl
@[simp] theorem State.putChan_coal (s : State) (n : Nat) (v : Chan) : (s.putChan n v).coal = s.coal := rfl
@[simp] theorem State.putChan_nodes (s : State) (n : Nat) (v : Chan) : (s.putChan n v).nodes = s.nodes := rfl
@[simp] theorem State.putChan_regions (s : State) (n : Nat) (v : Chan) : (s.putChan n v).regions = s.regions := rfl
@[simp] theorem State.putChan_waiting (s : State) (n : Nat) (v : Chan) : (s.putChan n v).waiting = s.waiting := rfl
@[simp] theorem State.putChan_refused (s : State) (n : Nat) (v : Chan) : (s.putChan n v).refused = s.refused := rfl
@[simp] theorem State.putChan_saves (s : State) (n : Nat) (v : Chan) : (s.putChan n v).saves = s.saves := rfl
@[simp] theorem State.putChan_bells (s : State) (n : Nat) (v : Chan) : (s.putChan n v).bells = s.bells := rfl
@[simp] theorem State.putChan_ringHeld (s : State) (n : Nat) (v : Chan) : (s.putChan n v).ringHeld = s.ringHeld := rfl
@[simp] theorem State.putChan_mboxHeld (s : State) (n : Nat) (v : Chan) : (s.putChan n v).mboxHeld = s.mboxHeld := rfl
@[simp] theorem State.putChan_tiles (s : State) (n : Nat) (v : Chan) : (s.putChan n v).tiles = s.tiles := rfl
@[simp] theorem State.putChan_accs (s : State) (n : Nat) (v : Chan) : (s.putChan n v).accs = s.accs := rfl
@[simp] theorem State.putChan_nextId (s : State) (n : Nat) (v : Chan) : (s.putChan n v).nextId = s.nextId := rfl
@[simp] theorem State.putChan_agenda (s : State) (n : Nat) (v : Chan) : (s.putChan n v).agenda = s.agenda := rfl
@[simp] theorem State.putChan_focusTile (s : State) (n : Nat) (v : Chan) : (s.putChan n v).focusTile = s.focusTile := rfl
@[simp] theorem State.putChan_focusSet (s : State) (n : Nat) (v : Chan) : (s.putChan n v).focusSet = s.focusSet := rfl
@[simp] theorem State.putChan_tick (s : State) (n : Nat) (v : Chan) : (s.putChan n v).tick = s.tick := rfl
@[simp] theorem State.putChan_stopped (s : State) (n : Nat) (v : Chan) : (s.putChan n v).stopped = s.stopped := rfl

/-! ### State.putUnit -/

@[simp] theorem State.putUnit_mem (s : State) (n : Nat) (v : BankUnit) : (s.putUnit n v).mem = s.mem := rfl
@[simp] theorem State.putUnit_poison (s : State) (n : Nat) (v : BankUnit) : (s.putUnit n v).poison = s.poison := rfl
@[simp] theorem State.putUnit_fresh (s : State) (n : Nat) (v : BankUnit) : (s.putUnit n v).fresh = s.fresh := rfl
@[simp] theorem State.putUnit_keys (s : State) (n : Nat) (v : BankUnit) : (s.putUnit n v).keys = s.keys := rfl
@[simp] theorem State.putUnit_oldKeys (s : State) (n : Nat) (v : BankUnit) : (s.putUnit n v).oldKeys = s.oldKeys := rfl
@[simp] theorem State.putUnit_cfg (s : State) (n : Nat) (v : BankUnit) : (s.putUnit n v).cfg = s.cfg := rfl
@[simp] theorem State.putUnit_nmq (s : State) (n : Nat) (v : BankUnit) : (s.putUnit n v).nmq = s.nmq := rfl
@[simp] theorem State.putUnit_holds (s : State) (n : Nat) (v : BankUnit) : (s.putUnit n v).holds = s.holds := rfl
@[simp] theorem State.putUnit_corr (s : State) (n : Nat) (v : BankUnit) : (s.putUnit n v).corr = s.corr := rfl
@[simp] theorem State.putUnit_xlat (s : State) (n : Nat) (v : BankUnit) : (s.putUnit n v).xlat = s.xlat := rfl
@[simp] theorem State.putUnit_wcache (s : State) (n : Nat) (v : BankUnit) : (s.putUnit n v).wcache = s.wcache := rfl
@[simp] theorem State.putUnit_walks (s : State) (n : Nat) (v : BankUnit) : (s.putUnit n v).walks = s.walks := rfl
@[simp] theorem State.putUnit_coal (s : State) (n : Nat) (v : BankUnit) : (s.putUnit n v).coal = s.coal := rfl
@[simp] theorem State.putUnit_chans (s : State) (n : Nat) (v : BankUnit) : (s.putUnit n v).chans = s.chans := rfl
@[simp] theorem State.putUnit_nodes (s : State) (n : Nat) (v : BankUnit) : (s.putUnit n v).nodes = s.nodes := rfl
@[simp] theorem State.putUnit_regions (s : State) (n : Nat) (v : BankUnit) : (s.putUnit n v).regions = s.regions := rfl
@[simp] theorem State.putUnit_waiting (s : State) (n : Nat) (v : BankUnit) : (s.putUnit n v).waiting = s.waiting := rfl
@[simp] theorem State.putUnit_refused (s : State) (n : Nat) (v : BankUnit) : (s.putUnit n v).refused = s.refused := rfl
@[simp] theorem State.putUnit_saves (s : State) (n : Nat) (v : BankUnit) : (s.putUnit n v).saves = s.saves := rfl
@[simp] theorem State.putUnit_bells (s : State) (n : Nat) (v : BankUnit) : (s.putUnit n v).bells = s.bells := rfl
@[simp] theorem State.putUnit_ringHeld (s : State) (n : Nat) (v : BankUnit) : (s.putUnit n v).ringHeld = s.ringHeld := rfl
@[simp] theorem State.putUnit_mboxHeld (s : State) (n : Nat) (v : BankUnit) : (s.putUnit n v).mboxHeld = s.mboxHeld := rfl
@[simp] theorem State.putUnit_tiles (s : State) (n : Nat) (v : BankUnit) : (s.putUnit n v).tiles = s.tiles := rfl
@[simp] theorem State.putUnit_accs (s : State) (n : Nat) (v : BankUnit) : (s.putUnit n v).accs = s.accs := rfl
@[simp] theorem State.putUnit_nextId (s : State) (n : Nat) (v : BankUnit) : (s.putUnit n v).nextId = s.nextId := rfl
@[simp] theorem State.putUnit_agenda (s : State) (n : Nat) (v : BankUnit) : (s.putUnit n v).agenda = s.agenda := rfl
@[simp] theorem State.putUnit_focusTile (s : State) (n : Nat) (v : BankUnit) : (s.putUnit n v).focusTile = s.focusTile := rfl
@[simp] theorem State.putUnit_focusSet (s : State) (n : Nat) (v : BankUnit) : (s.putUnit n v).focusSet = s.focusSet := rfl
@[simp] theorem State.putUnit_tick (s : State) (n : Nat) (v : BankUnit) : (s.putUnit n v).tick = s.tick := rfl
@[simp] theorem State.putUnit_stopped (s : State) (n : Nat) (v : BankUnit) : (s.putUnit n v).stopped = s.stopped := rfl

/-! ### State.modCfg -/

@[simp] theorem State.modCfg_mem (s : State) (f : Regs → Regs) : (s.modCfg f).mem = s.mem := rfl
@[simp] theorem State.modCfg_poison (s : State) (f : Regs → Regs) : (s.modCfg f).poison = s.poison := rfl
@[simp] theorem State.modCfg_fresh (s : State) (f : Regs → Regs) : (s.modCfg f).fresh = s.fresh := rfl
@[simp] theorem State.modCfg_keys (s : State) (f : Regs → Regs) : (s.modCfg f).keys = s.keys := rfl
@[simp] theorem State.modCfg_oldKeys (s : State) (f : Regs → Regs) : (s.modCfg f).oldKeys = s.oldKeys := rfl
@[simp] theorem State.modCfg_units (s : State) (f : Regs → Regs) : (s.modCfg f).units = s.units := rfl
@[simp] theorem State.modCfg_nmq (s : State) (f : Regs → Regs) : (s.modCfg f).nmq = s.nmq := rfl
@[simp] theorem State.modCfg_holds (s : State) (f : Regs → Regs) : (s.modCfg f).holds = s.holds := rfl
@[simp] theorem State.modCfg_corr (s : State) (f : Regs → Regs) : (s.modCfg f).corr = s.corr := rfl
@[simp] theorem State.modCfg_xlat (s : State) (f : Regs → Regs) : (s.modCfg f).xlat = s.xlat := rfl
@[simp] theorem State.modCfg_wcache (s : State) (f : Regs → Regs) : (s.modCfg f).wcache = s.wcache := rfl
@[simp] theorem State.modCfg_walks (s : State) (f : Regs → Regs) : (s.modCfg f).walks = s.walks := rfl
@[simp] theorem State.modCfg_coal (s : State) (f : Regs → Regs) : (s.modCfg f).coal = s.coal := rfl
@[simp] theorem State.modCfg_chans (s : State) (f : Regs → Regs) : (s.modCfg f).chans = s.chans := rfl
@[simp] theorem State.modCfg_nodes (s : State) (f : Regs → Regs) : (s.modCfg f).nodes = s.nodes := rfl
@[simp] theorem State.modCfg_regions (s : State) (f : Regs → Regs) : (s.modCfg f).regions = s.regions := rfl
@[simp] theorem State.modCfg_waiting (s : State) (f : Regs → Regs) : (s.modCfg f).waiting = s.waiting := rfl
@[simp] theorem State.modCfg_refused (s : State) (f : Regs → Regs) : (s.modCfg f).refused = s.refused := rfl
@[simp] theorem State.modCfg_saves (s : State) (f : Regs → Regs) : (s.modCfg f).saves = s.saves := rfl
@[simp] theorem State.modCfg_bells (s : State) (f : Regs → Regs) : (s.modCfg f).bells = s.bells := rfl
@[simp] theorem State.modCfg_ringHeld (s : State) (f : Regs → Regs) : (s.modCfg f).ringHeld = s.ringHeld := rfl
@[simp] theorem State.modCfg_mboxHeld (s : State) (f : Regs → Regs) : (s.modCfg f).mboxHeld = s.mboxHeld := rfl
@[simp] theorem State.modCfg_tiles (s : State) (f : Regs → Regs) : (s.modCfg f).tiles = s.tiles := rfl
@[simp] theorem State.modCfg_accs (s : State) (f : Regs → Regs) : (s.modCfg f).accs = s.accs := rfl
@[simp] theorem State.modCfg_nextId (s : State) (f : Regs → Regs) : (s.modCfg f).nextId = s.nextId := rfl
@[simp] theorem State.modCfg_agenda (s : State) (f : Regs → Regs) : (s.modCfg f).agenda = s.agenda := rfl
@[simp] theorem State.modCfg_focusTile (s : State) (f : Regs → Regs) : (s.modCfg f).focusTile = s.focusTile := rfl
@[simp] theorem State.modCfg_focusSet (s : State) (f : Regs → Regs) : (s.modCfg f).focusSet = s.focusSet := rfl
@[simp] theorem State.modCfg_tick (s : State) (f : Regs → Regs) : (s.modCfg f).tick = s.tick := rfl
@[simp] theorem State.modCfg_stopped (s : State) (f : Regs → Regs) : (s.modCfg f).stopped = s.stopped := rfl

/-! ### State.writePlain -/

@[simp] theorem State.writePlain_poison (s : State) (pa : Nat) (v : Double) : (s.writePlain pa v).poison = s.poison := rfl
@[simp] theorem State.writePlain_fresh (s : State) (pa : Nat) (v : Double) : (s.writePlain pa v).fresh = s.fresh := rfl
@[simp] theorem State.writePlain_keys (s : State) (pa : Nat) (v : Double) : (s.writePlain pa v).keys = s.keys := rfl
@[simp] theorem State.writePlain_oldKeys (s : State) (pa : Nat) (v : Double) : (s.writePlain pa v).oldKeys = s.oldKeys := rfl
@[simp] theorem State.writePlain_cfg (s : State) (pa : Nat) (v : Double) : (s.writePlain pa v).cfg = s.cfg := rfl
@[simp] theorem State.writePlain_units (s : State) (pa : Nat) (v : Double) : (s.writePlain pa v).units = s.units := rfl
@[simp] theorem State.writePlain_nmq (s : State) (pa : Nat) (v : Double) : (s.writePlain pa v).nmq = s.nmq := rfl
@[simp] theorem State.writePlain_holds (s : State) (pa : Nat) (v : Double) : (s.writePlain pa v).holds = s.holds := rfl
@[simp] theorem State.writePlain_corr (s : State) (pa : Nat) (v : Double) : (s.writePlain pa v).corr = s.corr := rfl
@[simp] theorem State.writePlain_xlat (s : State) (pa : Nat) (v : Double) : (s.writePlain pa v).xlat = s.xlat := rfl
@[simp] theorem State.writePlain_wcache (s : State) (pa : Nat) (v : Double) : (s.writePlain pa v).wcache = s.wcache := rfl
@[simp] theorem State.writePlain_walks (s : State) (pa : Nat) (v : Double) : (s.writePlain pa v).walks = s.walks := rfl
@[simp] theorem State.writePlain_coal (s : State) (pa : Nat) (v : Double) : (s.writePlain pa v).coal = s.coal := rfl
@[simp] theorem State.writePlain_chans (s : State) (pa : Nat) (v : Double) : (s.writePlain pa v).chans = s.chans := rfl
@[simp] theorem State.writePlain_nodes (s : State) (pa : Nat) (v : Double) : (s.writePlain pa v).nodes = s.nodes := rfl
@[simp] theorem State.writePlain_regions (s : State) (pa : Nat) (v : Double) : (s.writePlain pa v).regions = s.regions := rfl
@[simp] theorem State.writePlain_waiting (s : State) (pa : Nat) (v : Double) : (s.writePlain pa v).waiting = s.waiting := rfl
@[simp] theorem State.writePlain_refused (s : State) (pa : Nat) (v : Double) : (s.writePlain pa v).refused = s.refused := rfl
@[simp] theorem State.writePlain_saves (s : State) (pa : Nat) (v : Double) : (s.writePlain pa v).saves = s.saves := rfl
@[simp] theorem State.writePlain_bells (s : State) (pa : Nat) (v : Double) : (s.writePlain pa v).bells = s.bells := rfl
@[simp] theorem State.writePlain_ringHeld (s : State) (pa : Nat) (v : Double) : (s.writePlain pa v).ringHeld = s.ringHeld := rfl
@[simp] theorem State.writePlain_mboxHeld (s : State) (pa : Nat) (v : Double) : (s.writePlain pa v).mboxHeld = s.mboxHeld := rfl
@[simp] theorem State.writePlain_tiles (s : State) (pa : Nat) (v : Double) : (s.writePlain pa v).tiles = s.tiles := rfl
@[simp] theorem State.writePlain_accs (s : State) (pa : Nat) (v : Double) : (s.writePlain pa v).accs = s.accs := rfl
@[simp] theorem State.writePlain_nextId (s : State) (pa : Nat) (v : Double) : (s.writePlain pa v).nextId = s.nextId := rfl
@[simp] theorem State.writePlain_agenda (s : State) (pa : Nat) (v : Double) : (s.writePlain pa v).agenda = s.agenda := rfl
@[simp] theorem State.writePlain_focusTile (s : State) (pa : Nat) (v : Double) : (s.writePlain pa v).focusTile = s.focusTile := rfl
@[simp] theorem State.writePlain_focusSet (s : State) (pa : Nat) (v : Double) : (s.writePlain pa v).focusSet = s.focusSet := rfl
@[simp] theorem State.writePlain_tick (s : State) (pa : Nat) (v : Double) : (s.writePlain pa v).tick = s.tick := rfl
@[simp] theorem State.writePlain_stopped (s : State) (pa : Nat) (v : Double) : (s.writePlain pa v).stopped = s.stopped := rfl

/-! ### State.putLvs -/

@[simp] theorem State.putLvs_mem (s : State) (t w : Nat) (v : Word) : (s.putLvs t w v).mem = s.mem := rfl
@[simp] theorem State.putLvs_poison (s : State) (t w : Nat) (v : Word) : (s.putLvs t w v).poison = s.poison := rfl
@[simp] theorem State.putLvs_fresh (s : State) (t w : Nat) (v : Word) : (s.putLvs t w v).fresh = s.fresh := rfl
@[simp] theorem State.putLvs_keys (s : State) (t w : Nat) (v : Word) : (s.putLvs t w v).keys = s.keys := rfl
@[simp] theorem State.putLvs_oldKeys (s : State) (t w : Nat) (v : Word) : (s.putLvs t w v).oldKeys = s.oldKeys := rfl
@[simp] theorem State.putLvs_cfg (s : State) (t w : Nat) (v : Word) : (s.putLvs t w v).cfg = s.cfg := rfl
@[simp] theorem State.putLvs_units (s : State) (t w : Nat) (v : Word) : (s.putLvs t w v).units = s.units := rfl
@[simp] theorem State.putLvs_nmq (s : State) (t w : Nat) (v : Word) : (s.putLvs t w v).nmq = s.nmq := rfl
@[simp] theorem State.putLvs_holds (s : State) (t w : Nat) (v : Word) : (s.putLvs t w v).holds = s.holds := rfl
@[simp] theorem State.putLvs_corr (s : State) (t w : Nat) (v : Word) : (s.putLvs t w v).corr = s.corr := rfl
@[simp] theorem State.putLvs_xlat (s : State) (t w : Nat) (v : Word) : (s.putLvs t w v).xlat = s.xlat := rfl
@[simp] theorem State.putLvs_wcache (s : State) (t w : Nat) (v : Word) : (s.putLvs t w v).wcache = s.wcache := rfl
@[simp] theorem State.putLvs_walks (s : State) (t w : Nat) (v : Word) : (s.putLvs t w v).walks = s.walks := rfl
@[simp] theorem State.putLvs_coal (s : State) (t w : Nat) (v : Word) : (s.putLvs t w v).coal = s.coal := rfl
@[simp] theorem State.putLvs_chans (s : State) (t w : Nat) (v : Word) : (s.putLvs t w v).chans = s.chans := rfl
@[simp] theorem State.putLvs_nodes (s : State) (t w : Nat) (v : Word) : (s.putLvs t w v).nodes = s.nodes := rfl
@[simp] theorem State.putLvs_regions (s : State) (t w : Nat) (v : Word) : (s.putLvs t w v).regions = s.regions := rfl
@[simp] theorem State.putLvs_waiting (s : State) (t w : Nat) (v : Word) : (s.putLvs t w v).waiting = s.waiting := rfl
@[simp] theorem State.putLvs_refused (s : State) (t w : Nat) (v : Word) : (s.putLvs t w v).refused = s.refused := rfl
@[simp] theorem State.putLvs_saves (s : State) (t w : Nat) (v : Word) : (s.putLvs t w v).saves = s.saves := rfl
@[simp] theorem State.putLvs_bells (s : State) (t w : Nat) (v : Word) : (s.putLvs t w v).bells = s.bells := rfl
@[simp] theorem State.putLvs_ringHeld (s : State) (t w : Nat) (v : Word) : (s.putLvs t w v).ringHeld = s.ringHeld := rfl
@[simp] theorem State.putLvs_mboxHeld (s : State) (t w : Nat) (v : Word) : (s.putLvs t w v).mboxHeld = s.mboxHeld := rfl
@[simp] theorem State.putLvs_accs (s : State) (t w : Nat) (v : Word) : (s.putLvs t w v).accs = s.accs := rfl
@[simp] theorem State.putLvs_nextId (s : State) (t w : Nat) (v : Word) : (s.putLvs t w v).nextId = s.nextId := rfl
@[simp] theorem State.putLvs_agenda (s : State) (t w : Nat) (v : Word) : (s.putLvs t w v).agenda = s.agenda := rfl
@[simp] theorem State.putLvs_focusTile (s : State) (t w : Nat) (v : Word) : (s.putLvs t w v).focusTile = s.focusTile := rfl
@[simp] theorem State.putLvs_focusSet (s : State) (t w : Nat) (v : Word) : (s.putLvs t w v).focusSet = s.focusSet := rfl
@[simp] theorem State.putLvs_tick (s : State) (t w : Nat) (v : Word) : (s.putLvs t w v).tick = s.tick := rfl
@[simp] theorem State.putLvs_stopped (s : State) (t w : Nat) (v : Word) : (s.putLvs t w v).stopped = s.stopped := rfl

/-! ### State.putSet -/

@[simp] theorem State.putSet_mem (s : State) (t o : Nat) (v : SetState) : (s.putSet t o v).mem = s.mem := by unfold State.putSet; split <;> rfl
@[simp] theorem State.putSet_poison (s : State) (t o : Nat) (v : SetState) : (s.putSet t o v).poison = s.poison := by unfold State.putSet; split <;> rfl
@[simp] theorem State.putSet_fresh (s : State) (t o : Nat) (v : SetState) : (s.putSet t o v).fresh = s.fresh := by unfold State.putSet; split <;> rfl
@[simp] theorem State.putSet_keys (s : State) (t o : Nat) (v : SetState) : (s.putSet t o v).keys = s.keys := by unfold State.putSet; split <;> rfl
@[simp] theorem State.putSet_oldKeys (s : State) (t o : Nat) (v : SetState) : (s.putSet t o v).oldKeys = s.oldKeys := by unfold State.putSet; split <;> rfl
@[simp] theorem State.putSet_cfg (s : State) (t o : Nat) (v : SetState) : (s.putSet t o v).cfg = s.cfg := by unfold State.putSet; split <;> rfl
@[simp] theorem State.putSet_units (s : State) (t o : Nat) (v : SetState) : (s.putSet t o v).units = s.units := by unfold State.putSet; split <;> rfl
@[simp] theorem State.putSet_nmq (s : State) (t o : Nat) (v : SetState) : (s.putSet t o v).nmq = s.nmq := by unfold State.putSet; split <;> rfl
@[simp] theorem State.putSet_holds (s : State) (t o : Nat) (v : SetState) : (s.putSet t o v).holds = s.holds := by unfold State.putSet; split <;> rfl
@[simp] theorem State.putSet_corr (s : State) (t o : Nat) (v : SetState) : (s.putSet t o v).corr = s.corr := by unfold State.putSet; split <;> rfl
@[simp] theorem State.putSet_xlat (s : State) (t o : Nat) (v : SetState) : (s.putSet t o v).xlat = s.xlat := by unfold State.putSet; split <;> rfl
@[simp] theorem State.putSet_wcache (s : State) (t o : Nat) (v : SetState) : (s.putSet t o v).wcache = s.wcache := by unfold State.putSet; split <;> rfl
@[simp] theorem State.putSet_walks (s : State) (t o : Nat) (v : SetState) : (s.putSet t o v).walks = s.walks := by unfold State.putSet; split <;> rfl
@[simp] theorem State.putSet_coal (s : State) (t o : Nat) (v : SetState) : (s.putSet t o v).coal = s.coal := by unfold State.putSet; split <;> rfl
@[simp] theorem State.putSet_chans (s : State) (t o : Nat) (v : SetState) : (s.putSet t o v).chans = s.chans := by unfold State.putSet; split <;> rfl
@[simp] theorem State.putSet_nodes (s : State) (t o : Nat) (v : SetState) : (s.putSet t o v).nodes = s.nodes := by unfold State.putSet; split <;> rfl
@[simp] theorem State.putSet_regions (s : State) (t o : Nat) (v : SetState) : (s.putSet t o v).regions = s.regions := by unfold State.putSet; split <;> rfl
@[simp] theorem State.putSet_waiting (s : State) (t o : Nat) (v : SetState) : (s.putSet t o v).waiting = s.waiting := by unfold State.putSet; split <;> rfl
@[simp] theorem State.putSet_refused (s : State) (t o : Nat) (v : SetState) : (s.putSet t o v).refused = s.refused := by unfold State.putSet; split <;> rfl
@[simp] theorem State.putSet_saves (s : State) (t o : Nat) (v : SetState) : (s.putSet t o v).saves = s.saves := by unfold State.putSet; split <;> rfl
@[simp] theorem State.putSet_bells (s : State) (t o : Nat) (v : SetState) : (s.putSet t o v).bells = s.bells := by unfold State.putSet; split <;> rfl
@[simp] theorem State.putSet_ringHeld (s : State) (t o : Nat) (v : SetState) : (s.putSet t o v).ringHeld = s.ringHeld := by unfold State.putSet; split <;> rfl
@[simp] theorem State.putSet_mboxHeld (s : State) (t o : Nat) (v : SetState) : (s.putSet t o v).mboxHeld = s.mboxHeld := by unfold State.putSet; split <;> rfl
@[simp] theorem State.putSet_accs (s : State) (t o : Nat) (v : SetState) : (s.putSet t o v).accs = s.accs := by unfold State.putSet; split <;> rfl
@[simp] theorem State.putSet_nextId (s : State) (t o : Nat) (v : SetState) : (s.putSet t o v).nextId = s.nextId := by unfold State.putSet; split <;> rfl
@[simp] theorem State.putSet_agenda (s : State) (t o : Nat) (v : SetState) : (s.putSet t o v).agenda = s.agenda := by unfold State.putSet; split <;> rfl
@[simp] theorem State.putSet_focusTile (s : State) (t o : Nat) (v : SetState) : (s.putSet t o v).focusTile = s.focusTile := by unfold State.putSet; split <;> rfl
@[simp] theorem State.putSet_focusSet (s : State) (t o : Nat) (v : SetState) : (s.putSet t o v).focusSet = s.focusSet := by unfold State.putSet; split <;> rfl
@[simp] theorem State.putSet_tick (s : State) (t o : Nat) (v : SetState) : (s.putSet t o v).tick = s.tick := by unfold State.putSet; split <;> rfl
@[simp] theorem State.putSet_stopped (s : State) (t o : Nat) (v : SetState) : (s.putSet t o v).stopped = s.stopped := by unfold State.putSet; split <;> rfl

/-! ### State.modSet -/

@[simp] theorem State.modSet_mem (s : State) (t o : Nat) (f : SetState → SetState) : (s.modSet t o f).mem = s.mem := by unfold State.modSet; split <;> simp
@[simp] theorem State.modSet_poison (s : State) (t o : Nat) (f : SetState → SetState) : (s.modSet t o f).poison = s.poison := by unfold State.modSet; split <;> simp
@[simp] theorem State.modSet_fresh (s : State) (t o : Nat) (f : SetState → SetState) : (s.modSet t o f).fresh = s.fresh := by unfold State.modSet; split <;> simp
@[simp] theorem State.modSet_keys (s : State) (t o : Nat) (f : SetState → SetState) : (s.modSet t o f).keys = s.keys := by unfold State.modSet; split <;> simp
@[simp] theorem State.modSet_oldKeys (s : State) (t o : Nat) (f : SetState → SetState) : (s.modSet t o f).oldKeys = s.oldKeys := by unfold State.modSet; split <;> simp
@[simp] theorem State.modSet_cfg (s : State) (t o : Nat) (f : SetState → SetState) : (s.modSet t o f).cfg = s.cfg := by unfold State.modSet; split <;> simp
@[simp] theorem State.modSet_units (s : State) (t o : Nat) (f : SetState → SetState) : (s.modSet t o f).units = s.units := by unfold State.modSet; split <;> simp
@[simp] theorem State.modSet_nmq (s : State) (t o : Nat) (f : SetState → SetState) : (s.modSet t o f).nmq = s.nmq := by unfold State.modSet; split <;> simp
@[simp] theorem State.modSet_holds (s : State) (t o : Nat) (f : SetState → SetState) : (s.modSet t o f).holds = s.holds := by unfold State.modSet; split <;> simp
@[simp] theorem State.modSet_corr (s : State) (t o : Nat) (f : SetState → SetState) : (s.modSet t o f).corr = s.corr := by unfold State.modSet; split <;> simp
@[simp] theorem State.modSet_xlat (s : State) (t o : Nat) (f : SetState → SetState) : (s.modSet t o f).xlat = s.xlat := by unfold State.modSet; split <;> simp
@[simp] theorem State.modSet_wcache (s : State) (t o : Nat) (f : SetState → SetState) : (s.modSet t o f).wcache = s.wcache := by unfold State.modSet; split <;> simp
@[simp] theorem State.modSet_walks (s : State) (t o : Nat) (f : SetState → SetState) : (s.modSet t o f).walks = s.walks := by unfold State.modSet; split <;> simp
@[simp] theorem State.modSet_coal (s : State) (t o : Nat) (f : SetState → SetState) : (s.modSet t o f).coal = s.coal := by unfold State.modSet; split <;> simp
@[simp] theorem State.modSet_chans (s : State) (t o : Nat) (f : SetState → SetState) : (s.modSet t o f).chans = s.chans := by unfold State.modSet; split <;> simp
@[simp] theorem State.modSet_nodes (s : State) (t o : Nat) (f : SetState → SetState) : (s.modSet t o f).nodes = s.nodes := by unfold State.modSet; split <;> simp
@[simp] theorem State.modSet_regions (s : State) (t o : Nat) (f : SetState → SetState) : (s.modSet t o f).regions = s.regions := by unfold State.modSet; split <;> simp
@[simp] theorem State.modSet_waiting (s : State) (t o : Nat) (f : SetState → SetState) : (s.modSet t o f).waiting = s.waiting := by unfold State.modSet; split <;> simp
@[simp] theorem State.modSet_refused (s : State) (t o : Nat) (f : SetState → SetState) : (s.modSet t o f).refused = s.refused := by unfold State.modSet; split <;> simp
@[simp] theorem State.modSet_saves (s : State) (t o : Nat) (f : SetState → SetState) : (s.modSet t o f).saves = s.saves := by unfold State.modSet; split <;> simp
@[simp] theorem State.modSet_bells (s : State) (t o : Nat) (f : SetState → SetState) : (s.modSet t o f).bells = s.bells := by unfold State.modSet; split <;> simp
@[simp] theorem State.modSet_ringHeld (s : State) (t o : Nat) (f : SetState → SetState) : (s.modSet t o f).ringHeld = s.ringHeld := by unfold State.modSet; split <;> simp
@[simp] theorem State.modSet_mboxHeld (s : State) (t o : Nat) (f : SetState → SetState) : (s.modSet t o f).mboxHeld = s.mboxHeld := by unfold State.modSet; split <;> simp
@[simp] theorem State.modSet_accs (s : State) (t o : Nat) (f : SetState → SetState) : (s.modSet t o f).accs = s.accs := by unfold State.modSet; split <;> simp
@[simp] theorem State.modSet_nextId (s : State) (t o : Nat) (f : SetState → SetState) : (s.modSet t o f).nextId = s.nextId := by unfold State.modSet; split <;> simp
@[simp] theorem State.modSet_agenda (s : State) (t o : Nat) (f : SetState → SetState) : (s.modSet t o f).agenda = s.agenda := by unfold State.modSet; split <;> simp
@[simp] theorem State.modSet_focusTile (s : State) (t o : Nat) (f : SetState → SetState) : (s.modSet t o f).focusTile = s.focusTile := by unfold State.modSet; split <;> simp
@[simp] theorem State.modSet_focusSet (s : State) (t o : Nat) (f : SetState → SetState) : (s.modSet t o f).focusSet = s.focusSet := by unfold State.modSet; split <;> simp
@[simp] theorem State.modSet_tick (s : State) (t o : Nat) (f : SetState → SetState) : (s.modSet t o f).tick = s.tick := by unfold State.modSet; split <;> simp
@[simp] theorem State.modSet_stopped (s : State) (t o : Nat) (f : SetState → SetState) : (s.modSet t o f).stopped = s.stopped := by unfold State.modSet; split <;> simp

/-! ### State.modThread -/

@[simp] theorem State.modThread_mem (s : State) (t o tid : Nat) (f : Thread → Thread) : (s.modThread t o tid f).mem = s.mem := State.modSet_mem s t o _
@[simp] theorem State.modThread_poison (s : State) (t o tid : Nat) (f : Thread → Thread) : (s.modThread t o tid f).poison = s.poison := State.modSet_poison s t o _
@[simp] theorem State.modThread_fresh (s : State) (t o tid : Nat) (f : Thread → Thread) : (s.modThread t o tid f).fresh = s.fresh := State.modSet_fresh s t o _
@[simp] theorem State.modThread_keys (s : State) (t o tid : Nat) (f : Thread → Thread) : (s.modThread t o tid f).keys = s.keys := State.modSet_keys s t o _
@[simp] theorem State.modThread_oldKeys (s : State) (t o tid : Nat) (f : Thread → Thread) : (s.modThread t o tid f).oldKeys = s.oldKeys := State.modSet_oldKeys s t o _
@[simp] theorem State.modThread_cfg (s : State) (t o tid : Nat) (f : Thread → Thread) : (s.modThread t o tid f).cfg = s.cfg := State.modSet_cfg s t o _
@[simp] theorem State.modThread_units (s : State) (t o tid : Nat) (f : Thread → Thread) : (s.modThread t o tid f).units = s.units := State.modSet_units s t o _
@[simp] theorem State.modThread_nmq (s : State) (t o tid : Nat) (f : Thread → Thread) : (s.modThread t o tid f).nmq = s.nmq := State.modSet_nmq s t o _
@[simp] theorem State.modThread_holds (s : State) (t o tid : Nat) (f : Thread → Thread) : (s.modThread t o tid f).holds = s.holds := State.modSet_holds s t o _
@[simp] theorem State.modThread_corr (s : State) (t o tid : Nat) (f : Thread → Thread) : (s.modThread t o tid f).corr = s.corr := State.modSet_corr s t o _
@[simp] theorem State.modThread_xlat (s : State) (t o tid : Nat) (f : Thread → Thread) : (s.modThread t o tid f).xlat = s.xlat := State.modSet_xlat s t o _
@[simp] theorem State.modThread_wcache (s : State) (t o tid : Nat) (f : Thread → Thread) : (s.modThread t o tid f).wcache = s.wcache := State.modSet_wcache s t o _
@[simp] theorem State.modThread_walks (s : State) (t o tid : Nat) (f : Thread → Thread) : (s.modThread t o tid f).walks = s.walks := State.modSet_walks s t o _
@[simp] theorem State.modThread_coal (s : State) (t o tid : Nat) (f : Thread → Thread) : (s.modThread t o tid f).coal = s.coal := State.modSet_coal s t o _
@[simp] theorem State.modThread_chans (s : State) (t o tid : Nat) (f : Thread → Thread) : (s.modThread t o tid f).chans = s.chans := State.modSet_chans s t o _
@[simp] theorem State.modThread_nodes (s : State) (t o tid : Nat) (f : Thread → Thread) : (s.modThread t o tid f).nodes = s.nodes := State.modSet_nodes s t o _
@[simp] theorem State.modThread_regions (s : State) (t o tid : Nat) (f : Thread → Thread) : (s.modThread t o tid f).regions = s.regions := State.modSet_regions s t o _
@[simp] theorem State.modThread_waiting (s : State) (t o tid : Nat) (f : Thread → Thread) : (s.modThread t o tid f).waiting = s.waiting := State.modSet_waiting s t o _
@[simp] theorem State.modThread_refused (s : State) (t o tid : Nat) (f : Thread → Thread) : (s.modThread t o tid f).refused = s.refused := State.modSet_refused s t o _
@[simp] theorem State.modThread_saves (s : State) (t o tid : Nat) (f : Thread → Thread) : (s.modThread t o tid f).saves = s.saves := State.modSet_saves s t o _
@[simp] theorem State.modThread_bells (s : State) (t o tid : Nat) (f : Thread → Thread) : (s.modThread t o tid f).bells = s.bells := State.modSet_bells s t o _
@[simp] theorem State.modThread_ringHeld (s : State) (t o tid : Nat) (f : Thread → Thread) : (s.modThread t o tid f).ringHeld = s.ringHeld := State.modSet_ringHeld s t o _
@[simp] theorem State.modThread_mboxHeld (s : State) (t o tid : Nat) (f : Thread → Thread) : (s.modThread t o tid f).mboxHeld = s.mboxHeld := State.modSet_mboxHeld s t o _
@[simp] theorem State.modThread_accs (s : State) (t o tid : Nat) (f : Thread → Thread) : (s.modThread t o tid f).accs = s.accs := State.modSet_accs s t o _
@[simp] theorem State.modThread_nextId (s : State) (t o tid : Nat) (f : Thread → Thread) : (s.modThread t o tid f).nextId = s.nextId := State.modSet_nextId s t o _
@[simp] theorem State.modThread_agenda (s : State) (t o tid : Nat) (f : Thread → Thread) : (s.modThread t o tid f).agenda = s.agenda := State.modSet_agenda s t o _
@[simp] theorem State.modThread_focusTile (s : State) (t o tid : Nat) (f : Thread → Thread) : (s.modThread t o tid f).focusTile = s.focusTile := State.modSet_focusTile s t o _
@[simp] theorem State.modThread_focusSet (s : State) (t o tid : Nat) (f : Thread → Thread) : (s.modThread t o tid f).focusSet = s.focusSet := State.modSet_focusSet s t o _
@[simp] theorem State.modThread_tick (s : State) (t o tid : Nat) (f : Thread → Thread) : (s.modThread t o tid f).tick = s.tick := State.modSet_tick s t o _
@[simp] theorem State.modThread_stopped (s : State) (t o tid : Nat) (f : Thread → Thread) : (s.modThread t o tid f).stopped = s.stopped := State.modSet_stopped s t o _

/-! ### State.pushFrom -/

@[simp] theorem State.pushFrom_mem (s : State) (src : Option (Nat × Nat)) (t e : Nat) (k : Token) : (s.pushFrom src t e k).mem = s.mem := by unfold State.pushFrom; split <;> rfl
@[simp] theorem State.pushFrom_poison (s : State) (src : Option (Nat × Nat)) (t e : Nat) (k : Token) : (s.pushFrom src t e k).poison = s.poison := by unfold State.pushFrom; split <;> rfl
@[simp] theorem State.pushFrom_fresh (s : State) (src : Option (Nat × Nat)) (t e : Nat) (k : Token) : (s.pushFrom src t e k).fresh = s.fresh := by unfold State.pushFrom; split <;> rfl
@[simp] theorem State.pushFrom_keys (s : State) (src : Option (Nat × Nat)) (t e : Nat) (k : Token) : (s.pushFrom src t e k).keys = s.keys := by unfold State.pushFrom; split <;> rfl
@[simp] theorem State.pushFrom_oldKeys (s : State) (src : Option (Nat × Nat)) (t e : Nat) (k : Token) : (s.pushFrom src t e k).oldKeys = s.oldKeys := by unfold State.pushFrom; split <;> rfl
@[simp] theorem State.pushFrom_cfg (s : State) (src : Option (Nat × Nat)) (t e : Nat) (k : Token) : (s.pushFrom src t e k).cfg = s.cfg := by unfold State.pushFrom; split <;> rfl
@[simp] theorem State.pushFrom_units (s : State) (src : Option (Nat × Nat)) (t e : Nat) (k : Token) : (s.pushFrom src t e k).units = s.units := by unfold State.pushFrom; split <;> rfl
@[simp] theorem State.pushFrom_nmq (s : State) (src : Option (Nat × Nat)) (t e : Nat) (k : Token) : (s.pushFrom src t e k).nmq = s.nmq := by unfold State.pushFrom; split <;> rfl
@[simp] theorem State.pushFrom_holds (s : State) (src : Option (Nat × Nat)) (t e : Nat) (k : Token) : (s.pushFrom src t e k).holds = s.holds := by unfold State.pushFrom; split <;> rfl
@[simp] theorem State.pushFrom_corr (s : State) (src : Option (Nat × Nat)) (t e : Nat) (k : Token) : (s.pushFrom src t e k).corr = s.corr := by unfold State.pushFrom; split <;> rfl
@[simp] theorem State.pushFrom_xlat (s : State) (src : Option (Nat × Nat)) (t e : Nat) (k : Token) : (s.pushFrom src t e k).xlat = s.xlat := by unfold State.pushFrom; split <;> rfl
@[simp] theorem State.pushFrom_wcache (s : State) (src : Option (Nat × Nat)) (t e : Nat) (k : Token) : (s.pushFrom src t e k).wcache = s.wcache := by unfold State.pushFrom; split <;> rfl
@[simp] theorem State.pushFrom_walks (s : State) (src : Option (Nat × Nat)) (t e : Nat) (k : Token) : (s.pushFrom src t e k).walks = s.walks := by unfold State.pushFrom; split <;> rfl
@[simp] theorem State.pushFrom_coal (s : State) (src : Option (Nat × Nat)) (t e : Nat) (k : Token) : (s.pushFrom src t e k).coal = s.coal := by unfold State.pushFrom; split <;> rfl
@[simp] theorem State.pushFrom_nodes (s : State) (src : Option (Nat × Nat)) (t e : Nat) (k : Token) : (s.pushFrom src t e k).nodes = s.nodes := by unfold State.pushFrom; split <;> rfl
@[simp] theorem State.pushFrom_regions (s : State) (src : Option (Nat × Nat)) (t e : Nat) (k : Token) : (s.pushFrom src t e k).regions = s.regions := by unfold State.pushFrom; split <;> rfl
@[simp] theorem State.pushFrom_waiting (s : State) (src : Option (Nat × Nat)) (t e : Nat) (k : Token) : (s.pushFrom src t e k).waiting = s.waiting := by unfold State.pushFrom; split <;> rfl
@[simp] theorem State.pushFrom_refused (s : State) (src : Option (Nat × Nat)) (t e : Nat) (k : Token) : (s.pushFrom src t e k).refused = s.refused := by unfold State.pushFrom; split <;> rfl
@[simp] theorem State.pushFrom_saves (s : State) (src : Option (Nat × Nat)) (t e : Nat) (k : Token) : (s.pushFrom src t e k).saves = s.saves := by unfold State.pushFrom; split <;> rfl
@[simp] theorem State.pushFrom_bells (s : State) (src : Option (Nat × Nat)) (t e : Nat) (k : Token) : (s.pushFrom src t e k).bells = s.bells := by unfold State.pushFrom; split <;> rfl
@[simp] theorem State.pushFrom_ringHeld (s : State) (src : Option (Nat × Nat)) (t e : Nat) (k : Token) : (s.pushFrom src t e k).ringHeld = s.ringHeld := by unfold State.pushFrom; split <;> rfl
@[simp] theorem State.pushFrom_mboxHeld (s : State) (src : Option (Nat × Nat)) (t e : Nat) (k : Token) : (s.pushFrom src t e k).mboxHeld = s.mboxHeld := by unfold State.pushFrom; split <;> rfl
@[simp] theorem State.pushFrom_tiles (s : State) (src : Option (Nat × Nat)) (t e : Nat) (k : Token) : (s.pushFrom src t e k).tiles = s.tiles := by unfold State.pushFrom; split <;> rfl
@[simp] theorem State.pushFrom_accs (s : State) (src : Option (Nat × Nat)) (t e : Nat) (k : Token) : (s.pushFrom src t e k).accs = s.accs := by unfold State.pushFrom; split <;> rfl
@[simp] theorem State.pushFrom_nextId (s : State) (src : Option (Nat × Nat)) (t e : Nat) (k : Token) : (s.pushFrom src t e k).nextId = s.nextId := by unfold State.pushFrom; split <;> rfl
@[simp] theorem State.pushFrom_agenda (s : State) (src : Option (Nat × Nat)) (t e : Nat) (k : Token) : (s.pushFrom src t e k).agenda = s.agenda := by unfold State.pushFrom; split <;> rfl
@[simp] theorem State.pushFrom_focusTile (s : State) (src : Option (Nat × Nat)) (t e : Nat) (k : Token) : (s.pushFrom src t e k).focusTile = s.focusTile := by unfold State.pushFrom; split <;> rfl
@[simp] theorem State.pushFrom_focusSet (s : State) (src : Option (Nat × Nat)) (t e : Nat) (k : Token) : (s.pushFrom src t e k).focusSet = s.focusSet := by unfold State.pushFrom; split <;> rfl
@[simp] theorem State.pushFrom_tick (s : State) (src : Option (Nat × Nat)) (t e : Nat) (k : Token) : (s.pushFrom src t e k).tick = s.tick := by unfold State.pushFrom; split <;> rfl
@[simp] theorem State.pushFrom_stopped (s : State) (src : Option (Nat × Nat)) (t e : Nat) (k : Token) : (s.pushFrom src t e k).stopped = s.stopped := by unfold State.pushFrom; split <;> rfl

/-! ### State.pushAt -/

@[simp] theorem State.pushAt_mem (s : State) (t e : Nat) (k : Token) : (s.pushAt t e k).mem = s.mem := State.pushFrom_mem s none t e k
@[simp] theorem State.pushAt_poison (s : State) (t e : Nat) (k : Token) : (s.pushAt t e k).poison = s.poison := State.pushFrom_poison s none t e k
@[simp] theorem State.pushAt_fresh (s : State) (t e : Nat) (k : Token) : (s.pushAt t e k).fresh = s.fresh := State.pushFrom_fresh s none t e k
@[simp] theorem State.pushAt_keys (s : State) (t e : Nat) (k : Token) : (s.pushAt t e k).keys = s.keys := State.pushFrom_keys s none t e k
@[simp] theorem State.pushAt_oldKeys (s : State) (t e : Nat) (k : Token) : (s.pushAt t e k).oldKeys = s.oldKeys := State.pushFrom_oldKeys s none t e k
@[simp] theorem State.pushAt_cfg (s : State) (t e : Nat) (k : Token) : (s.pushAt t e k).cfg = s.cfg := State.pushFrom_cfg s none t e k
@[simp] theorem State.pushAt_units (s : State) (t e : Nat) (k : Token) : (s.pushAt t e k).units = s.units := State.pushFrom_units s none t e k
@[simp] theorem State.pushAt_nmq (s : State) (t e : Nat) (k : Token) : (s.pushAt t e k).nmq = s.nmq := State.pushFrom_nmq s none t e k
@[simp] theorem State.pushAt_holds (s : State) (t e : Nat) (k : Token) : (s.pushAt t e k).holds = s.holds := State.pushFrom_holds s none t e k
@[simp] theorem State.pushAt_corr (s : State) (t e : Nat) (k : Token) : (s.pushAt t e k).corr = s.corr := State.pushFrom_corr s none t e k
@[simp] theorem State.pushAt_xlat (s : State) (t e : Nat) (k : Token) : (s.pushAt t e k).xlat = s.xlat := State.pushFrom_xlat s none t e k
@[simp] theorem State.pushAt_wcache (s : State) (t e : Nat) (k : Token) : (s.pushAt t e k).wcache = s.wcache := State.pushFrom_wcache s none t e k
@[simp] theorem State.pushAt_walks (s : State) (t e : Nat) (k : Token) : (s.pushAt t e k).walks = s.walks := State.pushFrom_walks s none t e k
@[simp] theorem State.pushAt_coal (s : State) (t e : Nat) (k : Token) : (s.pushAt t e k).coal = s.coal := State.pushFrom_coal s none t e k
@[simp] theorem State.pushAt_nodes (s : State) (t e : Nat) (k : Token) : (s.pushAt t e k).nodes = s.nodes := State.pushFrom_nodes s none t e k
@[simp] theorem State.pushAt_regions (s : State) (t e : Nat) (k : Token) : (s.pushAt t e k).regions = s.regions := State.pushFrom_regions s none t e k
@[simp] theorem State.pushAt_waiting (s : State) (t e : Nat) (k : Token) : (s.pushAt t e k).waiting = s.waiting := State.pushFrom_waiting s none t e k
@[simp] theorem State.pushAt_refused (s : State) (t e : Nat) (k : Token) : (s.pushAt t e k).refused = s.refused := State.pushFrom_refused s none t e k
@[simp] theorem State.pushAt_saves (s : State) (t e : Nat) (k : Token) : (s.pushAt t e k).saves = s.saves := State.pushFrom_saves s none t e k
@[simp] theorem State.pushAt_bells (s : State) (t e : Nat) (k : Token) : (s.pushAt t e k).bells = s.bells := State.pushFrom_bells s none t e k
@[simp] theorem State.pushAt_ringHeld (s : State) (t e : Nat) (k : Token) : (s.pushAt t e k).ringHeld = s.ringHeld := State.pushFrom_ringHeld s none t e k
@[simp] theorem State.pushAt_mboxHeld (s : State) (t e : Nat) (k : Token) : (s.pushAt t e k).mboxHeld = s.mboxHeld := State.pushFrom_mboxHeld s none t e k
@[simp] theorem State.pushAt_tiles (s : State) (t e : Nat) (k : Token) : (s.pushAt t e k).tiles = s.tiles := State.pushFrom_tiles s none t e k
@[simp] theorem State.pushAt_accs (s : State) (t e : Nat) (k : Token) : (s.pushAt t e k).accs = s.accs := State.pushFrom_accs s none t e k
@[simp] theorem State.pushAt_nextId (s : State) (t e : Nat) (k : Token) : (s.pushAt t e k).nextId = s.nextId := State.pushFrom_nextId s none t e k
@[simp] theorem State.pushAt_agenda (s : State) (t e : Nat) (k : Token) : (s.pushAt t e k).agenda = s.agenda := State.pushFrom_agenda s none t e k
@[simp] theorem State.pushAt_focusTile (s : State) (t e : Nat) (k : Token) : (s.pushAt t e k).focusTile = s.focusTile := State.pushFrom_focusTile s none t e k
@[simp] theorem State.pushAt_focusSet (s : State) (t e : Nat) (k : Token) : (s.pushAt t e k).focusSet = s.focusSet := State.pushFrom_focusSet s none t e k
@[simp] theorem State.pushAt_tick (s : State) (t e : Nat) (k : Token) : (s.pushAt t e k).tick = s.tick := State.pushFrom_tick s none t e k
@[simp] theorem State.pushAt_stopped (s : State) (t e : Nat) (k : Token) : (s.pushAt t e k).stopped = s.stopped := State.pushFrom_stopped s none t e k

/-! ### State.reserve -/

@[simp] theorem State.reserve_mem (s : State) (t e : Nat) : (s.reserve t e).mem = s.mem := by unfold State.reserve; split <;> simp
@[simp] theorem State.reserve_poison (s : State) (t e : Nat) : (s.reserve t e).poison = s.poison := by unfold State.reserve; split <;> simp
@[simp] theorem State.reserve_fresh (s : State) (t e : Nat) : (s.reserve t e).fresh = s.fresh := by unfold State.reserve; split <;> simp
@[simp] theorem State.reserve_keys (s : State) (t e : Nat) : (s.reserve t e).keys = s.keys := by unfold State.reserve; split <;> simp
@[simp] theorem State.reserve_oldKeys (s : State) (t e : Nat) : (s.reserve t e).oldKeys = s.oldKeys := by unfold State.reserve; split <;> simp
@[simp] theorem State.reserve_cfg (s : State) (t e : Nat) : (s.reserve t e).cfg = s.cfg := by unfold State.reserve; split <;> simp
@[simp] theorem State.reserve_units (s : State) (t e : Nat) : (s.reserve t e).units = s.units := by unfold State.reserve; split <;> simp
@[simp] theorem State.reserve_nmq (s : State) (t e : Nat) : (s.reserve t e).nmq = s.nmq := by unfold State.reserve; split <;> simp
@[simp] theorem State.reserve_holds (s : State) (t e : Nat) : (s.reserve t e).holds = s.holds := by unfold State.reserve; split <;> simp
@[simp] theorem State.reserve_corr (s : State) (t e : Nat) : (s.reserve t e).corr = s.corr := by unfold State.reserve; split <;> simp
@[simp] theorem State.reserve_xlat (s : State) (t e : Nat) : (s.reserve t e).xlat = s.xlat := by unfold State.reserve; split <;> simp
@[simp] theorem State.reserve_wcache (s : State) (t e : Nat) : (s.reserve t e).wcache = s.wcache := by unfold State.reserve; split <;> simp
@[simp] theorem State.reserve_walks (s : State) (t e : Nat) : (s.reserve t e).walks = s.walks := by unfold State.reserve; split <;> simp
@[simp] theorem State.reserve_coal (s : State) (t e : Nat) : (s.reserve t e).coal = s.coal := by unfold State.reserve; split <;> simp
@[simp] theorem State.reserve_nodes (s : State) (t e : Nat) : (s.reserve t e).nodes = s.nodes := by unfold State.reserve; split <;> simp
@[simp] theorem State.reserve_regions (s : State) (t e : Nat) : (s.reserve t e).regions = s.regions := by unfold State.reserve; split <;> simp
@[simp] theorem State.reserve_waiting (s : State) (t e : Nat) : (s.reserve t e).waiting = s.waiting := by unfold State.reserve; split <;> simp
@[simp] theorem State.reserve_refused (s : State) (t e : Nat) : (s.reserve t e).refused = s.refused := by unfold State.reserve; split <;> simp
@[simp] theorem State.reserve_saves (s : State) (t e : Nat) : (s.reserve t e).saves = s.saves := by unfold State.reserve; split <;> simp
@[simp] theorem State.reserve_bells (s : State) (t e : Nat) : (s.reserve t e).bells = s.bells := by unfold State.reserve; split <;> simp
@[simp] theorem State.reserve_ringHeld (s : State) (t e : Nat) : (s.reserve t e).ringHeld = s.ringHeld := by unfold State.reserve; split <;> simp
@[simp] theorem State.reserve_mboxHeld (s : State) (t e : Nat) : (s.reserve t e).mboxHeld = s.mboxHeld := by unfold State.reserve; split <;> simp
@[simp] theorem State.reserve_tiles (s : State) (t e : Nat) : (s.reserve t e).tiles = s.tiles := by unfold State.reserve; split <;> simp
@[simp] theorem State.reserve_accs (s : State) (t e : Nat) : (s.reserve t e).accs = s.accs := by unfold State.reserve; split <;> simp
@[simp] theorem State.reserve_nextId (s : State) (t e : Nat) : (s.reserve t e).nextId = s.nextId := by unfold State.reserve; split <;> simp
@[simp] theorem State.reserve_agenda (s : State) (t e : Nat) : (s.reserve t e).agenda = s.agenda := by unfold State.reserve; split <;> simp
@[simp] theorem State.reserve_focusTile (s : State) (t e : Nat) : (s.reserve t e).focusTile = s.focusTile := by unfold State.reserve; split <;> simp
@[simp] theorem State.reserve_focusSet (s : State) (t e : Nat) : (s.reserve t e).focusSet = s.focusSet := by unfold State.reserve; split <;> simp
@[simp] theorem State.reserve_tick (s : State) (t e : Nat) : (s.reserve t e).tick = s.tick := by unfold State.reserve; split <;> simp
@[simp] theorem State.reserve_stopped (s : State) (t e : Nat) : (s.reserve t e).stopped = s.stopped := by unfold State.reserve; split <;> simp

/-! ### State.modRegion -/

@[simp] theorem State.modRegion_mem (s : State) (r : Nat) (f : Region → Region) : (s.modRegion r f).mem = s.mem := by unfold State.modRegion; split <;> rfl
@[simp] theorem State.modRegion_poison (s : State) (r : Nat) (f : Region → Region) : (s.modRegion r f).poison = s.poison := by unfold State.modRegion; split <;> rfl
@[simp] theorem State.modRegion_fresh (s : State) (r : Nat) (f : Region → Region) : (s.modRegion r f).fresh = s.fresh := by unfold State.modRegion; split <;> rfl
@[simp] theorem State.modRegion_keys (s : State) (r : Nat) (f : Region → Region) : (s.modRegion r f).keys = s.keys := by unfold State.modRegion; split <;> rfl
@[simp] theorem State.modRegion_oldKeys (s : State) (r : Nat) (f : Region → Region) : (s.modRegion r f).oldKeys = s.oldKeys := by unfold State.modRegion; split <;> rfl
@[simp] theorem State.modRegion_cfg (s : State) (r : Nat) (f : Region → Region) : (s.modRegion r f).cfg = s.cfg := by unfold State.modRegion; split <;> rfl
@[simp] theorem State.modRegion_units (s : State) (r : Nat) (f : Region → Region) : (s.modRegion r f).units = s.units := by unfold State.modRegion; split <;> rfl
@[simp] theorem State.modRegion_nmq (s : State) (r : Nat) (f : Region → Region) : (s.modRegion r f).nmq = s.nmq := by unfold State.modRegion; split <;> rfl
@[simp] theorem State.modRegion_holds (s : State) (r : Nat) (f : Region → Region) : (s.modRegion r f).holds = s.holds := by unfold State.modRegion; split <;> rfl
@[simp] theorem State.modRegion_corr (s : State) (r : Nat) (f : Region → Region) : (s.modRegion r f).corr = s.corr := by unfold State.modRegion; split <;> rfl
@[simp] theorem State.modRegion_xlat (s : State) (r : Nat) (f : Region → Region) : (s.modRegion r f).xlat = s.xlat := by unfold State.modRegion; split <;> rfl
@[simp] theorem State.modRegion_wcache (s : State) (r : Nat) (f : Region → Region) : (s.modRegion r f).wcache = s.wcache := by unfold State.modRegion; split <;> rfl
@[simp] theorem State.modRegion_walks (s : State) (r : Nat) (f : Region → Region) : (s.modRegion r f).walks = s.walks := by unfold State.modRegion; split <;> rfl
@[simp] theorem State.modRegion_coal (s : State) (r : Nat) (f : Region → Region) : (s.modRegion r f).coal = s.coal := by unfold State.modRegion; split <;> rfl
@[simp] theorem State.modRegion_chans (s : State) (r : Nat) (f : Region → Region) : (s.modRegion r f).chans = s.chans := by unfold State.modRegion; split <;> rfl
@[simp] theorem State.modRegion_nodes (s : State) (r : Nat) (f : Region → Region) : (s.modRegion r f).nodes = s.nodes := by unfold State.modRegion; split <;> rfl
@[simp] theorem State.modRegion_waiting (s : State) (r : Nat) (f : Region → Region) : (s.modRegion r f).waiting = s.waiting := by unfold State.modRegion; split <;> rfl
@[simp] theorem State.modRegion_refused (s : State) (r : Nat) (f : Region → Region) : (s.modRegion r f).refused = s.refused := by unfold State.modRegion; split <;> rfl
@[simp] theorem State.modRegion_saves (s : State) (r : Nat) (f : Region → Region) : (s.modRegion r f).saves = s.saves := by unfold State.modRegion; split <;> rfl
@[simp] theorem State.modRegion_bells (s : State) (r : Nat) (f : Region → Region) : (s.modRegion r f).bells = s.bells := by unfold State.modRegion; split <;> rfl
@[simp] theorem State.modRegion_ringHeld (s : State) (r : Nat) (f : Region → Region) : (s.modRegion r f).ringHeld = s.ringHeld := by unfold State.modRegion; split <;> rfl
@[simp] theorem State.modRegion_mboxHeld (s : State) (r : Nat) (f : Region → Region) : (s.modRegion r f).mboxHeld = s.mboxHeld := by unfold State.modRegion; split <;> rfl
@[simp] theorem State.modRegion_tiles (s : State) (r : Nat) (f : Region → Region) : (s.modRegion r f).tiles = s.tiles := by unfold State.modRegion; split <;> rfl
@[simp] theorem State.modRegion_accs (s : State) (r : Nat) (f : Region → Region) : (s.modRegion r f).accs = s.accs := by unfold State.modRegion; split <;> rfl
@[simp] theorem State.modRegion_nextId (s : State) (r : Nat) (f : Region → Region) : (s.modRegion r f).nextId = s.nextId := by unfold State.modRegion; split <;> rfl
@[simp] theorem State.modRegion_agenda (s : State) (r : Nat) (f : Region → Region) : (s.modRegion r f).agenda = s.agenda := by unfold State.modRegion; split <;> rfl
@[simp] theorem State.modRegion_focusTile (s : State) (r : Nat) (f : Region → Region) : (s.modRegion r f).focusTile = s.focusTile := by unfold State.modRegion; split <;> rfl
@[simp] theorem State.modRegion_focusSet (s : State) (r : Nat) (f : Region → Region) : (s.modRegion r f).focusSet = s.focusSet := by unfold State.modRegion; split <;> rfl
@[simp] theorem State.modRegion_tick (s : State) (r : Nat) (f : Region → Region) : (s.modRegion r f).tick = s.tick := by unfold State.modRegion; split <;> rfl
@[simp] theorem State.modRegion_stopped (s : State) (r : Nat) (f : Region → Region) : (s.modRegion r f).stopped = s.stopped := by unfold State.modRegion; split <;> rfl

end Sys2Proof.Machine
end

