-- ==== Sys2Proof/Laws/Canon.lean ====
section
/-! SUPPORT. The canonical form under the named updates, and what a tile, a set or a thread reads as after an update of another. -/
namespace Sys2Proof.Machine

/-! ### Maps: replacing what is listed -/

theorem SMap.look_insert_listed {α : Type} {m : SMap α} {n : Nat} {w : α} (h : m.look n = some w) (v : α) {k : Nat} (hk : k ≠ n) :
    (m.insert n v).look k = m.look k := by
  induction m with
  | nil => cases h
  | cons x m ih =>
    obtain ⟨a, b⟩ := x
    simp only [SMap.look] at h
    split at h
    · next e => subst e; simp [SMap.insert, SMap.look, hk]
    · split at h
      · cases h
      · next h1 h2 => simp [SMap.insert, SMap.look, h1, h2, ih h]

theorem SMap.insert_listed {α : Type} {m : SMap α} {n : Nat} {v : α} (h : m.look n = some v) : m.insert n v = m := by
  induction m with
  | nil => cases h
  | cons x m ih =>
    obtain ⟨a, b⟩ := x
    simp only [SMap.look] at h
    split at h
    · next e => subst e; cases h; simp [SMap.insert]
    · split at h
      · cases h
      · next h1 h2 => simp [SMap.insert, h1, h2, ih h]

/-! ### Tiles -/

theorem State.canon_tiles {s : State} (h : s.canon = true) : SMap.wf Tile.reset s.tiles = true := by
  simp only [State.canon, Bool.and_eq_true] at h; exact h.1.2

theorem State.canon_mem {s : State} (h : s.canon = true) : Memory.wf s.mem = true := by
  simp only [State.canon, Bool.and_eq_true] at h; exact h.1.1

theorem Tile.canon_reset : Tile.reset.canon = true := by decide

theorem State.canon_tile {s : State} (h : s.canon = true) (t : Nat) : (s.tile t).canon = true := by
  simp only [State.canon, Bool.and_eq_true, List.all_eq_true] at h
  unfold State.tile SMap.get
  cases hl : SMap.look s.tiles t with
  | none => exact Tile.canon_reset
  | some x => exact h.2 (t, x) (SMap.mem_of_look hl)

@[simp] theorem State.tile_putTile_same {s : State} (h : s.canon = true) (t : Nat) (v : Tile) : (s.putTile t v).tile t = v :=
  SMap.get_put_same (SMap.rises_of_wf (State.canon_tiles h)) t v

theorem State.tile_putTile_other {s : State} (h : s.canon = true) {t u : Nat} (v : Tile) (hu : u ≠ t) : (s.putTile t v).tile u = s.tile u :=
  SMap.get_put_other (SMap.rises_of_wf (State.canon_tiles h)) v hu

theorem State.canon_putTile {s : State} (h : s.canon = true) (t : Nat) {v : Tile} (hv : v.canon = true) : (s.putTile t v).canon = true := by
  have h1 := State.canon_tiles h
  have h2 := State.canon_mem h
  simp only [State.canon, Bool.and_eq_true, List.all_eq_true] at h ⊢
  refine ⟨⟨h2, SMap.wf_put h1 t v⟩, ?_⟩
  intro x hx
  rcases SMap.mem_put hx with hx | hx
  · exact h.2 x hx
  · rw [hx]; exact hv

theorem State.canon_writePlain {s : State} (h : s.canon = true) (pa : Nat) (v : Double) : (s.writePlain pa v).canon = true := by
  simp only [State.canon, Bool.and_eq_true] at h ⊢
  exact ⟨⟨Memory.wf_writeLE h.1.1 pa 8 _, h.1.2⟩, h.2⟩

theorem State.canon_putChan {s : State} (h : s.canon = true) (n : Nat) (c : Chan) : (s.putChan n c).canon = true := h

theorem State.canon_modCfg {s : State} (h : s.canon = true) (f : Regs → Regs) : (s.modCfg f).canon = true := h

theorem State.canon_putLvs {s : State} (h : s.canon = true) (t w : Nat) (v : Word) : (s.putLvs t w v).canon = true := by
  refine State.canon_putTile h t ?_
  have := State.canon_tile h t
  simp only [Tile.canon, Bool.and_eq_true] at this ⊢
  exact ⟨⟨⟨this.1.1.1, SMap.wf_put this.1.1.2 w v⟩, this.1.2⟩, this.2⟩

theorem State.canon_putSet {s : State} (h : s.canon = true) (t o : Nat) (v : SetState) : (s.putSet t o v).canon = true := by
  unfold State.putSet
  split
  · exact State.canon_putTile h t (State.canon_tile h t)
  · exact h

theorem State.canon_modSet {s : State} (h : s.canon = true) (t o : Nat) (f : SetState → SetState) : (s.modSet t o f).canon = true := by
  unfold State.modSet
  split
  · exact State.canon_putSet h t o _
  · exact h

theorem State.canon_modThread {s : State} (h : s.canon = true) (t o tid : Nat) (f : Thread → Thread) : (s.modThread t o tid f).canon = true :=
  State.canon_modSet h t o _

theorem State.canon_pushAt {s : State} (h : s.canon = true) (t e : Nat) (k : Token) : (s.pushAt t e k).canon = true := by
  unfold State.pushAt State.pushFrom
  split <;> exact h

theorem State.canon_modRegion {s : State} (h : s.canon = true) (r : Nat) (f : Region → Region) : (s.modRegion r f).canon = true := by
  unfold State.modRegion
  split <;> exact h

theorem State.canon_newGroup {s : State} (h : s.canon = true) (c : Ctx) (marks : List Mark) (ms : List Member) :
    (s.newGroup c marks ms).canon = true := by
  unfold State.newGroup
  split
  · exact h
  · exact State.canon_modSet h _ _ _

/-- The end of a pass keeps the canonical form. -/
theorem PassSt.canon_close {p : PassSt} (h : p.s.canon = true) (c : Ctx) (marks : List Mark) : (p.close c marks).canon = true :=
  State.canon_newGroup (State.canon_newGroup (State.canon_modSet h _ _ _) _ _ _) _ _ _

/-! ### Sets and threads -/

theorem State.set?_putSet_same {s : State} (h : s.canon = true) {t o : Nat} {w : SetState} (hs : s.set? t o = some w) (v : SetState) :
    (s.putSet t o v).set? t o = some v := by
  unfold State.set? at hs
  unfold State.putSet
  cases ha : (s.tile t).active with
  | none => simp [ha] at hs
  | some p => simp [State.set?, State.tile_putTile_same h, Plane.putSet, SMap.look_insert_same]

theorem State.set?_putSet_other {s : State} (h : s.canon = true) {t o k : Nat} {w : SetState} (hs : s.set? t o = some w) (v : SetState) (hk : k ≠ o) :
    (s.putSet t o v).set? t k = s.set? t k := by
  unfold State.set? at hs
  unfold State.putSet
  cases ha : (s.tile t).active with
  | none => simp [ha] at hs
  | some p =>
    simp only [ha, Option.bind_some] at hs
    simp [State.set?, State.tile_putTile_same h, Plane.putSet, SMap.look_insert_listed hs v hk, ha]

/-- A set that is put back as it is changes nothing. -/
theorem State.putSet_self {s : State} {t o : Nat} {v : SetState} (hs : s.set? t o = some v) : s.putSet t o v = s := by
  unfold State.set? at hs
  unfold State.putSet
  cases ha : (s.tile t).active with
  | none => rfl
  | some p =>
    simp only [ha, Option.bind_some] at hs
    have hp : p.putSet o v = p := by unfold Plane.putSet; rw [SMap.insert_listed hs]
    simp only [hp, ← ha]
    have ht : SMap.look s.tiles t = some (s.tile t) := by
      unfold State.tile SMap.get at ha ⊢
      cases hl : SMap.look s.tiles t with
      | none => rw [hl] at ha; cases ha
      | some x => rfl
    have hne : s.tile t ≠ Tile.reset := by intro e; rw [e] at ha; cases ha
    unfold State.putTile SMap.put
    simp only [hne, if_false, SMap.insert_listed ht]

theorem State.modSet_self {s : State} {t o : Nat} {f : SetState → SetState} (hf : ∀ v, s.set? t o = some v → f v = v) : s.modSet t o f = s := by
  unfold State.modSet
  split
  · next v hv => rw [hf v hv]; exact State.putSet_self hv
  · rfl

end Sys2Proof.Machine
end

