-- ==== Sys2Proof/Laws/Dispatch.lean ====
section
/-! SUPPORT. `exec` of each constructor is its meaning. -/
namespace Sys2Proof.Machine

@[simp] theorem exec_addInt (g : Guard) (ty : ITy) (d a b : Opd) (s : State) : exec (.addInt g ty d a b) s = execAddInt g ty d a b s := rfl
@[simp] theorem exec_subInt (g : Guard) (ty : ITy) (d a b : Opd) (s : State) : exec (.subInt g ty d a b) s = execSubInt g ty d a b s := rfl
@[simp] theorem exec_mulInt (g : Guard) (ty : ITy) (d a b : Opd) (s : State) : exec (.mulInt g ty d a b) s = execMulInt g ty d a b s := rfl
@[simp] theorem exec_mulhi (g : Guard) (ty : ITy) (d a b : Opd) (s : State) : exec (.mulhi g ty d a b) s = execMulhi g ty d a b s := rfl
@[simp] theorem exec_mad (g : Guard) (ty : ITy) (d a b c : Opd) (s : State) : exec (.mad g ty d a b c) s = execMad g ty d a b c s := rfl
@[simp] theorem exec_divInt (g : Guard) (ty : ITy) (d a b : Opd) (s : State) : exec (.divInt g ty d a b) s = execDivInt g ty d a b s := rfl
@[simp] theorem exec_remInt (g : Guard) (ty : ITy) (d a b : Opd) (s : State) : exec (.remInt g ty d a b) s = execRemInt g ty d a b s := rfl
@[simp] theorem exec_minInt (g : Guard) (ty : ITy) (d a b : Opd) (s : State) : exec (.minInt g ty d a b) s = execMinInt g ty d a b s := rfl
@[simp] theorem exec_maxInt (g : Guard) (ty : ITy) (d a b : Opd) (s : State) : exec (.maxInt g ty d a b) s = execMaxInt g ty d a b s := rfl
@[simp] theorem exec_absInt (g : Guard) (ty : ITy) (d a : Opd) (s : State) : exec (.absInt g ty d a) s = execAbsInt g ty d a s := rfl
@[simp] theorem exec_negInt (g : Guard) (ty : ITy) (d a : Opd) (s : State) : exec (.negInt g ty d a) s = execNegInt g ty d a s := rfl
@[simp] theorem exec_adds (g : Guard) (ty : ITy) (d a b : Opd) (s : State) : exec (.adds g ty d a b) s = execAdds g ty d a b s := rfl
@[simp] theorem exec_subs (g : Guard) (ty : ITy) (d a b : Opd) (s : State) : exec (.subs g ty d a b) s = execSubs g ty d a b s := rfl
@[simp] theorem exec_dot4Int (g : Guard) (uns : Bool) (d a b c : Opd) (s : State) : exec (.dot4Int g uns d a b c) s = execDot4Int g uns d a b c s := rfl
@[simp] theorem exec_andB (g : Guard) (ty : ITy) (d a b : Opd) (s : State) : exec (.andB g ty d a b) s = execAndB g ty d a b s := rfl
@[simp] theorem exec_orB (g : Guard) (ty : ITy) (d a b : Opd) (s : State) : exec (.orB g ty d a b) s = execOrB g ty d a b s := rfl
@[simp] theorem exec_xorB (g : Guard) (ty : ITy) (d a b : Opd) (s : State) : exec (.xorB g ty d a b) s = execXorB g ty d a b s := rfl
@[simp] theorem exec_notB (g : Guard) (ty : ITy) (d a : Opd) (s : State) : exec (.notB g ty d a) s = execNotB g ty d a s := rfl
@[simp] theorem exec_andn (g : Guard) (ty : ITy) (d a b : Opd) (s : State) : exec (.andn g ty d a b) s = execAndn g ty d a b s := rfl
@[simp] theorem exec_shl (g : Guard) (ty : ITy) (d a b : Opd) (s : State) : exec (.shl g ty d a b) s = execShl g ty d a b s := rfl
@[simp] theorem exec_shr (g : Guard) (ty : ITy) (d a b : Opd) (s : State) : exec (.shr g ty d a b) s = execShr g ty d a b s := rfl
@[simp] theorem exec_sra (g : Guard) (ty : ITy) (d a b : Opd) (s : State) : exec (.sra g ty d a b) s = execSra g ty d a b s := rfl
@[simp] theorem exec_rotl (g : Guard) (ty : ITy) (d a b : Opd) (s : State) : exec (.rotl g ty d a b) s = execRotl g ty d a b s := rfl
@[simp] theorem exec_popc (g : Guard) (ty : ITy) (d a : Opd) (s : State) : exec (.popc g ty d a) s = execPopc g ty d a s := rfl
@[simp] theorem exec_clz (g : Guard) (ty : ITy) (d a : Opd) (s : State) : exec (.clz g ty d a) s = execClz g ty d a s := rfl
@[simp] theorem exec_ctz (g : Guard) (ty : ITy) (d a : Opd) (s : State) : exec (.ctz g ty d a) s = execCtz g ty d a s := rfl
@[simp] theorem exec_brev (g : Guard) (ty : ITy) (d a : Opd) (s : State) : exec (.brev g ty d a) s = execBrev g ty d a s := rfl
@[simp] theorem exec_bfe (g : Guard) (ty : ITy) (d a b : Opd) (s : State) : exec (.bfe g ty d a b) s = execBfe g ty d a b s := rfl
@[simp] theorem exec_bfi (g : Guard) (ty : ITy) (d a b c : Opd) (s : State) : exec (.bfi g ty d a b c) s = execBfi g ty d a b c s := rfl
@[simp] theorem exec_addImm (g : Guard) (d a : Opd) (imm : BitVec 33) (s : State) : exec (.addImm g d a imm) s = execAddImm g d a imm s := rfl
@[simp] theorem exec_mulImm (g : Guard) (d a : Opd) (imm : BitVec 33) (s : State) : exec (.mulImm g d a imm) s = execMulImm g d a imm s := rfl
@[simp] theorem exec_andImm (g : Guard) (d a : Opd) (imm : BitVec 33) (s : State) : exec (.andImm g d a imm) s = execAndImm g d a imm s := rfl
@[simp] theorem exec_orImm (g : Guard) (d a : Opd) (imm : BitVec 33) (s : State) : exec (.orImm g d a imm) s = execOrImm g d a imm s := rfl
@[simp] theorem exec_xorImm (g : Guard) (d a : Opd) (imm : BitVec 33) (s : State) : exec (.xorImm g d a imm) s = execXorImm g d a imm s := rfl
@[simp] theorem exec_shlImm (g : Guard) (d a : Opd) (imm : BitVec 33) (s : State) : exec (.shlImm g d a imm) s = execShlImm g d a imm s := rfl
@[simp] theorem exec_shrImm (g : Guard) (d a : Opd) (imm : BitVec 33) (s : State) : exec (.shrImm g d a imm) s = execShrImm g d a imm s := rfl
@[simp] theorem exec_sraImm (g : Guard) (d a : Opd) (imm : BitVec 33) (s : State) : exec (.sraImm g d a imm) s = execSraImm g d a imm s := rfl
@[simp] theorem exec_minImm (g : Guard) (d a : Opd) (imm : BitVec 33) (s : State) : exec (.minImm g d a imm) s = execMinImm g d a imm s := rfl
@[simp] theorem exec_maxImm (g : Guard) (d a : Opd) (imm : BitVec 33) (s : State) : exec (.maxImm g d a imm) s = execMaxImm g d a imm s := rfl
@[simp] theorem exec_movImm (g : Guard) (d : Opd) (imm : BitVec 33) (s : State) : exec (.movImm g d imm) s = execMovImm g d imm s := rfl
@[simp] theorem exec_movhi (g : Guard) (d : Reg) (a : Opd) (imm : BitVec 33) (s : State) : exec (.movhi g d a imm) s = execMovhi g d a imm s := rfl
@[simp] theorem exec_lea (g : Guard) (uns : Bool) (sc : BitVec 2) (d : Reg) (a b : Opd) (s : State) : exec (.lea g uns sc d a b) s = execLea g uns sc d a b s := rfl
@[simp] theorem exec_extLo (g : Guard) (d a : Opd) (s : State) : exec (.extLo g d a) s = execExtLo g d a s := rfl
@[simp] theorem exec_extHi (g : Guard) (d a : Opd) (s : State) : exec (.extHi g d a) s = execExtHi g d a s := rfl
@[simp] theorem exec_pack64 (g : Guard) (d : Reg) (a b : Opd) (s : State) : exec (.pack64 g d a b) s = execPack64 g d a b s := rfl
@[simp] theorem exec_nop (g : Guard) (s : State) : exec (.nop g) s = execNop g s := rfl
@[simp] theorem exec_mov (g : Guard) (ty : Ty) (d a : Opd) (s : State) : exec (.mov g ty d a) s = execMov g ty d a s := rfl
@[simp] theorem exec_sel (g : Guard) (ty : Ty) (d a b c : Opd) (s : State) : exec (.sel g ty d a b c) s = execSel g ty d a b c s := rfl
@[simp] theorem exec_ffclr (g : Guard) (mask : BitVec 5) (s : State) : exec (.ffclr g mask) s = execFfclr g mask s := rfl
@[simp] theorem exec_addF32 (g : Guard) (sf : Bool) (rm : RM) (d a b : Opd) (s : State) : exec (.addF32 g sf rm d a b) s = execAddF32 g sf rm d a b s := rfl
@[simp] theorem exec_subF32 (g : Guard) (sf : Bool) (rm : RM) (d a b : Opd) (s : State) : exec (.subF32 g sf rm d a b) s = execSubF32 g sf rm d a b s := rfl
@[simp] theorem exec_mulF32 (g : Guard) (sf : Bool) (rm : RM) (d a b : Opd) (s : State) : exec (.mulF32 g sf rm d a b) s = execMulF32 g sf rm d a b s := rfl
@[simp] theorem exec_fmaF32 (g : Guard) (sf : Bool) (rm : RM) (d a b c : Opd) (s : State) : exec (.fmaF32 g sf rm d a b c) s = execFmaF32 g sf rm d a b c s := rfl
@[simp] theorem exec_fmsF32 (g : Guard) (sf : Bool) (rm : RM) (d a b c : Opd) (s : State) : exec (.fmsF32 g sf rm d a b c) s = execFmsF32 g sf rm d a b c s := rfl
@[simp] theorem exec_fnmaF32 (g : Guard) (sf : Bool) (rm : RM) (d a b c : Opd) (s : State) : exec (.fnmaF32 g sf rm d a b c) s = execFnmaF32 g sf rm d a b c s := rfl
@[simp] theorem exec_minF32 (g : Guard) (sf : Bool) (d a b : Opd) (s : State) : exec (.minF32 g sf d a b) s = execMinF32 g sf d a b s := rfl
@[simp] theorem exec_maxF32 (g : Guard) (sf : Bool) (d a b : Opd) (s : State) : exec (.maxF32 g sf d a b) s = execMaxF32 g sf d a b s := rfl
@[simp] theorem exec_absF32 (g : Guard) (d a : Opd) (s : State) : exec (.absF32 g d a) s = execAbsF32 g d a s := rfl
@[simp] theorem exec_negF32 (g : Guard) (d a : Opd) (s : State) : exec (.negF32 g d a) s = execNegF32 g d a s := rfl
@[simp] theorem exec_divF32 (g : Guard) (sf : Bool) (rm : RM) (d a b : Opd) (s : State) : exec (.divF32 g sf rm d a b) s = execDivF32 g sf rm d a b s := rfl
@[simp] theorem exec_sqrtF32 (g : Guard) (sf : Bool) (rm : RM) (d a : Opd) (s : State) : exec (.sqrtF32 g sf rm d a) s = execSqrtF32 g sf rm d a s := rfl
@[simp] theorem exec_rcpF32 (g : Guard) (sf : Bool) (d a : Opd) (s : State) : exec (.rcpF32 g sf d a) s = execRcpF32 g sf d a s := rfl
@[simp] theorem exec_rsqrtF32 (g : Guard) (sf : Bool) (d a : Opd) (s : State) : exec (.rsqrtF32 g sf d a) s = execRsqrtF32 g sf d a s := rfl
@[simp] theorem exec_exp2F32 (g : Guard) (sf : Bool) (d a : Opd) (s : State) : exec (.exp2F32 g sf d a) s = execExp2F32 g sf d a s := rfl
@[simp] theorem exec_log2F32 (g : Guard) (sf : Bool) (d a : Opd) (s : State) : exec (.log2F32 g sf d a) s = execLog2F32 g sf d a s := rfl
@[simp] theorem exec_copysignF32 (g : Guard) (d a b : Opd) (s : State) : exec (.copysignF32 g d a b) s = execCopysignF32 g d a b s := rfl
@[simp] theorem exec_classF32 (g : Guard) (d a : Opd) (s : State) : exec (.classF32 g d a) s = execClassF32 g d a s := rfl
@[simp] theorem exec_rintF32 (g : Guard) (sf : Bool) (rm : RM) (d a : Opd) (s : State) : exec (.rintF32 g sf rm d a) s = execRintF32 g sf rm d a s := rfl
@[simp] theorem exec_addPacked (g : Guard) (sf : Bool) (rm : RM) (sat : Sat) (ty : PTy) (d a b : Opd) (s : State) : exec (.addPacked g sf rm sat ty d a b) s = execAddPacked g sf rm sat ty d a b s := rfl
@[simp] theorem exec_subPacked (g : Guard) (sf : Bool) (rm : RM) (sat : Sat) (ty : PTy) (d a b : Opd) (s : State) : exec (.subPacked g sf rm sat ty d a b) s = execSubPacked g sf rm sat ty d a b s := rfl
@[simp] theorem exec_mulPacked (g : Guard) (sf : Bool) (rm : RM) (sat : Sat) (ty : PTy) (d a b : Opd) (s : State) : exec (.mulPacked g sf rm sat ty d a b) s = execMulPacked g sf rm sat ty d a b s := rfl
@[simp] theorem exec_fmaPacked (g : Guard) (sf : Bool) (rm : RM) (sat : Sat) (ty : PTy) (d a b c : Opd) (s : State) : exec (.fmaPacked g sf rm sat ty d a b c) s = execFmaPacked g sf rm sat ty d a b c s := rfl
@[simp] theorem exec_minPacked (g : Guard) (sf : Bool) (rm : RM) (sat : Sat) (ty : PTy) (d a b : Opd) (s : State) : exec (.minPacked g sf rm sat ty d a b) s = execMinPacked g sf rm sat ty d a b s := rfl
@[simp] theorem exec_maxPacked (g : Guard) (sf : Bool) (rm : RM) (sat : Sat) (ty : PTy) (d a b : Opd) (s : State) : exec (.maxPacked g sf rm sat ty d a b) s = execMaxPacked g sf rm sat ty d a b s := rfl
@[simp] theorem exec_absPacked (g : Guard) (sf : Bool) (rm : RM) (sat : Sat) (ty : PTy) (d a : Opd) (s : State) : exec (.absPacked g sf rm sat ty d a) s = execAbsPacked g sf rm sat ty d a s := rfl
@[simp] theorem exec_negPacked (g : Guard) (sf : Bool) (rm : RM) (sat : Sat) (ty : PTy) (d a : Opd) (s : State) : exec (.negPacked g sf rm sat ty d a) s = execNegPacked g sf rm sat ty d a s := rfl
@[simp] theorem exec_dot2 (g : Guard) (sf : Bool) (rm : RM) (d a b c : Opd) (s : State) : exec (.dot2 g sf rm d a b c) s = execDot2 g sf rm d a b c s := rfl
@[simp] theorem exec_dot4B8 (g : Guard) (sf : Bool) (rm : RM) (f : B8) (d a b c : Opd) (s : State) : exec (.dot4B8 g sf rm f d a b c) s = execDot4B8 g sf rm f d a b c s := rfl
@[simp] theorem exec_cvt (g : Guard) (sf : Bool) (rm : RM) (sat : Sat) (dty sty : Ty) (d a : Opd) (s : State) : exec (.cvt g sf rm sat dty sty d a) s = execCvt g sf rm sat dty sty d a s := rfl
@[simp] theorem exec_pk2 (g : Guard) (sf : Bool) (rm : RM) (sty : Pk2Ty) (d a b : Opd) (s : State) : exec (.pk2 g sf rm sty d a b) s = execPk2 g sf rm sty d a b s := rfl
@[simp] theorem exec_pk4 (g : Guard) (sf : Bool) (rm : RM) (sat : Sat) (dty : QuadTy) (src : Pk4Src) (d a b c : Opd) (s : State) : exec (.pk4 g sf rm sat dty src d a b c) s = execPk4 g sf rm sat dty src d a b c s := rfl
@[simp] theorem exec_upk (g : Guard) (ty : UpkTy) (e : BitVec 2) (d a : Opd) (s : State) : exec (.upk g ty e d a) s = execUpk g ty e d a s := rfl
@[simp] theorem exec_scl (g : Guard) (sf : Bool) (rm : RM) (d a b : Opd) (s : State) : exec (.scl g sf rm d a b) s = execScl g sf rm d a b s := rfl
@[simp] theorem exec_bscale (g : Guard) (f : B8) (d a : Opd) (s : State) : exec (.bscale g f d a) s = execBscale g f d a s := rfl
@[simp] theorem exec_cmp (g : Guard) (sf : Bool) (cond : Cond) (ty : Ty) (d a b : Opd) (s : State) : exec (.cmp g sf cond ty d a b) s = execCmp g sf cond ty d a b s := rfl
@[simp] theorem exec_cmpImm (g : Guard) (cond : CondImm) (d a : Opd) (imm : BitVec 33) (s : State) : exec (.cmpImm g cond d a imm) s = execCmpImm g cond d a imm s := rfl
@[simp] theorem exec_pAnd (g : Guard) (d a b : Opd) (s : State) : exec (.pAnd g d a b) s = execPAnd g d a b s := rfl
@[simp] theorem exec_pOr (g : Guard) (d a b : Opd) (s : State) : exec (.pOr g d a b) s = execPOr g d a b s := rfl
@[simp] theorem exec_pXor (g : Guard) (d a b : Opd) (s : State) : exec (.pXor g d a b) s = execPXor g d a b s := rfl
@[simp] theorem exec_pNot (g : Guard) (d a : Opd) (s : State) : exec (.pNot g d a) s = execPNot g d a s := rfl
@[simp] theorem exec_pAndn (g : Guard) (d a b : Opd) (s : State) : exec (.pAndn g d a b) s = execPAndn g d a b s := rfl
@[simp] theorem exec_pMov (g : Guard) (d a : Opd) (s : State) : exec (.pMov g d a) s = execPMov g d a s := rfl
@[simp] theorem exec_ldDev (g : Guard) (size : LdSize) (data : Reg) (m : MemRef) (s : State) : exec (.ldDev g size data m) s = execLdDev g size data m s := rfl
@[simp] theorem exec_ldAcqDev (g : Guard) (size : LdSize) (data : Reg) (m : MemRef) (s : State) : exec (.ldAcqDev g size data m) s = execLdAcqDev g size data m s := rfl
@[simp] theorem exec_ldLoc (g : Guard) (size : LdSize) (data : Reg) (m : MemRef) (s : State) : exec (.ldLoc g size data m) s = execLdLoc g size data m s := rfl
@[simp] theorem exec_ldAcqLoc (g : Guard) (size : LdSize) (data : Reg) (m : MemRef) (s : State) : exec (.ldAcqLoc g size data m) s = execLdAcqLoc g size data m s := rfl
@[simp] theorem exec_stDev (g : Guard) (size : LdSize) (data : Reg) (m : MemRef) (s : State) : exec (.stDev g size data m) s = execStDev g size data m s := rfl
@[simp] theorem exec_stRelDev (g : Guard) (size : LdSize) (data : Reg) (m : MemRef) (s : State) : exec (.stRelDev g size data m) s = execStRelDev g size data m s := rfl
@[simp] theorem exec_stLoc (g : Guard) (size : LdSize) (data : Reg) (m : MemRef) (s : State) : exec (.stLoc g size data m) s = execStLoc g size data m s := rfl
@[simp] theorem exec_stRelLoc (g : Guard) (size : LdSize) (data : Reg) (m : MemRef) (s : State) : exec (.stRelLoc g size data m) s = execStRelLoc g size data m s := rfl
@[simp] theorem exec_atom (g : Guard) (sf : Bool) (op : AtomOp) (ty : ATy) (data : Reg) (m : MemRef) (s : State) : exec (.atom g sf op ty data m) s = execAtom g sf op ty data m s := rfl
@[simp] theorem exec_red (g : Guard) (sf : Bool) (op : AtomOp) (ty : ATy) (data : Reg) (m : MemRef) (s : State) : exec (.red g sf op ty data m) s = execRed g sf op ty data m s := rfl
@[simp] theorem exec_fence (g : Guard) (scope : Scope) (mask : BitVec 16) (s : State) : exec (.fence g scope mask) s = execFence g scope mask s := rfl
@[simp] theorem exec_eqWait (g : Guard) (n : BitVec 4) (s : State) : exec (.eqWait g n) s = execEqWait g n s := rfl
@[simp] theorem exec_spill (g : Guard) (a : BitVec 5) (n : BitVec 6) (s : State) : exec (.spill g a n) s = execSpill g a n s := rfl
@[simp] theorem exec_fill (g : Guard) (d : BitVec 5) (n : BitVec 6) (s : State) : exec (.fill g d n) s = execFill g d n s := rfl
@[simp] theorem exec_strmRd (c : SCom) (port : BitVec 3) (desc : BitVec 4) (s : State) : exec (.strmRd c port desc) s = execStrmRd c port desc s := rfl
@[simp] theorem exec_strmWr (c : SCom) (port : BitVec 3) (desc : BitVec 4) (s : State) : exec (.strmWr c port desc) s = execStrmWr c port desc s := rfl
@[simp] theorem exec_engBar (c : SCom) (s : State) : exec (.engBar c) s = execEngBar c s := rfl
@[simp] theorem exec_cpIn (c : SCom) (desc : BitVec 4) (s : State) : exec (.cpIn c desc) s = execCpIn c desc s := rfl
@[simp] theorem exec_cpOut (c : SCom) (desc : BitVec 4) (s : State) : exec (.cpOut c desc) s = execCpOut c desc s := rfl
@[simp] theorem exec_cpLocal (c : SCom) (desc : BitVec 4) (s : State) : exec (.cpLocal c desc) s = execCpLocal c desc s := rfl
@[simp] theorem exec_cpPush (c : SCom) (port : BitVec 3) (desc : BitVec 4) (s : State) : exec (.cpPush c port desc) s = execCpPush c port desc s := rfl
@[simp] theorem exec_cpPushz (c : SCom) (port : BitVec 3) (desc : BitVec 4) (s : State) : exec (.cpPushz c port desc) s = execCpPushz c port desc s := rfl
@[simp] theorem exec_cpPop (c : SCom) (port : BitVec 3) (desc : BitVec 4) (s : State) : exec (.cpPop c port desc) s = execCpPop c port desc s := rfl
@[simp] theorem exec_cpPopd (c : SCom) (port : BitVec 3) (desc : BitVec 4) (s : State) : exec (.cpPopd c port desc) s = execCpPopd c port desc s := rfl
@[simp] theorem exec_chPush (g : Guard) (tag : BitVec 3) (rel : Bool) (n : BitVec 3) (a : Opd) (s : State) : exec (.chPush g tag rel n a) s = execChPush g tag rel n a s := rfl
@[simp] theorem exec_chPop (g : Guard) (tag : Option (BitVec 3)) (acq : Bool) (d : Opd) (n : BitVec 3) (s : State) : exec (.chPop g tag acq d n) s = execChPop g tag acq d n s := rfl
@[simp] theorem exec_chPeek (g : Guard) (tag : Option (BitVec 3)) (d : Opd) (n : BitVec 3) (s : State) : exec (.chPeek g tag d n) s = execChPeek g tag d n s := rfl
@[simp] theorem exec_chTag (g : Guard) (d : Opd) (n : BitVec 3) (s : State) : exec (.chTag g d n) s = execChTag g d n s := rfl
@[simp] theorem exec_chCtl (g : Guard) (sub : CtlSub) (dst : ChName) (a : Opd) (s : State) : exec (.chCtl g sub dst a) s = execChCtl g sub dst a s := rfl
@[simp] theorem exec_steer (g : Guard) (inv : Bool) (ty : Ty) (d a p f : Opd) (s : State) : exec (.steer g inv ty d a p f) s = execSteer g inv ty d a p f s := rfl
@[simp] theorem exec_merge (g : Guard) (inv : Bool) (ty : Ty) (d a b p : Opd) (s : State) : exec (.merge g inv ty d a b p) s = execMerge g inv ty d a b p s := rfl
@[simp] theorem exec_amerge (g : Guard) (ty : Ty) (d : Opd) (a b : BitVec 3) (c : Option (BitVec 3)) (s : State) : exec (.amerge g ty d a b c) s = execAmerge g ty d a b c s := rfl
@[simp] theorem exec_lgen (g : Guard) (d : Option (BitVec 3)) (a : BitVec 3) (st : BitVec 4) (c : Option (BitVec 3)) (s : State) : exec (.lgen g d a st c) s = execLgen g d a st c s := rfl
@[simp] theorem exec_br (g : Guard) (tgt : BitVec 12) (s : State) : exec (.br g tgt) s = execBr g tgt s := rfl
@[simp] theorem exec_brC (g : Guard) (cond : Opd) (tgt other : BitVec 12) (s : State) : exec (.brC g cond tgt other) s = execBrC g cond tgt other s := rfl
@[simp] theorem exec_exit (g : Guard) (s : State) : exec (.exit g) s = execExit g s := rfl
@[simp] theorem exec_exitAbandon (g : Guard) (s : State) : exec (.exitAbandon g) s = execExitAbandon g s := rfl
@[simp] theorem exec_loop (n : BitVec 2) (count : BitVec 19) (last : BitVec 6) (s : State) : exec (.loop n count last) s = execLoop n count last s := rfl
@[simp] theorem exec_loopR (n : BitVec 2) (st : BitVec 4) (last : BitVec 6) (s : State) : exec (.loopR n st last) s = execLoopR n st last s := rfl
@[simp] theorem exec_thrNew (g : Guard) (d a : Opd) (blk : BitVec 12) (s : State) : exec (.thrNew g d a blk) s = execThrNew g d a blk s := rfl
@[simp] theorem exec_grpJoin (g : Guard) (a : Opd) (s : State) : exec (.grpJoin g a) s = execGrpJoin g a s := rfl
@[simp] theorem exec_grpLeave (g : Guard) (a : Opd) (s : State) : exec (.grpLeave g a) s = execGrpLeave g a s := rfl
@[simp] theorem exec_barSet (g : Guard) (region : Bool) (n : BitVec 5) (a : Opd) (s : State) : exec (.barSet g region n a) s = execBarSet g region n a s := rfl
@[simp] theorem exec_barBind (g : Guard) (region : Bool) (n : BitVec 5) (a : Opd) (s : State) : exec (.barBind g region n a) s = execBarBind g region n a s := rfl
@[simp] theorem exec_barArrive (g : Guard) (region : Bool) (n : BitVec 5) (s : State) : exec (.barArrive g region n) s = execBarArrive g region n s := rfl
@[simp] theorem exec_slotClaim (c : SCom) (first countM1 : BitVec 4) (s : State) : exec (.slotClaim c first countM1) s = execSlotClaim c first countM1 s := rfl
@[simp] theorem exec_slotFill (c : SCom) (first countM1 : BitVec 4) (chan : Option (BitVec 3)) (desc : BitVec 4) (s : State) : exec (.slotFill c first countM1 chan desc) s = execSlotFill c first countM1 chan desc s := rfl
@[simp] theorem exec_slotRel (c : SCom) (first countM1 : BitVec 4) (s : State) : exec (.slotRel c first countM1) s = execSlotRel c first countM1 s := rfl
@[simp] theorem exec_cubeMm (c : SCom) (desc : BitVec 4) (s : State) : exec (.cubeMm c desc) s = execCubeMm c desc s := rfl
@[simp] theorem exec_cubeGate (c : SCom) (desc : BitVec 4) (s : State) : exec (.cubeGate c desc) s = execCubeGate c desc s := rfl
@[simp] theorem exec_cubeSpread (c : SCom) (desc : BitVec 4) (s : State) : exec (.cubeSpread c desc) s = execCubeSpread c desc s := rfl
@[simp] theorem exec_cubeFold (c : SCom) (desc : BitVec 4) (s : State) : exec (.cubeFold c desc) s = execCubeFold c desc s := rfl
@[simp] theorem exec_cubeBind (c : SCom) (gate : Bool) (chI chO : BitVec 3) (desc : BitVec 4) (s : State) : exec (.cubeBind c gate chI chO desc) s = execCubeBind c gate chI chO desc s := rfl
@[simp] theorem exec_cubeUnbind (c : SCom) (s : State) : exec (.cubeUnbind c) s = execCubeUnbind c s := rfl
@[simp] theorem exec_acsLd (g : Guard) (d a : Opd) (off : BitVec 16) (s : State) : exec (.acsLd g d a off) s = execAcsLd g d a off s := rfl
@[simp] theorem exec_acsSt (g : Guard) (a b : Opd) (off : BitVec 16) (s : State) : exec (.acsSt g a b off) s = execAcsSt g a b off s := rfl
@[simp] theorem exec_cirConvert (c : SCom) (arr : BitVec 5) (pmask : BitVec 8) (s : State) : exec (.cirConvert c arr pmask) s = execCirConvert c arr pmask s := rfl
@[simp] theorem exec_cirSched (c : SCom) (arr : BitVec 5) (desc : BitVec 4) (s : State) : exec (.cirSched c arr desc) s = execCirSched c arr desc s := rfl
@[simp] theorem exec_cirRun (c : SCom) (arr : BitVec 5) (s : State) : exec (.cirRun c arr) s = execCirRun c arr s := rfl
@[simp] theorem exec_cirRunf (c : SCom) (arr : BitVec 5) (s : State) : exec (.cirRunf c arr) s = execCirRunf c arr s := rfl
@[simp] theorem exec_cirHalt (c : SCom) (arr : BitVec 5) (s : State) : exec (.cirHalt c arr) s = execCirHalt c arr s := rfl
@[simp] theorem exec_cirRevert (c : SCom) (arr : BitVec 5) (s : State) : exec (.cirRevert c arr) s = execCirRevert c arr s := rfl
@[simp] theorem exec_cirPageout (c : SCom) (arr : BitVec 5) (page : BitVec 3) (desc : BitVec 4) (s : State) : exec (.cirPageout c arr page desc) s = execCirPageout c arr page desc s := rfl
@[simp] theorem exec_cirPagein (c : SCom) (arr : BitVec 5) (page : BitVec 3) (desc : BitVec 4) (s : State) : exec (.cirPagein c arr page desc) s = execCirPagein c arr page desc s := rfl
@[simp] theorem exec_sregRd (g : Guard) (d : Reg) (a : Opd) (r : SReg) (s : State) : exec (.sregRd g d a r) s = execSregRd g d a r s := rfl
@[simp] theorem exec_sregWr (g : Guard) (d a b : Opd) (r : SReg) (s : State) : exec (.sregWr g d a b r) s = execSregWr g d a b r s := rfl
@[simp] theorem exec_capRd (g : Guard) (d : Reg) (a : Opd) (off : BitVec 16) (s : State) : exec (.capRd g d a off) s = execCapRd g d a off s := rfl
@[simp] theorem exec_capWr (g : Guard) (d a b : Opd) (off : BitVec 16) (s : State) : exec (.capWr g d a b off) s = execCapWr g d a b off s := rfl
@[simp] theorem exec_trapRd (g : Guard) (n : BitVec 4) (s : State) : exec (.trapRd g n) s = execTrapRd g n s := rfl
@[simp] theorem exec_trapAct (g : Guard) (op : TrapOp) (d a : Opd) (s : State) : exec (.trapAct g op d a) s = execTrapAct g op d a s := rfl
@[simp] theorem exec_trapFwd (g : Guard) (d : Opd) (s : State) : exec (.trapFwd g d) s = execTrapFwd g d s := rfl
@[simp] theorem exec_cfgSel (g : Guard) (sel : PlaneSel) (other : Bool) (a : Opd) (s : State) : exec (.cfgSel g sel other a) s = execCfgSel g sel other a s := rfl
@[simp] theorem exec_cfgLd (c : SCom) (s1 arm start : Bool) (desc : BitVec 4) (s : State) : exec (.cfgLd c s1 arm start desc) s = execCfgLd c s1 arm start desc s := rfl
@[simp] theorem exec_preempt (c : SCom) (desc : BitVec 4) (s : State) : exec (.preempt c desc) s = execPreempt c desc s := rfl
@[simp] theorem exec_restore (c : SCom) (desc : BitVec 4) (s : State) : exec (.restore c desc) s = execRestore c desc s := rfl
@[simp] theorem exec_nmqSub (c : SCom) (desc : BitVec 4) (s : State) : exec (.nmqSub c desc) s = execNmqSub c desc s := rfl
@[simp] theorem exec_nmqPoll (g : Guard) (d a : Opd) (s : State) : exec (.nmqPoll g d a) s = execNmqPoll g d a s := rfl
@[simp] theorem exec_mark (g : Guard) (a : Opd) (s : State) : exec (.mark g a) s = execMark g a s := rfl
@[simp] theorem exec_perfRd (g : Guard) (d : Reg) (n : BitVec 6) (s : State) : exec (.perfRd g d n) s = execPerfRd g d n s := rfl
@[simp] theorem exec_engineQueueIssue (tile set : Nat) (s : State) : exec (.engineQueueIssue tile set) s = execEngineQueueIssue tile set s := rfl
@[simp] theorem exec_commandRetire (tile set seq : Nat) (s : State) : exec (.commandRetire tile set seq) s = execCommandRetire tile set seq s := rfl
@[simp] theorem exec_returnDatum (tile set grp tid : Nat) (s : State) : exec (.returnDatum tile set grp tid) s = execReturnDatum tile set grp tid s := rfl
@[simp] theorem exec_returnGroupComplete (tile set grp : Nat) (s : State) : exec (.returnGroupComplete tile set grp) s = execReturnGroupComplete tile set grp s := rfl
@[simp] theorem exec_translationWalk (walk : Nat) (s : State) : exec (.translationWalk walk) s = execTranslationWalk walk s := rfl
@[simp] theorem exec_atomicPipelineCycle (tile : Nat) (s : State) : exec (.atomicPipelineCycle tile) s = execAtomicPipelineCycle tile s := rfl
@[simp] theorem exec_selection (tile set : Nat) (s : State) : exec (.selection tile set) s = execSelection tile set s := rfl
@[simp] theorem exec_eoiForward (tile set : Nat) (s : State) : exec (.eoiForward tile set) s = execEoiForward tile set s := rfl
@[simp] theorem exec_eosForward (tile set : Nat) (s : State) : exec (.eosForward tile set) s = execEosForward tile set s := rfl
@[simp] theorem exec_drnForward (tile set : Nat) (s : State) : exec (.drnForward tile set) s = execDrnForward tile set s := rfl
@[simp] theorem exec_probeArrival (tile set endNo : Nat) (s : State) : exec (.probeArrival tile set endNo) s = execProbeArrival tile set endNo s := rfl
@[simp] theorem exec_syncArrival (tile set endNo : Nat) (s : State) : exec (.syncArrival tile set endNo) s = execSyncArrival tile set endNo s := rfl
@[simp] theorem exec_setCompletion (tile set : Nat) (s : State) : exec (.setCompletion tile set) s = execSetCompletion tile set s := rfl
@[simp] theorem exec_planeSwap (tile : Nat) (s : State) : exec (.planeSwap tile) s = execPlaneSwap tile s := rfl
@[simp] theorem exec_regionComplete (region : Nat) (s : State) : exec (.regionComplete region) s = execRegionComplete region s := rfl
@[simp] theorem exec_regionPlacement (launch : Nat) (s : State) : exec (.regionPlacement launch) s = execRegionPlacement launch s := rfl
@[simp] theorem exec_preemptiveLaunch (launch : Nat) (s : State) : exec (.preemptiveLaunch launch) s = execPreemptiveLaunch launch s := rfl
@[simp] theorem exec_preemptionComplete (region : Nat) (s : State) : exec (.preemptionComplete region) s = execPreemptionComplete region s := rfl
@[simp] theorem exec_strayToken (chan : Nat) (s : State) : exec (.strayToken chan) s = execStrayToken chan s := rfl
@[simp] theorem exec_lullSweep (region : Nat) (s : State) : exec (.lullSweep region) s = execLullSweep region s := rfl
@[simp] theorem exec_borderDelivery (chan : Nat) (s : State) : exec (.borderDelivery chan) s = execBorderDelivery chan s := rfl
@[simp] theorem exec_circuitStep (tile arr : Nat) (s : State) : exec (.circuitStep tile arr) s = execCircuitStep tile arr s := rfl
@[simp] theorem exec_circuitControlForward (tile arr : Nat) (s : State) : exec (.circuitControlForward tile arr) s = execCircuitControlForward tile arr s := rfl
@[simp] theorem exec_conversionComplete (tile arr : Nat) (s : State) : exec (.conversionComplete tile arr) s = execConversionComplete tile arr s := rfl
@[simp] theorem exec_slotClearDone (tile slot : Nat) (s : State) : exec (.slotClearDone tile slot) s = execSlotClearDone tile slot s := rfl
@[simp] theorem exec_cubeDigestsComplete (die gid : Nat) (s : State) : exec (.cubeDigestsComplete die gid) s = execCubeDigestsComplete die gid s := rfl
@[simp] theorem exec_cubeStreamFiring (tile : Nat) (s : State) : exec (.cubeStreamFiring tile) s = execCubeStreamFiring tile s := rfl
@[simp] theorem exec_cubeControlForward (tile : Nat) (s : State) : exec (.cubeControlForward tile) s = execCubeControlForward tile s := rfl
@[simp] theorem exec_portNodeInvocation (tile port : Nat) (s : State) : exec (.portNodeInvocation tile port) s = execPortNodeInvocation tile port s := rfl
@[simp] theorem exec_bsuLaunch (s : State) : exec (.bsuLaunch) s = execBsuLaunch s := rfl
@[simp] theorem exec_bsuResume (s : State) : exec (.bsuResume) s = execBsuResume s := rfl
@[simp] theorem exec_bsuAbort (s : State) : exec (.bsuAbort) s = execBsuAbort s := rfl
@[simp] theorem exec_bsuQuery (s : State) : exec (.bsuQuery) s = execBsuQuery s := rfl
@[simp] theorem exec_nmqCommandDone (s : State) : exec (.nmqCommandDone) s = execNmqCommandDone s := rfl
@[simp] theorem exec_bsuNodeFire (channel node : Nat) (s : State) : exec (.bsuNodeFire channel node) s = execBsuNodeFire channel node s := rfl
@[simp] theorem exec_bsuLoadReturn (channel node : Nat) (s : State) : exec (.bsuLoadReturn channel node) s = execBsuLoadReturn channel node s := rfl
@[simp] theorem exec_bsuLinkArrival (channel link : Nat) (s : State) : exec (.bsuLinkArrival channel link) s = execBsuLinkArrival channel link s := rfl
@[simp] theorem exec_mitigationEnd (channel bank : Nat) (s : State) : exec (.mitigationEnd channel bank) s = execMitigationEnd channel bank s := rfl
@[simp] theorem exec_mailboxDelivery (n : BitVec 2) (s : State) : exec (.mailboxDelivery n) s = execMailboxDelivery n s := rfl
@[simp] theorem exec_faultDoorbell (s : State) : exec (.faultDoorbell) s = execFaultDoorbell s := rfl
@[simp] theorem exec_keyCommandComplete (s : State) : exec (.keyCommandComplete) s = execKeyCommandComplete s := rfl
@[simp] theorem exec_invalidationComplete (tile set : Nat) (s : State) : exec (.invalidationComplete tile set) s = execInvalidationComplete tile set s := rfl
@[simp] theorem exec_checkpointDone (s : State) : exec (.checkpointDone) s = execCheckpointDone s := rfl
@[simp] theorem exec_haltComplete (region : Nat) (s : State) : exec (.haltComplete region) s = execHaltComplete region s := rfl
@[simp] theorem exec_driftDrain (tile : Nat) (s : State) : exec (.driftDrain tile) s = execDriftDrain tile s := rfl
@[simp] theorem exec_gustWalkHop (tile : Nat) (s : State) : exec (.gustWalkHop tile) s = execGustWalkHop tile s := rfl
@[simp] theorem exec_treeSync (region : Nat) (s : State) : exec (.treeSync region) s = execTreeSync region s := rfl
@[simp] theorem exec_engineProgress (tile set seq : Nat) (s : State) : exec (.engineProgress tile set seq) s = execEngineProgress tile set seq s := rfl
@[simp] theorem exec_tokenArrival (chan : Nat) (s : State) : exec (.tokenArrival chan) s = execTokenArrival chan s := rfl
@[simp] theorem exec_slotReturn (chan : Nat) (s : State) : exec (.slotReturn chan) s = execSlotReturn chan s := rfl
@[simp] theorem exec_bsuStorePerformed (channel node : Nat) (s : State) : exec (.bsuStorePerformed channel node) s = execBsuStorePerformed channel node s := rfl
@[simp] theorem exec_strayDiscardEnd (tile endNo : Nat) (s : State) : exec (.strayDiscardEnd tile endNo) s = execStrayDiscardEnd tile endNo s := rfl
@[simp] theorem exec_strayDiscardAll (tile : Nat) (s : State) : exec (.strayDiscardAll tile) s = execStrayDiscardAll tile s := rfl
@[simp] theorem exec_nmqTailWrite (tail : BitVec 6) (s : State) : exec (.nmqTailWrite tail) s = execNmqTailWrite tail s := rfl
@[simp] theorem exec_activationAlert (channel bank : Nat) (bsu : Bool) (s : State) : exec (.activationAlert channel bank bsu) s = execActivationAlert channel bank bsu s := rfl
@[simp] theorem exec_patrolScrub (line : Nat) (correctable : Option Bool) (s : State) : exec (.patrolScrub line correctable) s = execPatrolScrub line correctable s := rfl
@[simp] theorem exec_storageScrub (tile : Nat) (unit : Unit5) (offset : Nat) (correctable : Option Bool) (s : State) : exec (.storageScrub tile unit offset correctable) s = execStorageScrub tile unit offset correctable s := rfl
@[simp] theorem exec_channelNarrow (channel : Nat) (s : State) : exec (.channelNarrow channel) s = execChannelNarrow channel s := rfl
@[simp] theorem exec_channelRetire (channel : Nat) (s : State) : exec (.channelRetire channel) s = execChannelRetire channel s := rfl
@[simp] theorem exec_tileHealthClear (tile : Nat) (s : State) : exec (.tileHealthClear tile) s = execTileHealthClear tile s := rfl
@[simp] theorem exec_cxlLinkDown (port : Nat) (s : State) : exec (.cxlLinkDown port) s = execCxlLinkDown port s := rfl
@[simp] theorem exec_clockSupplyFault (s : State) : exec (.clockSupplyFault) s = execClockSupplyFault s := rfl
@[simp] theorem exec_peerTimeout (tile set party : Nat) (s : State) : exec (.peerTimeout tile set party) s = execPeerTimeout tile set party s := rfl
@[simp] theorem exec_inboundAccess (node : Nat) (acc : Inbound) (s : State) : exec (.inboundAccess node acc) s = execInboundAccess node acc s := rfl
@[simp] theorem exec_mailboxWrite (node : Nat) (n : BitVec 2) (data : BitVec 64) (s : State) : exec (.mailboxWrite node n data) s = execMailboxWrite node n data s := rfl
@[simp] theorem exec_powerOnReset (s : State) : exec (.powerOnReset) s = execPowerOnReset s := rfl
@[simp] theorem exec_recoveryLoad (addr : BitVec 58) (s : State) : exec (.recoveryLoad addr) s = execRecoveryLoad addr s := rfl
@[simp] theorem exec_keyLoad (keyid : BitVec 12) (s : State) : exec (.keyLoad keyid) s = execKeyLoad keyid s := rfl
@[simp] theorem exec_keyInvalidate (keyid : BitVec 12) (s : State) : exec (.keyInvalidate keyid) s = execKeyInvalidate keyid s := rfl
@[simp] theorem exec_xinvAll (tile set : Nat) (s : State) : exec (.xinvAll tile set) s = execXinvAll tile set s := rfl
@[simp] theorem exec_xinvAsid (tile set : Nat) (asid : BitVec 16) (s : State) : exec (.xinvAsid tile set asid) s = execXinvAsid tile set asid s := rfl
@[simp] theorem exec_xinvPage (tile set : Nat) (asid : BitVec 16) (s : State) : exec (.xinvPage tile set asid) s = execXinvPage tile set asid s := rfl
@[simp] theorem exec_xinvKeyid (tile set : Nat) (keyid : BitVec 12) (s : State) : exec (.xinvKeyid tile set keyid) s = execXinvKeyid tile set keyid s := rfl
@[simp] theorem exec_xfsvcWrite (tile set : Nat) (v : BitVec 64) (s : State) : exec (.xfsvcWrite tile set v) s = execXfsvcWrite tile set v s := rfl
@[simp] theorem exec_checkpointSave (s : State) : exec (.checkpointSave) s = execCheckpointSave s := rfl
@[simp] theorem exec_checkpointRestore (s : State) : exec (.checkpointRestore) s = execCheckpointRestore s := rfl
@[simp] theorem exec_fltResume (tile set tid : Nat) (s : State) : exec (.fltResume tile set tid) s = execFltResume tile set tid s := rfl
@[simp] theorem exec_fltSkip (tile set tid : Nat) (s : State) : exec (.fltSkip tile set tid) s = execFltSkip tile set tid s := rfl
@[simp] theorem exec_fltRetire (tile set tid : Nat) (s : State) : exec (.fltRetire tile set tid) s = execFltRetire tile set tid s := rfl
@[simp] theorem exec_fltResumeCommand (tile set seq : Nat) (s : State) : exec (.fltResumeCommand tile set seq) s = execFltResumeCommand tile set seq s := rfl
@[simp] theorem exec_fltAbandonCommand (tile set seq : Nat) (s : State) : exec (.fltAbandonCommand tile set seq) s = execFltAbandonCommand tile set seq s := rfl
@[simp] theorem exec_fltResumeSet (tile set : Nat) (s : State) : exec (.fltResumeSet tile set) s = execFltResumeSet tile set s := rfl
@[simp] theorem exec_dbgHalt (region : Nat) (s : State) : exec (.dbgHalt region) s = execDbgHalt region s := rfl
@[simp] theorem exec_dbgResume (region : Nat) (s : State) : exec (.dbgResume region) s = execDbgResume region s := rfl
@[simp] theorem exec_dbgStep (region : Nat) (s : State) : exec (.dbgStep region) s = execDbgStep region s := rfl
@[simp] theorem exec_dbgRead (region : Nat) (space : BitVec 3) (tile : Nat) (adr : BitVec 21) (s : State) : exec (.dbgRead region space tile adr) s = execDbgRead region space tile adr s := rfl
@[simp] theorem exec_dbgWrite (region : Nat) (space : BitVec 3) (tile : Nat) (adr : BitVec 21) (s : State) : exec (.dbgWrite region space tile adr) s = execDbgWrite region space tile adr s := rfl
@[simp] theorem exec_replayDiverge (tile kind elem : Nat) (s : State) : exec (.replayDiverge tile kind elem) s = execReplayDiverge tile kind elem s := rfl
@[simp] theorem exec_perturbRead (tile set : Nat) (s : State) : exec (.perturbRead tile set) s = execPerturbRead tile set s := rfl
@[simp] theorem exec_enrol (node : Nat) (s : State) : exec (.enrol node) s = execEnrol node s := rfl
@[simp] theorem exec_attest (s : State) : exec (.attest) s = execAttest s := rfl
@[simp] theorem exec_setDebug (level : BitVec 2) (s : State) : exec (.setDebug level) s = execSetDebug level s := rfl
@[simp] theorem exec_release (s : State) : exec (.release) s = execRelease s := rfl
@[simp] theorem exec_powerRequest (st : BitVec 2) (s : State) : exec (.powerRequest st) s = execPowerRequest st s := rfl
@[simp] theorem exec_boardPowerOff (s : State) : exec (.boardPowerOff) s = execBoardPowerOff s := rfl
@[simp] theorem exec_i3cCapWrite (cap : BitVec 16) (s : State) : exec (.i3cCapWrite cap) s = execI3cCapWrite cap s := rfl
@[simp] theorem exec_i3cWake (s : State) : exec (.i3cWake) s = execI3cWake s := rfl
@[simp] theorem exec_registerWrite (r : RegName) (v : BitVec 64) (s : State) : exec (.registerWrite r v) s = execRegisterWrite r v s := rfl
@[simp] theorem exec_singleFault (site : FaultSite) (s : State) : exec (.singleFault site) s = execSingleFault site s := rfl
@[simp] theorem exec_regionEnd (region : Nat) (s : State) : exec (.regionEnd region) s = execRegionEnd region s := rfl

end Sys2Proof.Machine
end

