-- ==== Sys2Proof/Laws/Order.lean ====
section
/-! SUPPORT. The order of memory: what waits depends on the accesses alone, and what forgetting and performing an access leave to come. -/
namespace Sys2Proof.Machine

theorem State.chain_of_accs {s t : State} (h : t.accs = s.accs) (fuel : Nat) (ns : List Need) (below : List Nat) :
    t.chain fuel ns below = s.chain fuel ns below := by
  induction fuel generalizing ns below with
  | zero => rfl
  | succ n ih =>
    cases ns with
    | nil => rfl
    | cons a r => simp only [State.chain, h, ih]

/-- Whether a need is met depends on the accesses alone. -/
theorem State.met_of_accs {s t : State} (h : t.accs = s.accs) : t.met = s.met := by
  have hl : t.lvlOf = s.lvlOf := by
    funext i
    unfold State.lvlOf
    rw [h]
  funext n
  unfold State.met State.upTo
  rw [State.chain_of_accs h, h, hl]

/-- Forgetting performed accesses leaves every access that is to come. -/
theorem State.toCome_reapN (n : Nat) (s : State) : (State.reapN n s).toCome = s.toCome := by
  induction n generalizing s with
  | zero => rfl
  | succ n ih =>
    unfold State.reapN
    dsimp only
    split
    · rfl
    · rw [ih]
      simp only [State.toCome, List.filter_filter]
      refine List.filter_congr fun a _ => ?_
      by_cases hp : a.2.pending = true <;> simp [State.keeps, hp]

@[simp] theorem State.toCome_reap (s : State) : s.reap.toCome = s.toCome := State.toCome_reapN _ s

theorem SMap.filter_insert_done {α : Type} {p : α → Bool} {m : SMap α} {n : Nat} {v w : α} (hl : m.look n = some v) (hv : p v = true)
    (hw : p w = false) : (m.insert n w).filter (fun a => p a.2) = SMap.erase (m.filter (fun a => p a.2)) n := by
  induction m with
  | nil => simp [SMap.look] at hl
  | cons x m ih =>
    obtain ⟨k, u⟩ := x
    simp only [SMap.look] at hl
    by_cases hk : n = k
    · subst hk
      simp only [if_true, Option.some.injEq] at hl
      subst hl
      simp [SMap.insert, SMap.erase, hv, hw]
    · by_cases hlt : n < k
      · simp [hk, hlt] at hl
      · simp only [hk, hlt, if_false] at hl
        by_cases hu : p u = true
        · simp [SMap.insert, SMap.erase, hk, hlt, hu, ih hl]
        · simp [SMap.insert, hk, hlt, hu, ih hl]

/-- An access that is performed is no more among those to come; the others stay. -/
theorem State.toCome_finish {s : State} {i : Nat} {a : Access} (hl : SMap.look s.accs i = some a) (hp : a.pending = true) (seen : List Need) :
    (s.finish i seen).toCome = s.toCome.erase i := by
  unfold State.finish
  simp only [hl, State.toCome_reap]
  exact SMap.filter_insert_done (p := Access.pending) hl hp rfl

end Sys2Proof.Machine
end

