-- ==== Sys2Proof/Laws/PerInstr.lean ====
section
/-! SUPPORT. The family Guard, constructor by constructor: every word that the encoder writes carries its instruction's guard at [50:47]. -/
namespace Sys2Proof.Laws

theorem guardDec_guardEnc (g : Guard) : guardDec (guardEnc g) = g := by
  obtain ⟨a, q⟩ := g
  revert a q
  decide

/-- The four bits at [50:47] of a word, one by one. -/
theorem guardField_eq {w : Double} {g : BitVec 4} (h : ∀ i, i = 0 ∨ i = 1 ∨ i = 2 ∨ i = 3 → w.getLsbD (47 + i) = g.getLsbD i) :
    w.extractLsb' 47 4 = g := by
  apply BitVec.eq_of_getLsbD_eq
  intro i hi
  rw [BitVec.getLsbD_extractLsb', h i (by omega)]
  simp [hi]

theorem packA_guard (f : WA) : (WA.pack f).extractLsb' 47 4 = f.g := by
  refine guardField_eq ?_
  intro i hi
  unfold WA.pack
  simp only [BitVec.getLsbD_append]
  rcases hi with rfl | rfl | rfl | rfl <;> simp

theorem packI_guard (f : WI) : (WI.pack f).extractLsb' 47 4 = f.g := by
  refine guardField_eq ?_
  intro i hi
  unfold WI.pack
  simp only [BitVec.getLsbD_append]
  rcases hi with rfl | rfl | rfl | rfl <;> simp

theorem packM_guard (f : WM) : (WM.pack f).extractLsb' 47 4 = f.g := by
  refine guardField_eq ?_
  intro i hi
  unfold WM.pack
  simp only [BitVec.getLsbD_append]
  rcases hi with rfl | rfl | rfl | rfl <;> simp

theorem packS_guard (f : WS) : (WS.pack f).extractLsb' 47 4 = f.g := by
  refine guardField_eq ?_
  intro i hi
  unfold WS.pack
  simp only [BitVec.getLsbD_append]
  rcases hi with rfl | rfl | rfl | rfl <;> simp

theorem packJ_guard (f : WJ) : (WJ.pack f).extractLsb' 47 4 = f.g := by
  refine guardField_eq ?_
  intro i hi
  unfold WJ.pack
  simp only [BitVec.getLsbD_append]
  rcases hi with rfl | rfl | rfl | rfl <;> simp

/-- The guard of a word written with a guard. -/
theorem guard_of_field {w : Double} {g : Guard} (h : w.extractLsb' 47 4 = guardEnc g) : guardDec (w.extractLsb' 47 4) = g := by
  rw [h, guardDec_guardEnc]

end Sys2Proof.Laws

namespace Sys2Proof.Laws.Guard

/-- R277: the word of an instruction carries its guard. -/
def Statement (i : Instr) : Prop := ∀ w, encode i = some w → guardDec (w.extractLsb' 47 4) = i.guard

theorem of_word {i : Instr} {v : Double} (he : encode i = some v) (hg : v.extractLsb' 47 4 = guardEnc i.guard) : Statement i := by
  intro w hw
  rw [he] at hw
  cases hw
  exact guard_of_field hg

theorem of_event {i : Instr} (he : encode i = none) : Statement i := by
  intro w hw
  rw [he] at hw
  cases hw

theorem addInt (g : Guard) (ty : ITy) (d a b : Opd) : Statement (.addInt g ty d a b) := of_word rfl (packA_guard _)
theorem subInt (g : Guard) (ty : ITy) (d a b : Opd) : Statement (.subInt g ty d a b) := of_word rfl (packA_guard _)
theorem mulInt (g : Guard) (ty : ITy) (d a b : Opd) : Statement (.mulInt g ty d a b) := of_word rfl (packA_guard _)
theorem mulhi (g : Guard) (ty : ITy) (d a b : Opd) : Statement (.mulhi g ty d a b) := of_word rfl (packA_guard _)
theorem mad (g : Guard) (ty : ITy) (d a b c : Opd) : Statement (.mad g ty d a b c) := of_word rfl (packA_guard _)
theorem divInt (g : Guard) (ty : ITy) (d a b : Opd) : Statement (.divInt g ty d a b) := of_word rfl (packA_guard _)
theorem remInt (g : Guard) (ty : ITy) (d a b : Opd) : Statement (.remInt g ty d a b) := of_word rfl (packA_guard _)
theorem minInt (g : Guard) (ty : ITy) (d a b : Opd) : Statement (.minInt g ty d a b) := of_word rfl (packA_guard _)
theorem maxInt (g : Guard) (ty : ITy) (d a b : Opd) : Statement (.maxInt g ty d a b) := of_word rfl (packA_guard _)
theorem absInt (g : Guard) (ty : ITy) (d a : Opd) : Statement (.absInt g ty d a) := of_word rfl (packA_guard _)
theorem negInt (g : Guard) (ty : ITy) (d a : Opd) : Statement (.negInt g ty d a) := of_word rfl (packA_guard _)
theorem adds (g : Guard) (ty : ITy) (d a b : Opd) : Statement (.adds g ty d a b) := of_word rfl (packA_guard _)
theorem subs (g : Guard) (ty : ITy) (d a b : Opd) : Statement (.subs g ty d a b) := of_word rfl (packA_guard _)
theorem dot4Int (g : Guard) (uns : Bool) (d a b c : Opd) : Statement (.dot4Int g uns d a b c) := of_word rfl (packA_guard _)
theorem andB (g : Guard) (ty : ITy) (d a b : Opd) : Statement (.andB g ty d a b) := of_word rfl (packA_guard _)
theorem orB (g : Guard) (ty : ITy) (d a b : Opd) : Statement (.orB g ty d a b) := of_word rfl (packA_guard _)
theorem xorB (g : Guard) (ty : ITy) (d a b : Opd) : Statement (.xorB g ty d a b) := of_word rfl (packA_guard _)
theorem notB (g : Guard) (ty : ITy) (d a : Opd) : Statement (.notB g ty d a) := of_word rfl (packA_guard _)
theorem andn (g : Guard) (ty : ITy) (d a b : Opd) : Statement (.andn g ty d a b) := of_word rfl (packA_guard _)
theorem shl (g : Guard) (ty : ITy) (d a b : Opd) : Statement (.shl g ty d a b) := of_word rfl (packA_guard _)
theorem shr (g : Guard) (ty : ITy) (d a b : Opd) : Statement (.shr g ty d a b) := of_word rfl (packA_guard _)
theorem sra (g : Guard) (ty : ITy) (d a b : Opd) : Statement (.sra g ty d a b) := of_word rfl (packA_guard _)
theorem rotl (g : Guard) (ty : ITy) (d a b : Opd) : Statement (.rotl g ty d a b) := of_word rfl (packA_guard _)
theorem popc (g : Guard) (ty : ITy) (d a : Opd) : Statement (.popc g ty d a) := of_word rfl (packA_guard _)
theorem clz (g : Guard) (ty : ITy) (d a : Opd) : Statement (.clz g ty d a) := of_word rfl (packA_guard _)
theorem ctz (g : Guard) (ty : ITy) (d a : Opd) : Statement (.ctz g ty d a) := of_word rfl (packA_guard _)
theorem brev (g : Guard) (ty : ITy) (d a : Opd) : Statement (.brev g ty d a) := of_word rfl (packA_guard _)
theorem bfe (g : Guard) (ty : ITy) (d a b : Opd) : Statement (.bfe g ty d a b) := of_word rfl (packA_guard _)
theorem bfi (g : Guard) (ty : ITy) (d a b c : Opd) : Statement (.bfi g ty d a b c) := of_word rfl (packA_guard _)
theorem addImm (g : Guard) (d a : Opd) (imm : BitVec 33) : Statement (.addImm g d a imm) := of_word rfl (packI_guard _)
theorem mulImm (g : Guard) (d a : Opd) (imm : BitVec 33) : Statement (.mulImm g d a imm) := of_word rfl (packI_guard _)
theorem andImm (g : Guard) (d a : Opd) (imm : BitVec 33) : Statement (.andImm g d a imm) := of_word rfl (packI_guard _)
theorem orImm (g : Guard) (d a : Opd) (imm : BitVec 33) : Statement (.orImm g d a imm) := of_word rfl (packI_guard _)
theorem xorImm (g : Guard) (d a : Opd) (imm : BitVec 33) : Statement (.xorImm g d a imm) := of_word rfl (packI_guard _)
theorem shlImm (g : Guard) (d a : Opd) (imm : BitVec 33) : Statement (.shlImm g d a imm) := of_word rfl (packI_guard _)
theorem shrImm (g : Guard) (d a : Opd) (imm : BitVec 33) : Statement (.shrImm g d a imm) := of_word rfl (packI_guard _)
theorem sraImm (g : Guard) (d a : Opd) (imm : BitVec 33) : Statement (.sraImm g d a imm) := of_word rfl (packI_guard _)
theorem minImm (g : Guard) (d a : Opd) (imm : BitVec 33) : Statement (.minImm g d a imm) := of_word rfl (packI_guard _)
theorem maxImm (g : Guard) (d a : Opd) (imm : BitVec 33) : Statement (.maxImm g d a imm) := of_word rfl (packI_guard _)
theorem movImm (g : Guard) (d : Opd) (imm : BitVec 33) : Statement (.movImm g d imm) := of_word rfl (packI_guard _)
theorem movhi (g : Guard) (d : Reg) (a : Opd) (imm : BitVec 33) : Statement (.movhi g d a imm) := of_word rfl (packI_guard _)
theorem lea (g : Guard) (uns : Bool) (sc : BitVec 2) (d : Reg) (a b : Opd) : Statement (.lea g uns sc d a b) := of_word rfl (packA_guard _)
theorem extLo (g : Guard) (d a : Opd) : Statement (.extLo g d a) := of_word rfl (packA_guard _)
theorem extHi (g : Guard) (d a : Opd) : Statement (.extHi g d a) := of_word rfl (packA_guard _)
theorem pack64 (g : Guard) (d : Reg) (a b : Opd) : Statement (.pack64 g d a b) := of_word rfl (packA_guard _)
theorem nop (g : Guard) : Statement (.nop g) := of_word rfl (packA_guard _)
theorem mov (g : Guard) (ty : Ty) (d a : Opd) : Statement (.mov g ty d a) := of_word rfl (packA_guard _)
theorem sel (g : Guard) (ty : Ty) (d a b c : Opd) : Statement (.sel g ty d a b c) := of_word rfl (packA_guard _)
theorem ffclr (g : Guard) (mask : BitVec 5) : Statement (.ffclr g mask) := of_word rfl (packA_guard _)
theorem addF32 (g : Guard) (sf : Bool) (rm : RM) (d a b : Opd) : Statement (.addF32 g sf rm d a b) := of_word rfl (packA_guard _)
theorem subF32 (g : Guard) (sf : Bool) (rm : RM) (d a b : Opd) : Statement (.subF32 g sf rm d a b) := of_word rfl (packA_guard _)
theorem mulF32 (g : Guard) (sf : Bool) (rm : RM) (d a b : Opd) : Statement (.mulF32 g sf rm d a b) := of_word rfl (packA_guard _)
theorem fmaF32 (g : Guard) (sf : Bool) (rm : RM) (d a b c : Opd) : Statement (.fmaF32 g sf rm d a b c) := of_word rfl (packA_guard _)
theorem fmsF32 (g : Guard) (sf : Bool) (rm : RM) (d a b c : Opd) : Statement (.fmsF32 g sf rm d a b c) := of_word rfl (packA_guard _)
theorem fnmaF32 (g : Guard) (sf : Bool) (rm : RM) (d a b c : Opd) : Statement (.fnmaF32 g sf rm d a b c) := of_word rfl (packA_guard _)
theorem minF32 (g : Guard) (sf : Bool) (d a b : Opd) : Statement (.minF32 g sf d a b) := of_word rfl (packA_guard _)
theorem maxF32 (g : Guard) (sf : Bool) (d a b : Opd) : Statement (.maxF32 g sf d a b) := of_word rfl (packA_guard _)
theorem absF32 (g : Guard) (d a : Opd) : Statement (.absF32 g d a) := of_word rfl (packA_guard _)
theorem negF32 (g : Guard) (d a : Opd) : Statement (.negF32 g d a) := of_word rfl (packA_guard _)
theorem divF32 (g : Guard) (sf : Bool) (rm : RM) (d a b : Opd) : Statement (.divF32 g sf rm d a b) := of_word rfl (packA_guard _)
theorem sqrtF32 (g : Guard) (sf : Bool) (rm : RM) (d a : Opd) : Statement (.sqrtF32 g sf rm d a) := of_word rfl (packA_guard _)
theorem rcpF32 (g : Guard) (sf : Bool) (d a : Opd) : Statement (.rcpF32 g sf d a) := of_word rfl (packA_guard _)
theorem rsqrtF32 (g : Guard) (sf : Bool) (d a : Opd) : Statement (.rsqrtF32 g sf d a) := of_word rfl (packA_guard _)
theorem exp2F32 (g : Guard) (sf : Bool) (d a : Opd) : Statement (.exp2F32 g sf d a) := of_word rfl (packA_guard _)
theorem log2F32 (g : Guard) (sf : Bool) (d a : Opd) : Statement (.log2F32 g sf d a) := of_word rfl (packA_guard _)
theorem copysignF32 (g : Guard) (d a b : Opd) : Statement (.copysignF32 g d a b) := of_word rfl (packA_guard _)
theorem classF32 (g : Guard) (d a : Opd) : Statement (.classF32 g d a) := of_word rfl (packA_guard _)
theorem rintF32 (g : Guard) (sf : Bool) (rm : RM) (d a : Opd) : Statement (.rintF32 g sf rm d a) := of_word rfl (packA_guard _)
theorem addPacked (g : Guard) (sf : Bool) (rm : RM) (sat : Sat) (ty : PTy) (d a b : Opd) : Statement (.addPacked g sf rm sat ty d a b) := of_word rfl (packA_guard _)
theorem subPacked (g : Guard) (sf : Bool) (rm : RM) (sat : Sat) (ty : PTy) (d a b : Opd) : Statement (.subPacked g sf rm sat ty d a b) := of_word rfl (packA_guard _)
theorem mulPacked (g : Guard) (sf : Bool) (rm : RM) (sat : Sat) (ty : PTy) (d a b : Opd) : Statement (.mulPacked g sf rm sat ty d a b) := of_word rfl (packA_guard _)
theorem fmaPacked (g : Guard) (sf : Bool) (rm : RM) (sat : Sat) (ty : PTy) (d a b c : Opd) : Statement (.fmaPacked g sf rm sat ty d a b c) := of_word rfl (packA_guard _)
theorem minPacked (g : Guard) (sf : Bool) (rm : RM) (sat : Sat) (ty : PTy) (d a b : Opd) : Statement (.minPacked g sf rm sat ty d a b) := of_word rfl (packA_guard _)
theorem maxPacked (g : Guard) (sf : Bool) (rm : RM) (sat : Sat) (ty : PTy) (d a b : Opd) : Statement (.maxPacked g sf rm sat ty d a b) := of_word rfl (packA_guard _)
theorem absPacked (g : Guard) (sf : Bool) (rm : RM) (sat : Sat) (ty : PTy) (d a : Opd) : Statement (.absPacked g sf rm sat ty d a) := of_word rfl (packA_guard _)
theorem negPacked (g : Guard) (sf : Bool) (rm : RM) (sat : Sat) (ty : PTy) (d a : Opd) : Statement (.negPacked g sf rm sat ty d a) := of_word rfl (packA_guard _)
theorem dot2 (g : Guard) (sf : Bool) (rm : RM) (d a b c : Opd) : Statement (.dot2 g sf rm d a b c) := of_word rfl (packA_guard _)
theorem dot4B8 (g : Guard) (sf : Bool) (rm : RM) (f : B8) (d a b c : Opd) : Statement (.dot4B8 g sf rm f d a b c) := of_word rfl (packA_guard _)
theorem cvt (g : Guard) (sf : Bool) (rm : RM) (sat : Sat) (dty sty : Ty) (d a : Opd) : Statement (.cvt g sf rm sat dty sty d a) := of_word rfl (packA_guard _)
theorem pk2 (g : Guard) (sf : Bool) (rm : RM) (sty : Pk2Ty) (d a b : Opd) : Statement (.pk2 g sf rm sty d a b) := of_word rfl (packA_guard _)
theorem pk4 (g : Guard) (sf : Bool) (rm : RM) (sat : Sat) (dty : QuadTy) (src : Pk4Src) (d a b c : Opd) : Statement (.pk4 g sf rm sat dty src d a b c) := of_word rfl (packA_guard _)
theorem upk (g : Guard) (ty : UpkTy) (e : BitVec 2) (d a : Opd) : Statement (.upk g ty e d a) := of_word rfl (packA_guard _)
theorem scl (g : Guard) (sf : Bool) (rm : RM) (d a b : Opd) : Statement (.scl g sf rm d a b) := of_word rfl (packA_guard _)
theorem bscale (g : Guard) (f : B8) (d a : Opd) : Statement (.bscale g f d a) := of_word rfl (packA_guard _)
theorem cmp (g : Guard) (sf : Bool) (cond : Cond) (ty : Ty) (d a b : Opd) : Statement (.cmp g sf cond ty d a b) := of_word rfl (packA_guard _)
theorem cmpImm (g : Guard) (cond : CondImm) (d a : Opd) (imm : BitVec 33) : Statement (.cmpImm g cond d a imm) := of_word rfl (packI_guard _)
theorem pAnd (g : Guard) (d a b : Opd) : Statement (.pAnd g d a b) := of_word rfl (packA_guard _)
theorem pOr (g : Guard) (d a b : Opd) : Statement (.pOr g d a b) := of_word rfl (packA_guard _)
theorem pXor (g : Guard) (d a b : Opd) : Statement (.pXor g d a b) := of_word rfl (packA_guard _)
theorem pNot (g : Guard) (d a : Opd) : Statement (.pNot g d a) := of_word rfl (packA_guard _)
theorem pAndn (g : Guard) (d a b : Opd) : Statement (.pAndn g d a b) := of_word rfl (packA_guard _)
theorem pMov (g : Guard) (d a : Opd) : Statement (.pMov g d a) := of_word rfl (packA_guard _)
theorem ldDev (g : Guard) (size : LdSize) (data : Reg) (m : MemRef) : Statement (.ldDev g size data m) := of_word rfl (packM_guard _)
theorem ldAcqDev (g : Guard) (size : LdSize) (data : Reg) (m : MemRef) : Statement (.ldAcqDev g size data m) := of_word rfl (packM_guard _)
theorem ldLoc (g : Guard) (size : LdSize) (data : Reg) (m : MemRef) : Statement (.ldLoc g size data m) := of_word rfl (packM_guard _)
theorem ldAcqLoc (g : Guard) (size : LdSize) (data : Reg) (m : MemRef) : Statement (.ldAcqLoc g size data m) := of_word rfl (packM_guard _)
theorem stDev (g : Guard) (size : LdSize) (data : Reg) (m : MemRef) : Statement (.stDev g size data m) := of_word rfl (packM_guard _)
theorem stRelDev (g : Guard) (size : LdSize) (data : Reg) (m : MemRef) : Statement (.stRelDev g size data m) := of_word rfl (packM_guard _)
theorem stLoc (g : Guard) (size : LdSize) (data : Reg) (m : MemRef) : Statement (.stLoc g size data m) := of_word rfl (packM_guard _)
theorem stRelLoc (g : Guard) (size : LdSize) (data : Reg) (m : MemRef) : Statement (.stRelLoc g size data m) := of_word rfl (packM_guard _)
theorem atom (g : Guard) (sf : Bool) (op : AtomOp) (ty : ATy) (data : Reg) (m : MemRef) : Statement (.atom g sf op ty data m) := of_word rfl (packM_guard _)
theorem red (g : Guard) (sf : Bool) (op : AtomOp) (ty : ATy) (data : Reg) (m : MemRef) : Statement (.red g sf op ty data m) := of_word rfl (packM_guard _)
theorem fence (g : Guard) (scope : Scope) (mask : BitVec 16) : Statement (.fence g scope mask) := of_word rfl (packA_guard _)
theorem eqWait (g : Guard) (n : BitVec 4) : Statement (.eqWait g n) := of_word rfl (packA_guard _)
theorem spill (g : Guard) (a : BitVec 5) (n : BitVec 6) : Statement (.spill g a n) := of_word rfl (packI_guard _)
theorem fill (g : Guard) (d : BitVec 5) (n : BitVec 6) : Statement (.fill g d n) := of_word rfl (packI_guard _)
theorem strmRd (c : SCom) (port : BitVec 3) (desc : BitVec 4) : Statement (.strmRd c port desc) := of_word rfl (packS_guard _)
theorem strmWr (c : SCom) (port : BitVec 3) (desc : BitVec 4) : Statement (.strmWr c port desc) := of_word rfl (packS_guard _)
theorem engBar (c : SCom) : Statement (.engBar c) := of_word rfl (packS_guard _)
theorem cpIn (c : SCom) (desc : BitVec 4) : Statement (.cpIn c desc) := of_word rfl (packS_guard _)
theorem cpOut (c : SCom) (desc : BitVec 4) : Statement (.cpOut c desc) := of_word rfl (packS_guard _)
theorem cpLocal (c : SCom) (desc : BitVec 4) : Statement (.cpLocal c desc) := of_word rfl (packS_guard _)
theorem cpPush (c : SCom) (port : BitVec 3) (desc : BitVec 4) : Statement (.cpPush c port desc) := of_word rfl (packS_guard _)
theorem cpPushz (c : SCom) (port : BitVec 3) (desc : BitVec 4) : Statement (.cpPushz c port desc) := of_word rfl (packS_guard _)
theorem cpPop (c : SCom) (port : BitVec 3) (desc : BitVec 4) : Statement (.cpPop c port desc) := of_word rfl (packS_guard _)
theorem cpPopd (c : SCom) (port : BitVec 3) (desc : BitVec 4) : Statement (.cpPopd c port desc) := of_word rfl (packS_guard _)
theorem chPush (g : Guard) (tag : BitVec 3) (rel : Bool) (n : BitVec 3) (a : Opd) : Statement (.chPush g tag rel n a) := of_word rfl (packA_guard _)
theorem chPop (g : Guard) (tag : Option (BitVec 3)) (acq : Bool) (d : Opd) (n : BitVec 3) : Statement (.chPop g tag acq d n) := of_word rfl (packA_guard _)
theorem chPeek (g : Guard) (tag : Option (BitVec 3)) (d : Opd) (n : BitVec 3) : Statement (.chPeek g tag d n) := of_word rfl (packA_guard _)
theorem chTag (g : Guard) (d : Opd) (n : BitVec 3) : Statement (.chTag g d n) := of_word rfl (packA_guard _)
theorem chCtl (g : Guard) (sub : CtlSub) (dst : ChName) (a : Opd) : Statement (.chCtl g sub dst a) := of_word rfl (packA_guard _)
theorem steer (g : Guard) (inv : Bool) (ty : Ty) (d a p f : Opd) : Statement (.steer g inv ty d a p f) := of_word rfl (packA_guard _)
theorem merge (g : Guard) (inv : Bool) (ty : Ty) (d a b p : Opd) : Statement (.merge g inv ty d a b p) := of_word rfl (packA_guard _)
theorem amerge (g : Guard) (ty : Ty) (d : Opd) (a b : BitVec 3) (c : Option (BitVec 3)) : Statement (.amerge g ty d a b c) := of_word rfl (packA_guard _)
theorem lgen (g : Guard) (d : Option (BitVec 3)) (a : BitVec 3) (st : BitVec 4) (c : Option (BitVec 3)) : Statement (.lgen g d a st c) := of_word rfl (packA_guard _)
theorem br (g : Guard) (tgt : BitVec 12) : Statement (.br g tgt) := of_word rfl (packJ_guard _)
theorem brC (g : Guard) (cond : Opd) (tgt other : BitVec 12) : Statement (.brC g cond tgt other) := of_word rfl (packJ_guard _)
theorem exit (g : Guard) : Statement (.exit g) := of_word rfl (packJ_guard _)
theorem exitAbandon (g : Guard) : Statement (.exitAbandon g) := of_word rfl (packJ_guard _)
theorem loop (n : BitVec 2) (count : BitVec 19) (last : BitVec 6) : Statement (.loop n count last) := of_word rfl (packJ_guard _)
theorem loopR (n : BitVec 2) (st : BitVec 4) (last : BitVec 6) : Statement (.loopR n st last) := of_word rfl (packJ_guard _)
theorem thrNew (g : Guard) (d a : Opd) (blk : BitVec 12) : Statement (.thrNew g d a blk) := of_word rfl (packI_guard _)
theorem grpJoin (g : Guard) (a : Opd) : Statement (.grpJoin g a) := of_word rfl (packA_guard _)
theorem grpLeave (g : Guard) (a : Opd) : Statement (.grpLeave g a) := of_word rfl (packA_guard _)
theorem barSet (g : Guard) (region : Bool) (n : BitVec 5) (a : Opd) : Statement (.barSet g region n a) := of_word rfl (packA_guard _)
theorem barBind (g : Guard) (region : Bool) (n : BitVec 5) (a : Opd) : Statement (.barBind g region n a) := of_word rfl (packA_guard _)
theorem barArrive (g : Guard) (region : Bool) (n : BitVec 5) : Statement (.barArrive g region n) := of_word rfl (packA_guard _)
theorem slotClaim (c : SCom) (first countM1 : BitVec 4) : Statement (.slotClaim c first countM1) := of_word rfl (packS_guard _)
theorem slotFill (c : SCom) (first countM1 : BitVec 4) (chan : Option (BitVec 3)) (desc : BitVec 4) : Statement (.slotFill c first countM1 chan desc) := of_word rfl (packS_guard _)
theorem slotRel (c : SCom) (first countM1 : BitVec 4) : Statement (.slotRel c first countM1) := of_word rfl (packS_guard _)
theorem cubeMm (c : SCom) (desc : BitVec 4) : Statement (.cubeMm c desc) := of_word rfl (packS_guard _)
theorem cubeGate (c : SCom) (desc : BitVec 4) : Statement (.cubeGate c desc) := of_word rfl (packS_guard _)
theorem cubeSpread (c : SCom) (desc : BitVec 4) : Statement (.cubeSpread c desc) := of_word rfl (packS_guard _)
theorem cubeFold (c : SCom) (desc : BitVec 4) : Statement (.cubeFold c desc) := of_word rfl (packS_guard _)
theorem cubeBind (c : SCom) (gate : Bool) (chI chO : BitVec 3) (desc : BitVec 4) : Statement (.cubeBind c gate chI chO desc) := of_word rfl (packS_guard _)
theorem cubeUnbind (c : SCom) : Statement (.cubeUnbind c) := of_word rfl (packS_guard _)
theorem acsLd (g : Guard) (d a : Opd) (off : BitVec 16) : Statement (.acsLd g d a off) := of_word rfl (packA_guard _)
theorem acsSt (g : Guard) (a b : Opd) (off : BitVec 16) : Statement (.acsSt g a b off) := of_word rfl (packA_guard _)
theorem cirConvert (c : SCom) (arr : BitVec 5) (pmask : BitVec 8) : Statement (.cirConvert c arr pmask) := of_word rfl (packS_guard _)
theorem cirSched (c : SCom) (arr : BitVec 5) (desc : BitVec 4) : Statement (.cirSched c arr desc) := of_word rfl (packS_guard _)
theorem cirRun (c : SCom) (arr : BitVec 5) : Statement (.cirRun c arr) := of_word rfl (packS_guard _)
theorem cirRunf (c : SCom) (arr : BitVec 5) : Statement (.cirRunf c arr) := of_word rfl (packS_guard _)
theorem cirHalt (c : SCom) (arr : BitVec 5) : Statement (.cirHalt c arr) := of_word rfl (packS_guard _)
theorem cirRevert (c : SCom) (arr : BitVec 5) : Statement (.cirRevert c arr) := of_word rfl (packS_guard _)
theorem cirPageout (c : SCom) (arr : BitVec 5) (page : BitVec 3) (desc : BitVec 4) : Statement (.cirPageout c arr page desc) := of_word rfl (packS_guard _)
theorem cirPagein (c : SCom) (arr : BitVec 5) (page : BitVec 3) (desc : BitVec 4) : Statement (.cirPagein c arr page desc) := of_word rfl (packS_guard _)
theorem sregRd (g : Guard) (d : Reg) (a : Opd) (r : SReg) : Statement (.sregRd g d a r) := of_word rfl (packA_guard _)
theorem sregWr (g : Guard) (d a b : Opd) (r : SReg) : Statement (.sregWr g d a b r) := of_word rfl (packA_guard _)
theorem capRd (g : Guard) (d : Reg) (a : Opd) (off : BitVec 16) : Statement (.capRd g d a off) := of_word rfl (packA_guard _)
theorem capWr (g : Guard) (d a b : Opd) (off : BitVec 16) : Statement (.capWr g d a b off) := of_word rfl (packA_guard _)
theorem trapRd (g : Guard) (n : BitVec 4) : Statement (.trapRd g n) := of_word rfl (packA_guard _)
theorem trapAct (g : Guard) (op : TrapOp) (d a : Opd) : Statement (.trapAct g op d a) := of_word rfl (packA_guard _)
theorem trapFwd (g : Guard) (d : Opd) : Statement (.trapFwd g d) := of_word rfl (packA_guard _)
theorem cfgSel (g : Guard) (sel : PlaneSel) (other : Bool) (a : Opd) : Statement (.cfgSel g sel other a) := of_word rfl (packA_guard _)
theorem cfgLd (c : SCom) (s1 arm start : Bool) (desc : BitVec 4) : Statement (.cfgLd c s1 arm start desc) := of_word rfl (packS_guard _)
theorem preempt (c : SCom) (desc : BitVec 4) : Statement (.preempt c desc) := of_word rfl (packS_guard _)
theorem restore (c : SCom) (desc : BitVec 4) : Statement (.restore c desc) := of_word rfl (packS_guard _)
theorem nmqSub (c : SCom) (desc : BitVec 4) : Statement (.nmqSub c desc) := of_word rfl (packS_guard _)
theorem nmqPoll (g : Guard) (d a : Opd) : Statement (.nmqPoll g d a) := of_word rfl (packA_guard _)
theorem mark (g : Guard) (a : Opd) : Statement (.mark g a) := of_word rfl (packA_guard _)
theorem perfRd (g : Guard) (d : Reg) (n : BitVec 6) : Statement (.perfRd g d n) := of_word rfl (packA_guard _)
theorem engineQueueIssue (tile set : Nat) : Statement (.engineQueueIssue tile set) := of_event rfl
theorem commandRetire (tile set seq : Nat) : Statement (.commandRetire tile set seq) := of_event rfl
theorem returnDatum (tile set grp tid : Nat) : Statement (.returnDatum tile set grp tid) := of_event rfl
theorem returnGroupComplete (tile set grp : Nat) : Statement (.returnGroupComplete tile set grp) := of_event rfl
theorem translationWalk (walk : Nat) : Statement (.translationWalk walk) := of_event rfl
theorem atomicPipelineCycle (tile : Nat) : Statement (.atomicPipelineCycle tile) := of_event rfl
theorem selection (tile set : Nat) : Statement (.selection tile set) := of_event rfl
theorem eoiForward (tile set : Nat) : Statement (.eoiForward tile set) := of_event rfl
theorem eosForward (tile set : Nat) : Statement (.eosForward tile set) := of_event rfl
theorem drnForward (tile set : Nat) : Statement (.drnForward tile set) := of_event rfl
theorem probeArrival (tile set endNo : Nat) : Statement (.probeArrival tile set endNo) := of_event rfl
theorem syncArrival (tile set endNo : Nat) : Statement (.syncArrival tile set endNo) := of_event rfl
theorem setCompletion (tile set : Nat) : Statement (.setCompletion tile set) := of_event rfl
theorem planeSwap (tile : Nat) : Statement (.planeSwap tile) := of_event rfl
theorem regionComplete (region : Nat) : Statement (.regionComplete region) := of_event rfl
theorem regionPlacement (launch : Nat) : Statement (.regionPlacement launch) := of_event rfl
theorem preemptiveLaunch (launch : Nat) : Statement (.preemptiveLaunch launch) := of_event rfl
theorem preemptionComplete (region : Nat) : Statement (.preemptionComplete region) := of_event rfl
theorem strayToken (chan : Nat) : Statement (.strayToken chan) := of_event rfl
theorem strayDiscardEnd (tile endNo : Nat) : Statement (.strayDiscardEnd tile endNo) := of_event rfl
theorem strayDiscardAll (tile : Nat) : Statement (.strayDiscardAll tile) := of_event rfl
theorem lullSweep (region : Nat) : Statement (.lullSweep region) := of_event rfl
theorem borderDelivery (chan : Nat) : Statement (.borderDelivery chan) := of_event rfl
theorem circuitStep (tile arr : Nat) : Statement (.circuitStep tile arr) := of_event rfl
theorem circuitControlForward (tile arr : Nat) : Statement (.circuitControlForward tile arr) := of_event rfl
theorem conversionComplete (tile arr : Nat) : Statement (.conversionComplete tile arr) := of_event rfl
theorem slotClearDone (tile slot : Nat) : Statement (.slotClearDone tile slot) := of_event rfl
theorem cubeDigestsComplete (die gid : Nat) : Statement (.cubeDigestsComplete die gid) := of_event rfl
theorem cubeStreamFiring (tile : Nat) : Statement (.cubeStreamFiring tile) := of_event rfl
theorem cubeControlForward (tile : Nat) : Statement (.cubeControlForward tile) := of_event rfl
theorem portNodeInvocation (tile port : Nat) : Statement (.portNodeInvocation tile port) := of_event rfl
theorem bsuLaunch : Statement .bsuLaunch := of_event rfl
theorem bsuResume : Statement .bsuResume := of_event rfl
theorem bsuAbort : Statement .bsuAbort := of_event rfl
theorem bsuQuery : Statement .bsuQuery := of_event rfl
theorem nmqCommandDone : Statement .nmqCommandDone := of_event rfl
theorem bsuNodeFire (channel node : Nat) : Statement (.bsuNodeFire channel node) := of_event rfl
theorem bsuLoadReturn (channel node : Nat) : Statement (.bsuLoadReturn channel node) := of_event rfl
theorem bsuLinkArrival (channel link : Nat) : Statement (.bsuLinkArrival channel link) := of_event rfl
theorem nmqTailWrite (tail : BitVec 6) : Statement (.nmqTailWrite tail) := of_event rfl
theorem activationAlert (channel bank : Nat) (bsu : Bool) : Statement (.activationAlert channel bank bsu) := of_event rfl
theorem mitigationEnd (channel bank : Nat) : Statement (.mitigationEnd channel bank) := of_event rfl
theorem patrolScrub (line : Nat) (correctable : Option Bool) : Statement (.patrolScrub line correctable) := of_event rfl
theorem storageScrub (tile : Nat) (unit : Unit5) (offset : Nat) (correctable : Option Bool) : Statement (.storageScrub tile unit offset correctable) := of_event rfl
theorem channelNarrow (channel : Nat) : Statement (.channelNarrow channel) := of_event rfl
theorem channelRetire (channel : Nat) : Statement (.channelRetire channel) := of_event rfl
theorem tileHealthClear (tile : Nat) : Statement (.tileHealthClear tile) := of_event rfl
theorem cxlLinkDown (port : Nat) : Statement (.cxlLinkDown port) := of_event rfl
theorem clockSupplyFault : Statement .clockSupplyFault := of_event rfl
theorem peerTimeout (tile set party : Nat) : Statement (.peerTimeout tile set party) := of_event rfl
theorem inboundAccess (node : Nat) (acc : Inbound) : Statement (.inboundAccess node acc) := of_event rfl
theorem mailboxWrite (node : Nat) (n : BitVec 2) (data : BitVec 64) : Statement (.mailboxWrite node n data) := of_event rfl
theorem mailboxDelivery (n : BitVec 2) : Statement (.mailboxDelivery n) := of_event rfl
theorem faultDoorbell : Statement .faultDoorbell := of_event rfl
theorem powerOnReset : Statement .powerOnReset := of_event rfl
theorem recoveryLoad (addr : BitVec 58) : Statement (.recoveryLoad addr) := of_event rfl
theorem keyLoad (keyid : BitVec 12) : Statement (.keyLoad keyid) := of_event rfl
theorem keyInvalidate (keyid : BitVec 12) : Statement (.keyInvalidate keyid) := of_event rfl
theorem keyCommandComplete : Statement .keyCommandComplete := of_event rfl
theorem xinvAll (tile set : Nat) : Statement (.xinvAll tile set) := of_event rfl
theorem xinvAsid (tile set : Nat) (asid : BitVec 16) : Statement (.xinvAsid tile set asid) := of_event rfl
theorem xinvPage (tile set : Nat) (asid : BitVec 16) : Statement (.xinvPage tile set asid) := of_event rfl
theorem xinvKeyid (tile set : Nat) (keyid : BitVec 12) : Statement (.xinvKeyid tile set keyid) := of_event rfl
theorem invalidationComplete (tile set : Nat) : Statement (.invalidationComplete tile set) := of_event rfl
theorem xfsvcWrite (tile set : Nat) (v : BitVec 64) : Statement (.xfsvcWrite tile set v) := of_event rfl
theorem checkpointSave : Statement .checkpointSave := of_event rfl
theorem checkpointRestore : Statement .checkpointRestore := of_event rfl
theorem checkpointDone : Statement .checkpointDone := of_event rfl
theorem fltResume (tile set tid : Nat) : Statement (.fltResume tile set tid) := of_event rfl
theorem fltSkip (tile set tid : Nat) : Statement (.fltSkip tile set tid) := of_event rfl
theorem fltRetire (tile set tid : Nat) : Statement (.fltRetire tile set tid) := of_event rfl
theorem fltResumeCommand (tile set seq : Nat) : Statement (.fltResumeCommand tile set seq) := of_event rfl
theorem fltAbandonCommand (tile set seq : Nat) : Statement (.fltAbandonCommand tile set seq) := of_event rfl
theorem fltResumeSet (tile set : Nat) : Statement (.fltResumeSet tile set) := of_event rfl
theorem dbgHalt (region : Nat) : Statement (.dbgHalt region) := of_event rfl
theorem dbgResume (region : Nat) : Statement (.dbgResume region) := of_event rfl
theorem dbgStep (region : Nat) : Statement (.dbgStep region) := of_event rfl
theorem dbgRead (region : Nat) (space : BitVec 3) (tile : Nat) (adr : BitVec 21) : Statement (.dbgRead region space tile adr) := of_event rfl
theorem dbgWrite (region : Nat) (space : BitVec 3) (tile : Nat) (adr : BitVec 21) : Statement (.dbgWrite region space tile adr) := of_event rfl
theorem haltComplete (region : Nat) : Statement (.haltComplete region) := of_event rfl
theorem driftDrain (tile : Nat) : Statement (.driftDrain tile) := of_event rfl
theorem gustWalkHop (tile : Nat) : Statement (.gustWalkHop tile) := of_event rfl
theorem treeSync (region : Nat) : Statement (.treeSync region) := of_event rfl
theorem replayDiverge (tile kind elem : Nat) : Statement (.replayDiverge tile kind elem) := of_event rfl
theorem perturbRead (tile set : Nat) : Statement (.perturbRead tile set) := of_event rfl
theorem enrol (node : Nat) : Statement (.enrol node) := of_event rfl
theorem attest : Statement .attest := of_event rfl
theorem setDebug (level : BitVec 2) : Statement (.setDebug level) := of_event rfl
theorem release : Statement .release := of_event rfl
theorem powerRequest (st : BitVec 2) : Statement (.powerRequest st) := of_event rfl
theorem boardPowerOff : Statement .boardPowerOff := of_event rfl
theorem i3cCapWrite (cap : BitVec 16) : Statement (.i3cCapWrite cap) := of_event rfl
theorem i3cWake : Statement .i3cWake := of_event rfl
theorem registerWrite (r : RegName) (v : BitVec 64) : Statement (.registerWrite r v) := of_event rfl
theorem engineProgress (tile set seq : Nat) : Statement (.engineProgress tile set seq) := of_event rfl
theorem tokenArrival (chan : Nat) : Statement (.tokenArrival chan) := of_event rfl
theorem slotReturn (chan : Nat) : Statement (.slotReturn chan) := of_event rfl
theorem bsuStorePerformed (channel node : Nat) : Statement (.bsuStorePerformed channel node) := of_event rfl
theorem singleFault (site : FaultSite) : Statement (.singleFault site) := of_event rfl
theorem regionEnd (region : Nat) : Statement (.regionEnd region) := of_event rfl

end Sys2Proof.Laws.Guard
end

