-- ==== Sys2Proof/Tests/Slice0.lean ====
section
/-! SUPPORT. The model's own tests: decoding of words that the spec writes out, ill-formed instructions, and single steps. -/
namespace Sys2Proof.Tests

open Machine

set_option maxRecDepth 100000

/-- The guard that always holds (R277). -/
abbrev t7 : Guard := ⟨false, 7⟩

/-- Each word decodes to its instruction. -/
def decodesTo (l : List (Nat × Instr)) : Bool := l.all (fun p => decodeTableWord 64 p.1 == some p.2)

/-- Decoding: integer arithmetic (R323); the words are the examples of the entries, or the same fields with another FN of R287. -/
theorem test_decode_int : decodesTo [
    (0x0403840208000000, .addInt t7 .i32 (.x 4) (.x 1) (.x 2)),
    (0x0413840208000000, .subInt t7 .i32 (.x 4) (.x 1) (.x 2)),
    (0x0423840208000000, .mulInt t7 .i32 (.x 4) (.x 1) (.x 2)),
    (0x0433840208000000, .mulhi t7 .i32 (.x 4) (.x 1) (.x 2)),
    (0x0453840208000000, .divInt t7 .i32 (.x 4) (.x 1) (.x 2)),
    (0x0463840208000000, .remInt t7 .i32 (.x 4) (.x 1) (.x 2)),
    (0x0473840208000000, .minInt t7 .i32 (.x 4) (.x 1) (.x 2)),
    (0x0483840208000000, .maxInt t7 .i32 (.x 4) (.x 1) (.x 2)),
    (0x04B3A24084020000, .adds t7 .i64 (.s 2) (.s 0) (.s 1)),
    (0x04C3A24084020000, .subs t7 .i64 (.s 2) (.s 0) (.s 1)),
    (0x0443840208180000, .mad t7 .i32 (.x 4) (.x 1) (.x 2) (.x 3)),
    (0x0493840200000000, .absInt t7 .i32 (.x 4) (.x 1)),
    (0x04A3840200000000, .negInt t7 .i32 (.x 4) (.x 1)),
    (0x04D38602081F0000, .dot4Int t7 false (.x 6) (.x 1) (.x 2) (.x 3)),
    (0x04D38602081F0020, .dot4Int t7 true (.x 6) (.x 1) (.x 2) (.x 3))] = true := by decide

/-- Decoding: bit operations (R326); the words are the examples of the entries, or the same fields with another FN of R287. -/
theorem test_decode_bits : decodesTo [
    (0x0803870208010000, .andB t7 .n32 (.x 7) (.x 1) (.x 2)),
    (0x0813870208010000, .orB t7 .n32 (.x 7) (.x 1) (.x 2)),
    (0x0823870208010000, .xorB t7 .n32 (.x 7) (.x 1) (.x 2)),
    (0x0843870208010000, .andn t7 .n32 (.x 7) (.x 1) (.x 2)),
    (0x0853870208010000, .shl t7 .n32 (.x 7) (.x 1) (.x 2)),
    (0x0863870208010000, .shr t7 .n32 (.x 7) (.x 1) (.x 2)),
    (0x0873870208010000, .sra t7 .n32 (.x 7) (.x 1) (.x 2)),
    (0x0883870208010000, .rotl t7 .n32 (.x 7) (.x 1) (.x 2)),
    (0x08D3870208010000, .bfe t7 .n32 (.x 7) (.x 1) (.x 2)),
    (0x0833870200010000, .notB t7 .n32 (.x 7) (.x 1)),
    (0x0893870200010000, .popc t7 .n32 (.x 7) (.x 1)),
    (0x08A3870200010000, .clz t7 .n32 (.x 7) (.x 1)),
    (0x08B3870200010000, .ctz t7 .n32 (.x 7) (.x 1)),
    (0x08C3870200010000, .brev t7 .n32 (.x 7) (.x 1)),
    (0x08E3870208190000, .bfi t7 .n32 (.x 7) (.x 1) (.x 2) (.x 3))] = true := by decide

/-- Decoding: immediate forms (R328, R341); the words are the examples of the entries, or the same fields with another FN of R287. -/
theorem test_decode_imm : decodesTo [
    (0x0C03840200000064, .addImm t7 (.x 4) (.x 1) 100),
    (0x0C13840200000064, .mulImm t7 (.x 4) (.x 1) 100),
    (0x0C23840200000064, .andImm t7 (.x 4) (.x 1) 100),
    (0x0C33840200000064, .orImm t7 (.x 4) (.x 1) 100),
    (0x0C43840200000064, .xorImm t7 (.x 4) (.x 1) 100),
    (0x0C53840200000064, .shlImm t7 (.x 4) (.x 1) 100),
    (0x0C63840200000064, .shrImm t7 (.x 4) (.x 1) 100),
    (0x0C73840200000064, .sraImm t7 (.x 4) (.x 1) 100),
    (0x0C83840200000064, .minImm t7 (.x 4) (.x 1) 100),
    (0x0C93840200000064, .maxImm t7 (.x 4) (.x 1) 100),
    (0x0C13880FFFFFFFFF, .mulImm t7 (.x 8) (.x 7) 0x1FFFFFFFF),
    (0x0CA385000000002A, .movImm t7 (.x 5) 42),
    (0x0CB3A14201234567, .movhi t7 (.s 1) (.s 1) 0x01234567),
    (0x7453B2020000000A, .cmpImm t7 .ge (.q 2) (.x 1) 10)] = true := by decide

/-- Decoding: address, width and move forms (R329 to R331); the words are the examples of the entries, or the same fields with another FN of R287. -/
theorem test_decode_move : decodesTo [
    (0x1003A34404000040, .lea t7 false 2 (.s 3) (.s 2) (.x 1)),
    (0x1013844400000000, .extLo t7 (.x 4) (.s 2)),
    (0x1023844400000000, .extHi t7 (.x 4) (.s 2)),
    (0x1033A34408000000, .pack64 t7 (.s 3) (.s 2) (.x 2)),
    (0x1403800000000000, .nop t7),
    (0x1413817200040000, .mov t7 .f32 (.x 1) (.ch 1)),
    (0x1423830209A40000, .sel t7 .f32 (.x 3) (.x 1) (.x 2) (.q 4)),
    (0x143380000000001F, .ffclr t7 0x1F)] = true := by decide

/-- Decoding: FP32 arithmetic and compares (R332, R340); the words are the examples of the entries, or the same fields with another FN of R287. -/
theorem test_decode_fp : decodesTo [
    (0x4003850208040000, .addF32 t7 false .rne (.x 5) (.x 1) (.x 2)),
    (0x4013850208040000, .subF32 t7 false .rne (.x 5) (.x 1) (.x 2)),
    (0x4023850208040000, .mulF32 t7 false .rne (.x 5) (.x 1) (.x 2)),
    (0x40A3850208040000, .divF32 t7 false .rne (.x 5) (.x 1) (.x 2)),
    (0x40338402081C4000, .fmaF32 t7 false .rz (.x 4) (.x 1) (.x 2) (.x 3)),
    (0x40438402081C4000, .fmsF32 t7 false .rz (.x 4) (.x 1) (.x 2) (.x 3)),
    (0x40538402081C4000, .fnmaF32 t7 false .rz (.x 4) (.x 1) (.x 2) (.x 3)),
    (0x40350402081C0000, .fmaF32 ⟨true, 2⟩ false .rne (.x 4) (.x 1) (.x 2) (.x 3)),
    (0x4063850A18040000, .minF32 t7 false (.x 5) (.x 5) (.x 6)),
    (0x4073850A18040000, .maxF32 t7 false (.x 5) (.x 5) (.x 6)),
    (0x4083850200040000, .absF32 t7 (.x 5) (.x 1)),
    (0x4093850200040000, .negF32 t7 (.x 5) (.x 1)),
    (0x4113850200040000, .classF32 t7 (.x 5) (.x 1)),
    (0x40C3814200040000, .rcpF32 t7 false (.x 1) (.s 1)),
    (0x40D3814200040000, .rsqrtF32 t7 false (.x 1) (.s 1)),
    (0x40E3814200040000, .exp2F32 t7 false (.x 1) (.s 1)),
    (0x40F3814200040000, .log2F32 t7 false (.x 1) (.s 1)),
    (0x40B3814200048000, .sqrtF32 t7 false .rd (.x 1) (.s 1)),
    (0x4123814200048000, .rintF32 t7 false .rd (.x 1) (.s 1)),
    (0x4103850208040000, .copysignF32 t7 (.x 5) (.x 1) (.x 2)),
    (0x700BB10208040000, .cmp t7 true .eq .f32 (.q 1) (.x 1) (.x 2)),
    (0x7023B10208040000, .cmp t7 false .lt .f32 (.q 1) (.x 1) (.x 2))] = true := by decide

/-- Decoding: packed arithmetic (R335, R336); the words are the examples of the entries, or the same fields with another FN of R287. -/
theorem test_decode_packed : decodesTo [
    (0x4403880208060010, .addPacked t7 false .rne .max (.b8 ⟨4, false, false⟩) (.x 8) (.x 1) (.x 2)),
    (0x4413880208060010, .subPacked t7 false .rne .max (.b8 ⟨4, false, false⟩) (.x 8) (.x 1) (.x 2)),
    (0x4423880208060010, .mulPacked t7 false .rne .max (.b8 ⟨4, false, false⟩) (.x 8) (.x 1) (.x 2)),
    (0x4443880208060010, .minPacked t7 false .rne .max (.b8 ⟨4, false, false⟩) (.x 8) (.x 1) (.x 2)),
    (0x4453880208060010, .maxPacked t7 false .rne .max (.b8 ⟨4, false, false⟩) (.x 8) (.x 1) (.x 2)),
    (0x4463880200062010, .absPacked t7 false .rne .nan (.b8 ⟨4, false, false⟩) (.x 8) (.x 1)),
    (0x4473880200062010, .negPacked t7 false .rne .nan (.b8 ⟨4, false, false⟩) (.x 8) (.x 1)),
    (0x44338802081E0010, .fmaPacked t7 false .rne .max (.b8 ⟨4, false, false⟩) (.x 8) (.x 1) (.x 2) (.x 3)),
    (0x4433B97085150000, .fmaPacked t7 false .rne .max .bf16 (.ch 1) (.ch 0) (.s 1) (.s 2)),
    (0x44838902081D0000, .dot2 t7 false .rne (.x 9) (.x 1) (.x 2) (.x 3)),
    (0x44938902081E0010, .dot4B8 t7 false .rne ⟨4, false, false⟩ (.x 9) (.x 1) (.x 2) (.x 3))] = true := by decide

/-- Decoding: conversions and packing (R337 to R339); the words are the examples of the entries, or the same fields with another FN of R287. -/
theorem test_decode_conv : decodesTo [
    (0x6003830200044000, .cvt t7 false .rz .max .i32 .f32 (.x 3) (.x 1)),
    (0x6063830200060A90, .cvt t7 false .rne .max (.b8 ⟨5, false, true⟩) (.b8 ⟨4, false, false⟩) (.x 3) (.x 1)),
    (0x6403830208010000, .pk2 t7 false .rne .n32 (.x 3) (.x 1) (.x 2)),
    (0x641389020ABC0800, .pk4 t7 false .rne .max (.b8 ⟨4, false, false⟩) (.f32 false) (.x 9) (.x 1) (.x 2) (.spec .zero)),
    (0x64138906104C0840, .pk4 t7 false .rne .max (.b8 ⟨4, false, false⟩) (.f32 true) (.x 9) (.x 3) (.x 4) (.x 9)),
    (0x6423821200062010, .upk t7 (.b8 ⟨4, false, false⟩) 2 (.x 2) (.x 9)),
    (0x6433810220040000, .scl t7 false .rne (.x 1) (.x 1) (.x 8)),
    (0x6443870A00040800, .bscale t7 ⟨4, false, false⟩ (.x 7) (.x 5))] = true := by decide

/-- Decoding: predicate operations (R342); the words are the examples of the entries, or the same fields with another FN of R287. -/
theorem test_decode_pred : decodesTo [
    (0x7803B36328000000, .pAnd t7 (.q 3) (.q 1) (.k 2)),
    (0x7813B36328000000, .pOr t7 (.q 3) (.q 1) (.k 2)),
    (0x7823B36328000000, .pXor t7 (.q 3) (.q 1) (.k 2)),
    (0x7843B36328000000, .pAndn t7 (.q 3) (.q 1) (.k 2)),
    (0x7833B36200000000, .pNot t7 (.q 3) (.q 1)),
    (0x7853B36200000000, .pMov t7 (.q 3) (.q 1))] = true := by decide

/-- Decoding: memory (R297, R301, R303, R304, R306, R164); the words are the examples of the entries, or the same fields with another FN of R287. -/
theorem test_decode_mem : decodesTo [
    (0x8003832031C00010, .ldDev t7 .w32 (.x 3) ⟨2, some 1, 2, 3, 16⟩),
    (0x8013832031C00010, .ldAcqDev t7 .w32 (.x 3) ⟨2, some 1, 2, 3, 16⟩),
    (0x8023832031C00010, .ldLoc t7 .w32 (.x 3) ⟨2, some 1, 2, 3, 16⟩),
    (0x8033832031C00010, .ldAcqLoc t7 .w32 (.x 3) ⟨2, some 1, 2, 3, 16⟩),
    (0x8403832031C00010, .stDev t7 .w32 (.x 3) ⟨2, some 1, 2, 3, 16⟩),
    (0x8413832031C00010, .stRelDev t7 .w32 (.x 3) ⟨2, some 1, 2, 3, 16⟩),
    (0x8423832031C00010, .stLoc t7 .w32 (.x 3) ⟨2, some 1, 2, 3, 16⟩),
    (0x8433832031C00010, .stRelLoc t7 .w32 (.x 3) ⟨2, some 1, 2, 3, 16⟩),
    (0x8413851FE1400008, .stRelDev t7 .w32 (.x 5) ⟨1, none, 0, 2, 8⟩),
    (0x8803840030800000, .atom t7 false .add .i32 (.x 4) ⟨0, some 1, 2, 1, 0⟩),
    (0x8883872FE0400040, .red t7 false .add .f32 (.x 7) ⟨2, none, 0, 0, 64⟩),
    (0x8C3380000000FFFF, .fence t7 .device 0xFFFF),
    (0x9003800000000001, .eqWait t7 1),
    (0x9F83800A00000003, .spill t7 5 3),
    (0x9F93850000000003, .fill t7 5 3)] = true := by decide

/-- Decoding: stream and copy commands (R312, R316, R318); the words are the examples of the entries, or the same fields with another FN of R287. -/
theorem test_decode_eng : decodesTo [
    (0xA00392032A000000, .strmRd ⟨t7, none, some 6, 5, none⟩ 2 4),
    (0xA01392032A000000, .strmWr ⟨t7, none, some 6, 5, none⟩ 2 4),
    (0xA0238001A0000000, .engBar ⟨t7, none, some 3, 0, none⟩),
    (0xA4038181A4000000, .cpIn ⟨t7, none, some 3, 2, none⟩ 3),
    (0xA4138181A4000000, .cpOut ⟨t7, none, some 3, 2, none⟩ 3),
    (0xA4238181A4000000, .cpLocal ⟨t7, none, some 3, 2, none⟩ 3),
    (0xA4339981A4000000, .cpPush ⟨t7, none, some 3, 2, none⟩ 3 3),
    (0xA4439981A4000000, .cpPushz ⟨t7, none, some 3, 2, none⟩ 3 3),
    (0xA4539981A4000000, .cpPop ⟨t7, none, some 3, 2, none⟩ 3 3),
    (0xA4639981A4000000, .cpPopd ⟨t7, none, some 3, 2, none⟩ 3 3)] = true := by decide

/-- Decoding: channel instructions (R351, R356, R360); the words are the examples of the entries, or the same fields with another FN of R287. -/
theorem test_decode_chan : decodesTo [
    (0xB003BB0800000009, .chPush t7 1 true 3 (.x 4)),
    (0xB01386720000000A, .chPop t7 (some 2) true (.x 6) 1),
    (0xB0138B7200000010, .chPop t7 none false (.x 11) 1),
    (0xB023827000000010, .chPeek t7 none (.x 2) 0),
    (0xB033837000000000, .chTag t7 (.x 3) 0),
    (0xB043B80400000001, .chCtl t7 .eoi (.ch 0) (.x 2)),
    (0xB041390000000003, .chCtl ⟨false, 2⟩ .drn (.ch 1) (.x 0)),
    (0xB403BA7105DC0000, .steer t7 false .f32 (.ch 2) (.ch 0) (.pc 1) (.ch 3)),
    (0xB413BC72EA040000, .merge t7 false .f32 (.ch 4) (.ch 1) (.ch 2) (.pc 0)),
    (0xB423BD70E6B80000, .amerge t7 .i32 (.ch 5) 0 1 none),
    (0xB803B9708E100000, .lgen t7 (some 1) 0 3 (some 2))] = true := by decide

/-- Decoding: flow, threads, groups, barriers (R346 to R348, R361 to R363); the words are the examples of the entries, or the same fields with another FN of R287. -/
theorem test_decode_flow : decodesTo [
    (0xC003801800000000, .br t7 3),
    (0xC013802803000033, .brC t7 (.q 3) 5 6),
    (0xC020800000000000, .exit ⟨false, 1⟩),
    (0xC033800000000000, .exitAbandon t7),
    (0xC40380180000000A, .loop 0 10 3),
    (0xC413802000080025, .loopR 1 5 4),
    (0xD003870400000004, .thrNew t7 (.x 7) (.x 2) 4),
    (0xD013800600000000, .grpJoin t7 (.x 3)),
    (0xD023800600000000, .grpLeave t7 (.x 3)),
    (0xD403800400000005, .barSet t7 false 5 (.x 2)),
    (0xD413800600000005, .barBind t7 false 5 (.x 3)),
    (0xD423800000000022, .barArrive t7 true 2)] = true := by decide

/-- Decoding: slots, cube, accumulator store, circuits (R366 to R382); the words are the examples of the entries, or the same fields with another FN of R287. -/
theorem test_decode_unit : decodesTo [
    (0xD803900000000001, .slotClaim ⟨t7, none, none, 0, none⟩ 2 1),
    (0xD823900000000001, .slotRel ⟨t7, none, none, 0, none⟩ 2 1),
    (0xD8138281A2000000, .slotFill ⟨t7, none, some 3, 1, none⟩ 0 0 none 5),
    (0xDC03830120000000, .cubeMm ⟨t7, none, some 2, 0, none⟩ 6),
    (0xDC13830120000000, .cubeGate ⟨t7, none, some 2, 0, none⟩ 6),
    (0xDC23830120000000, .cubeSpread ⟨t7, none, some 2, 0, none⟩ 6),
    (0xDC33830120000000, .cubeFold ⟨t7, none, some 2, 0, none⟩ 6),
    (0xDC43838000000001, .cubeBind ⟨t7, none, none, 0, none⟩ false 0 1 7),
    (0xDC53800000000000, .cubeUnbind ⟨t7, none, none, 0, none⟩),
    (0xE003810400040010, .acsLd t7 (.x 1) (.x 2) 16),
    (0xE013800404040010, .acsSt t7 (.x 2) (.x 1) 16),
    (0xE803800000001FE6, .cirConvert ⟨t7, none, none, 0, none⟩ 6 0xFF),
    (0xE813810000000006, .cirSched ⟨t7, none, none, 0, none⟩ 6 2),
    (0xE823800000000006, .cirRun ⟨t7, none, none, 0, none⟩ 6),
    (0xE833800020000006, .cirRunf ⟨t7, none, some 0, 0, none⟩ 6),
    (0xE843800000000006, .cirHalt ⟨t7, none, none, 0, none⟩ 6),
    (0xE853800000000006, .cirRevert ⟨t7, none, none, 0, none⟩ 6),
    (0xE863820000000066, .cirPageout ⟨t7, none, none, 0, none⟩ 6 3 4),
    (0xE873820000000066, .cirPagein ⟨t7, none, none, 0, none⟩ 6 3 4)] = true := by decide

/-- Decoding: system (R389 to R409); the words are the examples of the entries, or the same fields with another FN of R287. -/
theorem test_decode_sys : decodesTo [
    (0xF003A2AE00000010, .sregRd t7 (.s 2) (.spec .zero) .xctx),
    (0xF01382088C00003D, .sregWr t7 (.x 2) (.x 4) (.s 3) .trcctl),
    (0xF023A1AE00000008, .capRd t7 (.s 1) (.spec .zero) 8),
    (0xF0C3820C8C000010, .capWr t7 (.x 2) (.x 6) (.s 3) 0x10),
    (0xF033A80000000000, .trapRd t7 8),
    (0xF043830400000001, .trapAct t7 .resume (.x 3) (.x 2)),
    (0xF053B10000000000, .trapFwd t7 (.q 1)),
    (0xF073800000000001, .cfgSel t7 .s1 false (.x 0)),
    (0xF073800800000004, .cfgSel t7 .s0 true (.x 4)),
    (0xF0639902A0000000, .cfgLd ⟨t7, none, some 5, 0, none⟩ true true false 2),
    (0xF0838183A0000000, .preempt ⟨t7, none, some 7, 0, none⟩ 3),
    (0xF0938183A0000000, .restore ⟨t7, none, some 7, 0, none⟩ 3),
    (0xF0A3820000000000, .nmqSub ⟨t7, none, none, 0, none⟩ 4),
    (0xF0B3860A00000000, .nmqPoll t7 (.x 6) (.x 5)),
    (0xF403800E00000000, .mark t7 (.x 7)),
    (0xF413A50000000009, .perfRd t7 (.s 5) 9)] = true := by decide

/-- One ill-formed instruction for each limit of `Instr.wf` (R278, R285 and the entries that the clauses name). -/
theorem test_wf_refuses : ([
    .nop ⟨true, 7⟩,
    .addInt t7 .i32 (.spec .tid) (.x 1) (.x 2),
    .addInt t7 .i32 (.lc 1) (.x 1) (.x 2),
    .addInt t7 .i64 (.x 3) (.x 2) (.x 4),
    .addInt t7 .i64 (.x 4) (.q 1) (.x 2),
    .mad t7 .n64 (.x 4) (.x 2) (.x 6) (.x 7),
    .absInt t7 .n32 (.x 4) (.x 1),
    .dot4Int t7 false (.spec .zero) (.x 1) (.x 2) (.x 3),
    .notB t7 .i64 (.x 4) (.ch 1),
    .bfe t7 .i64 (.x 5) (.x 2) (.x 1),
    .bfi t7 .i64 (.x 4) (.x 2) (.x 1) (.x 3),
    .addImm t7 (.s 1) (.x 3) 0,
    .movImm t7 (.spec .zero) 0,
    .movhi t7 (.x 3) (.x 1) 0,
    .lea t7 false 0 (.s 1) (.x 3) (.x 1),
    .extLo t7 (.x 1) (.x 3),
    .pack64 t7 (.x 1) (.x 2) (.x 3),
    .mov t7 (.b8 ⟨0, false, false⟩) (.x 1) (.x 2),
    .sel t7 .f32 (.x 3) (.x 1) (.x 2) (.x 4),
    .ffclr t7 0,
    .addPacked t7 false .rne .nan .bf16 (.x 1) (.x 2) (.x 3),
    .dot4B8 t7 false .rne ⟨0, true, false⟩ (.x 1) (.x 2) (.x 3) (.x 4),
    .cvt t7 false .rne .max .i32 .i32 (.x 1) (.x 2),
    .cvt t7 false .rne .inf .i32 .f32 (.x 1) (.x 2),
    .pk4 t7 false .rne .inf (.q8 true) (.f32 false) (.x 1) (.x 2) (.x 3) (.x 4),
    .pk4 t7 false .rne .max (.q8 true) .bf16 (.x 1) (.x 2) (.x 3) (.x 4),
    .upk t7 .bf16 2 (.x 1) (.x 2),
    .bscale t7 ⟨0, false, true⟩ (.x 1) (.x 2),
    .cmp t7 true .eq .i32 (.q 1) (.x 1) (.x 2),
    .cmp t7 false .eq .bf16 (.q 1) (.x 1) (.x 2),
    .pAnd t7 (.x 1) (.q 1) (.k 2),
    .pNot t7 (.q 1) (.s 2),
    .ldDev t7 .w32 (.x 1) ⟨0, none, 1, 0, 0⟩,
    .stLoc t7 .d64 (.x 3) ⟨0, none, 0, 0, 0⟩,
    .atom t7 false .and .f32 (.x 1) ⟨0, none, 0, 0, 0⟩,
    .atom t7 false .cas .i64 (.x 30) ⟨0, none, 0, 0, 0⟩,
    .atom t7 true .xchg .f32 (.x 1) ⟨0, none, 0, 0, 0⟩,
    .red t7 false .cas .i32 (.x 2) ⟨0, none, 0, 0, 0⟩,
    .fence t7 .set 0,
    .engBar ⟨t7, none, none, 1, none⟩,
    .chPush t7 7 false 1 (.x 1),
    .chPop t7 none false (.lc 0) 1,
    .chCtl t7 .eos (.pc 1) (.x 0),
    .chCtl t7 .drn (.ch 1) (.x 1),
    .steer t7 false .i64 (.ch 1) (.x 2) (.q 1) (.q 7),
    .merge t7 false .f32 (.ch 1) (.x 2) (.x 4) (.x 1),
    .amerge t7 .n64 (.x 2) 0 1 none,
    .brC t7 (.x 1) 0 0,
    .barSet t7 true 16 (.x 1),
    .barArrive t7 true 20,
    .slotClaim ⟨t7, none, none, 0, none⟩ 10 8,
    .slotFill ⟨t7, none, none, 0, none⟩ 15 1 none 3,
    .cubeUnbind ⟨t7, none, none, 3, none⟩,
    .acsLd t7 (.q 1) (.x 2) 0,
    .acsSt t7 (.ch 2) (.x 1) 0,
    .cirRun ⟨t7, none, none, 2, none⟩ 3,
    .sregRd t7 (.x 3) (.spec .zero) .xctx,
    .sregWr t7 (.ch 1) (.x 4) (.s 3) .trcctl,
    .capRd t7 (.s 1) (.q 1) 0,
    .capWr t7 (.x 1) (.x 2) (.x 3) 0,
    .trapRd t7 13,
    .trapAct t7 .skip (.ch 1) (.x 1),
    .cfgSel t7 .s0 false (.x 2),
    .nmqPoll t7 (.spec .tid) (.x 1),
    .perfRd t7 (.s 1) 0x0D] : List Instr).all (fun i => !i.wf) = true := by decide

/-- Words that R278 refuses: an unassigned OPC and FN, the guard 1111, a set bit in an unused field, an operand number above 91. -/
theorem test_decode_refuses :
    (decodeWord 0x0000000000000000 matches .error .illegalOp) && (decodeWord 0x04E3840208000000 matches .error .illegalOp) &&
    (decodeWord 0x0407840208000000 matches .error .reservedField) && (decodeWord 0x0403840208080000 matches .error .reservedField) &&
    (decodeWord 0x0403DC0208000000 matches .error .reservedField) && (decodeWord 0xFC25000000000000 matches .error .illegalOp) = true := by
  decide

/-! ### Helpers for single steps -/

/-- A set that stands at an instruction: the type and mode that it needs, its registers' LVS words as given. -/
def running (i : Instr) (regs : List (Nat × Word)) : State :=
  regs.foldl (fun s p => s.putLvs 0 p.1 p.2) (State.reset.placeWord ((encode i).getD 0))

/-- The next state of an instruction, if it gives one. -/
def next? (i : Instr) (s : State) : Option State :=
  match exec i s with
  | .next t => some t
  | .fault _ => none
  | .refused _ => none

/-- Instructions and events one after the other; what gives no next state is passed over. -/
def go (s : State) (l : List Instr) : State := l.foldl (fun s i => (next? i s).getD s) s

/-- The LVS word of x register n of thread 0 after an instruction of its set. -/
def xAfter (i : Instr) (regs : List (Nat × Word)) (n : Nat) : Option Word := (next? i (running i regs)).map (fun s => s.lvs 0 n)

/-- The value of the first member of the first return group after it. -/
def lateAfter (i : Instr) (regs : List (Nat × Word)) : Option Double :=
  (next? i (running i regs)).bind (fun s => (s.set? 0 0).bind (fun v => v.groups.head?.bind (fun g => g.2.members.head?.bind (fun m =>
    match m.late with
    | .value x => some x
    | _ => none))))

/-- The thread 0 after it. -/
def threadAfter (i : Instr) (regs : List (Nat × Word)) : Option Thread := (next? i (running i regs)).bind (fun s => s.thread? 0 0 0)

/-- The set 0 after it. -/
def setAfter (i : Instr) (regs : List (Nat × Word)) : Option SetState := (next? i (running i regs)).bind (fun s => s.set? 0 0)

/-- A channel from an end of tile 0 to another, with tokens at its head and free slots. -/
def chan (out inp : Nat) (free : Nat) (buf : List Token) : Chan :=
  ⟨0, if out = 255 then .none else .tile 0 out, if inp = 255 then .none else .tile 0 inp, 8, free, false, none, false, 0, false, buf, [], [], 0, 0, 0, 0, 0, [], 0, 0, [], 0, 0⟩

/-! ### Single steps: lane arithmetic (the results are those of the entries, by hand) -/

theorem test_add_wraps : xAfter (.addInt t7 .i32 (.x 4) (.x 1) (.x 2)) [(1, 0x7FFFFFFF), (2, 1)] 4 = some 0x80000000 := by decide
theorem test_sub_wraps : xAfter (.subInt t7 .n32 (.x 1) (.x 1) (.x 2)) [(2, 1)] 1 = some 0xFFFFFFFF := by decide
theorem test_mulhi_signed : xAfter (.mulhi t7 .i32 (.x 4) (.x 1) (.x 2)) [(1, 0xFFFFFFFF), (2, 0xFFFFFFFF)] 4 = some 0 := by decide
theorem test_mulhi_unsigned : xAfter (.mulhi t7 .n32 (.x 4) (.x 1) (.x 2)) [(1, 0xFFFFFFFF), (2, 0xFFFFFFFF)] 4 = some 0xFFFFFFFE := by decide
/-- The examples of R324. -/
theorem test_div_example : lateAfter (.divInt t7 .i32 (.x 4) (.x 1) (.x 2)) [(1, -7), (2, 2)] = some 0xFFFFFFFD := by decide
theorem test_rem_example : lateAfter (.remInt t7 .i32 (.x 4) (.x 1) (.x 2)) [(1, -7), (2, 2)] = some 0xFFFFFFFF := by decide
theorem test_div_zero_example : lateAfter (.divInt t7 .n32 (.x 4) (.x 1) (.x 2)) [(1, 7)] = some 0xFFFFFFFF := by decide
theorem test_rem_zero_example : lateAfter (.remInt t7 .n32 (.x 4) (.x 1) (.x 2)) [(1, 7)] = some 7 := by decide
theorem test_div_overflow : lateAfter (.divInt t7 .i32 (.x 4) (.x 1) (.x 2)) [(1, 0x80000000), (2, -1)] = some 0x80000000 := by decide
theorem test_min_signed : xAfter (.minInt t7 .i32 (.x 4) (.x 1) (.x 2)) [(1, 1), (2, -1)] 4 = some 0xFFFFFFFF := by decide
theorem test_max_unsigned : xAfter (.maxInt t7 .n32 (.x 4) (.x 1) (.x 2)) [(1, 1), (2, -1)] 4 = some 0xFFFFFFFF := by decide
theorem test_abs_lowest : xAfter (.absInt t7 .i32 (.x 4) (.x 1)) [(1, 0x80000000)] 4 = some 0x80000000 := by decide
theorem test_adds_clamps : xAfter (.adds t7 .i32 (.x 4) (.x 1) (.x 2)) [(1, 0x7FFFFFFF), (2, 1)] 4 = some 0x7FFFFFFF := by decide
theorem test_subs_clamps : xAfter (.subs t7 .n32 (.x 4) (.x 1) (.x 2)) [(2, 1)] 4 = some 0 := by decide
theorem test_mad : xAfter (.mad t7 .i32 (.x 4) (.x 1) (.x 2) (.x 3)) [(1, 3), (2, -2), (3, 5)] 4 = some 0xFFFFFFFF := by decide
theorem test_dot4_signed : xAfter (.dot4Int t7 false (.x 6) (.x 1) (.x 2) (.x 3)) [(1, 0xFF020301), (2, 0x01020304), (3, 10)] 6 = some 26 := by decide
theorem test_dot4_unsigned : xAfter (.dot4Int t7 true (.x 6) (.x 1) (.x 2) (.x 3)) [(1, 0xFF020301), (2, 0x01020304), (3, 10)] 6 = some 282 := by decide
theorem test_shl_count : xAfter (.shl t7 .n32 (.x 4) (.x 1) (.x 2)) [(1, 3), (2, 33)] 4 = some 6 := by decide
theorem test_sra_unsigned_type : xAfter (.sra t7 .n32 (.x 4) (.x 1) (.x 2)) [(1, 0x80000000), (2, 4)] 4 = some 0xF8000000 := by decide
theorem test_rotl : xAfter (.rotl t7 .n32 (.x 4) (.x 1) (.x 2)) [(1, 0x80000001), (2, 1)] 4 = some 3 := by decide
theorem test_clz_zero : xAfter (.clz t7 .n32 (.x 4) (.x 1)) [] 4 = some 32 := by decide
theorem test_brev : xAfter (.brev t7 .n32 (.x 4) (.x 1)) [(1, 0x80000002)] 4 = some 0x40000001 := by decide
/-- The examples of R327. -/
theorem test_bfe_example : xAfter (.bfe t7 .i32 (.x 7) (.x 1) (.x 2)) [(1, 0x0F00), (2, 0x0408)] 7 = some 0xFFFFFFFF := by decide
theorem test_bfi_example : xAfter (.bfi t7 .n32 (.x 7) (.x 1) (.x 2) (.x 3)) [(1, 5), (2, 0x0304), (3, 0xFFFFFFFF)] 7 = some 0xFFFFFFDF := by decide
theorem test_add_imm_negative : xAfter (.addImm t7 (.x 4) (.x 1) (-1)) [(1, 5)] 4 = some 4 := by decide
theorem test_lea_signed : (setAfter (.lea t7 false 2 (.s 3) (.s 2) (.x 1)) [(1, -1)]).map (fun v => SMap.get 0 v.sreg 3) =
    some 0xFFFFFFFFFFFFFFFC := by decide
theorem test_pack64 : (setAfter (.pack64 t7 (.s 3) (.x 1) (.x 2)) [(1, 1), (2, 2)]).map (fun v => SMap.get 0 v.sreg 3) = some 0x200000001 := by
  decide
/-- The example of R330. -/
theorem test_sel_example : xAfter (.sel t7 .f32 (.x 3) (.x 1) (.x 2) (.q 4)) [(1, 7), (2, 8)] 3 = some 8 := by decide
theorem test_add_f32 : xAfter (.addF32 t7 false .rne (.x 3) (.x 1) (.x 2)) [(1, 0x3F800000), (2, 0x40000000)] 3 = some 0x40400000 := by decide
/-- R334: x + (-x) is -0 in RD. -/
theorem test_zero_sum_down : xAfter (.addF32 t7 false .rd (.x 3) (.x 1) (.x 2)) [(1, 0x3F800000), (2, 0xBF800000)] 3 = some 0x80000000 := by
  decide
theorem test_mul_overflow_flags : (threadAfter (.mulF32 t7 false .rne (.x 3) (.x 1) (.x 1)) [(1, 0x7F000000)]).map Thread.ff = some 5 := by decide
theorem test_no_flags_under_nf : (threadAfter (.mulF32 t7 true .rne (.x 3) (.x 1) (.x 1)) [(1, 0x7F000000)]).map Thread.ff = some 0 := by decide
theorem test_sqrt : lateAfter (.sqrtF32 t7 false .rne (.x 3) (.x 1)) [(1, 0x41100000)] = some 0x40400000 := by decide
/-- The example of R337. -/
theorem test_cvt_example : xAfter (.cvt t7 false .rz .max .i32 .f32 (.x 3) (.x 1)) [(1, 0xC0300000)] 3 = some 0xFFFFFFFE := by decide
theorem test_cvt_inexact : (threadAfter (.cvt t7 false .rz .max .i32 .f32 (.x 3) (.x 1)) [(1, 0xC0300000)]).map Thread.ff = some 1 := by decide
theorem test_cmp_imm : (threadAfter (.cmpImm t7 .ge (.q 2) (.x 1) 10) [(1, 10)]).map Thread.q = some 4 := by decide
theorem test_cmp_unordered : (threadAfter (.cmp t7 false .unord .f32 (.q 1) (.x 1) (.x 2)) [(1, 0x7FC00000)]).map Thread.q = some 2 := by decide
theorem test_false_guard_skips : xAfter (.addImm ⟨false, 0⟩ (.x 4) (.x 4) 1) [] 4 = some 0 := by decide
theorem test_inverted_guard_runs : xAfter (.addImm ⟨true, 0⟩ (.x 4) (.x 4) 1) [] 4 = some 1 := by decide

/-! ### Single steps: memory, channels, flow and system -/

/-- A store issues an access; performing it writes its bytes, lowest first (R3, R82). -/
theorem test_store_performed : ((next? (.stLoc t7 .n16 (.x 5) ⟨0, none, 0, 0, 0x10⟩) (running (.stLoc t7 .n16 (.x 5) ⟨0, none, 0, 0, 0x10⟩)
    [(5, 0x1234ABCD)])).map (fun s => let t := s.performAcc 0
      (Memory.read (t.tile 0).mem 0x10, Memory.read (t.tile 0).mem 0x11, Memory.read (t.tile 0).mem 0x12, t.accs.length))) =
    some (0xCD, 0xAB, 0, 0) := by decide
/-- R81: a misaligned access faults its thread. -/
theorem test_misaligned_faults : ((next? (.ldLoc t7 .w32 (.x 5) ⟨0, none, 0, 0, 2⟩) (running (.ldLoc t7 .w32 (.x 5) ⟨0, none, 0, 0, 2⟩) [])).bind
    (fun s => (s.thread? 0 0 0).map Thread.place)) = some (.faulted 0 0) := by decide
theorem test_event_wait_parks : (threadAfter (.eqWait t7 1) []).map Thread.place = some (.parked 0 0 (.event 1)) := by decide
theorem test_push_parks_without_room : (threadAfter (.chPush t7 0 false 0 (.x 1)) []).map Thread.place = some (.parked 0 0 (.chan [.room 0])) := by
  decide
/-- A pop takes the head and starts its slot's return (R125). -/
theorem test_pop : (let i : Instr := .chPop t7 none false (.x 3) 0
    (next? i { running i [] with chans := [(0, chan 255 0 7 [⟨0, 42, []⟩])] }).map (fun s =>
      (s.lvs 0 3, (s.chans.look 0).map (fun c => (c.buf.length, c.rets))))) = some (42, some (0, 1)) := by decide
theorem test_branch : (threadAfter (.brC t7 (.q 1) 0 0) []).map Thread.next = some (some 0) := by decide
theorem test_branch_out_of_set_traps : (threadAfter (.br t7 1) []).map Thread.place = some (.faulted 0 0) := by decide
theorem test_exit_retires : (setAfter (.exit t7) []).map (fun v => v.threads.length) = some 0 := by decide
theorem test_loop_sets_level : ((setAfter (.loop 1 3 4) []).bind SetState.sweep).map (fun w => w.loops.l1) = some ⟨3, 1, 4⟩ := by decide
theorem test_barrier_of_one_releases : (let i : Instr := .barSet t7 false 5 (.x 1)
    (next? i (running i [(1, 1)])).map (fun s => (s.bar 0 false 5).st)) = some .armed := by decide
theorem test_command_enters_queue : (setAfter (.strmRd ⟨t7, none, none, 0, none⟩ 2 4) []).map (fun v => v.queue.length) = some 1 := by decide
theorem test_mark_without_trace : (let i : Instr := .mark t7 (.x 7)
    (next? i (running i [])).map (fun s => (s.tile 0).drift.length)) = some 0 := by decide
/-- R278: a supervisor instruction in another set traps PRIVILEGE, whose record stands in the faulted vector. -/
theorem test_privilege : (let i : Instr := .preempt ⟨t7, none, none, 0, none⟩ 3
    let s := running i []
    (next? i (s.modSet 0 0 (fun v => { v with ent := { v.ent with sup := false } }))).bind (fun s => (s.set? 0 0).map (fun v =>
      v.faulted.map (fun e => e.w0.extractLsb' 0 8)))) = some [Code.privilege] := by decide
/-- The worked example of R226. -/
theorem test_record_example : recWord0 { code := 0x10, kind := 0 } {} 605 8 75 3 5 = 0x0000A00612E25D10 := by decide
/-- The worked example of R158. -/
theorem test_lvs_example : 4 * ({ wordEntry 0 with oct := 8, wl := 2 } : SetEntry).xWord 75 9 = 0x4B124 := by decide
/-- A step issues what the pool word decodes to (log entry 5). -/
theorem test_step_runs_word : (match step (State.reset.withFetchWord 64 0x0CA385000000002A) with
    | .next s => some (s.lvs 0 5)
    | _ => none) = some 42 := by decide
/-- R288: a word that the map does not list traps ILLEGAL_OP. -/
theorem test_step_illegal : (match step (State.reset.withFetchWord 64 0) with
    | .next s => (s.set? 0 0).map (fun v => v.faulted.map (fun e => e.w0.extractLsb' 0 8))
    | _ => none) = some [Code.illegalOp] := by decide

/-! ### Witnesses: states and operands that meet a statement's hypotheses, one for each of its clauses -/

/-- A state in whose pass of one thread the guard holds and a condition on its context and set is met. -/
def solo (s : State) (p : Ctx → SetState → Bool) : Bool :=
  match s.solo? t7 with
  | some (c, v) => p c v
  | none => false

/-- Operands that are ready, with so many values. -/
def rdy (s : State) (srcs : List Operand) (dst : Option Operand) : Bool :=
  solo s (fun c v => match readyOperands c s v srcs dst with
    | some l => l.length == srcs.length
    | none => false)

/-- Sets that stand in a sweep: an AG set and a CP set in a token block, an RD set, a set in a thread block, and one in a trap block. -/
def ag : State := running (.nop t7) []
def cp : State := running (.stLoc t7 .w32 (.x 5) ⟨0, none, 0, 0, 0⟩) []
def rd : State := running (.red t7 false .add .i32 (.x 5) ⟨0, none, 0, 0, 0⟩) []
def thr : State := running (.br t7 0) []
def trp : State := running (.trapFwd t7 (.q 1)) []

/-- The AG set with channels at ends 0 to 2: input ends whose heads are a word and an EOI, and output ends with room. -/
def chs : State := { ag with chans := [(0, chan 255 0 7 [⟨0, 2, []⟩]), (1, chan 255 1 7 [⟨7, 1, []⟩]), (2, chan 0 255 3 []), (3, chan 1 255 0 []),
  (4, chan 128 255 3 []), (5, chan 255 2 7 [⟨1, 5, []⟩])] }

theorem wit_IntegerArithmeticResults : [rdy ag [iOpd .i32 (.x 1), iOpd .i32 (.x 2)] (some (iOpd .i32 (.x 31))),
    rdy ag [iOpd .n64 (.x 30), iOpd .n64 (.s 15)] (some (iOpd .n64 (.s 0))), rdy chs [iOpd .i32 (.ch 0), iOpd .i32 (.x 2)] (some (iOpd .i32 (.ch 0))),
    rdy ag [iOpd .i32 (.x 0)] (some (iOpd .i32 (.q 7))), rdy ag [iOpd .i64 (.x 0), iOpd .i64 (.x 2), iOpd .i64 (.x 4)] (some (iOpd .i64 (.x 6))),
    rdy ag [{ o := .x 1, tag := 4 }, { o := .x 2, tag := 4 }, wOpd (.x 3)] (some (wOpd (.x 6)))].all id = true := by decide
theorem wit_BitOperationResults : [rdy ag [iOpd .n32 (.x 1), iOpd .n32 (.x 2)] (some (iOpd .n32 (.x 7))), rdy ag [iOpd .n64 (.s 1)] (some (iOpd .n64 (.s 1))),
    rdy ag [iOpd .n64 (.s 1), wOpd (.x 1)] (some (iOpd .n64 (.s 1))),
    rdy ag [iOpd .n32 (.x 1), wOpd (.x 2), iOpd .n32 (.x 3)] (some (iOpd .n32 (.x 7)))].all id = true := by decide
theorem wit_ImmediateResults : [rdy ag [iOpd (immTy (.x 4)) (.x 1)] (some (iOpd (immTy (.x 4)) (.x 4))),
    rdy ag [iOpd (immTy (.s 4)) (.s 1)] (some (iOpd (immTy (.s 4)) (.s 4))), rdy ag [] (some (iOpd (immTy (.x 5)) (.x 5))),
    rdy ag [wOpd (.s 1)] (some (dOpd (Reg.s 1).opd)), rdy ag [wOpd (.x 1)] (some (wOpd (.q 2)))].all id = true := by decide
theorem wit_MoveAndPredicateResults : [rdy ag [dOpd (.s 2), wOpd (.x 1)] (some (dOpd (Reg.s 3).opd)), rdy ag [dOpd (.s 2)] (some (wOpd (.x 4))),
    rdy ag [wOpd (.x 2), wOpd (.x 3)] (some (dOpd (Reg.s 3).opd)), rdy ag [tOpd .f32 (.x 2)] (some (tOpd .f32 (.x 1))),
    rdy ag [tOpd .f32 (.x 1), tOpd .f32 (.x 2), wOpd (.q 4)] (some (tOpd .f32 (.x 3))), solo ag (fun _ _ => true),
    rdy ag [wOpd (.q 1), wOpd (.k 2)] (some (wOpd (.q 3))), rdy ag [wOpd (.q 1)] (some (wOpd (.k 3)))].all id = true := by decide
theorem wit_Fp32Results : [rdy ag [fOpd (.x 1), fOpd (.x 2)] (some (fOpd (.x 3))), rdy ag [fOpd (.x 1), fOpd (.x 2), fOpd (.x 3)] (some (fOpd (.x 3))),
    rdy ag [fOpd (.x 1)] (some (fOpd (.x 3))), rdy ag [fOpd (.x 1)] (some (wOpd (.x 3))), rdy chs [fOpd (.ch 2)] (some (fOpd (.ch 0))),
    rdy ag [tOpd .f32 (.x 1), tOpd .f32 (.x 2)] (some (wOpd (.q 1)))].all id = true := by decide
theorem wit_PackedResults : [rdy ag [pOpd .bf16 (.x 1), pOpd .bf16 (.x 2)] (some (pOpd .bf16 (.x 3))), rdy ag [pOpd .bf16 (.x 1)] (some (pOpd .bf16 (.x 3))),
    rdy ag [pOpd (.b8 ⟨4, false, false⟩) (.x 1), pOpd (.b8 ⟨4, false, false⟩) (.x 2), pOpd (.b8 ⟨4, false, false⟩) (.x 3)]
      (some (pOpd (.b8 ⟨4, false, false⟩) (.x 4))), rdy ag [pOpd .bf16 (.x 1), pOpd .bf16 (.x 2), fOpd (.x 3)] (some (fOpd (.x 4))),
    rdy ag [pOpd (.b8 ⟨4, false, false⟩) (.x 1), pOpd (.b8 ⟨4, false, false⟩) (.x 2), fOpd (.x 3)] (some (fOpd (.x 4)))].all id = true := by decide
theorem wit_ConversionResults : [rdy ag [tOpd .f32 (.x 1)] (some (tOpd .i32 (.x 3))),
    rdy ag [tOpd (pk2Ty .f32) (.x 1), tOpd (pk2Ty .f32) (.x 2)] (some { o := .x 3, tag := 2 }),
    rdy ag [fOpd (.x 1), fOpd (.x 2), tOpd (quadTy (.q8 false)) (.x 3)] (some (tOpd (quadTy (.q8 false)) (.x 3))),
    rdy ag [pOpd .bf16 (.x 1), pOpd .bf16 (.x 2)] (some (tOpd (quadTy (.q8 false)) (.x 3))), rdy ag [upkSrc .bf16 (.x 1)] (some (upkDst .bf16 (.x 3))),
    rdy ag [fOpd (.x 1), wOpd (.x 2)] (some (fOpd (.x 3))), rdy ag [fOpd (.x 1)] (some (wOpd (.x 3)))].all id = true := by decide
theorem wit_DivisionCases : [rdy ag [iOpd .i32 (.x 1), iOpd .i32 (.x 2)] (some (iOpd .i32 (.x 4))),
    ITy.read .i32 0 == 0, ITy.read .i32 0x80000000 == -2 ^ 31 && ITy.read .i32 0xFFFFFFFF == -1, ITy.read .n32 7 == 7].all id = true := by decide

/-! Memory, queues, channels and flow. -/

theorem wit_DeviceAccessesIssue : (let m : MemRef := ⟨0, none, 0, 0, 0x40⟩
    solo ag (fun c v => decide (v.ent.typ = .ag) && (Reg.isS (.x 5) == false) && decide (eaOf c ag m = 64) &&
      readsClean { load := true, acq := false, rel := false, size := .w32, data := .x 5, m := m } c ag v &&
      readsClean { load := false, acq := false, rel := false, size := .w32, data := .x 5, m := m } c ag v &&
      [false, true].all (fun wr => let a := DevOp.devAccess { load := !wr, acq := false, rel := false, size := .w32, data := .x 5, m := m } c ag v
        match (ag.issueAcc a).1.translate c.tile c.set v.regs.xctx v.ent.sup false 0 a.va (if wr then 1 else 0) wr ((ag.issueAcc a).1.walkReady a) with
        | .ok s1 x => decide (a.va.extractLsb' 56 8 = 0) && decide (x.mtype ≠ .config) && decide (x.mtype ≠ .peer) && !s1.memFaults x.pa 4 false
        | _ => false)) &&
    (let s := ag.modSet 0 0 (fun v => { v with regs := { v.regs with xctx := 0x8000000000000001 } })
     solo s (fun c v => let a := DevOp.devAccess { load := true, acq := false, rel := false, size := .w32, data := .x 5, m := m } c s v
      match (s.issueAcc a).1.translate c.tile c.set v.regs.xctx v.ent.sup false 0 a.va 0 false ((s.issueAcc a).1.walkReady a) with
        | .wait _ _ => true
        | _ => false)) &&
    [0x2, 0x0100000000000000].all (fun d => let s := ag.modSet 0 0 (fun v => v.putS 0 d)
      solo s (fun c v => let a := DevOp.devAccess { load := true, acq := false, rel := false, size := .w32, data := .x 5, m := m } c s v
        decide (c.mode ≠ .trap) && (a.va.toNat % 4 != 0 || a.va.extractLsb' 56 8 != 0)))) = true := by decide
theorem wit_LocalAccessesIssue : (let m : MemRef := ⟨0, none, 0, 0, 0x40⟩
    solo cp (fun c v => decide (v.ent.typ = .cp) && (tileCheck (cp.tile c.tile) (eaOf c cp m) 4 false false).isNone &&
      (tileCheck (cp.tile c.tile) (eaOf c cp m) 4 true false).isNone &&
      readsClean { load := true, acq := false, rel := false, size := .w32, data := .s 5, m := m } c cp v && decide (c.mode = .token) &&
      readsClean { load := false, acq := false, rel := false, size := .w32, data := .x 5, m := m } c cp v)) = true := by decide
theorem wit_AtomicsIssue : (let m : MemRef := ⟨0, none, 0, 0, 0x40⟩
    solo rd (fun c v => decide (v.ent.typ = .rd) && (tileCheck (rd.tile c.tile) (eaOf c rd m) 4 true true).isNone &&
      (rd.srcPoison c v.ent ((MemRefRegs m).map (fun o => (o, false)) ++ [(.x 5, false)])).isNone)) = true := by decide
theorem wit_FenceWaitSpillResults : (let sp : Double := 0x8080000000000021
    let on := ag.modSet 0 0 (fun v => { v with regs := { v.regs with spmap := sp } })
    solo ag (fun _ _ => true) && SMap.get 0 ((ag.putTile 0 { ag.tile 0 with eq := [(1, 1)] }).tile 0).eq 1 == 1 &&
      solo on (fun c v => spEn v.regs.spmap && decide (0 < spWords v.regs.spmap) && (on.opdPoison c v.ent false (.x 5)).isNone &&
        decide (spAcs v.regs.spmap = true → (on.tile c.tile).heldFor = none) && decide (c.mode ≠ .trap)) &&
      solo ag (fun c v => !(spEn v.regs.spmap && decide (63 < spWords v.regs.spmap)) && decide (c.mode ≠ .trap) &&
        (ag.opdPoison c v.ent false (.x 5)).isNone) &&
      (let held := (on.putTile 0 { on.tile 0 with heldFor := some 0 }).modSet 0 0
         (fun v => { v with regs := { v.regs with spmap := sp ||| 0x4000000000000000 } })
       solo held (fun c v => spEn v.regs.spmap && decide (0 < spWords v.regs.spmap) && spAcs v.regs.spmap && (held.tile c.tile).heldFor.isSome &&
         decide (c.mode ≠ .trap) && (held.opdPoison c v.ent false (.x 5)).isNone))) = true := by decide
theorem wit_EngineCommandsEnter : (let i (try' : Option (BitVec 3)) : Instr := .strmRd ⟨t7, none, none, 0, try'⟩ 2 4
    let full := ag.modSet 0 0 (fun v => { v with queue := List.replicate 16 (newCmd (i none) 0 ⟨0, 0, 0, 0, .token, 0, .zero, 0, [], 0, 0⟩ [] [] 0) })
    [ag, full].all (fun s => solo s (fun c v => decide (v.ent.typ = .ag ∧ c.mode = .token ∧ v.ent.sup = true))) &&
      (queued? (i none)).isSome && (queued? (i (some 1))).isSome && (queued? (.cfgLd ⟨t7, none, none, 0, none⟩ false false false 2)).isSome) = true := by
  decide
theorem wit_ChannelInstructionResults : (rdy chs [wOpd (.x 1)] (some (wOpd (.ch 0))) && rdy chs [] (some (wOpd (.x 3))) &&
    solo chs (fun c v => v.ent.chIn 0 == 0 && !chs.boundByCube c.tile c.set v.ent true 0 && (chs.headAt c.tile 0).any (fun k => !k.badCtl)) &&
    solo chs (fun c _ => (chs.headAt c.tile 1).any (fun k => k.isCtl && !k.badCtl)) && rdy chs [] (some (wOpd (.pc 0)))) = true := by decide
theorem wit_RoutingResults : (solo chs (fun c v => (chkEnds [.ch 0, .q 1] [.x 3, .x 4] v c).isNone && !chs.anyBound c v [.ch 0] [.x 3, .x 4] &&
      decide (predBit c chs v (.q 1) = some (false, [])) && (routeReady c chs v .i32 [] (.ch 0) (.x 4)).isSome &&
      (chkEnds [.x 1, .x 2, .q 1] [.ch 0] v c).isNone && (routeReady c chs v .i32 [] (.x 2) (.ch 0)).isSome) &&
    solo chs (fun c v => decide (chs.rplMode c.tile = .off) && decide ((cyclicAfter 2 (v.amLast.look 0)).find? (fun i =>
      chs.needMet c.tile (.data (([1, 0].map (fun n => v.ent.chIn n)).getD i 255))) = some 1) &&
      (routeReady c chs v .i32 [] (.ch 0) (.x 3)).isSome)) = true := by decide
theorem wit_LoopGeneratorResults : solo chs (fun c v => decide (c.mode = .token) && (chkEnds [.ch 0] [.ch 0, .pc 0] v c).isNone &&
    !chs.anyBound c v [.ch 0] [.ch 0] && !(c.s 3).getLsbD 63 && decide ((chs.headAt c.tile (v.ent.chIn 0)).map (fun k => (k.tag, k.val)) = some (0, 2)) &&
    chs.roomAt c.tile (v.ent.chOut 0) != 0 && chs.roomAt c.tile (v.ent.pcOut 0) != 0) = true := by decide
theorem wit_BranchAndExitResults : (solo thr (fun c v => decide (c.mode = .thread) && (chkBlocks [0, 0] v c).isNone) && rdy thr [wOpd (.q 1)] none) = true := by
  decide
theorem wit_LoopResults : (solo ag (fun c v => (chkLoop 4 v c).isNone && v.sweep.any (fun w => (w.passes.take w.cur).all (fun p => p.tids.isEmpty))) &&
    (let l : Loops := ⟨.zero, ⟨2, 1, 4⟩, .zero, .zero⟩
     decide (1 < (l.get 1).c ∧ (l.get 1).e = 4 ∧ (l.get 2).c = 0 ∧ (l.get 3).c = 0 ∧ (l.get 0).c = 0 ∧ ((l.put 3 ⟨1, 1, 4⟩).get 3).c = 1))) = true := by
  decide
theorem wit_ThreadGroupBarrierResults : (rdy thr [wOpd (.x 1)] (some (wOpd (.x 7))) && rdy ag [wOpd (.x 1)] none &&
    solo thr (fun c v => (chkBlocks [0] v c).isNone) && solo ag (fun c _ => (ag.join c.tile c.set c.tid 5).isSome &&
      !ag.noBarrier c.tile false 5 && decide ((ag.bar c.tile false 5).st = .unset)) &&
    ([.armed, .releasing] : List BarSt).all (fun st => let s := ag.putBar 0 false 5 { Barrier.reset with st := st, n := 1 }
      solo s (fun c _ => !s.noBarrier c.tile false 5 && decide ((s.bar c.tile false 5).st = st)))) = true := by decide
theorem wit_AccumulatorStoreMoves : (solo cp (fun c v => (chkAcs v c).isNone && !NSet.has (cp.tile c.tile).acsPoison 131071 &&
      [0, 1].all (fun k => (cp.acsIndex c 131071 0 k).toOption == some 131071)) &&
    rdy cp [wOpd (.x 1)] (some (fOpd (.x 2))) && rdy cp [wOpd (.x 1), fOpd (.x 2)] none && (cp.tile 0).heldFor.isNone && !cp.lentCol 0 255) = true := by decide
theorem wit_RegisterAccessesIssue : (solo ag (fun c v => v.ent.sup && decide (v.ent.typ = .ag) && (ag.resolve c.tile c.set 0 .xctx).isSome &&
      !ag.linePoison (ag.cfg.slotAddr 63 / 64)) && rdy ag [wOpd (.x 1)] (some (dOpd (Reg.s 1).opd)) &&
    rdy ag [wOpd (.x 1), dOpd (.s 2)] (some (wOpd (.x 2))) && rdy ag [wOpd (.x 1)] (some (wOpd (.x 2)))) = true := by decide
/-- A set in its trap block with one record of thread 0 in its view. -/
def trapped : State := (trp.modSet 0 0 (fun v => { v with faulted := [⟨1, 2, 3, 4, false, 0, false⟩] })).modThread 0 0 0
  (fun th => { th with place := .faulted 0 0 })
theorem wit_TrapInstructionResults : (solo trp (fun c _ => decide (c.mode = .trap)) && rdy trp [wOpd (.x 2)] (some (wOpd (.x 3))) &&
    rdy trp [] (some (wOpd (.q 1))) && (trp.fltAct 0 0 1 0 true).isNone && solo trapped (fun c _ => (trapped.fltAct c.tile c.set 1 0 true).isSome) &&
    (trapped.forward 0 0).isSome) = true := by decide
theorem wit_SelectMarkCounterResults : (solo ag (fun c v => decide (c.mode = .token) && v.ent.sup && v.sweep.isSome) && rdy ag [wOpd (.x 7)] none &&
    rdy ag [] (some (dOpd (Reg.s 5).opd))) = true := by decide

/-- Set 0 of tile 0 meets a condition. -/
def at0 (s : State) (p : SetState → Bool) : Bool := (s.set? 0 0).any p

/-- The one region meets a condition. -/
def reg0 (s : State) (p : Region → Bool) : Bool := (s.region? 0).any p

/-- A command of set 0 at a stage of its work, and a command of its kind without wait, with what it posts. -/
def qcmd (i : Instr) (at' : CmdAt) (stage : Nat) : Cmd := ⟨i, 0, 0, 0, [], [], at', 0, 0, stage, [], 0, [], [], []⟩
def strm (pq : Option (BitVec 4)) : Instr := .strmRd ⟨t7, none, pq, 0, none⟩ 2 4

/-- The AG set with commands in its queue. -/
def queue (l : List Cmd) : State := ag.modSet 0 0 (fun v => { v with queue := l })

/-- The AG set between sweeps, its anchor idle; and the set when its anchor has retired. -/
def rest : State := ag.modSet 0 0 (fun v => { v with sweep := none, threads := v.threads.map (fun x : Nat × Thread => (x.1, Thread.fresh .idle)) })
def spent : State := ag.modSet 0 0 (fun v => { v with
  sweep := none, threads := [], ent := { v.ent with chin := List.replicate 8 255, chout := List.replicate 8 255, pcin := [], pcout := [] } })

/-- A set with an automatic input end 0 whose head is a control token of a subtype. -/
def auto (sub : Nat) : State :=
  { rest.modSet 0 0 (fun v => { v with ent := { v.ent with chin := [0, 255, 255, 255, 255, 255, 255, 255], chout := [8], pcin := [], pcout := [] } }) with
    chans := [(0, chan 20 0 7 [ctlToken sub 0]), (1, chan 8 255 3 [])] }

/-- An access of thread 0 of set 0. -/
def acc (kind : AccKind) (loc : Place2) : Access := ⟨0, 0, 0, kind, loc, 0x40, 4, 5, 1, 0, false, false, false, [], 0, 0, 0, 0, 0, none, none, false⟩

/-- The AG set with one return group of one member. -/
def group (l : Late) (done : Bool) : State := ag.modSet 0 0 (fun v =>
  { v with groups := [(3, ⟨0, 0, [], [⟨0, some (.x 4), false, 0, 0, l, done⟩], .zero, false, none⟩)] })

theorem wit_EngineQueueIssues : [strm none, .engBar ⟨t7, none, none, 0, none⟩].map (fun i => let s := queue [qcmd i .queued 0]
    at0 s (fun v => let q := splitQueue v.queue
      q.1.isEmpty && q.2.isSome && !v.stopped && s.runs 0 && decide (s.copyLoad 0 < 4) && v.portsFree i && decide ((i.com?).bind SCom.wq = none))) =
    [true, true] := by decide
theorem wit_CommandsProgressAndRetire : [(strm none, CmdAt.issued, 1, 0), (strm none, .issued, doneStage, 0), (strm (some 3), .issued, doneStage, 254),
    (strm (some 3), .posting, doneStage, 255)].map (fun x => let q := queue [qcmd x.1 x.2.1 x.2.2.1]
      let s := q.putTile 0 { q.tile 0 with eq := [(3, x.2.2.2)] }
      at0 s (fun v => (v.cmd? 0).any (fun c => s.runs 0 && (s.cmdAccs 0 0 0).isEmpty && !s.traceStalls (s.retireEvent 0 0 v c)))) =
    [true, true, true, true] := by decide
theorem wit_DataReturn : [at0 (group (.value 7) true) (fun v => (v.groups.look 3).any (fun g => g.members.all Member.done)),
    at0 (group (.value 7) false) (fun v => (v.groups.look 3).any (fun g => (g.members.find? (fun m => m.tid == 0 && !m.done)).isSome)),
    (let s := { group (.load 2 .w32) false with accs := [(2, acc .load (.dev 0x40 0))] }
     s.accReady (acc .load (.dev 0x40 0)) && (s.accRead (acc .load (.dev 0x40 0)) (s.readStep (acc .load (.dev 0x40 0)))).toOption.isSome),
    ({ group (.load 2 .w32) false with poison := [1] }.accRead (acc .load (.dev 0x40 0)) none).toOption.isNone,
    at0 { group (.place 2 .w32) false with accs := [(2, acc .load .virt)] } (fun v => (v.groups.look 3).any (fun g => g.members.any (fun m => m.late == .place 2 .w32))),
    at0 (group (.sregWr 0 .xctx 5 9) false) (fun v => (v.groups.look 3).any (fun g => g.members.any (fun m => m.late == .sregWr 0 .xctx 5 9)) &&
      (SMap.look ag.accs 9).all ag.accReady && ((ag.dropAcc 9).resolve 0 0 0 .xctx).isSome), (SMap.look { group (.peer 2 .w32) false with accs := [(2, acc .load (.peer 3 0x40))] }.accs 2).isSome] =
    [true, true, true, true, true, true, true] := by decide
theorem wit_WalksAndAtomics : [(let s := { ag with walks := [(2, ⟨0, 1, 0x1, 0x40, [], none⟩)] }
     (SMap.look s.walks 2).any (fun w => w.res.isNone && (s.walkFrom w.die w.asid w.va 4 0 (xctxRoot w.xctx) []).1.toOption.isNone)),
    (let a := acc (.atom .add .i32 0 true) (.tile 0x40)
     let s := { rd.putTile 0 { rd.tile 0 with atomQ := [⟨2, none, 0⟩] } with accs := [(2, a)] }
     s.canon && decide ((s.tile 0).atomQ = [⟨2, none, 0⟩]) && decide (s.rplMode 0 = RplMode.off) && (tileCheck (s.tile 0) a.tileAddr a.bytes true true).isNone)] =
    [true, true] := by decide
theorem wit_SelectionFormsSweep : (let ok (s : State) (p : SetState → Block → Sweep → Bool) : Bool := at0 s (fun v0 =>
      let v := { v0 with regs := { v0.regs with bkptOn := v0.regs.bkpt } }
      v0.sweep.isNone && !v0.stopped && v0.fwd.isEmpty && !v0.driftHeld && s.runs 0 && (v.blocks.findIdx? (s.testsBound 0 0 v)).isNone &&
        decide (v.pick (s.readyBlocks 0 v) = some 0) && (v.blocks[0]?).any (fun b => (s.formSweep 0 v 0 b).sweep.any (p v b)))
    let going := ag.modSet 0 0 (fun v => { v with
      sweep := none, threads := v.threads.map (fun x : Nat × Thread => (x.1, Thread.fresh (.parked 0 0 .clear))) })
    [ok rest (fun v b w => !v.underWay 0 b && !rest.traceStalls (rest.selEvent 0 0 v 0 b w) &&
       (rest.bkptHit v (rest.blockNode 0 0 0) v.eoiInvoc (b.mode != .thread)).isNone),
     ok going (fun v b _ => v.underWay 0 b)]) = [true, true] := by decide
theorem wit_ControlTokensForward : [at0 (auto 1) (fun v => (auto 1).seqFree 0 v && ((auto 1).seqHeads 0 0 v).isNone &&
      decide ((auto 1).autoEnds 0 0 v = [0]) && (auto 1).headSub 0 0 1 && decide (((auto 1).argsAt 0 [0]).length ≤ 1)),
    at0 (auto 2) (fun v => decide (((auto 2).autoEnds 0 0 v).filter (fun e => !isPred e) = [0]) && (auto 2).headSub 0 0 2 && v.eosOut.isEmpty && !v.eosSeen &&
      decide (((auto 2).argsAt 0 [0]).length ≤ 1)),
    (let s := (auto 3).modSet 0 0 (fun v => { v with completed := true })
     at0 s (fun v => s.headSub 0 0 3 && v.completed && !s.setAccs 0 0 v && !s.sourceEnd 0 0 && !NSet.has (s.tile 0).passed 0)),
    (auto 4).headSub 0 0 4, at0 (auto 5) (fun v => (auto 5).headSub 0 0 5 && !(auto 5).traceStalls (syncEvent 0 0 v true)),
    at0 spent (fun v => spent.seqFree 0 v && (spent.seqHeads 0 0 v).isNone && v.complete && !v.completed),
    (let s := spent.modSet 0 0 (fun v => { v with eosOut := [8] })
     at0 s (fun v => s.seqFree 0 v && (s.seqHeads 0 0 v).isNone && !v.eosSeen && NSet.has v.eosOut 8)),
    (let s := spent.modSet 0 0 (fun v => { v with completed := true })
     at0 s (fun v => v.complete && v.completed && !v.drnPassed && !s.setAccs 0 0 v && (s.autoEnds 0 0 v).all (s.passedAt 0)))] =
    [true, true, true, true, true, true, true, true] := by decide
theorem wit_ChannelsMoveTokens : (let k : Token := ⟨0, 9, []⟩
    let c : Chan := { chan 8 0 3 [] with fly := [k], win := [k], rets := 1, cross := true }
    let s := { ag with chans := [(0, c)] }
    [(s.chans.look 0).isSome, decide (0 < c.rets), !(s.tile 0).strayBusy, !fromLink c, decide (s.rplMode 0 = RplMode.off)]) = [true, true, true, true, true] := by
  decide
theorem wit_TileSwapsPlane : (let p : Plane := ⟨1, [], 0, [], none, [], []⟩
    let d := spent.modSet 0 0 (fun v => { v with completed := true, drnPassed := true })
    let s := d.putTile 0 { d.tile 0 with latch := some .s1, s1 := some p }
    [s.canon, decide ((s.tile 0).latch = some .s1), decide ((s.tile 0).shadow .s1 = some p), s.counts 0, !s.tileAccs 0, !s.owing 0,
      s.strays 0 == 0, !s.stopped, reg0 s (fun x => x.st == .running)]) = [true, true, true, true, true, true, true, true, true] := by decide

/-- An image of one AG set on tile 0 whose one block is a nop (R201 to R203), and the state with it at address 0 and a launch of it waiting. -/
def image : List Double := [0x000200014F554B48, 0x0000011000000000, 0x50040, 0, 0x0100000000000040, 0x00000001000000C0, 0x0200000000000100, 0x0000000200000010] ++
  (0x80000 : Double) :: 0x0001000000000000 :: List.replicate 18 0 ++ List.replicate 4 0xFFFFFFFFFFFFFFFF ++ [0xFC000000F0F0F400, 0x1403800000000000]
def launched (preempt : Bool) : State := { State.reset with
  mem := (List.range 34).foldl (fun m i => Memory.writeLE m (8 * i) 8 (image.getD i 0).toNat) [],
  waiting := [(4, ⟨0, 5, preempt, [(0, 16)]⟩)] }

theorem wit_RegionsComeAndGo : [(let s := spent.modSet 0 0 (fun v => { v with completed := true, drnPassed := true })
     reg0 s (fun x => x.st == .running && x.halt == .none && x.joining.isEmpty && x.tiles.all s.tileDone)),
    (let s := rest.modRegion 0 (fun x => { x with st := .preempting true })
     reg0 s (fun x => x.st == .preempting true && s.landed x && !s.stopped && x.byCmd.isNone)),
    (let s := launched false
     s.dispatches && s.launchFirst 4 ⟨0, 5, false, [(0, 16)]⟩ && s.imageReadable 0 && !s.imageHeld 0 && s.launchFree ⟨0, 5, false, [(0, 16)]⟩ && (match s.checkLaunch ⟨0, 5, false, [(0, 16)]⟩ with
       | .ok m => imgTiles m.sets == [0] && (s.tile 0).heldFor.isNone
       | .error _ => false)),
    (let s := { launched false with mem := [(0, 1)] }
     s.imageReadable 0 && s.launchFree ⟨0, 5, false, []⟩ && (s.checkLaunch ⟨0, 5, false, []⟩).toOption.isNone),
    (let s := { launched false with regions := ag.regions }
     !s.cfg.ckptBusy && !s.launchFree ⟨0, 5, false, [(0, 16)]⟩),
    (let s := { launched false with cfg := { Regs.reset with ckptBusy := true } }
     s.cfg.ckptBusy && s.dispatches && s.launchFirst 4 ⟨0, 5, false, [(0, 16)]⟩ && s.imageReadable 0 && !s.imageHeld 0),
    (let s := { launched true with mem := [(0, 1)] }
     s.dispatches && s.launchFirst 4 ⟨0, 5, true, [(0, 16)]⟩ && s.imageReadable 0 && !s.imageHeld 0 &&
       (s.checkLaunch ⟨0, 5, true, [(0, 16)]⟩).toOption.isNone),
    (let s := { launched true with regions := ag.regions }
     (s.regions.find? (fun r => r.2.st == .running && r.2.prio < 5 && r.2.joining.isEmpty &&
        r.2.tiles.any (s.launchTiles ⟨0, 5, true, [(0, 16)]⟩).contains)).isSome && areasOk [16 * 65536] &&
        (s.checkLaunch ⟨0, 5, true, [(0, 16)]⟩).toOption.isSome)] = [true, true, true, true, true, true, true, true] := by decide
theorem wit_StraysAndDeadlocks : [(let s := { ag.putTile 0 { ag.tile 0 with passed := [3] } with chans := [(0, chan 8 3 6 [⟨0, 1, []⟩])] }
     s.isStray (chan 8 3 6 [⟨0, 1, []⟩]) && !(s.tile 0).strayBusy && s.canon && s.strayAt 0 3), !ag.strayAt 0 3,
    reg0 ag (fun x => x.st == .running && x.halt == .none && !ag.stopped),
    reg0 (ag.modRegion 0 (fun x => { x with still := 0, lullLast := ag.lullCounts 0 x, lullStill := 63 })) (fun x => x.still == 0 && x.lullStill == 63)] =
    [true, true, true, true] := by decide
theorem wit_CircuitEvents : (let mk (step h2 : Double) (present : BitVec 8) : State := { ag.putArr 0 1 { Arr.reset with
        mode := .running, present := present, hdr := [0, 0, h2], sched := [step], lastSet := some 0 } with
        chans := [(0, chan 20 0 7 [⟨0, 5, []⟩]), (1, chan 20 1 7 [ctlToken 1 0])] }
    let ok (s : State) (p : Arr → Double → Bool) : Bool := (s.arr 0 1).mode == .running && s.runs 0 && p (s.arr 0 1) ((s.arr 0 1).stepAt 0)
    let conv : Instr := .cirConvert ⟨t7, none, none, 0, none⟩ 1 1
    let c := (queue [qcmd conv .issued 2]).putArr 0 1 { Arr.reset with mode := .converting, cmds := [(0, 0)] }
    [ok (mk 0x8000000000000000 0xFFFF 1) (fun r w => stKind w == 2 && !r.hev), ok (mk 0 0xFFFF 0) (fun r w => stKind w != 2 && !r.present.getLsbD 0 && !r.absent),
     (let s := mk 0x400000000 0xFF00 1
      ok s (fun r w => let ev := s.cirEvent 0 1 r w
        stKind w != 2 && stPop w && !stEmit w && stPort w == 0 && r.present.getLsbD 0 && (s.headAt 0 r.ice).any (fun k => !k.isCtl && s.released k) &&
          !s.traceStalls ev && (s.cirMatch 0 1 r ev).isNone)),
     ok (mk 0x400000000 0xFF01 1) (fun r w => stPop w && ((mk 0x400000000 0xFF01 1).headAt 0 r.ice).any (fun k => k.isCtl && !k.badCtl) && r.oce == 255),
     (c.arr 0 1).mode == .converting && !c.writesInto 0 1 && (c.cubeCmd 0 (0, 0)).any (fun k => k.stage == 2) &&
       (pageSpans 1 0).all (fun b => ((c.tile 0).poisonIn b 256).isNone && ((c.tile 0).badContext b 256).isNone)]) = [true, true, true, true, true] := by decide
/-- A binding that streams 64 elements a panel, or fewer, from channel 0 to channel 1. -/
def bound (fill : Nat) : Binding := ⟨0, 0, 0, false, 0, 0, [0, 0x800000000, 0, 0, 0, 0, 0, 0], 0, fill, false, false, false, []⟩
/-- A tile with a port node that writes the FP32 tokens of end 0 to its memory, one element of a line of 16, and such tokens there. -/
def porter (l : List Token) : State :=
  { ag.putTile 0 { ag.tile 0 with ports := [⟨0, 2, 0, 0, 1024, 2, 0, [0, 15, 4, 0, 0x100000000, 0], 0, none, 0, false, false, [], 0, 0, false⟩] } with chans := [(0, chan 255 0 7 l)] }
theorem wit_SlotAndCubeEvents : [(rd.putSlot 0 2 ⟨.clearing, 0, 0⟩).nextClear 0 2,
    (let s := rd.putTile 0 { rd.tile 0 with active := (rd.tile 0).active.map (fun p => { p with cubegrp := 0x8000000000000000 }), cube := { Cube.reset with digest := [(0, 1)] } }
     reg0 s (fun x => x.tiles.filter (fun u => dieOf u == 0 && grpEn (s.cubegrp u) && grpGid (s.cubegrp u) == 0) == [0])),
    (let s := (auto 2).modSet 0 0 (fun v => { v with ent := { v.ent with chout := [8] } })
     let t := s.putTile 0 { s.tile 0 with cube := { Cube.reset with binding := some (bound 0) } }
     at0 t (fun v => t.runs 0 && (t.headAt 0 (v.ent.chIn 0)).any (fun k => k.isCtl && !k.badCtl) && decide (v.ent.chIn 0 = 0) && t.roomAt 0 (v.ent.chOut 0) != 0)),
    (let b := bound (32 * (bound 0).desc.k)
     let s := { (auto 2).putTile 0 { (auto 2).tile 0 with cube := { Cube.reset with binding := some b } } with chans := [(1, chan 8 255 3 [])] }
     at0 s (fun v => (s.headAt 0 (v.ent.chIn 0)).isNone && decide (32 * b.desc.k ≤ b.fill) && decide (0 < s.roomAt 0 (v.ent.chOut 0)))),
    decide (0 < 32 * (bound 0).desc.k) && !(auto 3).tileAccs 0,
    (let s := porter [ctlToken 5 1]
     (s.tile 0).ports.any (fun p => (s.tile 0).ports.find? (fun p => p.port == 2) == some p && !p.fault && decide (1 < p.dir) && (match s.portWrite 0 p with
       | .quiet _ => true
       | _ => false)) && s.runs 0 && (s.tile 0).heldFor.isNone),
    (let s := porter [⟨1, 7, []⟩]
     (s.tile 0).ports.any (fun p => match s.portWrite 0 p with
       | .fire cond _ => let ev := s.nodeEvent 0 p.set 5 p.port p.invoc [cond]
         !s.traceStalls ev && (s.portMatch 0 p ev).isNone
       | _ => false))] = [true, true, true, true, true, true, true] := by decide

/-- One command in slot 0 of the near-memory queue. -/
def nmq (d0 d1 : Nat) (u : BankUnit) : State := (({ State.reset with cfg := { Regs.reset with nmqTail := 1 } }.writePlain 0 (BitVec.ofNat 64 d0)).writePlain 8
  (BitVec.ofNat 64 d1)).putUnit 2 u
/-- A running unit whose graph sends on link 3, and the same unit while the region at that link's other end is being pre-empted. -/
def linked : BankUnit := { BankUnit.reset with st := .running, ent := List.replicate 12 0 ++ [0x9808000000000003] }
def heldUnit (s : State) : State := { s with
  regions := ag.regions.map (fun r => (r.1, { r.2 with st := .preempting true })), chans := [(5, { chan 8 0 7 [] with prod := .link 2 3 })] }
theorem wit_NearMemoryCommands : [(let s := nmq 0x1000000000000000 0x1000 .reset
     decide (s.cfg.nmqHead ≠ s.cfg.nmqTail) && s.cfg.slotBase 0 == 0 && !s.stopped && !s.bankHeld 0 && !s.memFaults 0 64 false &&
       decide (s.seePlain 0 = 0x1000000000000000) && decide (s.seePlain 8 = 0x1000) && (s.launchCheck 0x1000).toOption.isNone),
    (let s := nmq 0x2000000000000000 2 { BankUnit.reset with st := .faulted }
     ((s.seePlain 0).extractLsb' 60 4).toNat == 2 && ((s.seePlain 8).extractLsb' 0 9).toNat == 2 && (s.unit 2).st == .faulted && !s.unitHeld 2),
    [0x2000000000000000, 0x3000000000000000].all (fun d0 => let s := heldUnit (nmq d0 2 linked)
      (s.unit 2).st != .idle && s.unitHeld 2 && !s.bankHeld 0 && !s.memFaults 0 64 false && ((s.seePlain 8).extractLsb' 0 9).toNat == 2),
    (let s := nmq 0x3000000000000000 2 { BankUnit.reset with st := .running }
     ((s.seePlain 8).extractLsb' 0 9).toNat == 2 && (s.unit 2).st != .idle && !s.unitHeld 2),
    (let s := nmq 0x4000000000000000 2 { BankUnit.reset with status := 3 }
     ((s.seePlain 0).extractLsb' 60 4).toNat == 4 && (s.unit 2).st == .idle),
    (let c : NmqCmd := ⟨0, some (5, 0), []⟩
     let s := { State.reset with nmq := [c] }
     decide (s.nmq.find? (fun c : NmqCmd => c.outcome.isSome) = some c) && decide (c.outcome = some (5, 0)) && !s.bankHeld (s.cfg.slotBase 0) &&
       !s.memFaults (s.cfg.slotBase 0) 64 false)] =
    [true, true, true, true, true, true] := by decide

theorem wit_BankUnitEvents : (let mk (w : Double) (u : BankUnit) : State := State.reset.putUnit 2 { u with st := .running, ent := List.replicate 12 0 ++ [w] }
    let c : Chan := { chan 8 255 7 [] with cons := .link 2 1, win := [⟨0, 7, []⟩] }
    [(let s := mk 0x1808801000000000 { BankUnit.reset with arcs := [(0, ⟨0, 5, []⟩)] }
      let u := s.unit 2
      s.unitRuns 2 && (u.node 0).kind == 3 && u.outFree 0 && (SMap.look u.runs 0).isNone && (u.node 0).ins.length == 1 &&
        (u.node 0).ins.all (fun i => (SMap.look u.arcs (4 * 0 + i.1)).any (fun x => !x.isCtl))),
     (let u := (mk 0x0808000000000000 { BankUnit.reset with loads := [(0, [⟨64, none, 0⟩])] }).unit 2
      decide (SMap.get [] u.loads 0 = [⟨64, none, 0⟩])),
     (let s := mk 0x0808000000000000 { BankUnit.reset with loads := [(0, [⟨64, some 9, 0⟩])] }
      decide (SMap.get [] (s.unit 2).loads 0 = [⟨64, some 9, 0⟩]) && s.unitRuns 2 && (s.unit 2).clearOut 0),
     (let s := mk 0x1008400000000000 { BankUnit.reset with stores := [(0, [⟨64, 9, 0⟩])] }
      decide ((s.unit 2).st = .running) && !s.stopped && !s.bankHeld (bsuAddr 2 64) && (s.bsuBad 2 64 ((s.unit 2).node 0).size).isNone &&
        decide (SMap.get [] (s.unit 2).stores 0 = [⟨64, 9, 0⟩]) && (s.unit 2).clearOut 0),
     (let s := { mk 0 .reset with chans := [(5, c)] }
      (s.chans.find? (fun c => c.2.cons == .link 2 1 && !c.2.win.isEmpty && !s.shadowed c.2)).isSome && !NSet.has (s.unit 2).dropping 1 &&
        decide ((SMap.get [] (s.unit 2).links 1).length < 64))]) = [true, true, true, true, true] := by decide
theorem wit_MemoryHealthEvents : [!State.reset.bankHeld (5 * 64), decide ((SMap.get 0 [(chanOf 320, 4095)] (chanOf 320) + 1) % 4096 = 0),
    ({ State.reset with poison := [5] }).linePoison 5, !State.reset.linePoison 5, decide (0 < unitSize .memoryTile) && !(ag.tile 0).unitPoison .memoryTile 0,
    !NSet.has State.reset.cfg.retired 383 && !NSet.has State.reset.cfg.narrowed 0, State.reset.cfg.healthy 767,
    (BitVec.ofNat 8 0x80).getLsbD 7] = [true, true, true, true, true, true, true, true] := by decide
theorem wit_HardwareFaultEvents : [State.reset.regions.all (fun r => r.2.st != .running),
    decide (ag.regions.map Prod.fst = [0]) && ag.regions.all (fun r => r.2.st == .running) && (ag.regionSets 0).length == 1,
    (({ ag with chans := [(5, { chan 8 255 7 [] with cons := .link 2 1 })] }).chans.look 5).any (fun c : Chan => c.cons == ChEnd.link 2 1),
    (let c : Regs := { Regs.reset with tierPop := 1, tierUp := 1, tierCap := [(0, 1)] }
     let line := 0x8000000000
     decide (devEnd ≤ line * 64) && c.place (line * 64) == .tier 0),
    (({ ag with xlat := [⟨.die 0, 1, 0x40, 0, 0⟩] }).xlat[0]?).isSome,
    at0 ag (fun v => !v.stopped && v.sweep.any (fun w => (w.passes.drop w.cur).any (fun p => p.tids.contains 0) && w.mode != .trap))] =
    [true, true, true, true, true, true] := by decide
theorem wit_InboundAccesses : (let s := { State.reset with cfg := { Regs.reset with sec := 1, peerSize := 1 } }
    let away := { State.reset with cfg := { Regs.reset with sec := 1 } }
    [decide (State.reset.cfg.pwr.toNat < 2), decide (2 ≤ ({ Regs.reset with pwr := 2 }).pwr.toNat), s.inboundOk 0x40 8 false, !away.inboundOk 0x40 8 false, s.inboundOk (1 * 64) 64 true,
     !away.inboundOk (1 * 64) 64 true, decide (s.cfg.place 0x40 ≠ .config), decide (s.cfg.place cfgBase = .config) && cfgBase % 8 == 0]) =
    [true, true, true, true, true, true, true, true] := by decide
theorem wit_MailboxesAndDoorbells : (let mk (free : Nat) : State := { ag with
        cfg := { ag.cfg with mbxEn := true, mbxEnd := 0 }, chans := [(0, chan 20 0 free [])], mboxHeld := [⟨1, 4, 0, 9, []⟩], bells := [0x1000] }
    [decide ((mk 1).cfg.pwr = 0) && (mk 1).cfg.booted && decide ((mk 1).mboxEnd 0 = some (0, 0)) && decide ((mk 1).mboxEnd 3 = some (0, 0)) &&
       ((mk 1).inChan 0 0).any (fun c => decide (0 < c.2.free)) && !(mk 1).inflowHeld 0 && decide ((mk 1).rplMode 0 = RplMode.off),
     !(mk 1).mboxHeld.any (fun h => h.n.toNat == 0), (mk 1).mboxHeld.any (fun h => h.n.toNat == 1), ((mk 0).inChan 0 0).any (fun c => c.2.free == 0),
     decide (ag.mboxEnd 0 = none) && !ag.mboxSaved 0]) = [true, true, true, true, true] := by decide
theorem wit_RegisterWrites : (let g := tgt 0 0
    [ag.sregRefuses g .xctx 1 (ag.sregRead g .xctx), !ag.sregRefuses g .xinvaddr 0x10000 (ag.sregRead g .xinvaddr), svMask .xinvaddr != 0, svMask .setstat == 0,
     [(1, 14), (1, 16), (1, 17), (5, 2), (10, 1)].all (fun p : Nat × Nat => (List.range 100).any (fun k => Regs.reset.capAt (8 * k) == some p)),
     decide (Regs.reset.capAt 0xFFF8 = none)]) = [true, true, true, true, true, true] := by decide

/-- Configuration space with 4,096 GiB that keep their contents at port 0, where a checkpoint is to go. -/
def tier : Regs := { Regs.reset with tierPop := 1, tierUp := 1, tierPersist := 1, tierCap := [(0, 4096)], ckptDst := 0x20000000, keyData1 := 1 }
/-- A debug token for Observe against nonce 0 with its signature, and a sealing key under which it verifies (R270): the pair is made so that the
check needs few sums of points. -/
def tokenKey : List Byte := bigBytes 48 0x45810df79b53e043c66fa77dc87ac112ca705a3c0229f903ff5a407b5c8d87764343f00b7e3a6eaf34c912cabe19bc82 ++
  bigBytes 48 0x2d37134b220a51aab35274d5e0c17d9f7acd7b19536fec3f078a80c516d57abded45e8201a543dda8942862aec5bee7b
def token : State :=
  let r := 0x7c121c2d202bb28a85de899899f850a68edcd9c63f8d479dfb65056e2c418927a1b3868149eea9ae563204074ac08db9
  { State.reset with
    mem := ((8, 1) : Host.Cell) :: ((bigBytes 48 r ++ bigBytes 48 r).zipIdx.map (fun b => (32 + b.2, b.1))),
    cfg := { Regs.reset with sec := 2, sealKey := some tokenKey } }
theorem wit_SecurityAndPowerEvents_token : (let tok := Memory.bytes token.mem 0 32
    held token.cfg.sec 1 token.cfg.pwr == .token && decide (¬ (1 : BitVec 2) < token.cfg.dbg) && !token.cfg.secBusy && token.bufOk 0 128 && tokenShape tok 1 &&
      token.sealed tok (Memory.bytes token.mem 32 96) && BitVec.ofNat 64 (bytesNat (tok.take 8)) == token.cfg.nonce &&
      !tokenShape (Memory.bytes State.reset.mem 0 32) 1 && !State.reset.sealed tok (Memory.bytes token.mem 32 96) &&
      BitVec.ofNat 64 (bytesNat (tok.take 8)) != ({ Regs.reset with nonce := 1 }).nonce && decide ((1 : BitVec 2) < 2) &&
      held 2 1 0 == .token) = true := by decide +kernel
/-- An image that the fused key signs is accepted where the ROM waits for it; the key is free (log entry 3). -/
theorem wit_SecurityAndPowerEvents_recovery (h : fwOk 0 (Memory.bytes State.reset.mem 0x40000 112) = true) :
    let s : State := { State.reset with mem := [(0x40008, 112)], cfg := { Regs.reset with bootst := 1 } }
    ((0x40000 : BitVec 58) ≠ 0 ∧ s.cfg.bootst = 1) ∧ Memory.readLE s.mem 0x40008 8 % 2 ^ 32 = 112 ∧ s.memFaults 0x40000 112 false = false ∧
      fwOk s.cfg.svn (Memory.bytes State.reset.mem 0x40000 112) = true := by
  refine ⟨by decide, by decide, by decide, h⟩
theorem wit_SecurityAndPowerEvents : (let c := Regs.reset
    let ok (s : State) := s.bufOk (s.cfg.secBuf.toNat * 64) 96 && s.bufOk (s.cfg.secBuf.toNat * 64) 0x140
    [decide (({ c with pwr := 3 }).pwr = 3), decide (c.pwr ≠ 3) && ({ c with secBusy := true }).secBusy, decide (({ c with pwr := 2 }).pwr = 2) && !c.secBusy,
     (tier.place tier.ckptAddr == .tier 0) && tier.tierPersist.getLsbD 0 && State.reset.fresh.isEmpty,
     decide (c.sec = 0) && decide (c.dbg = 0) && ok State.reset && c.ckptBusy == false && State.reset.noRegion, !ok { State.reset with poison := [0] }, !ag.noRegion,
     ([(0, 1, 0), (1, 0, 0), (2, 0, 2)] : List (BitVec 2 × BitVec 2 × BitVec 2)).all (fun x => decide (held x.1 x.2.1 x.2.2 = .free)),
     ([(0, 2, 2), (1, 2, 2), (2, 2, 0)] : List (BitVec 2 × BitVec 2 × BitVec 2)).all (fun x => decide (held x.1 x.2.1 x.2.2 = .refused)),
     ({ c with sec := 1, dbg := 1 }).sec == 1, ({ c with bootst := 1, ckptBusy := true, pwr := 2 }).bootst == 1]) = [true, true, true, true, true, true, true, true, true, true, true] := by
  decide
theorem wit_KeyAndCheckpointEvents : [decide (tier.keyBusy = false) && decide (tier.ckptBusy = false) && decide (tier.keyData1 ≠ tier.keyData2),
     !State.reset.keyInUse 5, ({ tier with keyBusy := true }).keyBusy, decide (({ State.reset with cfg := tier }).ckptRefusal = none), decide (State.reset.ckptRefusal = some 2),
     decide (({ State.reset with cfg := { tier with ckptBusy := true } }).ckptRefusal = some 4)] = [true, true, true, true, true, true] := by decide
theorem wit_KeyAndCheckpointEvents_done : tier.persistRange tier.ckptAddr (1539 * gib) = true ∧ State.reset.cfg.persistRange State.reset.cfg.ckptAddr (1539 * gib) = false := by
  decide
theorem wit_TranslationControlEvents : (let busy := ag.modSet 0 0 (fun v => { v with regs := { v.regs with xinvBusy := true, xinvWait := [5] } })
    [at0 ag (fun v => !v.regs.xinvBusy), at0 busy (fun v => v.regs.xinvBusy && v.regs.xinvWait.all (fun i => (SMap.look busy.accs i).isNone))]) = [true, true] := by
  decide
/-- A set with a record of its thread 0, or of its command 0. -/
def faulty (eng : Bool) (idx : Nat) : State := (queue [qcmd (strm none) .stopped 1]).modSet 0 0 (fun v => { v with
  sweep := none, faulted := [⟨1, 2, 3, 4, eng, 0, false⟩], threads := v.threads.map (fun x : Nat × Thread => (x.1, Thread.fresh (.faulted 0 idx))) })
theorem wit_FaultHandlingEvents : [at0 (faulty false 0) (fun v => (v.threads.look 0).any (fun th => th.place == .faulted 0 0) && !v.setFault &&
      (v.entry? false 0 false).isSome && decide (0 < ((v.blocks[0]?).map Block.len).getD 0) && decide (((v.blocks[0]?).map Block.len).getD 0 ≤ 64)),
    at0 (faulty false 64) (fun v => (v.threads.look 0).any (fun th => th.place == .faulted 0 64)),
    at0 (faulty true 0) (fun v => (v.entry? true 0 false).isSome && !(faulty true 0).stoppedBinding 0 0 0 && (v.entry? false 0 false).isNone),
    at0 ag (fun v => !v.setFault && (v.entry? true 0 false).isNone && !ag.stoppedBinding 0 0 0),
    at0 (ag.modSet 0 0 (fun v => { v with setFault := true, stopped := true })) (fun v => v.setFault)] = [true, true, true, true, true] := by decide
theorem wit_DebuggerEvents : (let dbg (h : HaltSt) : State := { ag.modRegion 0 (fun x => { x with halt := h }) with cfg := { ag.cfg with dbg := 2 } }
    [reg0 (dbg .none) (fun x => (dbg .none).dbgControl && x.halt == .none && !x.dbgBusy && x.st == .running), reg0 (dbg .halted) (fun x => x.halt == .halted && x.tiles.contains 0),
     (dbg .halted).dbgPlace 0 0 524284 |>.isSome, ((dbg .halted).dbgPlace 0 0 2).isNone, ((dbg .halted).dbgPlace 6 0 2097144).isSome,
     reg0 (dbg .halted) (fun x => !x.tiles.contains 1023), !ag.dbgControl,
     reg0 ((dbg .none).modRegion 0 (fun x => { x with halt := .halting, hits := [(.none, 0xFF)] })) (fun x => x.dbgBusy), reg0 (dbg .halting) (fun x => x.halt == .halting && (dbg .halting).settled x),
     (let s := { dbg .halting with chans := [(0, { chan 255 0 7 [] with rets := 1 })] }
      reg0 s (fun x => !s.settled x))]) = [true, true, true, true, true, true, true, true, true, true] := by decide
/-- A walk on tile 0 at a firing whose last condition is a token or a push, with hops left; the same with the channel at that condition's end 0, and what
the hop ends with where the last push was made so and the tile keeps a note of firing 3 of element 7. -/
def walker (last left : Nat) : Gust := ⟨1, 0, left, 0, ⟨1, last, some 0, 0, 0, 0, 0, 0, 0, 0⟩⟩
def hopEnds (made : List (Option (Nat × Nat))) (g : Gust) (num : Nat) (p : Gust → Nat × Option (Nat × Note) → Bool) : Bool :=
  let s := { ag.putTile 0 { ag.tile 0 with gusts := [g], notes := [(7, [⟨num, 0, none, 0, 0, 0, 0, 0, 0, 0⟩])] } with
    chans := [(0, { chan 8 0 7 [] with pushed := 1, made := made })] }
  !s.traceStalls (pathEvent 0 g (s.hopEnd 0 g).1) && p g (s.hopEnd 0 g)
/-- The AG set under observation, with a value of TRCCTL. -/
def watch (ctl : Double) : State := { ag.modSet 0 0 (fun v => { v with regs := { v.regs with trcctl := ctl } }) with cfg := { ag.cfg with dbg := 1 } }
theorem wit_TraceEvents : (let k : TraceRec := ⟨1, 2, 3, 4⟩
    let dr (base : Double) : State := let s := ag.modSet 0 0 (fun v => { v with regs := { v.regs with trcbase := base } })
      s.putTile 0 { s.tile 0 with drift := [k] }
    let rp (w : Nat) : State := (((((ag.modSet 0 0 (fun v => { v with regs := { v.regs with rplctl := 0x8000000000000000 } })).putArr 0 1 { Arr.reset with
        mode := .running, present := 1, hdr := [0, 0, 0xFF00], sched := [0x400000000] }).writePlain 0 1).writePlain 64 (hindWord 5 1 0)).writePlain 72 (BitVec.ofNat 64 w))
    let on (w : Nat) : State := { rp w with chans := [(0, chan 20 0 7 [⟨0, 5, []⟩])], cfg := { ag.cfg with dbg := 2 } }
    [decide (((dr 1).tile 0).drift = [k]) && ((dr 1).tile 0).driftLost == 0 && (dr 1).canon && ((dr 1).setsOf 0).length == 1 &&
       [0, 1].all (fun b => at0 (dr b) (fun v => v.regs.trcbase == b && !(dr b).ringBankHeld v.regs.trcbase)),
     (match (dr 1).ringPut 1 1 2 3 4 with
      | .wrote .. => true
      | _ => false),
     (match ((dr 1).writePlain 0 (BitVec.ofNat 64 (ringSize 1))).ringPut 1 1 2 3 4 with
      | .full _ => true
      | _ => false),
     (match ag.ringPut 0 1 2 3 4 with
      | .off => true
      | _ => false),
     hopEnds [] (walker 2 4) 0 (fun g e => decide (2 ≤ g.note.last) && e.2.isNone),
     hopEnds [] (walker 0 4) 0 (fun g e => decide (g.note.last < 2) && decide (e = (4, none))),
     hopEnds [none] (walker 0 4) 0 (fun _ e => decide (e = (5, none))),
     hopEnds [some (7, 3)] (walker 0 4) 3 (fun _ e => e.1 == 0 && e.2.isSome),
     hopEnds [some (7, 3)] (walker 0 1) 3 (fun _ e => decide (e = (3, none))),
     (let s := watch 0
      reg0 s (fun x => x.st == .running) && s.dbgObserve && (s.syncSet 0).isNone && !(s.regionSets 0).any (fun v => (v.2.2.trcctl).extractLsb' 24 8 != 0)),
     (let s := watch 0x80FE00000A000000
      (s.syncSet 0).isSome && !s.traceStalls (syncEvent 0 0 ((s.set? 0 0).getD (SetState.start (wordEntry 0) [])) false)),
     (let s := watch 0x0A000000
      (s.regionSets 0).any (fun v => (v.2.2.trcctl).extractLsb' 24 8 != 0) && (s.syncSet 0).isNone),
     [0, 7].all (fun w => decide ((on w).hindLook 0 5 1 = some (BitVec.ofNat 64 w)) && decide ((on w).rplMode 0 = RplMode.strict) && !(on w).halting 0 && (on w).runs 0 &&
       ((on w).chooser 0 5 1).able && (((on w).chooser 0 5 1).choices.contains (BitVec.ofNat 64 w) == (w == 0)))]) =
    [true, true, true, true, true, true, true, true, true, true, true, true, true] := by decide

/-- A bank-side image of one empty graph, signed under the sealing key that is enrolled (R68): the pair is made so that the check needs few sums of
points. -/
def graphKey : List Byte := bigBytes 48 0x5b033344af2280f0b4a0d2d1385357730fc89e9c7aaed7162a5115db38e2ffe78b23f06e49020b156b80510c778ac8a1 ++
  bigBytes 48 0x17326a5d34e219665351a18d7f6b81ef83dea5d980946a62e78c2a20a037bdb46f1ad0bdf774e63f66608168dfb92fbe
def graphs : State :=
  let r := 0x130e59f3b244eb9ba2cdd234267218297f8f42bbc0fb49ed255d4fbcc0094a5d9a84b667baef614a239bf3e381c19e50
  { State.reset with
    cfg := { Regs.reset with sealKey := some graphKey },
    mem := (bigBytes 48 r ++ bigBytes 48 r).zipIdx.foldl (fun m b => Memory.writeLE m (256 + b.2) 1 b.1.toNat)
      ((List.range 7).foldl (fun m i => Memory.writeLE m (8 * i) 8 (([0x4453534200000001, 0x100000160, 0, 0, 0, 0, 0x10000] : List Nat).getD i 0)) []) }
theorem wit_NearMemoryCommands_launch : (match graphs.launchCheck 0 with
    | .ok l => l == [[0, 0, 0x10000] ++ List.replicate 25 0]
    | .error _ => false) = true := by decide +kernel
/-- The digest of "abc" that FIPS 180-4 publishes; r and s of a signature are not 0. -/
theorem test_sha384 : sha384 [0x61, 0x62, 0x63] =
    0xcb00753f45a35e8bb5a03d699ac65007272c32ab0eded1631a8b605a43ff5bed8086072ba1e7cc2358baeca134c825a7 ∧
    ecdsaVerify graphKey [0] (bigBytes 48 3 ++ bigBytes 48 0) = false := by decide +kernel
theorem wit_DecodeEncodeAgree : [(.nop t7 : Instr), .addInt ⟨true, 0⟩ .n64 (.s 15) (.s 0) (.x 30), .trapFwd t7 (.k 7)].all (fun i => i.wf && (encode i).isSome) = true := by
  decide
theorem wit_DecodedWordsReencode : (match decodeWord 0x1403800000000000 with
    | .ok i => i.wf && encode i == some 0x1403800000000000
    | .error _ => false) = true := by decide
theorem wit_UnlistedEncodingsAreIllegal : (let s : State := State.reset.placeWord 0xFFFFFFFFFFFFFFFF
    [!assigned 0 0, !assigned 63 63, at0 s (fun v => v.sweep.any (fun x => (x.passes[x.cur]?).isSome && x.mode != .trap &&
      (v.blocks[x.blk]?).any (fun b => !NSet.has (s.tile 0).poolPoison (poolWord 0 b x.idx) &&
        SMap.get 0 (s.tile 0).pool (poolWord 0 b x.idx) == 0xFFFFFFFFFFFFFFFF)) && !v.stopped && !v.driftHeld && s.runs 0),
     (let u := trp.putTile 0 { trp.tile 0 with pool := SMap.put 0 (trp.tile 0).pool 1 0x1407800000000000 }
      at0 u (fun v => v.sweep.any (fun x => x.mode == .trap && (x.passes[x.cur]?).any (fun p => decide (p.tids = [0])) &&
        (v.blocks[x.blk]?).any (fun b => match decodeWord (SMap.get 0 (u.tile 0).pool (poolWord 0 b x.idx)) with
          | .error e => e == .reservedField
          | .ok _ => false)))),
     solo ag (fun c _ => (ag.storesOf c).isEmpty && c.mode != .trap) && solo trp (fun c _ => (trp.storesOf c).isEmpty && c.mode == .trap)]) =
    [true, true, true, true, true] := by decide
theorem wit_CanonicalFormIsKept : [State.reset, ag, cp, trapped].all State.canon = true ∧ (match step ag with
    | .next _ => true
    | _ => false) = true := by decide
theorem wit_StepRunsTheDecodedInstruction : (let s := State.reset.withFetchWord 64 0x1403800000000000
    [decide (s.agenda = [.issue 0 0]), at0 s (fun v => v.sweep.any (fun x => (x.passes[x.cur]?).isSome && (v.blocks[x.blk]?).any (fun b =>
      !NSet.has (s.tile 0).poolPoison (poolWord 0 b x.idx) && (decodeWord (SMap.get 0 (s.tile 0).pool (poolWord 0 b x.idx))).toOption == some (.nop t7))) &&
        !v.stopped && !v.driftHeld && s.runs 0)]) = [true, true] := by decide
theorem wit_FalseGuardsSkip : (let i : Instr := .addInt ⟨false, 0⟩ .i32 (.x 1) (.x 2) (.x 3)
    let s := running i []
    [(encode i).isSome, s.focus?.any (fun f => decide (f.2.2.tids = [0]) && f.2.1.done.isEmpty && (f.1.threads.look 0).any (fun th => !th.guard i.guard) &&
      (f.1.groupsOf 0).isEmpty)]) = [true, true] := by decide
theorem wit_TrapsAndThreadFaults : (let plain := ag.modSet 0 0 (fun v => { v with ent := { v.ent with sup := false } })
    [solo plain (fun c v => c.mode != .trap && !v.supervisor) && (privileged? (.nmqPoll t7 (.x 1) (.x 2))).isSome,
     solo cp (fun _ v => v.ent.typ != .ag) && (queued? (strm none)).isSome, solo ag (fun _ v => v.ent.typ == .ag),
     (let s := ag.putTile 0 { ag.tile 0 with lvsPoison := [2] }
      solo s (fun c v => NSet.has (s.tile c.tile).lvsPoison (v.ent.xWord c.tid 2))),
     at0 trp (fun v => (v.threads.look 0).isSome && v.hasTrap)]) = [true, true, true, true, true] := by decide
theorem wit_MemoryAndRegisterLaws : Memory.wf (Memory.writeLE [] 5 2 0x100) = true ∧ Memory.wf [] = true ∧ ag.canon = true := by decide
theorem wit_ResultFrame : ag.canon = true ∧ solo ag (fun c v => (v.threads.look c.tid).isSome && SMap.wf (0 : Double) v.sreg && (popEnds v.ent [wOpd (.x 1)]).isEmpty) = true := by
  decide
theorem wit_StoresWriteTheirBytes : (let mk (loc : Place2) : State := { ag with accs := [(2, acc .store loc)] }
    [(mk (.tile 0x40)).canon && (mk (.tile 0x40)).accReady (acc .store (.tile 0x40)) && !NSet.has (ag.tile 0).memPoison 8,
     (mk (.dev 0x40 0)).accReady (acc .store (.dev 0x40 0)) && decide (ag.cfg.place 0x40 ≠ .config) && !ag.memFaults 0x40 4 false,
     (mk (.dev 0x7C 5)).accReady (acc .store (.dev 0x7C 5)) && decide (0x7C % 64 + 4 ≤ 64),
     (mk (.line 3 7)).accReady (acc .store (.line 3 7)) && !(mk (.line 3 7)).memFaults (64 * 3) 64 true]) = [true, true, true, true] := by decide

/-! Witnesses for the clauses of the wider statements. -/

theorem wit_LocalAccessesIssue_fault : (let m : MemRef := ⟨0, none, 0, 0, 0x42⟩
    solo cp (fun c v => [false, true].all (fun st => tileCheck (cp.tile c.tile) (eaOf c cp m) 4 st false == some Code.align) && c.mode != .trap &&
      readsClean { load := true, acq := false, rel := false, size := .w32, data := .x 5, m := m } c cp v)) = true := by decide
theorem wit_SelectMarkCounterResults_full : [0, 1024].all (fun n =>
    let s := { (ag.modSet 0 0 (fun v => { v with regs := { v.regs with trcctl := 0xC0FF000000000000 } })) with cfg := { ag.cfg with dbg := 1 } }
    let u := s.putTile 0 { s.tile 0 with drift := List.replicate n ⟨0, 0, 0, 0⟩ }
    solo u (fun c v => v.sweep.any (fun w => u.traceStalls (u.markEvent c.tile c.set v w 5) == (n == 1024)))) = true := by decide
/-- A state in which a write of node 4 is still to come. -/
def waits : State := { ag with accs := [(4, { acc .store (.dev 0x40 0) with tile := 1028 })] }
theorem wit_ChannelsMoveTokens_released : [!waits.released ⟨0, 9, [⟨4, 4, true⟩]⟩, ag.released ⟨0, 9, [⟨4, 4, true⟩]⟩, ag.released ⟨0, 9, []⟩,
    !(waits.inboundIds 4).all waits.met, (waits.inboundIds 5).all waits.met] = [true, true, true, true, true] := by decide
theorem wit_WalksAndAtomics_leaf : (let x : Xlat := ⟨.set 0 0, 1, 0x40, 0, 1⟩
    [!ag.xlat.contains x && decide ((ag.xlat.filter (fun y => y.at' == x.at')).length < x.at'.capacity), ({ ag with xlat := [x] }).xlat.contains x,
     (let a := acc (.atom .add .i32 0 true) (.tile 0x40)
      decide (a.after = []) && !{ rd with accs := [(2, a)] }.overShown 2 a && a.set != portSet)]) = [true, true, true] := by decide
theorem wit_CircuitEvents_turn : (let s := ag.putTile 0 { ag.tile 0 with cirTurn := [1] }
    NSet.has (s.tile 0).cirTurn 1) = true := by decide
theorem wit_NearMemoryCommands_open : (let s := nmq 0x1000000000000000 0x1000 .reset
    [decide (s.cfg.pwr = 0), !s.sectionHeld 0x1000, decide (State.reset.cfg.pwr ≠ 3)]) = [true, true, true] := by decide
/-- A channel whose consumer is end 0 of tile 0, in a state where a circuit, a port node, a cube binding, a command or the set itself takes from it. -/
def fed (s : State) : State := { s with chans := [(5, chan 20 0 7 [])] }
def fedSet : State := fed (rest.modSet 0 0 (fun v => { v with ent := { v.ent with chin := [0, 255, 255, 255, 255, 255, 255, 255] } }))
theorem wit_HardwareFaultEvents_channel : (let arr (s : State) := (s.tile 0).arrs.find? (fun a => a.2.holds && a.2.ice == 0)
    let port (s : State) := (s.tile 0).ports.find? (fun p => p.input == some 0)
    let plain (s : State) : Bool := (arr s).isNone && (port s).isNone && decide (s.endSet? 0 0 = some 0)
    let cube := fedSet.putTile 0 { fedSet.tile 0 with cube := { Cube.reset with binding := some (bound 0) } }
    let cmd := fedSet.modSet 0 0 (fun v => { v with queue := [qcmd (.strmWr ⟨t7, none, none, 0, none⟩ 0 4) .issued 1] })
    [((fed ag).chans.look 5).any (fun c => c.cons == .tile 0 0), (arr (fed (ag.putArr 0 1 { Arr.reset with holds := true, hdr := [0, 0, 0xFF00] }))).isSome,
     (arr (porter [])).isNone && (port (porter [])).isSome,
     plain cube && at0 cube (fun v => cube.boundByCube 0 0 v.ent true 0),
     plain cmd && at0 cmd (fun v => !cmd.boundByCube 0 0 v.ent true 0 && (v.popper 0).isSome),
     plain fedSet && at0 fedSet (fun v => !fedSet.boundByCube 0 0 v.ent true 0 && (v.popper 0).isNone),
     (arr State.reset).isNone && (port State.reset).isNone && (State.reset.endSet? 0 0).isNone]) = [true, true, true, true, true, true, true] := by decide
theorem wit_RegisterWrites_space : (let at' (p : Nat × Nat) : Bool := (List.range 100).any (fun k => Regs.reset.capAt (8 * k) == some p)
    [(List.range 4).all (fun i => at' (2, 2 + i) && at' (2, 6 + i) && at' (4, 2 + i)), at' (2, 1) && at' (1, 15) && at' (4, 6) && at' (4, 7) && at' (5, 3),
     at' (11, 2) && at' (11, 3), !ag.sregRefuses (tgt 0 0) .rfqbase 2 (ag.sregRead (tgt 0 0) .rfqbase) && svMask .rfqbase != 0,
     !ag.sregRefuses (tgt 0 0) .trcbase 2 (ag.sregRead (tgt 0 0) .trcbase) && svMask .trcbase != 0]) = [true, true, true, true, true] := by decide
theorem wit_SecurityAndPowerEvents_attest : (let c : Regs := { Regs.reset with sec := 1, fwHash := some 0 }
    let s := { State.reset with cfg := c }
    [decide (¬ (c.sec = 0 ∨ c.dbg = 2 ∨ (c.sec = 1 ∧ c.dbg ≠ 0))) && !c.secBusy && decide (c.pwr ≠ 3), s.bufOk 0 0x140 && s.canon && c.fwHash.isSome,
     !({ s with poison := [1] }).bufOk 0 0x140]) = [true, true, true] := by decide
theorem wit_KeyAndCheckpointEvents_held : [decide (({ tier with pwr := 3 }).pwr = 3), !({ State.reset with holds := [1] }).holds.isEmpty] = [true, true] := by decide
theorem wit_FaultHandlingEvents_binding : (let s := ag.putTile 0 { ag.tile 0 with cube := { Cube.reset with binding := some { bound 0 with fault := true } } }
    let f := (queue [{ qcmd (strm none) .stopped 2 with held := [(0, 0)] }]).modSet 0 0 (fun v => { v with faulted := [⟨1, 2, 3, 4, true, 0, false⟩] })
    [at0 s (fun v => !v.setFault && s.stoppedBinding 0 0 0), at0 f (fun v => (v.entry? true 0 false).isSome && (v.cmd? 0).isSome)]) = [true, true] := by decide
theorem wit_DebuggerEvents_complete : (let s := { ag.modRegion 0 (fun x => { x with st := .complete }) with cfg := { ag.cfg with dbg := 2 } }
    reg0 s (fun x => s.dbgControl && x.st == .complete && x.halt == .none && !x.dbgBusy)) = true := by decide
theorem wit_TraceEvents_unseen : !ag.dbgObserve && !ag.ringBankHeld 1 = true := by decide
theorem wit_FalseGuardsSkip_check : (let i : Instr := .brC ⟨false, 0⟩ (.q 1) 5 5
    let s := running i []
    s.focus?.any (fun f => (wordCheck i f.1 { focusCtx s f.1 f.2.1 f.2.2 with tid := 0 }).isSome && (f.1.threads.look 0).any (fun th => !th.guard i.guard)) &&
      (let j : Instr := .addInt ⟨false, 0⟩ .i32 (.x 1) (.x 2) (.x 3)
       let u := running j []
       u.focus?.any (fun f => (wordCheck j f.1 { focusCtx u f.1 f.2.1 f.2.2 with tid := 0 }).isNone))) = true := by decide
theorem wit_StoresWriteTheirBytes_turn : (let s : State := { ag with accs := [(2, acc .store (.tile 0x40))] }
    (acc .store (.tile 0x40)).pending && !s.overShown 2 (acc .store (.tile 0x40))) = true := by decide

end Sys2Proof.Tests
end

section
/-! SUPPORT. The canonical form (O53): what sparse maps, tiles and results owe it, and that every operation of the model keeps it. -/
namespace Sys2Proof.Machine
open Sys2Proof

-- Hundreds of short proofs that cite each other: elaborated one by one they need one thread.
set_option Elab.async false

/-! ### The canonical form: maps and memories -/

theorem SMap.wfFrom_filter {α : Type} [DecidableEq α] {d : α} {m : SMap α} {lo : Nat} (hm : SMap.wfFrom d lo m = true) (p : Nat × α → Bool) :
    SMap.wfFrom d lo (m.filter p) = true := by
  induction m generalizing lo with
  | nil => rfl
  | cons x m ih =>
    obtain ⟨k, v⟩ := x
    simp only [SMap.wfFrom, Bool.and_eq_true, decide_eq_true_eq] at hm
    obtain ⟨⟨hk, hv⟩, hm⟩ := hm
    simp only [List.filter_cons]
    split
    · simp [SMap.wfFrom, hk, hv, ih hm]
    · exact SMap.wfFrom_mono (by omega) (ih hm)

/-- A part of a canonical map is canonical. -/
theorem SMap.wf_filter {α : Type} [DecidableEq α] {d : α} {m : SMap α} (hm : SMap.wf d m = true) (p : Nat × α → Bool) :
    SMap.wf d (m.filter p) = true := SMap.wfFrom_filter hm p

theorem SMap.wf_foldl {α β : Type} [DecidableEq β] {d : β} {f : SMap β → α → SMap β} {l : List α} {m : SMap β} (h : SMap.wf d m = true)
    (hf : ∀ {m a}, SMap.wf d m = true → SMap.wf d (f m a) = true) : SMap.wf d (l.foldl f m) = true := by
  induction l generalizing m with
  | nil => exact h
  | cons a l ih => exact ih (hf h)

theorem Memory.wf_foldl {α : Type} {f : Memory → α → Memory} {l : List α} {m : Memory} (h : Memory.wf m = true)
    (hf : ∀ {m a}, Memory.wf m = true → Memory.wf (f m a) = true) : Memory.wf (l.foldl f m) = true := SMap.wf_foldl h hf

/-! ### Tiles -/

theorem Tile.canon_iff {x : Tile} : x.canon = true ↔ Memory.wf x.mem = true ∧ Memory.wf x.opmem = true ∧ SMap.wf (0 : Word) x.lvs = true ∧
    SMap.wf (0 : Word) x.acs = true ∧ SMap.wf (0 : Double) x.pool = true := by
  simp [Tile.canon, and_assoc]

section
variable {x x' : Tile}

theorem Tile.wf_mem (h : x.canon = true) : Memory.wf x.mem = true := (Tile.canon_iff.1 h).1
theorem Tile.wf_opmem (h : x.canon = true) : Memory.wf x.opmem = true := (Tile.canon_iff.1 h).2.1
theorem Tile.wf_lvs (h : x.canon = true) : SMap.wf (0 : Word) x.lvs = true := (Tile.canon_iff.1 h).2.2.1
theorem Tile.wf_acs (h : x.canon = true) : SMap.wf (0 : Word) x.acs = true := (Tile.canon_iff.1 h).2.2.2.1
theorem Tile.wf_pool (h : x.canon = true) : SMap.wf (0 : Double) x.pool = true := (Tile.canon_iff.1 h).2.2.2.2

/-- The canonical form of a tile speaks of its five memories alone. -/
theorem Tile.canon_frame (h : x.canon = true) (h1 : x'.mem = x.mem := by exact rfl) (h2 : x'.opmem = x.opmem := by exact rfl)
    (h3 : x'.lvs = x.lvs := by exact rfl) (h4 : x'.acs = x.acs := by exact rfl) (h5 : x'.pool = x.pool := by exact rfl) : x'.canon = true := by
  unfold Tile.canon at h ⊢; rw [h1, h2, h3, h4, h5]; exact h

theorem Tile.canon_set_mem (h : x.canon = true) (h1 : Memory.wf x'.mem = true) (h2 : x'.opmem = x.opmem := by exact rfl)
    (h3 : x'.lvs = x.lvs := by exact rfl) (h4 : x'.acs = x.acs := by exact rfl) (h5 : x'.pool = x.pool := by exact rfl) : x'.canon = true := by
  obtain ⟨-, k2, k3, k4, k5⟩ := Tile.canon_iff.1 h
  exact Tile.canon_iff.2 ⟨h1, h2 ▸ k2, h3 ▸ k3, h4 ▸ k4, h5 ▸ k5⟩

theorem Tile.canon_set_opmem (h : x.canon = true) (h2 : Memory.wf x'.opmem = true) (h1 : x'.mem = x.mem := by exact rfl)
    (h3 : x'.lvs = x.lvs := by exact rfl) (h4 : x'.acs = x.acs := by exact rfl) (h5 : x'.pool = x.pool := by exact rfl) : x'.canon = true := by
  obtain ⟨k1, -, k3, k4, k5⟩ := Tile.canon_iff.1 h
  exact Tile.canon_iff.2 ⟨h1 ▸ k1, h2, h3 ▸ k3, h4 ▸ k4, h5 ▸ k5⟩

theorem Tile.canon_set_lvs (h : x.canon = true) (h3 : SMap.wf (0 : Word) x'.lvs = true) (h1 : x'.mem = x.mem := by exact rfl)
    (h2 : x'.opmem = x.opmem := by exact rfl) (h4 : x'.acs = x.acs := by exact rfl) (h5 : x'.pool = x.pool := by exact rfl) : x'.canon = true := by
  obtain ⟨k1, k2, -, k4, k5⟩ := Tile.canon_iff.1 h
  exact Tile.canon_iff.2 ⟨h1 ▸ k1, h2 ▸ k2, h3, h4 ▸ k4, h5 ▸ k5⟩

theorem Tile.canon_set_acs (h : x.canon = true) (h4 : SMap.wf (0 : Word) x'.acs = true) (h1 : x'.mem = x.mem := by exact rfl)
    (h2 : x'.opmem = x.opmem := by exact rfl) (h3 : x'.lvs = x.lvs := by exact rfl) (h5 : x'.pool = x.pool := by exact rfl) : x'.canon = true := by
  obtain ⟨k1, k2, k3, -, k5⟩ := Tile.canon_iff.1 h
  exact Tile.canon_iff.2 ⟨h1 ▸ k1, h2 ▸ k2, h3 ▸ k3, h4, h5 ▸ k5⟩

theorem Tile.canon_set_pool (h : x.canon = true) (h5 : SMap.wf (0 : Double) x'.pool = true) (h1 : x'.mem = x.mem := by exact rfl)
    (h2 : x'.opmem = x.opmem := by exact rfl) (h3 : x'.lvs = x.lvs := by exact rfl) (h4 : x'.acs = x.acs := by exact rfl) : x'.canon = true := by
  obtain ⟨k1, k2, k3, k4, -⟩ := Tile.canon_iff.1 h
  exact Tile.canon_iff.2 ⟨h1 ▸ k1, h2 ▸ k2, h3 ▸ k3, h4 ▸ k4, h5⟩

theorem Tile.canon_foldl {α : Type} {f : Tile → α → Tile} {l : List α} (h : x.canon = true)
    (hf : ∀ {x a}, x.canon = true → (f x a).canon = true) : (l.foldl f x).canon = true := by
  induction l generalizing x with
  | nil => exact h
  | cons a l ih => exact ih (hf h)

end

/-! ### States -/

section
variable {s s' : State}

/-- The canonical form of a state speaks of device memory and the tiles alone. -/
theorem State.canon_frame (h : s.canon = true) (hm : s'.mem = s.mem := by exact rfl) (ht : s'.tiles = s.tiles := by exact rfl) :
    s'.canon = true := by
  unfold State.canon at h ⊢; rw [hm, ht]; exact h

theorem State.canon_set_mem (h : s.canon = true) (hm : Memory.wf s'.mem = true) (ht : s'.tiles = s.tiles := by exact rfl) : s'.canon = true := by
  simp only [State.canon, Bool.and_eq_true] at h ⊢
  rw [ht]
  exact ⟨⟨hm, h.1.2⟩, h.2⟩

/-- A tile that is put back with other fields than its memories changed. -/
theorem State.canon_putTile_frame {t : Nat} {v : Tile} (h : s.canon = true) (h1 : v.mem = (s.tile t).mem := by exact rfl)
    (h2 : v.opmem = (s.tile t).opmem := by exact rfl) (h3 : v.lvs = (s.tile t).lvs := by exact rfl) (h4 : v.acs = (s.tile t).acs := by exact rfl)
    (h5 : v.pool = (s.tile t).pool := by exact rfl) : (s.putTile t v).canon = true :=
  State.canon_putTile h t (Tile.canon_frame (State.canon_tile h t) h1 h2 h3 h4 h5)

theorem State.canon_foldl {α : Type} {f : State → α → State} {l : List α} (h : s.canon = true)
    (hf : ∀ {s a}, s.canon = true → (f s a).canon = true) : (l.foldl f s).canon = true := by
  induction l generalizing s with
  | nil => exact h
  | cons a l ih => exact ih (hf h)

theorem PassSt.canon_foldl {α : Type} {f : PassSt → α → PassSt} {l : List α} {p : PassSt} (h : p.s.canon = true)
    (hf : ∀ {p a}, p.s.canon = true → (f p a).s.canon = true) : (l.foldl f p).s.canon = true := by
  induction l generalizing p with
  | nil => exact h
  | cons a l ih => exact ih (hf h)

end

/-! ### What holds a state: it is canonical when every state in it is -/

def OutCanon : Host.Outcome State Fault Refusal → Prop
  | .next s => s.canon = true
  | _ => True

def OptCanon : Option State → Prop
  | some s => s.canon = true
  | none => True

def Serve.Canon : Serve → Prop
  | .ok s _ | .park s _ | .fault s _ | .setFault s _ | .gone s | .stall s => s.canon = true

def SecRes.Canon : SecRes → Prop
  | .ok s => s.canon = true
  | .err _ => True

def RingRes.Canon : RingRes → Prop
  | .full s | .wrote s _ => s.canon = true
  | _ => True

def Arrival.Canon : Arrival → Prop
  | .parked s | .held s => s.canon = true
  | _ => True

def XlRes.Canon : XlRes → Prop
  | .fault s _ | .wait s _ | .ok s _ => s.canon = true

def Fetched.Canon : Fetched → Prop
  | .fault s _ | .wait s | .ok s _ _ => s.canon = true

def Choosing.Canon : Choosing → Prop
  | .take s => s.canon = true
  | _ => True

def Deliver.Canon : Deliver → Prop
  | .stall s | .diverged s | .done s => s.canon = true
  | .wait => True

def Fetch.Canon : Fetch → Prop
  | .stall s | .trap s | .run _ s => s.canon = true

def Datum.Canon : Datum → Prop
  | .wait s | .placed s _ | .fault s _ | .value s _ => s.canon = true

def Piece.Canon : Piece → Prop
  | .wait s | .fault s _ | .ok s _ => s.canon = true

def PortAct.Canon : PortAct → Prop
  | .quiet s | .fault s _ => s.canon = true
  | .fire _ k => ∀ n, (k n).canon = true
  | .wait => True

section
variable {c : Prop} {inst : Decidable c}

/-- What both branches satisfy, a conditional satisfies. -/
theorem holds_ite {α : Type} {P : α → Prop} {a b : α} (ha : P a) (hb : P b) : P (if c then a else b) := by split <;> assumption

theorem State.canon_ite {a b : State} (ha : a.canon = true) (hb : b.canon = true) : (if c then a else b).canon = true :=
  holds_ite (P := fun s : State => s.canon = true) ha hb

theorem Tile.canon_ite {a b : Tile} (ha : a.canon = true) (hb : b.canon = true) : (if c then a else b).canon = true :=
  holds_ite (P := fun x : Tile => x.canon = true) ha hb

theorem PassSt.canon_ite {a b : PassSt} (ha : a.s.canon = true) (hb : b.s.canon = true) :
    (if c then a else b).s.canon = true :=
  holds_ite (P := fun p : PassSt => p.s.canon = true) ha hb

theorem State.canon_fst_ite {β : Type} {a b : State × β} (ha : a.1.canon = true) (hb : b.1.canon = true) :
    (if c then a else b).1.canon = true :=
  holds_ite (P := fun p : State × β => p.1.canon = true) ha hb

theorem State.canon_snd_ite {β : Type} {a b : β × State} (ha : a.2.canon = true) (hb : b.2.canon = true) :
    (if c then a else b).2.canon = true :=
  holds_ite (P := fun p : β × State => p.2.canon = true) ha hb

end

section
variable {s : State}

theorem State.canon_getD {a : Option State} (ha : OptCanon a) (h : s.canon = true) : (a.getD s).canon = true := by
  cases a with
  | none => exact h
  | some s1 => exact ha

theorem State.canon_elim {α : Type} {a : Option α} {f : α → State} (h : s.canon = true) (hf : ∀ x, (f x).canon = true) :
    (a.elim s f).canon = true := by
  cases a with
  | none => exact h
  | some x => exact hf x

end

/-! What a term satisfies, its value in a branch of a match satisfies: `e` is the equation that the branch adds. -/

theorem OptCanon.of_eq {a b : Option State} (h : OptCanon a) (e : a = b) : OptCanon b := e ▸ h
theorem OutCanon.of_eq {a b} (h : OutCanon a) (e : a = b) : OutCanon b := e ▸ h
theorem Serve.Canon.of_eq {a b : Serve} (h : a.Canon) (e : a = b) : b.Canon := e ▸ h
theorem SecRes.Canon.of_eq {a b : SecRes} (h : a.Canon) (e : a = b) : b.Canon := e ▸ h
theorem RingRes.Canon.of_eq {a b : RingRes} (h : a.Canon) (e : a = b) : b.Canon := e ▸ h
theorem Arrival.Canon.of_eq {a b : Arrival} (h : a.Canon) (e : a = b) : b.Canon := e ▸ h
theorem XlRes.Canon.of_eq {a b : XlRes} (h : a.Canon) (e : a = b) : b.Canon := e ▸ h
theorem Fetched.Canon.of_eq {a b : Fetched} (h : a.Canon) (e : a = b) : b.Canon := e ▸ h
theorem Choosing.Canon.of_eq {a b : Choosing} (h : a.Canon) (e : a = b) : b.Canon := e ▸ h
theorem Deliver.Canon.of_eq {a b : Deliver} (h : a.Canon) (e : a = b) : b.Canon := e ▸ h
theorem Fetch.Canon.of_eq {a b : Fetch} (h : a.Canon) (e : a = b) : b.Canon := e ▸ h
theorem Datum.Canon.of_eq {a b : Datum} (h : a.Canon) (e : a = b) : b.Canon := e ▸ h
theorem Piece.Canon.of_eq {a b : Piece} (h : a.Canon) (e : a = b) : b.Canon := e ▸ h
theorem PortAct.Canon.of_eq {a b : PortAct} (h : a.Canon) (e : a = b) : b.Canon := e ▸ h

/-! ### The operations of the model, in its order -/

section
variable {s : State} {x : Tile} {t o tid n a e r i k l pa seq blk idx who node u w q elem kind : Nat} {c : Ctx} {v : SetState} {g : Guard}
  {cmd : Cmd} {f : FaultInfo} {p : PassSt} {sc : SCom} {d b : Opd} {m : MemRef}

/-! #### Order -/

theorem State.canon_endWrites (h : s.canon = true) {tiles : NSet} : (s.endWrites tiles).canon = true := State.canon_frame h

/-! #### Ops -/

theorem State.canon_putX (h : s.canon = true) {e : SetEntry} {v : Word} : (s.putX t e tid n v).canon = true := State.canon_putLvs h ..

theorem State.canon_countTile (h : s.canon = true) : (s.countTile t n k).canon = true := State.canon_putTile_frame h

theorem State.canon_pass (h : s.canon = true) : (s.pass t e).canon = true := State.canon_putTile_frame h

theorem State.canon_popAt (h : s.canon = true) : (s.popAt t e).canon = true := by
  unfold State.popAt
  split
  · exact State.canon_ite (State.canon_pass (State.canon_putChan h ..)) (State.canon_putChan h ..)
  exact h

theorem State.canon_pushFrom (h : s.canon = true) {src : Option (Nat × Nat)} {k : Token} : (s.pushFrom src t e k).canon = true := by
  unfold State.pushFrom
  split
  · exact State.canon_putChan h ..
  exact h

theorem State.canon_ringPut (h : s.canon = true) {base w0 w1 w2 w3 : Double} : (s.ringPut base w0 w1 w2 w3).Canon := by
  unfold State.ringPut
  refine holds_ite trivial ?_
  extract_lets a wr rd slot s1
  clear_value wr rd
  refine holds_ite trivial (holds_ite (State.canon_writePlain h ..) (holds_ite trivial ?_))
  exact State.canon_writePlain (State.canon_writePlain (State.canon_writePlain (State.canon_writePlain (State.canon_writePlain h ..) ..) ..) ..) ..

theorem State.canon_ringBell (h : s.canon = true) {addr : Nat} : (s.ringBell addr).canon = true := State.canon_ite h (State.canon_frame h)

theorem State.canon_modRegionRegs (h : s.canon = true) {f : SetRegs → SetRegs} : (s.modRegionRegs r f).canon = true :=
  State.canon_foldl h fun hs => State.canon_modSet hs ..

theorem State.canon_regionRecord (h : s.canon = true) {w0 w1 w2 w3 : Double} : (s.regionRecord r w0 w1 w2 w3).canon = true := by
  unfold State.regionRecord
  split
  · exact h
  refine State.canon_ite (State.canon_frame h) ?_
  split
  · exact h
  · exact State.canon_modRegionRegs h
  · next e => exact (State.canon_ringPut h).of_eq e
  next e => exact State.canon_ite (State.canon_ringBell ((State.canon_ringPut h).of_eq e)) ((State.canon_ringPut h).of_eq e)

theorem State.canon_tileRecord (h : s.canon = true) {w0 w1 w2 w3 : Double} : (s.tileRecord t w0 w1 w2 w3).canon = true := by
  unfold State.tileRecord
  split
  · exact State.canon_regionRecord h
  exact h

theorem State.canon_setFaultAt (h : s.canon = true) : (s.setFaultAt t o f who blk idx).canon = true := by
  unfold State.setFaultAt
  split
  · exact h
  exact State.canon_tileRecord (State.canon_putSet h ..)

theorem State.canon_enterVector (h : s.canon = true) {e : FaultEntry} : (s.enterVector t o e).canon = true := by
  unfold State.enterVector
  split
  · exact h
  exact State.canon_ite (State.canon_putSet h ..) (State.canon_tileRecord (State.canon_putSet h ..))

theorem State.canon_threadFault (h : s.canon = true) {loops : Loops} {inTrap : Bool} :
    (s.threadFault t o tid blk idx loops inTrap f).canon = true := by
  refine State.canon_ite (State.canon_setFaultAt h) ?_
  split
  · exact h
  exact State.canon_enterVector (State.canon_modThread h ..)

theorem State.canon_cmdFault (h : s.canon = true) {invoc : BitVec 24} : (s.cmdFault t o seq blk invoc f).canon = true :=
  State.canon_enterVector (State.canon_modSet h ..)

theorem State.canon_notice (h : s.canon = true) {node : Word} {invoc : BitVec 24} {g : RecFlags} : (s.notice t o blk node invoc g f).canon = true :=
  State.canon_tileRecord h

/-! #### Operands -/

theorem canon_writeOpd (h : s.canon = true) {wide : Bool} {tag : BitVec 3} {o : Opd} {v : Double} : (writeOpd c s wide tag o v).canon = true := by
  unfold writeOpd
  split
  · exact h
  split
  · exact State.canon_ite (State.canon_putX (State.canon_putX h)) (State.canon_putX h)
  · exact State.canon_putSet h ..
  · exact State.canon_ite h (State.canon_modThread h ..)
  · exact State.canon_putSet h ..
  · exact State.canon_pushFrom h
  · exact State.canon_pushFrom h
  · exact h
  exact h

/-! #### Threads -/

theorem State.canon_acquire (h : s.canon = true) {ns : List Need} : (s.acquire t o tid ns).canon = true := State.canon_modThread h ..

theorem State.canon_acquireSet (h : s.canon = true) {ns : List Need} : (s.acquireSet t o ns).canon = true := by
  unfold State.acquireSet
  split
  · exact h
  exact State.canon_foldl (State.canon_putSet h ..) fun hs => State.canon_acquire hs

theorem State.canon_putBar (h : s.canon = true) {region : Bool} {b : Barrier} : (s.putBar t region n b).canon = true := by
  refine State.canon_ite ?_ (State.canon_putTile_frame h)
  split
  · exact State.canon_modRegion h ..
  exact h

theorem State.canon_barRelease (h : s.canon = true) {region : Bool} : (s.barRelease t region n).canon = true :=
  State.canon_ite (State.canon_putBar h) (State.canon_putBar (State.canon_foldl h fun hs => State.canon_modThread (State.canon_acquire hs) ..))

theorem State.canon_arrive (h : s.canon = true) {p : Party} {region : Bool} : (s.arrive p region n).Canon := by
  unfold State.arrive
  dsimp only
  split
  · trivial
  · exact State.canon_putBar h
  exact State.canon_putBar h

theorem State.canon_barCheck (h : s.canon = true) {region : Bool} : (s.barCheck t region n).canon = true :=
  State.canon_ite (State.canon_barRelease h) h

theorem State.canon_countHeld {region : Bool} (h : s.canon = true) {p : Party} : (State.countHeld region n s p).canon = true := by
  unfold State.countHeld
  split
  · exact h
  split
  · split
    · exact State.canon_setFaultAt (State.canon_modThread h ..)
    · next e => exact State.canon_barCheck (State.canon_modThread ((State.canon_arrive h).of_eq e) ..)
    next e => exact (State.canon_arrive h).of_eq e
  · split
    · exact State.canon_threadFault h
    · next e => exact State.canon_barCheck (State.canon_modThread ((State.canon_arrive h).of_eq e) ..)
    next e => exact (State.canon_arrive h).of_eq e
  exact h

theorem State.canon_rearm (h : s.canon = true) {region : Bool} : (s.rearm t region n).canon = true :=
  State.canon_foldl (State.canon_putBar h) fun hs => State.canon_countHeld hs

theorem State.canon_barDrop (h : s.canon = true) {region : Bool} {who : Party → Bool} : (s.barDrop t region n who).canon = true :=
  State.canon_ite (State.canon_rearm (State.canon_putBar h)) (State.canon_putBar h)

theorem State.canon_leaveBar (h : s.canon = true) {trap : Bool} : (s.leaveBar t o tid trap).canon = true := by
  unfold State.leaveBar
  split
  · exact h
  exact State.canon_barDrop (State.canon_modThread h ..)

theorem State.canon_barSet (h : s.canon = true) {region : Bool} {count : Nat} : OptCanon (s.barSet t region n count) :=
  holds_ite trivial (State.canon_putBar h)

theorem State.canon_barBind (h : s.canon = true) {region : Bool} {key : BitVec 16} : OptCanon (s.barBind t region n key) :=
  holds_ite trivial (State.canon_putBar h)

theorem State.canon_adjust (h : s.canon = true) {key : BitVec 16} {up : Bool} : (s.adjust t o tid key up).canon = true :=
  State.canon_foldl h fun hs => State.canon_ite (State.canon_barCheck (State.canon_putBar hs)) hs

theorem State.canon_join (h : s.canon = true) {key : BitVec 16} : OptCanon (s.join t o tid key) := by
  unfold State.join
  dsimp only
  split
  · exact holds_ite h (State.canon_adjust (State.canon_putTile_frame h))
  exact holds_ite trivial (State.canon_adjust (State.canon_putTile_frame h))

theorem State.canon_ungroup (h : s.canon = true) {key : BitVec 16} : (s.ungroup t o tid key).canon = true := by
  unfold State.ungroup
  dsimp only
  split
  · exact h
  exact State.canon_ite h (State.canon_adjust (State.canon_putTile_frame h))

theorem State.canon_leave (h : s.canon = true) {key : BitVec 16} : (s.leave t o tid key).canon = true := State.canon_ite h (State.canon_ungroup h)

theorem State.canon_leaveAll (h : s.canon = true) : (s.leaveAll t o tid).canon = true :=
  State.canon_foldl h fun hs => State.canon_ite (State.canon_ungroup hs) hs

theorem State.canon_putAcsZero (h : s.canon = true) :
    (s.putTile t { s.tile t with acs := SMap.put 0 (s.tile t).acs w 0, acsPoison := NSet.drop (s.tile t).acsPoison w }).canon = true := by
  have hw := SMap.wf_put (Tile.wf_acs (State.canon_tile h t)) w 0
  exact State.canon_putTile h t (Tile.canon_set_acs (State.canon_tile h t) hw)

theorem State.canon_zeroSpill (h : s.canon = true) {m : Double} {e : SetEntry} : (s.zeroSpill t m e tid).canon = true :=
  State.canon_ite h (State.canon_foldl h fun hs => State.canon_ite (State.canon_putAcsZero hs) (State.canon_putLvs hs ..))

theorem State.canon_dropParty (h : s.canon = true) : (s.dropParty t o tid).canon = true :=
  State.canon_foldl h fun hs => State.canon_ite (State.canon_barDrop hs) hs

theorem State.canon_retire (h : s.canon = true) : (s.retire t o tid).canon = true :=
  State.canon_frame (State.canon_modSet (State.canon_dropParty (State.canon_leaveAll h)) ..)

theorem State.canon_newThread (h : s.canon = true) {creator : Nat} {x0 : Word} : (s.newThread t o creator blk x0).1.canon = true := by
  unfold State.newThread
  split
  · exact h
  split
  · exact h
  exact State.canon_zeroSpill (State.canon_putX (State.canon_foldl (State.canon_putSet h ..) fun hs => State.canon_putX hs))

/-! #### Pass -/

theorem State.canon_parkAt (h : s.canon = true) {loops : Loops} {why : Cause} : (s.parkAt c idx loops why).canon = true :=
  State.canon_modSet (State.canon_modThread h ..) ..

theorem State.canon_passBegin (h : s.canon = true) : (s.passBegin t o idx tid).canon = true := State.canon_ite (State.canon_modThread h ..) h

theorem canon_passStep {serve : Ctx → State → Serve} (hserve : ∀ {a0 s}, s.canon = true → (serve a0 s).Canon) {p : PassSt} (hp : p.s.canon = true) :
    (passStep c g serve p tid).s.canon = true := by
  refine PassSt.canon_ite hp (PassSt.canon_ite hp ?_)
  dsimp only
  split
  · exact hp
  split
  · exact hp
  refine PassSt.canon_ite (State.canon_parkAt hp) (PassSt.canon_ite hp ?_)
  split
  · next e => exact (hserve hp).of_eq e
  · next e => exact State.canon_parkAt ((hserve hp).of_eq e)
  · next e => exact State.canon_threadFault ((hserve hp).of_eq e)
  · next e => exact State.canon_setFaultAt ((hserve hp).of_eq e)
  · next e => exact (hserve hp).of_eq e
  next e => exact (hserve hp).of_eq e

theorem canon_trapPass {code : BitVec 8} {p : PassSt} (hp : p.s.canon = true) : (trapPass c code p tid).s.canon = true :=
  PassSt.canon_ite hp (PassSt.canon_ite (State.canon_parkAt hp) (State.canon_threadFault hp))

theorem canon_withPass (h : s.canon = true) {chk : SetState → Ctx → Option (BitVec 8)} {marks : List Mark} {serve : Ctx → State → Serve}
    (hserve : ∀ {a0 s}, s.canon = true → (serve a0 s).Canon) :
    OutCanon (withPass s g chk marks serve) := by
  unfold withPass
  split
  · trivial
  dsimp only
  split
  · exact PassSt.canon_close (PassSt.canon_foldl h fun hs => canon_trapPass hs) ..
  exact PassSt.canon_close (PassSt.canon_foldl h fun hs => canon_passStep hserve hs) ..

theorem State.canon_reserve (h : s.canon = true) : (s.reserve t e).canon = true := by
  unfold State.reserve
  split
  · exact State.canon_putChan h ..
  exact h

theorem canon_serveLane {sp : LaneSpec} (h : s.canon = true) : (serveLane sp c s).Canon := by
  unfold serveLane
  split
  · exact h
  refine holds_ite h (holds_ite h ?_)
  split
  · exact h
  · exact holds_ite h h
  refine holds_ite h (holds_ite h ?_)
  split
  · exact h
  refine holds_ite ?_ (State.canon_modThread ?_ ..)
  · split
    · exact State.canon_reserve (State.canon_foldl h fun hs => State.canon_popAt hs)
    exact State.canon_foldl h fun hs => State.canon_popAt hs
  · split
    · exact canon_writeOpd (State.canon_foldl h fun hs => State.canon_popAt hs)
    exact State.canon_foldl h fun hs => State.canon_popAt hs

theorem canon_laneExec {sp : LaneSpec} (h : s.canon = true) : OutCanon (laneExec g sp s) := canon_withPass h (fun hs => canon_serveLane hs)

/-! #### Trace -/

theorem State.canon_driftPut (h : s.canon = true) {r : TraceRec} : (s.driftPut t r).canon = true :=
  State.canon_ite (State.canon_putTile_frame h) (State.canon_putTile_frame h)

theorem State.canon_observe (h : s.canon = true) {e : TraceEv} : (s.observe e).canon = true :=
  State.canon_ite (State.canon_putTile_frame (State.canon_ite (State.canon_driftPut (State.canon_ite (State.canon_driftPut (State.canon_ite
    (State.canon_putTile_frame h) h)) (State.canon_ite (State.canon_putTile_frame h) h))) (State.canon_ite (State.canon_driftPut (State.canon_ite
    (State.canon_putTile_frame h) h)) (State.canon_ite (State.canon_putTile_frame h) h)))) (State.canon_ite (State.canon_driftPut (State.canon_ite
    (State.canon_putTile_frame h) h)) (State.canon_ite (State.canon_putTile_frame h) h))

theorem State.canon_halt (h : s.canon = true) {e : Elem} {why : BitVec 8} : (s.halt r e why).canon = true := State.canon_modRegion h ..

theorem State.canon_perturbed (h : s.canon = true) : (s.perturbed t o).canon = true := State.canon_modSet h ..

theorem State.canon_driftStall (h : s.canon = true) : (s.driftStall t o).canon = true := State.canon_modSet (State.canon_perturbed h) ..

theorem State.canon_driftRoom (h : s.canon = true) : (s.driftRoom t).canon = true := by
  unfold State.driftRoom
  split
  · exact h
  exact State.canon_putTile_frame h

theorem State.canon_stepDone (h : s.canon = true) {e : Elem} : (s.stepDone t e).canon = true := by
  unfold State.stepDone
  split
  · exact h
  split
  · exact h
  exact State.canon_ite (State.canon_halt h) h

theorem State.canon_startWalk (h : s.canon = true) {n : Note} {probe : BitVec 16} : (s.startWalk t n probe).canon = true :=
  State.canon_putTile_frame h

theorem State.canon_noteFiring (h : s.canon = true) {ek : BitVec 3} {n : Note} : (s.noteFiring t ek elem n).canon = true := by
  unfold State.noteFiring
  dsimp only
  split
  · exact State.canon_putTile_frame h
  exact State.canon_ite (State.canon_startWalk (State.canon_putTile_frame h)) (State.canon_putTile_frame h)

theorem State.canon_probeFiring (h : s.canon = true) {n : Note} : (s.probeFiring t n).canon = true := by
  unfold State.probeFiring
  split
  · exact h
  exact State.canon_ite h (State.canon_modSet (State.canon_foldl h fun hs => State.canon_startWalk hs) ..)

/-! #### Memory -/

theorem State.canon_setMem_writeBytes (h : s.canon = true) {bs : List Byte} : { s with mem := Memory.writeBytes s.mem a bs }.canon = true :=
  State.canon_set_mem h (Memory.wf_writeBytes (State.canon_mem h) ..)

theorem State.canon_writeKey (h : s.canon = true) {k : BitVec 12} {bs : List Byte} : (s.writeKey k pa bs).canon = true := by
  unfold State.writeKey
  refine State.canon_ite (State.canon_setMem_writeBytes h) ?_
  cases s.keysOf k with
  | none => exact State.canon_setMem_writeBytes h
  | some p => exact State.canon_setMem_writeBytes h

theorem State.canon_noteWrite (h : s.canon = true) {f : Fresh} : (s.noteWrite pa f).canon = true := State.canon_frame h

theorem State.canon_noteBytes (h : s.canon = true) {key : BitVec 12} {f : Fresh} : (s.noteBytes key pa n f).canon = true :=
  State.canon_foldl h fun hs => State.canon_noteWrite hs

theorem State.canon_reapN {a1 : Nat} {a2 : State} (h : a2.canon = true) : (State.reapN a1 a2).canon = true := by
  induction a1 generalizing a2 with
  | zero => exact h
  | succ n ih => exact State.canon_ite h (ih (State.canon_frame h))

theorem State.canon_reap (h : s.canon = true) : (s.reap).canon = true := State.canon_reapN h

theorem State.canon_dropAcc (h : s.canon = true) : (s.dropAcc i).canon = true := State.canon_reap (State.canon_frame h)

theorem State.canon_finish (h : s.canon = true) {seen : List Need} : (s.finish i seen).canon = true := by
  unfold State.finish
  split
  · exact h
  exact State.canon_reap (State.canon_frame h)

theorem State.canon_coverWrites (h : s.canon = true) {mask : BitVec 16} {ns : List Need} : (s.coverWrites t o tid mask ns).canon = true :=
  State.canon_frame h

theorem State.canon_putUnit (h : s.canon = true) {u : BankUnit} : (s.putUnit n u).canon = true := State.canon_frame h

theorem State.canon_drainUnit (h : s.canon = true) : (s.drainUnit n).canon = true :=
  State.canon_putUnit (State.canon_foldl h fun hs => State.canon_writeKey hs)

theorem State.canon_drainAnswered (h : s.canon = true) : (s.drainAnswered).canon = true := State.canon_foldl h fun hs => State.canon_drainUnit hs

theorem State.canon_coalesce (h : s.canon = true) {die : Nat} {asid : BitVec 16} {vpn : Nat} {wr : Bool} :
    (s.coalesce die asid vpn wr).1.canon = true :=
  State.canon_fst_ite h (State.canon_fst_ite (State.canon_frame h) h)

theorem State.canon_xlFault (h : s.canon = true) {asid : BitVec 16} {va : Double} {write : Bool} : (s.xlFault t asid va write f).1.canon = true :=
  State.canon_fst_ite (State.canon_coalesce h) h

theorem State.canon_cacheEntries (h : s.canon = true) {die : Nat} {new : List WalkEnt} : (s.cacheEntries die new).canon = true := State.canon_frame h

theorem State.canon_cacheLeaf (h : s.canon = true) {x : Xlat} : (s.cacheLeaf x).canon = true := State.canon_ite h (State.canon_frame h)

theorem State.canon_doWalk (h : s.canon = true) {id : Nat} : (s.doWalk id).canon = true := by
  unfold State.doWalk
  split
  · exact h
  refine State.canon_ite h ?_
  split
  · exact h
  · exact State.canon_cacheEntries (State.canon_frame h)
  exact State.canon_cacheEntries (State.canon_foldl (State.canon_frame h) fun hs => State.canon_cacheLeaf hs)

theorem State.canon_forgetWalks (h : s.canon = true) : (s.forgetWalks t o seq).canon = true := State.canon_ite (State.canon_frame h) h

theorem State.canon_translate (h : s.canon = true) {xctx : Double} {sup eng : Bool} {va : Double} {kind : BitVec 3} {write walk : Bool} :
    (s.translate t o xctx sup eng who va kind write walk).Canon := by
  refine holds_ite (State.canon_xlFault h) (holds_ite (holds_ite (State.canon_xlFault h) h) ?_)
  dsimp only
  split
  · split
    · exact State.canon_xlFault (State.canon_frame h)
    exact State.canon_frame h
  split
  · split
    · exact State.canon_xlFault h
    split
    · exact State.canon_xlFault h
    exact h
  refine holds_ite h ?_
  split
  · exact State.canon_frame (State.canon_ite h (State.canon_countTile h))
  exact holds_ite (State.canon_frame (State.canon_ite h (State.canon_countTile h))) (State.canon_frame (State.canon_ite h (State.canon_countTile h)))

/-! #### Access -/

theorem State.canon_issueAcc (h : s.canon = true) {a : Access} : (s.issueAcc a).1.canon = true := State.canon_frame h

theorem State.canon_devPlace (h : s.canon = true) {a : Access} {sup walk : Bool} : (s.devPlace i a sup walk).Canon := by
  unfold State.devPlace
  have hx {kind : BitVec 3} {write : Bool} := State.canon_translate h (t := a.tile) (o := a.set) (xctx := a.xctx) (sup := sup) (eng := false)
    (who := i) (va := a.va) (kind := kind) (write := write) (walk := walk)
  refine holds_ite (State.canon_xlFault h) (holds_ite (State.canon_xlFault h) ?_)
  split
  · next e =>
    have h1 := hx.of_eq e
    exact h1
  · next e => exact hx.of_eq e
  · next e =>
    have h1 := hx.of_eq e
    exact holds_ite (State.canon_xlFault h1) (holds_ite (State.canon_xlFault h1) h1)

theorem State.canon_placeAcc (h : s.canon = true) {a : Access} : (s.placeAcc i a).Canon := by
  unfold State.placeAcc
  dsimp only
  split
  · next e => exact holds_ite h (State.canon_dropAcc ((State.canon_devPlace h).of_eq e))
  · next e => exact (State.canon_devPlace h).of_eq e
  next e => exact holds_ite h (State.canon_frame ((State.canon_devPlace h).of_eq e))

theorem canon_serveDev {p : DevOp} (h : s.canon = true) : (serveDev p c s).Canon := by
  unfold serveDev
  split
  · exact h
  refine holds_ite h ?_
  split
  · exact h
  dsimp only
  split
  · next e => exact (State.canon_placeAcc (State.canon_issueAcc h)).of_eq e
  · next e => exact (State.canon_placeAcc (State.canon_issueAcc h)).of_eq e
  next e => exact (State.canon_placeAcc (State.canon_issueAcc h)).of_eq e

theorem canon_devExec {p : DevOp} (h : s.canon = true) : OutCanon (devExec g p s) := canon_withPass h (fun hs => canon_serveDev hs)

theorem canon_serveLoc {p : DevOp} (h : s.canon = true) : (serveLoc p c s).Canon := by
  unfold serveLoc
  split
  · exact h
  refine holds_ite h ?_
  split
  · exact h
  dsimp only
  split
  · exact h
  exact State.canon_issueAcc h

theorem canon_locExec {p : DevOp} (h : s.canon = true) : OutCanon (locExec g p s) := canon_withPass h (fun hs => canon_serveLoc hs)

theorem canon_serveAtom {sf : Bool} {op : AtomOp} {ty : ATy} {data : Reg} {ret : Bool} (h : s.canon = true) :
    (serveAtom sf op ty data m ret c s).Canon := by
  unfold serveAtom
  split
  · exact h
  refine holds_ite h ?_
  split
  · exact h
  dsimp only
  split
  · exact h
  exact State.canon_putTile_frame (State.canon_issueAcc h)

/-! #### LoadStore -/

theorem canon_execAtom {sf : Bool} {op : AtomOp} {ty : ATy} {data : Reg} (h : s.canon = true) : OutCanon (execAtom g sf op ty data m s) :=
  canon_withPass h (fun hs => canon_serveAtom hs)

theorem canon_execRed {sf : Bool} {op : AtomOp} {ty : ATy} {data : Reg} (h : s.canon = true) : OutCanon (execRed g sf op ty data m s) :=
  canon_withPass h (fun hs => canon_serveAtom hs)

theorem canon_serveFence {lvl : Nat} {mask : BitVec 16} (h : s.canon = true) : (serveFence lvl mask c s).Canon :=
  State.canon_modThread (State.canon_ite (State.canon_drainAnswered (State.canon_coverWrites h)) h) ..

theorem canon_execFence {scope : Scope} {mask : BitVec 16} (h : s.canon = true) : OutCanon (execFence g scope mask s) :=
  canon_withPass h (fun hs => canon_serveFence hs)

theorem canon_serveEqWait (h : s.canon = true) : (serveEqWait n c s).Canon := holds_ite h (State.canon_acquire (State.canon_putTile_frame h))

theorem canon_execEqWait {n : BitVec 4} (h : s.canon = true) : OutCanon (execEqWait g n s) := canon_withPass h (fun hs => canon_serveEqWait hs)

theorem canon_serveSpill {a : BitVec 5} (h : s.canon = true) : (serveSpill a n c s).Canon := by
  unfold serveSpill
  split
  · exact h
  refine holds_ite h ?_
  split
  · exact h
  refine holds_ite h (holds_ite h (holds_ite (State.canon_putTile h _ (Tile.canon_set_acs (State.canon_tile h ..) ?_)) (State.canon_putLvs h ..)))
  exact SMap.wf_put (Tile.wf_acs (State.canon_tile h ..)) ..

theorem canon_serveFill {d : BitVec 5} (h : s.canon = true) : (serveFill d n c s).Canon := by
  unfold serveFill
  split
  · exact h
  exact holds_ite h (holds_ite h (holds_ite h (holds_ite h h)))

theorem canon_execSpill {a : BitVec 5} {n : BitVec 6} (h : s.canon = true) : OutCanon (execSpill g a n s) :=
  canon_withPass h (fun hs => canon_serveSpill hs)

theorem canon_execFill {d : BitVec 5} {n : BitVec 6} (h : s.canon = true) : OutCanon (execFill g d n s) :=
  canon_withPass h (fun hs => canon_serveFill hs)

/-! #### Engine -/

theorem State.canon_tried (h : s.canon = true) {q : Option (BitVec 3)} {ok : Bool} : (s.tried c q ok).canon = true := by
  unfold State.tried
  split
  · exact canon_writeOpd h
  exact h

theorem canon_serveEnter {i : Instr} {m : SCom} {desc : Option (BitVec 4)} {waits : Bool} (h : s.canon = true) :
    (serveEnter i m desc waits c s).Canon := by
  unfold serveEnter
  split
  · exact h
  exact holds_ite h (holds_ite (holds_ite (State.canon_tried (State.canon_modSet h ..)) (State.canon_modSet h ..)) (holds_ite (State.canon_modSet
    (State.canon_tried (State.canon_putSet h ..)) ..) (State.canon_tried (State.canon_putSet h ..))))

theorem canon_enterExec {i : Instr} {m : SCom} {desc : Option (BitVec 4)} {sup waits : Bool} (h : s.canon = true) :
    OutCanon (enterExec i m desc sup waits s) :=
  canon_withPass h (fun hs => canon_serveEnter hs)

theorem State.canon_modCmd (h : s.canon = true) {f : Cmd → Cmd} : (s.modCmd t o seq f).canon = true := State.canon_modSet h ..

theorem State.canon_cmdDone (h : s.canon = true) : (s.cmdDone t o seq).canon = true := State.canon_modCmd h

theorem State.canon_freeAnchor (h : s.canon = true) : (s.freeAnchor t o seq).canon = true := State.canon_modThread h ..

theorem State.canon_stopCmd (h : s.canon = true) {c : Cmd} : (s.stopCmd t o c f).canon = true :=
  State.canon_forgetWalks (State.canon_freeAnchor (State.canon_cmdFault (State.canon_modCmd h)))

theorem State.canon_post (h : s.canon = true) : OptCanon (s.post t n) := holds_ite trivial (State.canon_putTile_frame h)

theorem Tile.canon_setRun (h : x.canon = true) {run : List Nat} {st : SlotSt} : (x.setRun o run st).canon = true := Tile.canon_frame h

theorem State.canon_fillReady (h : s.canon = true) {c : Cmd} : (s.fillReady t o c).canon = true := by
  unfold State.fillReady
  split
  · exact State.canon_ite h (State.canon_putTile h _ (Tile.canon_setRun (State.canon_tile h ..)))
  exact h

theorem State.canon_leaveQueue (h : s.canon = true) {c : Cmd} : (s.leaveQueue t o c).canon = true :=
  State.canon_putTile_frame (State.canon_modSet (State.canon_fillReady (State.canon_forgetWalks (State.canon_freeAnchor h))) ..)

theorem State.canon_retireCmd (h : s.canon = true) {c : Cmd} : (s.retireCmd t o v c).canon = true := by
  refine State.canon_ite (State.canon_driftStall h) ?_
  split
  · exact State.canon_observe (State.canon_leaveQueue h)
  split
  · next e => exact State.canon_observe (State.canon_leaveQueue ((State.canon_post h).of_eq e))
  exact State.canon_modCmd h

theorem State.canon_reach (h : s.canon = true) {c : Cmd} : (s.reach t o c).canon = true := by
  refine State.canon_ite (State.canon_putTile_frame h) ?_
  split
  · exact State.canon_putTile_frame h
  exact h

theorem canon_execCommandRetire (h : s.canon = true) : OutCanon (execCommandRetire t o seq s) := by
  unfold execCommandRetire
  split
  · exact h
  split
  · exact h
  exact holds_ite (State.canon_retireCmd h) h

theorem State.canon_engTranslate (h : s.canon = true) {c : Cmd} {va : Double} {align : Nat} {kind : BitVec 3} {write : Bool} :
    (s.engTranslate t o v c va n align kind write).Canon := by
  unfold State.engTranslate
  have hx := State.canon_translate h (t := t) (o := o) (xctx := v.regs.xctx) (sup := v.ent.sup) (eng := true) (who := c.seq) (va := va)
    (kind := kind) (write := write) (walk := true)
  refine holds_ite (State.canon_xlFault h) (holds_ite (State.canon_xlFault h) ?_)
  split
  · next e =>
    have h1 := hx.of_eq e
    exact h1
  · next e => exact hx.of_eq e
  · next e =>
    have h1 := hx.of_eq e
    exact holds_ite (State.canon_xlFault h1) (holds_ite (holds_ite (State.canon_xlFault h1) h1) (holds_ite h1 (holds_ite (State.canon_xlFault h1)
      h1)))

theorem State.canon_fetchBytes (h : s.canon = true) {c : Cmd} {align a1 : Nat} {a2 : Double} {a3 : Nat} :
    (s.fetchBytes t o v c align a1 a2 a3).Canon := by
  induction a1 generalizing s align a2 a3 with
  | zero => exact h
  | succ fuel ih =>
    unfold State.fetchBytes
    refine holds_ite h ?_
    dsimp only
    split
    · next e => exact (State.canon_engTranslate h).of_eq e
    · next e => exact (State.canon_engTranslate h).of_eq e
    · next e =>
      have h1 := (State.canon_engTranslate h).of_eq e
      split
      · next e2 =>
        have h2 := (ih h1).of_eq e2
        exact h2
      · exact ih h1

theorem State.canon_fetchDesc (h : s.canon = true) {c : Cmd} {align : Nat} {k : State → List Double → State}
    (hk : ∀ {s a1}, s.canon = true → (k s a1).canon = true) :
    (s.fetchDesc t o v c n align k).canon = true := by
  refine State.canon_ite h ?_
  split
  · next e => exact State.canon_stopCmd ((State.canon_fetchBytes h).of_eq e)
  · next e => exact (State.canon_fetchBytes h).of_eq e
  next e => exact hk ((State.canon_fetchBytes h).of_eq e)

/-! #### ImmForms -/

theorem canon_execNop (h : s.canon = true) : OutCanon (execNop g s) := canon_laneExec h

theorem canon_serveFfclr {mask : BitVec 5} (h : s.canon = true) : (serveFfclr mask c s).Canon := by
  unfold serveFfclr
  split
  · exact h
  exact holds_ite h (State.canon_modThread h ..)

theorem canon_execFfclr {mask : BitVec 5} (h : s.canon = true) : OutCanon (execFfclr g mask s) := canon_withPass h (fun hs => canon_serveFfclr hs)

/-! #### Hindcast -/

theorem State.canon_hindNext (h : s.canon = true) : (s.hindNext t kind elem).canon = true := State.canon_putTile_frame h

theorem State.canon_hindRecord (h : s.canon = true) {choice : Double} : OptCanon (s.hindRecord t kind elem choice) := by
  unfold State.hindRecord
  split
  · exact h
  · extract_lets a wr slot s1
    have h1 : s1.canon = true := State.canon_writePlain (State.canon_writePlain (State.canon_writePlain h ..) ..) ..
    generalize s.readPlain (a + 8) = rd
    clear_value wr
    exact holds_ite trivial (State.canon_hindNext h1)

theorem State.canon_hindRaise (h : s.canon = true) {g : SetRegs} {a1 : Nat} : (s.hindRaise t g a1).canon = true := by
  induction a1 generalizing s with
  | zero => exact h
  | succ fuel ih => exact State.canon_ite h (State.canon_ite (ih (State.canon_writePlain h ..)) h)

theorem State.canon_hindConsume (h : s.canon = true) : (s.hindConsume t kind elem).canon = true := by
  unfold State.hindConsume
  dsimp only
  split
  · exact State.canon_hindNext h
  exact State.canon_hindRaise (State.canon_hindNext h)

theorem State.canon_diverge (h : s.canon = true) {e : Elem} {node invoc : Word} {choice : Double} {why : BitVec 4} :
    (s.diverge t o blk kind elem e node invoc choice why).canon = true := by
  unfold State.diverge
  dsimp only
  split
  · exact State.canon_tileRecord h
  exact State.canon_ite (State.canon_halt (State.canon_modRegion (State.canon_tileRecord h) ..)) (State.canon_modRegion (State.canon_tileRecord h) ..)

theorem State.canon_segmentStall (h : s.canon = true) : (s.segmentStall t o).canon = true := State.canon_ite (State.canon_perturbed h) h

theorem State.canon_dropUnbound (h : s.canon = true) : (s.dropUnbound).canon = true := State.canon_frame h

theorem State.canon_chooseAs (h : s.canon = true) {choice : Double} : (s.chooseAs t kind elem choice).Canon := by
  unfold State.chooseAs
  split
  · exact h
  · split
    · trivial
    next e => exact (State.canon_hindRecord h).of_eq e
  split
  · trivial
  exact holds_ite (State.canon_hindConsume h) trivial

/-! #### Security -/

theorem State.canon_dropKey (h : s.canon = true) {k : BitVec 12} : (s.dropKey k).canon = true := by
  unfold State.dropKey
  split
  · exact h
  exact State.canon_frame h

theorem State.canon_keyCommand (h : s.canon = true) {op : BitVec 2} {k : BitVec 12} : OptCanon (s.keyCommand op k) :=
  holds_ite trivial (State.canon_modCfg (State.canon_dropKey h) ..)

theorem State.canon_writeKeycmd (h : s.canon = true) {w : Double} : (s.writeKeycmd w).1.canon = true := by
  refine State.canon_fst_ite h (State.canon_fst_ite (State.canon_modCfg (State.canon_modCfg h ..) ..) ?_)
  split
  · next e => exact (State.canon_keyCommand (State.canon_modCfg h ..)).of_eq e
  exact State.canon_modCfg (State.canon_modCfg h ..) ..

theorem State.canon_keyComplete (h : s.canon = true) : (s.keyComplete).canon = true := State.canon_ite h (State.canon_modCfg (State.canon_frame h) ..)

theorem State.canon_logPut (h : s.canon = true) {w0 w1 : Double} : (s.logPut w0 w1).canon = true :=
  State.canon_ite (State.canon_frame h) (State.canon_modCfg (State.canon_writePlain (State.canon_writePlain h ..) ..) ..)

theorem State.canon_flushRings (h : s.canon = true) : (s.flushRings).canon = true :=
  State.canon_foldl (State.canon_frame h) fun hs => State.canon_ite (State.canon_logPut hs) (State.canon_regionRecord hs)

theorem State.canon_logEvent (h : s.canon = true) {bsu : Bool} {row : Word} {bank chan : Nat} : (s.logEvent kind bsu row bank chan).canon = true :=
  State.canon_logPut h

theorem State.canon_logLatent (h : s.canon = true) {u : Unit5} {off : Nat} : (s.logLatent t u off).canon = true := State.canon_logPut h

theorem State.canon_corrected (h : s.canon = true) {chan : Nat} : (s.corrected chan).canon = true :=
  State.canon_ite (State.canon_logEvent (State.canon_frame h)) (State.canon_frame h)

theorem State.canon_writeCkptctl (h : s.canon = true) {w : Double} : (s.writeCkptctl w).1.canon = true := by
  refine State.canon_fst_ite h (State.canon_fst_ite (State.canon_modCfg h ..) ?_)
  split <;> exact State.canon_modCfg (State.canon_modCfg h ..) ..

theorem State.canon_saveAll (h : s.canon = true) {dst : Nat} {did : Nat → Bool} : (s.saveAll dst did).canon = true := by
  unfold State.saveAll
  generalize devEnd = dev
  exact State.canon_set_mem h (Memory.wf_foldl (Memory.wf_foldl (SMap.wf_filter (State.canon_mem h) _) fun hm => Memory.wf_write hm ..)
    fun hm => Memory.wf_write hm ..)

theorem State.canon_restoreAll (h : s.canon = true) {src : Nat} {did : Nat → Bool} : (s.restoreAll src did).canon = true := by
  refine State.canon_set_mem h ?_
  exact SMap.wf_foldl (SMap.wf_filter (State.canon_mem h) ..) fun hm => Memory.wf_write hm ..

theorem State.canon_ckptFinish (h : s.canon = true) : (s.ckptFinish).canon = true :=
  State.canon_ite h (State.canon_ite (State.canon_modCfg (State.canon_ite (State.canon_restoreAll h) (State.canon_saveAll h)) ..) (State.canon_modCfg
    (State.canon_ite (State.canon_restoreAll h) (State.canon_saveAll h)) ..))

theorem State.canon_newNonce (h : s.canon = true) : (s.newNonce).canon = true := State.canon_modCfg h ..

theorem State.canon_secEnrol (h : s.canon = true) : (s.secEnrol node a).Canon := holds_ite trivial (holds_ite trivial (State.canon_modCfg h ..))

theorem State.canon_secAttest (h : s.canon = true) : (s.secAttest a).Canon := by
  unfold State.secAttest
  have h1 {body : List Byte} := State.canon_setMem_writeBytes (a := a + 0x40) (bs := body) (State.canon_modCfg h fun c => { c with sec := 2 })
  exact holds_ite trivial (holds_ite trivial (State.canon_newNonce h1))

theorem State.canon_secDebug (h : s.canon = true) {lvl : BitVec 2} : (s.secDebug lvl a).Canon := by
  unfold State.secDebug
  extract_lets c done
  have hd : done.canon = true := State.canon_newNonce (State.canon_modCfg h fun c => { c with dbg := lvl })
  refine holds_ite trivial ?_
  cases held c.sec lvl c.pwr with
  | refused => trivial
  | free => exact hd
  | token =>
    dsimp only
    generalize BitVec.ofNat 64 (bytesNat ((Memory.bytes s.mem a 32).take 8)) = nonce
    exact holds_ite hd (holds_ite trivial (holds_ite trivial (holds_ite trivial (holds_ite trivial hd))))

theorem State.canon_secRelease (h : s.canon = true) : (s.secRelease).canon = true :=
  State.canon_newNonce (State.canon_modCfg (State.canon_foldl h fun hs => State.canon_dropKey hs) ..)

theorem State.wf_persistent (h : s.canon = true) : Memory.wf s.persistent = true :=
  SMap.wf_filter (Memory.wf_foldl (State.canon_mem h) fun hm => Memory.wf_writeLE hm ..) _

theorem State.canon_unpowered (h : s.canon = true) {c : Regs} : (s.unpowered c).canon = true := by
  have hm := State.wf_persistent h
  simp [State.canon, State.unpowered, State.reset, hm, SMap.wf, SMap.wfFrom]

theorem State.canon_powerOff (h : s.canon = true) : (s.powerOff).canon = true := State.canon_unpowered h

theorem State.canon_secPower (h : s.canon = true) {p : BitVec 2} : (s.secPower p).Canon := by
  unfold State.secPower
  split
  · trivial
  · exact State.canon_powerOff h
  · trivial
  · exact holds_ite (State.canon_modCfg h ..) trivial
  · exact holds_ite (State.canon_modCfg h ..) trivial
  trivial

theorem State.canon_secCommand (h : s.canon = true) {op arg : BitVec 4} {buf : BitVec 42} : (s.secCommand op arg buf node).Canon := by
  unfold State.secCommand
  dsimp only
  split
  · exact State.canon_secEnrol h
  · exact State.canon_secAttest h
  · exact holds_ite trivial (State.canon_secDebug h)
  · exact State.canon_secRelease h
  · exact holds_ite trivial (State.canon_secPower h)
  trivial

theorem State.canon_writeSeccmd (h : s.canon = true) {w : Double} : (s.writeSeccmd w node).1.canon = true := by
  refine State.canon_fst_ite h (State.canon_fst_ite (State.canon_modCfg (State.canon_modCfg h ..) ..) (State.canon_fst_ite (State.canon_modCfg
    (State.canon_modCfg h ..) ..) ?_))
  split
  · next e =>
      exact State.canon_ite ((State.canon_secCommand (State.canon_modCfg h ..)).of_eq e) (State.canon_modCfg (State.canon_modCfg
        ((State.canon_secCommand (State.canon_modCfg h ..)).of_eq e) ..) ..)
  exact State.canon_modCfg (State.canon_modCfg h ..) ..

theorem State.canon_recover (h : s.canon = true) {addr : BitVec 58} : (s.recover addr).canon = true :=
  State.canon_ite (State.canon_modCfg h ..) (State.canon_modCfg (State.canon_modCfg h ..) ..)

theorem State.canon_powerOn (h : s.canon = true) : (s.powerOn).canon = true := State.canon_unpowered h

theorem State.canon_wake (h : s.canon = true) : (s.wake).canon = true := by
  unfold State.wake
  split
  · exact State.canon_modCfg h ..
  · exact State.canon_modCfg h ..
  exact h

/-! #### ConfigSpace -/

theorem State.canon_feed (h : s.canon = true) {k : Token} : (s.feed t e k).canon = true := by
  unfold State.feed
  split
  · exact State.canon_putChan h ..
  exact h

theorem State.canon_deliver (h : s.canon = true) {tag : BitVec 3} {val : Word} {rel : List Need} : (s.deliver t e tag val rel).Canon := by
  refine holds_ite trivial ?_
  dsimp only
  split
  · exact State.canon_feed h
  · split
    · exact State.canon_segmentStall h
    next e => exact State.canon_feed ((State.canon_hindRecord h).of_eq e)
  split
  · trivial
  exact holds_ite (State.canon_feed (State.canon_hindConsume h)) (State.canon_diverge h)

theorem State.canon_mailbox (h : s.canon = true) {w : Double} : (s.mailbox node n w).1.canon = true := by
  refine State.canon_fst_ite (State.canon_wake h) ?_
  dsimp only
  split
  · exact State.canon_fst_ite (State.canon_frame (State.canon_wake h)) (State.canon_wake h)
  refine State.canon_fst_ite (State.canon_frame (State.canon_wake h)) ?_
  split
  · next e => exact (State.canon_deliver (State.canon_wake h)).of_eq e
  · exact State.canon_frame (State.canon_wake h)
  · next e => exact State.canon_frame ((State.canon_deliver (State.canon_wake h)).of_eq e)
  next e => exact State.canon_frame ((State.canon_deliver (State.canon_wake h)).of_eq e)

theorem State.canon_mailboxNext (h : s.canon = true) : (s.mailboxNext n).canon = true := by
  unfold State.mailboxNext
  split
  · exact h
  dsimp only
  split
  · exact State.canon_ite h (State.canon_frame h)
  split
  · next e => exact (State.canon_deliver (State.canon_frame h)).of_eq e
  · exact h
  · next e => exact State.canon_frame ((State.canon_deliver (State.canon_frame h)).of_eq e)
  next e => exact State.canon_frame ((State.canon_deliver (State.canon_frame h)).of_eq e)

theorem State.canon_bellNext (h : s.canon = true) : (s.bellNext).canon = true := by
  unfold State.bellNext
  split
  · split
    · next e => exact State.canon_frame ((State.canon_deliver h).of_eq e)
    · exact h
    · next e => exact (State.canon_deliver h).of_eq e
    next e => exact (State.canon_deliver h).of_eq e
  exact h

theorem State.canon_cfgWrite (h : s.canon = true) {w : Double} {sv : Bool} : (s.cfgWrite o w sv node).1.canon = true := by
  unfold State.cfgWrite
  split
  · exact State.canon_ite (State.canon_modCfg h ..) h
  · exact State.canon_writeCkptctl h
  · exact State.canon_ite (State.canon_modCfg h ..) h
  · exact State.canon_modCfg h ..
  · exact State.canon_fst_ite (State.canon_writeKeycmd h) (State.canon_modCfg h ..)
  · exact State.canon_fst_ite (State.canon_modCfg h ..) (State.canon_fst_ite (State.canon_modCfg h ..) h)
  · exact State.canon_ite (State.canon_modCfg h ..) h
  · exact State.canon_ite (State.canon_modCfg h ..) h
  · exact State.canon_fst_ite (State.canon_mailbox h) h
  · exact State.canon_ite (State.canon_modCfg h ..) h
  · exact State.canon_ite (State.canon_modCfg h ..) h
  · exact State.canon_ite (State.canon_modCfg h ..) h
  · exact State.canon_fst_ite (State.canon_writeSeccmd h) (State.canon_modCfg h ..)
  · exact State.canon_ite (State.canon_recover h) h
  exact h

/-! #### Flow -/

theorem canon_serveActs (h : s.canon = true) {srcs : List Operand} {dst : Option Operand} {k : State → List Double → Serve}
    (hk : ∀ {s a1}, s.canon = true → (k s a1).Canon) :
    (serveActs c s srcs dst k).Canon := by
  unfold serveActs
  split
  · exact h
  refine holds_ite h (holds_ite h ?_)
  split
  · exact h
  · exact holds_ite h h
  refine holds_ite h ?_
  split
  · exact h
  split
  · next e => exact State.canon_foldl ((hk h).of_eq e) fun hs => State.canon_popAt hs
  · exact hk h

theorem canon_acts1 (h : s.canon = true) {a : Opd} {k : State → Word → Serve} (hk : ∀ {s a1}, s.canon = true → (k s a1).Canon) :
    (acts1 c s a k).Canon :=
  canon_serveActs h hk

theorem State.canon_setNext (h : s.canon = true) {b : BitVec 12} : (s.setNext c b).canon = true := State.canon_modThread h ..

theorem canon_execBr {tgt : BitVec 12} (h : s.canon = true) : OutCanon (execBr g tgt s) := canon_withPass h (fun hs => State.canon_setNext hs)

theorem canon_execBrC {cond : Opd} {tgt other : BitVec 12} (h : s.canon = true) : OutCanon (execBrC g cond tgt other s) :=
  canon_withPass h (fun hs => canon_acts1 hs (fun hs => State.canon_setNext hs))

theorem canon_serveExit {abandon : Bool} (h : s.canon = true) : (serveExit abandon c s).Canon := by
  unfold serveExit
  split
  · exact h
  exact holds_ite h (holds_ite (State.canon_retire h) (holds_ite (State.canon_retire (State.canon_putSet h ..)) (holds_ite h (State.canon_retire h))))

theorem canon_execExit (h : s.canon = true) : OutCanon (execExit g s) := canon_withPass h (fun hs => canon_serveExit hs)

theorem canon_execExitAbandon (h : s.canon = true) : OutCanon (execExitAbandon g s) := canon_withPass h (fun hs => canon_serveExit hs)

theorem canon_loopExec {n : BitVec 2} {last : BitVec 6} {count : Ctx → Nat} {serve : Ctx → State → Serve}
    (hserve : ∀ {a0 s}, s.canon = true → (serve a0 s).Canon) (h : s.canon = true) :
    OutCanon (loopExec n last count serve s) := by
  unfold loopExec
  split
  · trivial
  dsimp only
  split
  · next e =>
    have h1 := (canon_withPass h hserve).of_eq e
    exact holds_ite (State.canon_modSet h1 ..) h1
  · exact canon_withPass h hserve

theorem canon_execLoop {n : BitVec 2} {count : BitVec 19} {last : BitVec 6} (h : s.canon = true) : OutCanon (execLoop n count last s) :=
  canon_loopExec (fun hs => hs) h

theorem canon_execLoopR {n : BitVec 2} {st : BitVec 4} {last : BitVec 6} (h : s.canon = true) : OutCanon (execLoopR n st last s) :=
  canon_loopExec (fun hs => canon_acts1 hs (fun hs => hs)) h

theorem canon_execThrNew {a : Opd} {blk : BitVec 12} (h : s.canon = true) : OutCanon (execThrNew g d a blk s) :=
  canon_withPass h (fun hs => canon_serveActs hs (fun hs => canon_writeOpd (State.canon_newThread hs)))

theorem canon_execGrpJoin {a : Opd} (h : s.canon = true) : OutCanon (execGrpJoin g a s) := by
  refine canon_withPass h (fun hs => canon_acts1 hs (fun hs => ?_))
  split
  · exact hs
  next e => exact (State.canon_join hs).of_eq e

theorem canon_execGrpLeave {a : Opd} (h : s.canon = true) : OutCanon (execGrpLeave g a s) :=
  canon_withPass h (fun hs => canon_acts1 hs (fun hs => State.canon_leave hs))

theorem canon_execBarSet {region : Bool} {n : BitVec 5} {a : Opd} (h : s.canon = true) : OutCanon (execBarSet g region n a s) := by
  refine canon_withPass h (fun hs => canon_acts1 hs (fun hs => holds_ite hs ?_))
  split
  · exact hs
  next e => exact (State.canon_barSet hs).of_eq e

theorem canon_execBarBind {region : Bool} {n : BitVec 5} {a : Opd} (h : s.canon = true) : OutCanon (execBarBind g region n a s) := by
  refine canon_withPass h (fun hs => canon_acts1 hs (fun hs => holds_ite hs ?_))
  split
  · exact hs
  next e => exact (State.canon_barBind hs).of_eq e

theorem canon_serveArrive {region : Bool} {n : BitVec 5} (h : s.canon = true) : (serveArrive region n c s).Canon := by
  refine holds_ite h ?_
  dsimp only
  split
  · exact h
  · next e => exact State.canon_barCheck (State.canon_parkAt ((State.canon_arrive h).of_eq e))
  next e => exact State.canon_parkAt ((State.canon_arrive h).of_eq e)

theorem canon_execBarArrive {region : Bool} {n : BitVec 5} (h : s.canon = true) : OutCanon (execBarArrive g region n s) :=
  canon_withPass h (fun hs => canon_serveArrive hs)

/-! #### Select -/

theorem State.canon_exitThread (h : s.canon = true) : (s.exitThread t o tid blk idx).canon = true := by
  unfold State.exitThread
  split
  · exact h
  exact State.canon_ite (State.canon_modSet (State.canon_modThread h ..) ..) (State.canon_ite (State.canon_modSet (State.canon_modThread h ..) ..)
    (State.canon_retire h))

theorem State.canon_endThread (h : s.canon = true) {len : Nat} : (s.endThread t o blk len tid).canon = true := by
  unfold State.endThread
  split
  · exact h
  dsimp only
  split
  · exact State.canon_modThread (State.canon_leaveBar h) ..
  exact State.canon_exitThread (State.canon_leaveBar h)

theorem State.canon_blockEnd (h : s.canon = true) {w : Sweep} {len : Nat} : (s.blockEnd t o w len).canon = true := by
  unfold State.blockEnd
  dsimp only
  split
  · exact State.canon_foldl (State.canon_modSet h ..) fun hs => State.canon_endThread hs
  · exact State.canon_ite (State.canon_exitThread (State.canon_modSet h ..)) (State.canon_modThread (State.canon_leaveBar (State.canon_modSet h ..))
      ..)
  exact State.canon_leaveBar (State.canon_modSet h ..)

theorem State.canon_endIfPast (h : s.canon = true) : (s.endIfPast t o).canon = true := by
  unfold State.endIfPast
  split
  · exact h
  split
  · exact h
  exact State.canon_ite (State.canon_blockEnd h) h

theorem State.canon_advance (h : s.canon = true) : (s.advance t o).canon = true := by
  unfold State.advance
  split
  · exact h
  split
  · exact h
  refine State.canon_ite h (State.canon_ite (State.canon_putSet h ..) (State.canon_ite (State.canon_putSet h ..) ?_))
  split
  exact State.canon_endIfPast (State.canon_putSet h ..)

theorem State.canon_selObserve (h : s.canon = true) {b : Block} {w : Sweep} : (s.selObserve t o v n b w).canon = true :=
  State.canon_ite h (State.canon_ite (State.canon_observe h) (State.canon_probeFiring (State.canon_noteFiring (State.canon_observe h))))

theorem State.canon_select (h : s.canon = true) : (s.select t o).canon = true := by
  unfold State.select
  split
  · exact h
  refine State.canon_ite h (State.canon_ite (State.canon_perturbed h) ?_)
  dsimp only
  split
  · exact State.canon_ite (State.canon_setFaultAt h) h
  split
  · exact h
  split
  · exact h
  split
  · exact h
  refine State.canon_ite h (State.canon_ite (State.canon_driftStall h) (State.canon_endIfPast ?_))
  split
  · exact State.canon_halt (State.canon_selObserve (State.canon_putSet h ..))
  exact State.canon_selObserve (State.canon_putSet h ..)

/-! #### Issue -/

theorem State.canon_atIssue (h : s.canon = true) {trap : Bool} {p : Pass} : (s.atIssue t o v trap idx p).canon = true :=
  State.canon_modSet (State.canon_foldl (State.canon_frame h) fun hs => State.canon_ite (State.canon_passBegin (State.canon_leaveBar hs))
    (State.canon_leaveBar hs)) ..

theorem State.canon_fetch (h : s.canon = true) : (s.fetch t o).Canon := by
  unfold State.fetch
  split
  · exact h
  split
  · exact h
  split
  · refine holds_ite h (holds_ite (State.canon_perturbed h) (holds_ite (State.canon_setFaultAt h) ?_))
    dsimp only
    split
    · exact PassSt.canon_close (PassSt.canon_foldl (State.canon_atIssue h) fun hs => canon_trapPass hs) ..
    · exact PassSt.canon_close (PassSt.canon_foldl (State.canon_atIssue h) fun hs => canon_trapPass hs) ..
    exact State.canon_atIssue h
  exact h

theorem State.canon_issued (h : s.canon = true) : (s.issued t o).canon = true := by
  unfold State.issued
  dsimp only
  split
  · exact State.canon_advance h
  split
  · exact State.canon_advance h
  exact State.canon_ite (State.canon_modSet h ..) (State.canon_ite (State.canon_stepDone (State.canon_advance h)) (State.canon_ite
    (State.canon_advance h) (State.canon_stepDone (State.canon_advance h))))

/-! #### Slots -/

theorem State.canon_putSlot (h : s.canon = true) {x : Slot} : (s.putSlot t n x).canon = true := State.canon_putTile_frame h

theorem State.canon_setRun (h : s.canon = true) {run : List Nat} {st : SlotSt} : (s.setRun t o run st).canon = true :=
  State.canon_putTile h _ (Tile.canon_setRun (State.canon_tile h ..))

theorem State.canon_freeRun (h : s.canon = true) {run : List Nat} : (s.freeRun t run).canon = true :=
  State.canon_foldl h fun hs => State.canon_putSlot hs

theorem State.canon_useRun (h : s.canon = true) {run : List Nat} : (s.useRun t run).canon = true :=
  State.canon_foldl h fun hs => State.canon_putSlot hs

theorem State.canon_unuseRun (h : s.canon = true) {run : List Nat} : (s.unuseRun t run).canon = true :=
  State.canon_foldl h fun hs => State.canon_ite hs (State.canon_putSlot hs)

theorem State.canon_claimStep (h : s.canon = true) {c : Cmd} {run : List Nat} : (s.claimStep t o v c run).canon = true := by
  refine State.canon_ite ?_ (State.canon_ite h (State.canon_cmdDone h))
  split
  · exact State.canon_stopCmd h
  · exact h
  exact State.canon_modCmd (State.canon_setRun h)

theorem State.canon_relStep (h : s.canon = true) {c : Cmd} {run : List Nat} : (s.relStep t o v c run).canon = true := by
  unfold State.relStep
  split
  · exact State.canon_stopCmd h
  · exact h
  exact State.canon_cmdDone (State.canon_freeRun h)

theorem State.canon_nmqSubStep (h : s.canon = true) {c : Cmd} : (s.nmqSubStep t o c).canon = true :=
  State.canon_ite (State.canon_stopCmd h) (State.canon_cmdDone (State.canon_frame h))

theorem State.canon_actAtIssue (h : s.canon = true) {c : Cmd} : (s.actAtIssue t o v c).canon = true := by
  unfold State.actAtIssue
  split
  · exact State.canon_nmqSubStep h
  · exact State.canon_claimStep h
  · exact State.canon_relStep h
  exact h

theorem canon_execEngineQueueIssue (h : s.canon = true) : OutCanon (execEngineQueueIssue t o s) := by
  unfold execEngineQueueIssue
  split
  · exact h
  split
  · exact h
  refine holds_ite (State.canon_perturbed h) (holds_ite h (holds_ite (State.canon_retireCmd (State.canon_cmdDone (State.canon_actAtIssue
    (State.canon_reach ?_)))) (State.canon_actAtIssue (State.canon_reach ?_))))
  · split
    · exact State.canon_putTile_frame (State.canon_putSet h ..)
    exact State.canon_putSet h ..
  · split
    · exact State.canon_putTile_frame (State.canon_putSet h ..)
    exact State.canon_putSet h ..

theorem State.canon_zeroSlot (h : s.canon = true) : (s.zeroSlot t n).canon = true := by
  refine State.canon_putTile h _ (Tile.canon_set_opmem (State.canon_tile h ..) ?_)
  exact SMap.wf_filter (Tile.wf_opmem (State.canon_tile h ..)) ..

/-! #### CubeShape -/

theorem State.canon_leaveSlots (h : s.canon = true) {d : CubeDesc} {c : Cmd} : (s.leaveSlots t d c).canon = true :=
  State.canon_foldl (State.canon_ite (State.canon_unuseRun h) h) fun hs => State.canon_unuseRun hs

theorem State.canon_endBinding (h : s.canon = true) : (s.endBinding t).canon = true := by
  unfold State.endBinding
  dsimp only
  split
  · exact h
  exact State.canon_unuseRun (State.canon_putTile_frame h)

theorem State.canon_modBinding (h : s.canon = true) {f : Binding → Binding} : (s.modBinding t f).canon = true := State.canon_putTile_frame h

theorem State.canon_abandonUnits (h : s.canon = true) {c : Cmd} : (s.abandonUnits t o c).canon = true := by
  unfold State.abandonUnits
  split
  · exact State.canon_ite (State.canon_setRun h) h
  · exact State.canon_leaveSlots h
  exact h

/-! #### Handle -/

theorem State.canon_dropCmd (h : s.canon = true) : (s.dropCmd t o seq).canon = true :=
  State.canon_putTile_frame (State.canon_modSet (State.canon_forgetWalks h) ..)

theorem State.canon_fltResume (h : s.canon = true) {view : Bool} : OptCanon (s.fltResume t o tid view) := by
  unfold State.fltResume
  split
  · refine holds_ite trivial ?_
    split
    · exact State.canon_putSet h ..
    trivial
  trivial

theorem State.canon_fltSkip (h : s.canon = true) {view : Bool} : OptCanon (s.fltSkip t o tid view) := by
  unfold State.fltSkip
  split
  · refine holds_ite trivial ?_
    split
    · exact holds_ite trivial (State.canon_putSet h ..)
    trivial
  trivial

theorem State.canon_fltRetire (h : s.canon = true) {view : Bool} : OptCanon (s.fltRetire t o tid view) := by
  unfold State.fltRetire
  split
  · refine holds_ite trivial ?_
    split
    · exact State.canon_exitThread (State.canon_putSet h ..)
    trivial
  trivial

theorem State.canon_fltResumeCommand (h : s.canon = true) {view : Bool} : OptCanon (s.fltResumeCommand t o seq view) := by
  unfold State.fltResumeCommand
  split
  · exact holds_ite trivial (holds_ite (State.canon_modBinding h) (holds_ite trivial (State.canon_putSet h ..)))
  trivial

theorem State.canon_fltAbandonCommand (h : s.canon = true) {view : Bool} : OptCanon (s.fltAbandonCommand t o seq view) := by
  unfold State.fltAbandonCommand
  split
  · refine holds_ite trivial (holds_ite (State.canon_endBinding h) (holds_ite trivial (holds_ite (State.canon_modCmd (State.canon_modSet ?_ ..))
      (State.canon_modSet (State.canon_dropCmd (State.canon_modSet ?_ ..)) ..))))
    · split
      · exact State.canon_abandonUnits h
      exact h
    · split
      · exact State.canon_abandonUnits h
      exact h
  trivial

theorem State.canon_fltResumeSet (h : s.canon = true) : OptCanon (s.fltResumeSet t o) := by
  unfold State.fltResumeSet
  split
  · exact holds_ite (State.canon_putSet h ..) trivial
  trivial

theorem State.canon_fltAct (h : s.canon = true) {op : BitVec 3} {id : Nat} {view : Bool} : OptCanon (s.fltAct t o op id view) := by
  unfold State.fltAct
  split
  · exact State.canon_fltResume h
  · exact State.canon_fltSkip h
  · exact State.canon_fltRetire h
  · exact State.canon_fltResumeCommand h
  · exact State.canon_fltAbandonCommand h
  · exact State.canon_fltResumeSet h
  trivial

theorem State.canon_writeFltcmd (h : s.canon = true) {w : Double} : (s.writeFltcmd t o w).1.canon = true := by
  refine State.canon_fst_ite (State.canon_modSet (State.canon_modSet h ..) ..) ?_
  split
  · next e => exact State.canon_modSet ((State.canon_fltAct (State.canon_modSet h ..)).of_eq e) ..
  exact State.canon_modSet (State.canon_modSet h ..) ..

theorem State.canon_forward (h : s.canon = true) : OptCanon (s.forward t o) := by
  unfold State.forward
  split
  · trivial
  split
  · trivial
  exact State.canon_tileRecord (State.canon_putSet h ..)

/-! #### Debug -/

theorem State.canon_dbgPut (h : s.canon = true) {p : DbgPlace} {w : Double} : (s.dbgPut t p w).canon = true := by
  unfold State.dbgPut
  dsimp only
  split
  · exact State.canon_putLvs h ..
  · exact State.canon_modSet h ..
  · exact State.canon_modSet h ..
  · exact State.canon_modThread h ..
  · exact State.canon_modSet h ..
  · refine State.canon_putTile h _ (Tile.canon_set_acs (State.canon_tile h ..) ?_)
    exact SMap.wf_put (Tile.wf_acs (State.canon_tile h ..)) ..
  refine State.canon_putTile h _ (Tile.canon_set_mem (State.canon_tile h ..) ?_)
  exact Memory.wf_writeLE (Tile.wf_mem (State.canon_tile h ..)) ..

theorem State.canon_dbgCommand (h : s.canon = true) {x : Region} {op : BitVec 4} {space : BitVec 3} : OptCanon (s.dbgCommand r x op space t a) := by
  unfold State.dbgCommand
  refine holds_ite trivial ?_
  split
  · exact holds_ite trivial (State.canon_halt h)
  · exact holds_ite trivial (State.canon_modRegion h ..)
  · exact holds_ite trivial (State.canon_modRegion h ..)
  · refine holds_ite trivial ?_
    cases s.dbgPlace space t a with
    | none => trivial
    | some p => exact State.canon_modRegion h ..
  · refine holds_ite trivial ?_
    cases s.dbgPlace space t a with
    | none => trivial
    | some p => exact State.canon_dbgPut h
  · trivial

theorem State.canon_writeDbgcmd (h : s.canon = true) {w : Double} : (s.writeDbgcmd r w).1.canon = true := by
  unfold State.writeDbgcmd
  dsimp only
  split
  · exact h
  refine State.canon_fst_ite (State.canon_modRegion (State.canon_modRegion h ..) ..) ?_
  split
  · next e => exact State.canon_modRegion ((State.canon_dbgCommand (State.canon_modRegion h ..)).of_eq e) ..
  exact State.canon_modRegion (State.canon_modRegion h ..) ..

/-! #### Sregs -/

theorem Tile.canon_putPlane (h : x.canon = true) {pl : Nat} {p : Plane} : (x.putPlane pl p).canon = true := by
  unfold Tile.putPlane
  split <;> exact Tile.canon_frame h

theorem State.canon_putTplane (h : s.canon = true) {g : Target} {p : Plane} : (s.putTplane g p).canon = true := by
  unfold State.putTplane
  split
  · exact State.canon_frame h
  exact State.canon_putTile h _ (Tile.canon_putPlane (State.canon_tile h ..))

theorem State.canon_modTset (h : s.canon = true) {g : Target} {f : SetState → SetState} : (s.modTset g f).canon = true := by
  unfold State.modTset
  split
  · exact h
  split
  · exact h
  exact State.canon_putTplane h

theorem State.canon_modRegs (h : s.canon = true) {g : Target} {f : SetRegs → SetRegs} : (s.modRegs g f).canon = true := State.canon_modTset h

theorem State.canon_discard (h : s.canon = true) {at? : Option Nat} : (s.discard t at?).canon = true := by
  unfold State.discard
  dsimp only
  have h1 {m : SMap Nat} : (s.putTile t { s.tile t with strayRets := m }).canon = true := State.canon_putTile_frame h
  exact State.canon_frame h1

theorem State.canon_writeStraycmd (h : s.canon = true) {w : Double} : (s.writeStraycmd t w).1.canon = true := by
  unfold State.writeStraycmd
  dsimp only
  split
  · exact State.canon_putTile_frame (State.canon_putTile_frame h)
  · exact State.canon_fst_ite (State.canon_putTile_frame (State.canon_putTile_frame h)) (State.canon_putTile_frame (State.canon_discard
      (State.canon_putTile_frame h)))
  · exact State.canon_fst_ite (State.canon_putTile_frame (State.canon_putTile_frame h)) (State.canon_putTile_frame (State.canon_discard
      (State.canon_putTile_frame h)))
  exact State.canon_putTile_frame (State.canon_putTile_frame h)

theorem canon_execStrayToken (h : s.canon = true) : OutCanon (execStrayToken n s) := by
  unfold execStrayToken
  split
  · exact h
  split
  · exact holds_ite (State.canon_notice (State.canon_putChan h ..)) h
  exact h

theorem State.canon_invalidate (h : s.canon = true) {op : BitVec 3} {key : BitVec 12} {asid : BitVec 16} {va : Nat} :
    (s.invalidate op key asid va).canon = true := by
  unfold State.invalidate
  split <;> exact State.canon_frame h

theorem State.canon_writeXinvcmd (h : s.canon = true) {g : Target} {w : Double} : (s.writeXinvcmd g w).1.canon = true :=
  State.canon_fst_ite (State.canon_modRegs (State.canon_modRegs h)) (State.canon_fst_ite (State.canon_modRegs (State.canon_modRegs h))
    (State.canon_modRegs (State.canon_invalidate (State.canon_modRegs h))))

theorem State.canon_xinvDone (h : s.canon = true) {g : Target} : (s.xinvDone g).canon = true := State.canon_modRegs h

theorem State.canon_writeXfsvc (h : s.canon = true) {g : Target} {w : Double} : (s.writeXfsvc g w).canon = true := by
  unfold State.writeXfsvc
  split
  · exact h
  exact State.canon_frame h

theorem State.canon_sregReadClears (h : s.canon = true) {g : Target} {r : SReg} : (s.sregReadClears g r).canon = true := by
  unfold State.sregReadClears
  split
  · exact State.canon_modRegs h
  exact h

theorem State.canon_sregPut (h : s.canon = true) {g : Target} {r : SReg} {v : Double} : (s.sregPut g r v).canon = true := by
  unfold State.sregPut
  dsimp only
  split
  · exact State.canon_modRegs h
  · exact State.canon_modRegs h
  · exact State.canon_modRegs h
  · exact State.canon_modRegs h
  · exact State.canon_modRegs h
  · exact State.canon_modRegs h
  · exact State.canon_modRegs h
  · exact State.canon_modRegs h
  · exact State.canon_modRegs h
  · exact State.canon_putTile_frame h
  · exact State.canon_putTile_frame h
  · refine State.canon_putTile h _ ?_
    split
    · exact Tile.canon_putPlane (State.canon_tile h ..)
    exact State.canon_tile h ..
  · split
    · exact State.canon_modRegion h ..
    exact h
  exact h

theorem State.canon_sregWrite (h : s.canon = true) {g : Target} {r : SReg} {w : Double} : (s.sregWrite g r w).1.canon = true := by
  unfold State.sregWrite
  split
  · exact State.canon_writeXinvcmd h
  · exact State.canon_writeXfsvc h
  · exact State.canon_writeFltcmd h
  · exact State.canon_writeStraycmd h
  · split
    · exact State.canon_writeDbgcmd h
    exact h
  exact State.canon_fst_ite h (State.canon_fst_ite h (State.canon_sregPut h))

/-! #### System -/

theorem State.canon_regAccess (h : s.canon = true) {write : Bool} {which data : Double} : (s.regAccess c write which data).1.canon = true :=
  State.canon_issueAcc h

theorem canon_execSregRd {d : Reg} {a : Opd} {r : SReg} (h : s.canon = true) : OutCanon (execSregRd g d a r s) := by
  refine canon_withPass h (fun hs => canon_serveActs hs (fun hs => holds_ite hs ?_))
  split
  · exact hs
  exact State.canon_fst_ite hs (State.canon_regAccess hs)

theorem canon_execSregWr {a : Opd} {r : SReg} (h : s.canon = true) : OutCanon (execSregWr g d a b r s) := by
  refine canon_withPass h (fun hs => canon_serveActs hs (fun hs => ?_))
  dsimp only
  split
  · exact hs
  exact State.canon_regAccess hs

theorem canon_execCapRd {d : Reg} {a : Opd} {off : BitVec 16} (h : s.canon = true) : OutCanon (execCapRd g d a off s) := by
  refine canon_withPass h (fun hs => canon_serveActs hs (fun hs => ?_))
  dsimp only
  split <;> exact hs

theorem canon_execCapWr {a : Opd} {off : BitVec 16} (h : s.canon = true) : OutCanon (execCapWr g d a b off s) := by
  refine canon_withPass h (fun hs => canon_serveActs hs (fun hs => ?_))
  dsimp only
  split
  · exact hs
  exact State.canon_regAccess hs

theorem canon_execTrapRd {n : BitVec 4} (h : s.canon = true) : OutCanon (execTrapRd g n s) := by
  refine canon_withPass h (fun hs => ?_)
  split
  · exact hs
  exact holds_ite hs (State.canon_putSet hs ..)

theorem canon_execTrapAct {op : TrapOp} {a : Opd} (h : s.canon = true) : OutCanon (execTrapAct g op d a s) := by
  refine canon_withPass h fun hs => canon_serveActs hs fun hs => ?_
  extract_lets w id done
  have hd : OptCanon done := holds_ite trivial (State.canon_fltAct hs)
  clear_value done
  cases done with
  | none => exact canon_writeOpd hs
  | some s1 => exact canon_writeOpd (State.canon_ite (State.canon_acquire hd) hd)

theorem canon_execTrapFwd (h : s.canon = true) : OutCanon (execTrapFwd g d s) := by
  refine canon_withPass h (fun hs => canon_serveActs hs (fun hs => ?_))
  split
  · exact canon_writeOpd hs
  next e => exact canon_writeOpd ((State.canon_forward hs).of_eq e)

theorem State.canon_select? (h : s.canon = true) {p : PlaneSel} : (s.select? t p).canon = true := State.canon_putTile_frame h

theorem canon_execCfgSel {p : PlaneSel} {other : Bool} {a : Opd} (h : s.canon = true) : OutCanon (execCfgSel g p other a s) :=
  canon_withPass h (fun hs => holds_ite (canon_acts1 hs (fun hs => holds_ite hs (State.canon_select? hs))) (State.canon_select? hs))

theorem canon_execNmqPoll {a : Opd} (h : s.canon = true) : OutCanon (execNmqPoll g d a s) := by
  refine canon_withPass h (fun hs => canon_serveActs hs (fun hs => holds_ite hs ?_))
  split
  · exact State.canon_reserve hs
  exact hs

theorem canon_execMark {a : Opd} (h : s.canon = true) : OutCanon (execMark g a s) := by
  refine canon_withPass h (fun hs => canon_acts1 hs (fun hs => ?_))
  split
  · exact hs
  split
  · exact hs
  exact holds_ite (State.canon_driftStall hs) (State.canon_observe hs)

theorem canon_execPerfRd {d : Reg} {n : BitVec 6} (h : s.canon = true) : OutCanon (execPerfRd g d n s) := by
  refine canon_withPass h (fun hs => canon_serveActs hs (fun hs => ?_))
  split
  · exact hs
  exact canon_writeOpd hs

theorem canon_execRegisterWrite {r : RegName} {v : BitVec 64} (h : s.canon = true) : OutCanon (execRegisterWrite r v s) := by
  refine holds_ite h ?_
  split
  · exact State.canon_cfgWrite h
  exact State.canon_sregWrite h

/-! #### Returns -/

theorem State.canon_tileWrite (h : s.canon = true) {v : Nat} {ok : Bool} : (s.tileWrite t a n v ok).canon = true := by
  refine State.canon_putTile h _ (Tile.canon_set_mem (State.canon_tile h ..) ?_)
  exact Memory.wf_writeLE (Tile.wf_mem (State.canon_tile h ..)) ..

theorem State.canon_accWrite (h : s.canon = true) {a : Access} : (s.accWrite i a).canon = true := by
  unfold State.accWrite
  split
  · exact State.canon_ite h (State.canon_tileWrite h)
  · split
    · exact State.canon_cfgWrite h
    exact State.canon_ite h (State.canon_writeKey (State.canon_noteBytes h))
  · refine State.canon_ite h (State.canon_set_mem (State.canon_noteBytes h) ?_)
    exact Memory.wf_writeLE (State.canon_mem (State.canon_noteBytes h)) ..
  · refine State.canon_putTile h _ (Tile.canon_set_acs (State.canon_tile h ..) ?_)
    exact SMap.wf_put (Tile.wf_acs (State.canon_tile h ..)) ..
  exact h

theorem State.canon_supersede (h : s.canon = true) {a : Access} : (s.supersede i a).canon = true := State.canon_frame h

theorem State.canon_sawAt (h : s.canon = true) {at'0 : Nat} {acq : Bool} : (s.sawAt t o tid at'0 acq).canon = true := State.canon_modThread h ..

theorem State.canon_portSaw (h : s.canon = true) {a : Access} : (s.portSaw a).canon = true := State.canon_ite (State.canon_putTile_frame h) h

theorem State.canon_performAcc (h : s.canon = true) : (s.performAcc i).canon = true := by
  unfold State.performAcc
  split
  · exact h
  exact State.canon_ite (State.canon_portSaw (State.canon_sawAt (State.canon_finish (State.canon_supersede (State.canon_accWrite h))))) h

theorem State.canon_narrowAcc (h : s.canon = true) {lvl : Nat} : (s.narrowAcc i lvl).canon = true := by
  unfold State.narrowAcc
  split
  · exact h
  exact State.canon_ite (State.canon_frame h) h

theorem State.canon_sendAt (h : s.canon = true) {src : Option (Nat × Nat)} {k : Token} : (s.sendAt src t e k).canon = true := by
  unfold State.sendAt
  split
  · exact State.canon_putChan h ..
  exact h

theorem State.canon_answer (h : s.canon = true) {g : Nat} : (s.answer t o g tid).canon = true := State.canon_modSet h ..

theorem State.canon_deliverDatum (h : s.canon = true) {g : Group} {gid : Nat} {m : Member} {val : Double} :
    (s.deliverDatum t o v g gid m val).canon = true := by
  refine State.canon_answer (State.canon_modThread ?_ ..)
  split
  · exact h
  split
  · split <;> exact State.canon_sendAt h
  exact State.canon_ite h (canon_writeOpd h)

theorem State.canon_lateFault (h : s.canon = true) {gid : Nat} {g : Group} : (s.lateFault t o gid g tid f).canon = true :=
  State.canon_threadFault (State.canon_ite (State.canon_modSet (State.canon_answer h) ..) (State.canon_modSet (State.canon_modSet (State.canon_answer
    h) ..) ..))

theorem State.canon_lateSregWr (h : s.canon = true) {w : Word} {r : SReg} {v : Double} : (s.lateSregWr t o w r v).1.canon = true := by
  unfold State.lateSregWr
  split
  · exact h
  exact State.canon_sregWrite h

theorem State.canon_accDatum (h : s.canon = true) {size : LdSize} : (s.accDatum i size).Canon := by
  unfold State.accDatum
  split
  · exact h
  refine holds_ite h ?_
  dsimp only
  split
  · exact State.canon_dropAcc h
  exact State.canon_sawAt (State.canon_finish h)

theorem State.canon_answered (h : s.canon = true) : (s.answered i).canon = true := by
  unfold State.answered
  split
  · exact h
  exact State.canon_sawAt (State.canon_finish h)

theorem State.canon_memberDatum (h : s.canon = true) {m : Member} : (s.memberDatum t o m).Canon := by
  unfold State.memberDatum
  extract_lets ready
  split
  · exact h
  · exact State.canon_accDatum h
  · split
    · exact h
    split
    · next e => exact (State.canon_placeAcc h).of_eq e
    · next e => exact (State.canon_placeAcc h).of_eq e
    · next e => exact (State.canon_placeAcc h).of_eq e
  · exact State.canon_accDatum h
  · split
    · split
      · split
        · next e => exact (State.canon_placeAcc h).of_eq e
        · next e => exact (State.canon_placeAcc h).of_eq e
        · next e =>
          have h1 := (State.canon_placeAcc h).of_eq e
          exact holds_ite h1 h1
      · exact holds_ite (State.canon_dropAcc h) h
      · exact h
    · exact h
  · exact h
  · exact h
  · exact holds_ite h (holds_ite (State.canon_dropAcc h) (State.canon_answered h))
  · next w r i =>
    refine holds_ite h ?_
    split
    · exact State.canon_elim h fun _ => State.canon_dropAcc h
    · exact State.canon_elim (State.canon_sregReadClears h) fun _ => State.canon_answered (State.canon_sregReadClears h)
  · exact holds_ite h (State.canon_lateSregWr (State.canon_answered h))
  · exact h
  · exact holds_ite h (State.canon_cfgWrite (State.canon_answered h))
  · exact holds_ite h (holds_ite h h)

theorem State.canon_relate (h : s.canon = true) {gid : Nat} {l : Late} : (s.relate t o gid tid l).canon = true := State.canon_modSet h ..

theorem canon_execReturnDatum {gid : Nat} (h : s.canon = true) : OutCanon (execReturnDatum t o gid tid s) := by
  unfold execReturnDatum
  split
  · exact h
  split
  · exact h
  split
  · exact h
  split
  · next e => exact (State.canon_memberDatum h).of_eq e
  · next e => exact State.canon_relate ((State.canon_memberDatum h).of_eq e)
  · next e => exact State.canon_lateFault ((State.canon_memberDatum h).of_eq e)
  next e => exact State.canon_deliverDatum ((State.canon_memberDatum h).of_eq e)

theorem canon_execReturnGroupComplete {gid : Nat} (h : s.canon = true) : OutCanon (execReturnGroupComplete t o gid s) := by
  unfold execReturnGroupComplete
  split
  · exact h
  split
  · exact h
  exact State.canon_ite (State.canon_putSet h ..) h

theorem canon_execPeerTimeout (h : s.canon = true) : OutCanon (execPeerTimeout t o tid s) := by
  unfold execPeerTimeout
  split
  · exact h
  dsimp only
  split
  · exact h
  exact State.canon_lateFault (State.canon_dropAcc h)

theorem State.canon_spreadXlat (h : s.canon = true) : (s.spreadXlat i t o).canon = true := by
  unfold State.spreadXlat
  split
  · exact h
  exact State.canon_ite h (State.canon_foldl h fun hs => State.canon_cacheLeaf hs)

theorem State.canon_pipeAge (h : s.canon = true) : (s.pipeAge t).canon = true := by
  refine State.canon_foldl (State.canon_putTile_frame h) fun hs => ?_
  split
  · exact State.canon_sawAt (State.canon_finish (State.canon_supersede (State.canon_tileWrite hs)))
  exact hs

theorem State.canon_modPort (h : s.canon = true) {f : PortNode → PortNode} : (s.modPort t k f).canon = true := State.canon_putTile_frame h

theorem State.canon_portFault (h : s.canon = true) {p : PortNode} : (s.portFault t p f).canon = true := State.canon_tileRecord (State.canon_modPort h)

theorem State.canon_countPort (h : s.canon = true) {a : Access} : (s.countPort t a).canon = true := by
  unfold State.countPort
  split
  · exact State.canon_modPort h
  exact h

theorem State.canon_takePort (h : s.canon = true) {a : Access} : (s.takePort t a).canon = true := by
  unfold State.takePort
  split
  · exact State.canon_modPort (State.canon_popAt h)
  exact h

theorem State.canon_acceptAtom (h : s.canon = true) {a : Access} : (s.acceptAtom t i a).canon = true := by
  unfold State.acceptAtom
  split
  swap
  · exact h
  dsimp only
  have h0 : ((s.modSet t a.set (fun v => { v with atomCount := v.atomCount + 1 })).countPort t a).canon = true :=
    State.canon_countPort (State.canon_modSet h ..)
  have hq {q : List AtomReq} := State.canon_putTile_frame (t := t) h0 (v := { State.tile _ t with atomQ := q })
  split
  · split
    · exact State.canon_portFault (State.canon_dropAcc hq)
    · exact State.canon_modSet (State.canon_lateFault (State.canon_dropAcc hq)) ..
    · exact State.canon_modSet (State.canon_dropAcc hq) ..
  · exact State.canon_sawAt (State.canon_frame (State.canon_modSet (State.canon_takePort hq) ..))

theorem State.canon_pipeTake (h : s.canon = true) {a1 : Nat} {a2 : List Nat} : (s.pipeTake t a1 a2).canon = true := by
  induction a1 generalizing s a2 with
  | zero => exact h
  | succ fuel ih =>
    unfold State.pipeTake
    split
    · exact h
    · exact State.canon_diverge h
    refine State.canon_ite h ?_
    split
    · next e => exact ih (State.canon_acceptAtom ((State.canon_chooseAs h).of_eq e))
    · exact State.canon_segmentStall h

/-! #### Streams -/

theorem State.canon_cmdWrite (h : s.canon = true) {c : Cmd} {x : Xl} {va : Double} {val : Nat} : (s.cmdWrite t o c x va n val).canon = true :=
  State.canon_issueAcc h

theorem State.canon_pushEnd (h : s.canon = true) {c : Cmd} {eoi : Bool} : (s.pushEnd t o c e eoi).canon = true :=
  State.canon_ite (State.canon_cmdDone h) (State.canon_ite h (State.canon_cmdDone (State.canon_pushAt h ..)))

theorem State.canon_popEnd (h : s.canon = true) {c : Cmd} {eoi : Bool} : (s.popEnd t o c e eoi elem).canon = true := by
  refine State.canon_ite (State.canon_cmdDone h) ?_
  split
  · exact h
  exact State.canon_ite (State.canon_cmdDone (State.canon_popAt h)) (State.canon_stopCmd h)

theorem State.canon_strmRead (h : s.canon = true) {c : Cmd} {p : Pattern} : (s.strmRead t o v c p).canon = true := by
  unfold State.strmRead
  dsimp only
  split
  · exact h
  split
  · next e => exact (State.canon_engTranslate h).of_eq e
  · next e => exact State.canon_ite h (State.canon_stopCmd (State.canon_modCmd ((State.canon_engTranslate h).of_eq e)))
  next e => exact State.canon_modCmd ((State.canon_engTranslate h).of_eq e)

theorem State.canon_strmFlow (h : s.canon = true) {c : Cmd} {n : BitVec 3} : (s.strmFlow t o v c n).canon = true := by
  unfold State.strmFlow
  dsimp only
  split
  · exact State.canon_ite h (State.canon_modCmd (State.canon_pushAt h ..))
  exact h

theorem State.canon_strmRdStep (h : s.canon = true) {c : Cmd} {n : BitVec 3} : (s.strmRdStep t o v c n).canon = true := by
  refine State.canon_ite (State.canon_fetchDesc h (fun hs => State.canon_ite (State.canon_stopCmd hs) (State.canon_modCmd hs))) (State.canon_ite
    (State.canon_ite (State.canon_strmFlow h) (State.canon_leaveQueue h)) (State.canon_ite h (State.canon_ite (State.canon_pushEnd h) ?_)))
  split
  · exact State.canon_strmRead h
  exact State.canon_ite (State.canon_strmRead h) (State.canon_modCmd (State.canon_pushAt h ..))

theorem State.canon_strmWrite (h : s.canon = true) {c : Cmd} {va : Double} {val : Nat} {k : State → State}
    (hk : ∀ {s}, s.canon = true → (k s).canon = true) :
    (s.strmWrite t o v c va n e val k).canon = true := by
  unfold State.strmWrite
  split
  · next e => exact (State.canon_engTranslate h).of_eq e
  · next e => exact State.canon_stopCmd ((State.canon_engTranslate h).of_eq e)
  next e => exact hk (State.canon_cmdWrite ((State.canon_engTranslate h).of_eq e))

theorem State.canon_strmWrStep (h : s.canon = true) {c : Cmd} {n : BitVec 3} : (s.strmWrStep t o v c n).canon = true := by
  refine State.canon_ite (State.canon_fetchDesc h (fun hs => State.canon_ite (State.canon_stopCmd hs) (State.canon_modCmd hs))) (State.canon_ite h
    (State.canon_ite (State.canon_popEnd h) ?_))
  split
  · exact h
  exact State.canon_ite (State.canon_ite (State.canon_stopCmd h) (State.canon_strmWrite h (fun hs => State.canon_modCmd (State.canon_popAt hs))))
    (State.canon_ite (State.canon_stopCmd h) (State.canon_strmWrite h (fun hs => State.canon_modCmd (State.canon_ite (State.canon_popAt hs) hs))))

/-! #### Copies -/

theorem State.canon_readSide (h : s.canon = true) {c : Cmd} {sd : Side} {ofs : Nat} : (s.readSide t o v c sd ofs n).Canon := by
  unfold State.readSide
  split
  · exact holds_ite h (holds_ite h h)
  · split
    · next e => exact (State.canon_engTranslate h).of_eq e
    · next e => exact (State.canon_engTranslate h).of_eq e
    next e => exact (State.canon_engTranslate h).of_eq e
  exact h

theorem State.canon_writeSide (h : s.canon = true) {c : Cmd} {sd : Side} {ofs : Nat} {bs : List Byte} : (s.writeSide t o v c sd ofs bs).Canon := by
  unfold State.writeSide
  dsimp only
  split
  · exact holds_ite h (holds_ite h (State.canon_tileWrite h))
  · split
    · next e => exact (State.canon_engTranslate h).of_eq e
    · next e => exact (State.canon_engTranslate h).of_eq e
    next e => exact State.canon_cmdWrite ((State.canon_engTranslate h).of_eq e)
  refine State.canon_putTile h _ (Tile.canon_set_opmem (State.canon_tile h ..) ?_)
  exact Memory.wf_writeBytes (Tile.wf_opmem (State.canon_tile h ..)) ..

theorem State.canon_moveStep (h : s.canon = true) {c : Cmd} {src dst : Side} {len : Nat} {desc : Bool} :
    (s.moveStep t o v c src dst len desc).canon = true := by
  refine State.canon_ite ?_ ?_
  · dsimp only
    split
    · next e => exact (State.canon_writeSide h).of_eq e
    · next e => exact State.canon_stopCmd ((State.canon_writeSide h).of_eq e)
    next e => exact State.canon_countTile (State.canon_modCmd ((State.canon_writeSide h).of_eq e))
  · dsimp only
    split
    · next e => exact (State.canon_readSide h).of_eq e
    · next e => exact State.canon_modCmd ((State.canon_readSide h).of_eq e)
    next e =>
      refine State.canon_ite (State.canon_stopCmd ((State.canon_readSide h).of_eq e)) ?_
      split
      · next e' => exact (State.canon_writeSide h).of_eq e'
      · next e' => exact State.canon_stopCmd ((State.canon_writeSide h).of_eq e')
      next e' => exact State.canon_countTile (State.canon_modCmd ((State.canon_writeSide h).of_eq e'))

theorem State.canon_copyStart (h : s.canon = true) {c : Cmd} : (s.copyStart t o v c).canon = true := by
  refine State.canon_fetchDesc h (fun hs => State.canon_ite (State.canon_stopCmd hs) ?_)
  split
  · exact State.canon_stopCmd hs
  exact State.canon_ite (State.canon_cmdDone hs) (State.canon_modCmd hs)

theorem State.canon_plainCopyStep (h : s.canon = true) {c : Cmd} {src dst : Side} {desc : Bool} :
    (s.plainCopyStep t o v c src dst desc).canon = true :=
  State.canon_ite (State.canon_cmdDone h) (State.canon_moveStep h)

theorem State.canon_pushStep (h : s.canon = true) {c : Cmd} : (s.pushStep t o c e).canon = true := by
  refine State.canon_ite (State.canon_pushEnd h) ?_
  split
  · exact State.canon_stopCmd h
  exact State.canon_ite h (State.canon_countTile (State.canon_modCmd (State.canon_pushAt h ..)))

theorem State.canon_pushzStep (h : s.canon = true) {c : Cmd} : (s.pushzStep t o c e).canon = true := by
  refine State.canon_ite (State.canon_pushEnd h) ?_
  split
  · exact State.canon_stopCmd h
  exact State.canon_ite (State.canon_countTile (State.canon_modCmd h)) (State.canon_ite h (State.canon_countTile (State.canon_modCmd
    (State.canon_pushAt h ..))))

theorem State.canon_popStep (h : s.canon = true) {c : Cmd} {dst : Side} {tag : BitVec 3} {len : Nat} :
    (s.popStep t o v c e dst tag len).canon = true := by
  unfold State.popStep
  split
  · exact h
  refine State.canon_ite (State.canon_stopCmd h) ?_
  split
  · next e => exact (State.canon_writeSide h).of_eq e
  · next e => exact State.canon_stopCmd ((State.canon_writeSide h).of_eq e)
  next e => exact State.canon_ite h (State.canon_countTile (State.canon_modCmd (State.canon_popAt ((State.canon_writeSide h).of_eq e))))

theorem State.canon_popdStep (h : s.canon = true) {c : Cmd} : (s.popdStep t o v c e).canon = true := by
  refine State.canon_ite ?_ (State.canon_ite (State.canon_popEnd h) ?_)
  · split
    · exact h
    exact State.canon_ite (State.canon_stopCmd h) (State.canon_ite (State.canon_stopCmd h) (State.canon_modCmd (State.canon_popAt h)))
  · dsimp only
    split
    · next e => exact (State.canon_writeSide h).of_eq e
    · next e => exact State.canon_stopCmd ((State.canon_writeSide h).of_eq e)
    next e => exact State.canon_countTile (State.canon_modCmd ((State.canon_writeSide h).of_eq e))

theorem State.canon_copyStep (h : s.canon = true) {c : Cmd} : (s.copyStep t o v c).canon = true := by
  refine State.canon_ite (State.canon_copyStart h) (State.canon_ite h ?_)
  dsimp only
  split
  · exact State.canon_plainCopyStep h
  · exact State.canon_plainCopyStep h
  · exact State.canon_plainCopyStep h
  · exact State.canon_pushStep h
  · exact State.canon_pushzStep h
  · exact State.canon_ite (State.canon_popEnd h) (State.canon_popStep h)
  · exact State.canon_popdStep h
  exact h

theorem State.canon_fillDone (h : s.canon = true) {c : Cmd} {run : List Nat} : (s.fillDone t o c run).canon = true :=
  State.canon_cmdDone (State.canon_ite (State.canon_setRun h) h)

theorem State.canon_fillStep (h : s.canon = true) {c : Cmd} {first countM1 : Nat} {chan : Option Nat} :
    (s.fillStep t o v c first countM1 chan).canon = true := by
  refine State.canon_ite (State.canon_fetchDesc h (fun hs => State.canon_ite (State.canon_stopCmd hs) (State.canon_modCmd hs))) (State.canon_ite ?_
    (State.canon_ite h (State.canon_ite (State.canon_ite (State.canon_ite (State.canon_fillDone h) ?_) (State.canon_popStep h)) (State.canon_ite
    (State.canon_fillDone h) (State.canon_ite ?_ (State.canon_moveStep h))))))
  · split
    · exact State.canon_stopCmd h
    · exact h
    exact State.canon_modCmd (State.canon_setRun h)
  · split
    · exact h
    exact State.canon_ite (State.canon_fillDone (State.canon_popAt h)) (State.canon_stopCmd h)
  · dsimp only
    split
    · exact State.canon_stopCmd h
    exact State.canon_moveStep h

/-! #### CubeUnit -/

theorem Tile.canon_putAcs (h : x.canon = true) {v : Word} : (x.putAcs w v).canon = true := by
  refine Tile.canon_set_acs h ?_
  exact SMap.wf_put (Tile.wf_acs h) ..

theorem Tile.canon_cubeGroup (h : x.canon = true) {d : CubeDesc} {a b c : CubePlane} {ws : List (Nat × Nat × Nat × Nat)} {g : Nat} {start : SMap Nat}
    :
    (x.cubeGroup d a b c ws g start).canon = true :=
  Tile.canon_foldl h fun hs => Tile.canon_putAcs hs

theorem State.canon_poisonRegion (h : s.canon = true) {d : CubeDesc} : (s.poisonRegion t d).canon = true := State.canon_putTile_frame h

theorem State.canon_putDigest (h : s.canon = true) {v : Nat} : (s.putDigest t n v).canon = true := State.canon_putTile_frame h

theorem State.canon_takeCount (h : s.canon = true) {c : Cmd} : (s.takeCount t o c).1.canon = true := by
  unfold State.takeCount
  split
  · exact h
  exact State.canon_modCmd (State.canon_putTile_frame h)

theorem State.canon_cubeStart (h : s.canon = true) {c : Cmd} {mode : CubeMode} : (s.cubeStart t o v c mode).canon = true := by
  refine State.canon_fetchDesc h (fun hs => State.canon_ite hs (State.canon_ite (State.canon_ite hs ?_) ?_))
  · dsimp only
    split
    · exact State.canon_stopCmd (State.canon_putDigest (State.canon_takeCount hs))
    exact State.canon_modCmd (State.canon_putDigest (State.canon_takeCount hs))
  · split
    · exact State.canon_stopCmd hs
    exact State.canon_modCmd hs

theorem State.canon_cubePanel (h : s.canon = true) {c : Cmd} {d : CubeDesc} : (s.cubePanel t o c d).canon = true := by
  unfold State.cubePanel
  dsimp only
  split
  · exact State.canon_stopCmd (State.canon_modCmd h)
  exact State.canon_ite (State.canon_stopCmd (State.canon_modCmd h)) (State.canon_ite (State.canon_modCmd (State.canon_putTile h _
    (Tile.canon_cubeGroup (State.canon_tile h ..)))) (State.canon_ite (State.canon_stopCmd (State.canon_modCmd (State.canon_poisonRegion
    (State.canon_putTile h _ (Tile.canon_cubeGroup (State.canon_tile h ..)))))) (State.canon_modCmd (State.canon_putTile h _ (Tile.canon_cubeGroup
    (State.canon_tile h ..))))))

theorem State.canon_grantSlots (h : s.canon = true) {d : CubeDesc} : (s.grantSlots t n d).canon = true := by
  refine State.canon_foldl h fun hs => ?_
  split
  · exact hs
  exact State.canon_foldl hs fun hs => State.canon_ite (State.canon_useRun (State.canon_modCmd hs)) hs

theorem State.canon_cubeStep (h : s.canon = true) {c : Cmd} {mode : CubeMode} : (s.cubeStep t o v c mode).canon = true := by
  unfold State.cubeStep
  dsimp only
  split
  · exact State.canon_cubeStart h
  · refine State.canon_ite h ?_
    split
    · exact State.canon_ite (State.canon_stopCmd h) (State.canon_stopCmd (State.canon_modCmd h))
    exact State.canon_ite h (State.canon_modCmd (State.canon_useRun (State.canon_ite (State.canon_grantSlots h) h)))
  · exact State.canon_ite h (State.canon_ite (State.canon_modCmd (State.canon_leaveSlots h)) (State.canon_cubePanel h))
  · exact State.canon_ite (State.canon_modCmd h) h
  exact h

theorem State.canon_settle (h : s.canon = true) {ts : List Nat} : (s.settle ts n).canon = true := by
  refine State.canon_foldl (State.canon_foldl h fun hs => ?_) fun hs => State.canon_putTile_frame hs
  split
  · exact State.canon_ite hs (State.canon_ite (State.canon_modCmd hs) (State.canon_stopCmd hs))
  exact hs

theorem canon_execCubeDigestsComplete {die gid : Nat} (h : s.canon = true) : OutCanon (execCubeDigestsComplete die gid s) := by
  refine State.canon_foldl h fun hs => ?_
  split
  · exact hs
  split
  · exact State.canon_settle hs
  exact hs

theorem State.canon_bindStep (h : s.canon = true) {c : Cmd} {gate : Bool} {chI chO : BitVec 3} : (s.bindStep t o v c gate chI chO).canon = true := by
  refine State.canon_ite (State.canon_fetchDesc h (fun hs => State.canon_ite (State.canon_stopCmd hs) (State.canon_ite (State.canon_stopCmd hs)
    (State.canon_ite (State.canon_stopCmd hs) (State.canon_ite hs (State.canon_modCmd hs)))))) (State.canon_ite h ?_)
  dsimp only
  split
  · exact State.canon_stopCmd (State.canon_modCmd h)
  split
  · exact State.canon_cmdDone (State.canon_putTile_frame (State.canon_useRun h))
  exact h

theorem State.canon_unbindStep (h : s.canon = true) {c : Cmd} : (s.unbindStep t o c).canon = true := by
  refine State.canon_ite h ?_
  split
  · exact State.canon_ite (State.canon_cmdDone (State.canon_endBinding h)) (State.canon_cmdDone h)
  exact State.canon_cmdDone h

theorem State.canon_bindingFault (h : s.canon = true) {b : Binding} : (s.bindingFault t b f).canon = true :=
  State.canon_notice (State.canon_modBinding h)

theorem State.canon_opWrite (h : s.canon = true) {v : Nat} : (s.opWrite t a n v).canon = true := by
  refine State.canon_putTile h _ (Tile.canon_set_opmem (State.canon_tile h ..) ?_)
  exact Memory.wf_writeLE (Tile.wf_opmem (State.canon_tile h ..)) ..

theorem State.canon_bindTake (h : s.canon = true) {b : Binding} {k : Token} : (s.bindTake t b e k).canon = true :=
  State.canon_ite (State.canon_ite (State.canon_bindingFault h) (State.canon_ite (State.canon_bindingFault h) h)) (State.canon_ite (State.canon_ite
    (State.canon_bindingFault h) (State.canon_ite (State.canon_bindingFault h) (State.canon_modBinding (State.canon_opWrite (State.canon_popAt h)))))
    (State.canon_ite (State.canon_bindingFault h) (State.canon_modBinding (State.canon_opWrite (State.canon_popAt h)))))

theorem State.canon_nodeHalt (h : s.canon = true) {e : Elem} {node : Word} {invoc : BitVec 24} : OptCanon (s.nodeHalt t v e node invoc) := by
  unfold State.nodeHalt
  split
  · trivial
  refine holds_ite trivial ?_
  cases s.bkptHit v node invoc true with
  | none => trivial
  | some k => exact State.canon_halt h

theorem State.canon_nodeFired (h : s.canon = true) {e : Elem} : (s.nodeFired t e).canon = true := by
  unfold State.nodeFired
  split
  · exact h
  exact State.canon_stepDone (State.canon_modRegion h ..)

theorem State.canon_nodeNoted (h : s.canon = true) {ek : BitVec 3} {e : Elem} {ev : TraceEv} : (s.nodeNoted t ek elem e ev).canon = true := by
  refine State.canon_nodeFired ?_
  split
  · exact State.canon_noteFiring (State.canon_observe h)
  exact State.canon_observe h

theorem State.canon_bindFire (h : s.canon = true) {b : Binding} {eo : Nat} : (s.bindFire t v b eo).canon = true := by
  have hn := State.canon_nodeHalt (t := t) (v := v) (e := .cube t) (node := s.node t 4 0) (invoc := v.eoiInvoc) h
  unfold State.bindFire
  extract_lets d row one slot x ev ws pa pb pg bad y s1
  refine State.canon_ite (State.canon_getD hn h) (State.canon_ite (State.canon_driftStall h) ?_)
  clear_value bad
  split
  · exact State.canon_bindingFault h
  refine State.canon_ite (State.canon_bindingFault h) (State.canon_ite (State.canon_bindingFault (State.canon_poisonRegion h)) ?_)
  split
  · next e => exact hn.of_eq e
  · have hy : y.canon = true := Tile.canon_foldl (State.canon_tile h t) fun hx => Tile.canon_cubeGroup hx
    have h1 : s1.canon = true := State.canon_modBinding (State.canon_pushFrom (State.canon_putTile h t hy))
    exact State.canon_nodeNoted h1

theorem canon_execCubeStreamFiring (h : s.canon = true) : OutCanon (execCubeStreamFiring t s) := by
  unfold execCubeStreamFiring
  split
  · exact h
  split
  · exact h
  refine holds_ite h ?_
  dsimp only
  split
  · exact holds_ite (State.canon_bindTake h) (State.canon_ite (State.canon_bindFire h) h)
  exact State.canon_ite (State.canon_bindFire h) h

theorem canon_execCubeControlForward (h : s.canon = true) : OutCanon (execCubeControlForward t s) := by
  unfold execCubeControlForward
  split
  · exact h
  split
  · exact h
  dsimp only
  split
  · exact h
  refine holds_ite h ?_
  split
  · exact State.canon_modBinding (State.canon_pushAt (State.canon_popAt h) ..)
  · exact State.canon_modSet (State.canon_pushAt (State.canon_popAt h) ..) ..
  exact State.canon_endBinding (State.canon_modSet (State.canon_acquireSet (State.canon_pushAt (State.canon_popAt h) ..)) ..)

/-! #### Acs -/

theorem canon_execAcsLd {a : Opd} {off : BitVec 16} (h : s.canon = true) : OutCanon (execAcsLd g d a off s) := by
  refine canon_withPass h (fun hs => canon_serveActs hs (fun hs => ?_))
  split
  · exact hs
  refine holds_ite hs ?_
  split
  · exact State.canon_reserve (State.canon_issueAcc hs)
  exact State.canon_issueAcc hs

theorem canon_execAcsSt {a : Opd} {off : BitVec 16} (h : s.canon = true) : OutCanon (execAcsSt g a b off s) := by
  refine canon_withPass h (fun hs => canon_serveActs hs (fun hs => ?_))
  split
  · exact hs
  exact State.canon_issueAcc hs

/-! #### Bank -/

theorem State.canon_unitStatus (h : s.canon = true) {st : BitVec 8} : (s.unitStatus n st).canon = true := by
  have h1 : (s.putUnit n { s.unit n with status := st }).canon = true := State.canon_putUnit h
  exact State.canon_frame h1

theorem State.canon_drainOne (h : s.canon = true) : (s.drainOne n).canon = true := by
  unfold State.drainOne
  split
  · exact h
  exact State.canon_putUnit (State.canon_writeKey h)

theorem State.canon_settleUnit (h : s.canon = true) : (s.settleUnit n).canon = true :=
  State.canon_ite (State.canon_unitStatus (State.canon_putUnit h)) (State.canon_ite (State.canon_unitStatus (State.canon_putUnit h)) h)

theorem State.canon_unitFault (h : s.canon = true) {code : BitVec 8} {kind : BitVec 3} {sub since : Nat} :
    (s.unitFault n k code kind pa sub since).canon = true :=
  State.canon_unitStatus (State.canon_putUnit h)

theorem State.canon_unitHw (h : s.canon = true) {sub : Nat} : (s.unitHw n sub).canon = true := State.canon_ite (State.canon_unitFault h) h

theorem State.canon_bsuAccess (h : s.canon = true) {a : Word} {store : Option Word} : (s.bsuAccess n k a store).canon = true := by
  refine State.canon_ite (State.canon_unitFault h) (State.canon_ite (State.canon_unitFault h) (State.canon_ite (State.canon_unitFault h)
    (State.canon_ite (State.canon_unitFault h) ?_)))
  dsimp only
  split <;> exact State.canon_putUnit h

theorem State.canon_bsuControl (h : s.canon = true) {heads : List (Nat × Token)} {x : Token} : (s.bsuControl n k heads x).canon = true :=
  State.canon_ite (State.canon_unitFault h) (State.canon_ite (State.canon_ite (State.canon_putUnit h) (State.canon_putUnit h)) (State.canon_ite h
    (State.canon_ite h (State.canon_putUnit h))))

theorem State.canon_bsuData (h : s.canon = true) {heads : List (Nat × Token)} : (s.bsuData n k heads).canon = true := by
  refine State.canon_ite (State.canon_unitFault h) ?_
  dsimp only
  split
  · exact State.canon_ite (State.canon_bsuAccess h) h
  · exact State.canon_ite (State.canon_bsuAccess h) h
  · exact State.canon_ite (State.canon_putUnit h) (State.canon_putUnit h)
  · exact State.canon_ite (State.canon_putUnit h) (State.canon_putUnit h)
  · exact State.canon_putUnit h
  exact State.canon_putUnit h

theorem State.canon_linkTake (h : s.canon = true) : (s.linkTake n l).canon = true := by
  unfold State.linkTake
  dsimp only
  split
  · exact State.canon_putChan (State.canon_putUnit h) ..
  exact State.canon_putUnit h

theorem State.canon_bsuFire (h : s.canon = true) : (s.bsuFire n k).canon = true := by
  refine State.canon_ite h (State.canon_ite ?_ ?_)
  · split
    · exact h
    exact State.canon_ite (State.canon_unitFault h) (State.canon_putUnit (State.canon_linkTake h))
  · split
    · exact State.canon_ite (State.canon_putUnit h) (State.canon_putUnit h)
    refine State.canon_ite h ?_
    split
    · exact State.canon_bsuControl h
    exact State.canon_bsuData h

theorem State.canon_unitLate (h : s.canon = true) {code : BitVec 8} {kind : BitVec 3} {at'0 : Nat} :
    (s.unitLate n k code kind pa at'0).canon = true :=
  State.canon_ite (State.canon_putUnit h) (State.canon_unitFault h)

theorem State.canon_bsuLoad (h : s.canon = true) {l : BsuLoad} : (s.bsuLoad n k l).canon = true := by
  refine State.canon_ite h ?_
  split
  · exact State.canon_unitLate h
  exact State.canon_putUnit h

theorem canon_execBsuLoadReturn (h : s.canon = true) : OutCanon (execBsuLoadReturn n k s) := by
  unfold execBsuLoadReturn
  dsimp only
  split
  · refine holds_ite (State.canon_settleUnit (State.canon_putUnit h)) ?_
    split
    · exact State.canon_bsuLoad h
    exact h
  split
  · exact State.canon_bsuLoad h
  exact h

theorem canon_execBsuStorePerformed (h : s.canon = true) : OutCanon (execBsuStorePerformed n k s) := by
  unfold execBsuStorePerformed
  dsimp only
  split
  · exact h
  refine holds_ite h ?_
  split
  · exact holds_ite (State.canon_settleUnit (State.canon_putUnit h)) (State.canon_unitLate h)
  exact State.canon_settleUnit (State.canon_putUnit h)

theorem canon_execBsuLinkArrival (h : s.canon = true) : OutCanon (execBsuLinkArrival n l s) := by
  unfold execBsuLinkArrival
  dsimp only
  split
  · exact h
  split
  · exact h
  exact holds_ite (State.canon_putChan h ..) (holds_ite h (State.canon_putUnit (State.canon_putChan h ..)))

theorem State.canon_nmqAdd (h : s.canon = true) {slot : Nat} {fin : Option (BitVec 8 × Nat)} {ns : List Nat} : (s.nmqAdd slot fin ns).canon = true :=
  State.canon_frame h

theorem State.canon_nmqTake (h : s.canon = true) {mine : Nat → Bool} {waits : Double → Bool} {f : ℕ → Double → State → State}
    (hf : ∀ {a0 a1 s}, s.canon = true → (f a0 a1 s).canon = true) :
    (s.nmqTake mine waits f).canon = true :=
  State.canon_ite h (State.canon_ite (State.canon_modCfg h ..) (State.canon_ite (State.canon_nmqAdd (State.canon_modCfg h ..)) (hf
    (State.canon_modCfg h ..))))

theorem canon_nmqChan {d1 : Double} {f : ℕ → State → State} (hf : ∀ {a0 s}, s.canon = true → (f a0 s).canon = true) {slot : Nat} (h : s.canon = true)
    :
    (nmqChan d1 f slot s).canon = true :=
  State.canon_ite (State.canon_nmqAdd h) (hf h)

theorem canon_execBsuLaunch (h : s.canon = true) : OutCanon (execBsuLaunch s) := by
  refine State.canon_nmqTake h (fun hs => State.canon_ite (State.canon_nmqAdd hs) ?_)
  split
  · exact State.canon_nmqAdd hs
  exact State.canon_foldl (State.canon_foldl (State.canon_nmqAdd hs) fun hs => State.canon_putUnit hs) fun hs => State.canon_settleUnit hs

theorem canon_execBsuResume (h : s.canon = true) : OutCanon (execBsuResume s) :=
  State.canon_nmqTake h (fun hs => canon_nmqChan (fun hs => State.canon_ite (State.canon_nmqAdd hs) (State.canon_ite (State.canon_settleUnit
    (State.canon_nmqAdd (State.canon_unitStatus (State.canon_putUnit hs)))) (State.canon_nmqAdd hs))) hs)

theorem State.canon_dropLinks (h : s.canon = true) : (s.dropLinks n).canon = true :=
  State.canon_foldl h fun hs => State.canon_foldl hs fun hs => State.canon_linkTake hs

theorem State.canon_abortUnit (h : s.canon = true) : (s.abortUnit n).canon = true :=
  State.canon_settleUnit (State.canon_putUnit (State.canon_dropLinks h))

theorem State.canon_undropLink (h : s.canon = true) {c : Chan} : (s.undropLink c).canon = true := by
  unfold State.undropLink
  split
  · exact State.canon_putUnit h
  exact h

theorem State.canon_closeLink (h : s.canon = true) {c : Chan} : (s.closeLink c).canon = true := by
  refine State.canon_undropLink ?_
  split
  · refine State.canon_putUnit ?_
    split
    · exact State.canon_putUnit h
    exact h
  split
  · exact State.canon_putUnit h
  exact h

theorem canon_execBsuAbort (h : s.canon = true) : OutCanon (execBsuAbort s) :=
  State.canon_nmqTake h (fun hs => canon_nmqChan (fun hs => State.canon_ite (State.canon_nmqAdd hs) (State.canon_ite (State.canon_nmqAdd hs)
    (State.canon_abortUnit (State.canon_nmqAdd hs)))) hs)

theorem canon_execBsuQuery (h : s.canon = true) : OutCanon (execBsuQuery s) :=
  State.canon_nmqTake h (fun hs => State.canon_ite (State.canon_nmqAdd hs) (canon_nmqChan (fun hs => State.canon_nmqAdd hs) hs))

theorem State.canon_nmqWrite (h : s.canon = true) {slot : Nat} {st : BitVec 8} : (s.nmqWrite slot st n).canon = true :=
  State.canon_writePlain (State.canon_writePlain (State.canon_ite (State.canon_foldl h fun hs => State.canon_writePlain hs ..) h) ..) ..

theorem canon_execNmqCommandDone (h : s.canon = true) : OutCanon (execNmqCommandDone s) := by
  unfold execNmqCommandDone
  split
  · exact h
  split
  · exact h
  exact holds_ite h (holds_ite (State.canon_frame h) (State.canon_nmqWrite (State.canon_frame h)))

theorem State.canon_alertUnit (h : s.canon = true) {now : Double} : (s.alertUnit n now).canon = true :=
  State.canon_ite (State.canon_logEvent (State.canon_unitStatus (State.canon_putUnit (State.canon_putUnit h)))) (State.canon_putUnit h)

/-! #### ChanOps -/

theorem canon_execChPush {tag : BitVec 3} {rel : Bool} {n : BitVec 3} {a : Opd} (h : s.canon = true) : OutCanon (execChPush g tag rel n a s) := by
  refine canon_withPass h (fun hs => canon_serveActs hs (fun hs => ?_))
  split
  · exact hs
  exact State.canon_pushFrom hs

theorem canon_serveHead {h0 : HeadRead} {n : BitVec 3} (h : s.canon = true) : (serveHead h0 d n c s).Canon := by
  unfold serveHead
  split
  · exact h
  refine holds_ite h (canon_serveActs h (fun hs => ?_))
  split
  · exact hs
  exact holds_ite hs (canon_writeOpd (State.canon_ite (State.canon_acquireSet (State.canon_ite (State.canon_popAt hs) hs)) (State.canon_ite
    (State.canon_acquire (State.canon_ite (State.canon_popAt hs) hs)) (State.canon_ite (State.canon_popAt hs) hs))))

theorem canon_execChPop {tag : Option (BitVec 3)} {acq : Bool} {n : BitVec 3} (h : s.canon = true) : OutCanon (execChPop g tag acq d n s) :=
  canon_withPass h (fun hs => canon_serveHead hs)

theorem canon_execChPeek {tag : Option (BitVec 3)} {n : BitVec 3} (h : s.canon = true) : OutCanon (execChPeek g tag d n s) :=
  canon_withPass h (fun hs => canon_serveHead hs)

theorem canon_execChTag {n : BitVec 3} (h : s.canon = true) : OutCanon (execChTag g d n s) := canon_withPass h (fun hs => canon_serveHead hs)

theorem canon_serveCtl {sub : CtlSub} {dst : ChName} {a : Opd} (h : s.canon = true) : (serveCtl sub dst a c s).Canon := by
  unfold serveCtl
  split
  · exact h
  exact holds_ite h (canon_serveActs h (fun hs => State.canon_modSet (State.canon_pushFrom hs) ..))

theorem canon_execChCtl {sub : CtlSub} {dst : ChName} {a : Opd} (h : s.canon = true) : OutCanon (execChCtl g sub dst a s) :=
  canon_withPass h (fun hs => canon_serveCtl hs)

theorem canon_routeValue (h : s.canon = true) {ty : Ty} {used : List Nat} {src dst : Opd} : (routeValue c s v ty used src dst).Canon := by
  refine holds_ite h (holds_ite h (holds_ite h ?_))
  split
  · exact h
  exact canon_writeOpd (State.canon_foldl h fun hs => State.canon_popAt hs)

theorem canon_serveRoute {inv : Bool} {ty : Ty} {p : Opd} {srcs dsts : List Opd} {pick : Bool → Opd × Opd} (h : s.canon = true) :
    (serveRoute inv ty p srcs dsts pick c s).Canon := by
  unfold serveRoute
  split
  · exact h
  refine holds_ite h ?_
  split
  · exact canon_routeValue h
  split
  · exact h
  exact holds_ite h (canon_routeValue h)

theorem canon_execSteer {inv : Bool} {ty : Ty} {a p f : Opd} (h : s.canon = true) : OutCanon (execSteer g inv ty d a p f s) :=
  canon_withPass h (fun hs => canon_serveRoute hs)

theorem canon_execMerge {inv : Bool} {ty : Ty} {a p : Opd} (h : s.canon = true) : OutCanon (execMerge g inv ty d a b p s) :=
  canon_withPass h (fun hs => canon_serveRoute hs)

theorem canon_serveAmerge {ty : Ty} {ins : List (BitVec 3)} (h : s.canon = true) : (serveAmerge ty d ins c s).Canon := by
  unfold serveAmerge
  split
  · exact h
  next v _ =>
  extract_lets pend elem me ends has go
  have hgo {k : Nat} : (go k).Canon := by
    unfold go
    extract_lets made
    have hm : made.canon = true := State.canon_modSet h ..
    split
    · split
      · next e => exact canon_routeValue ((State.canon_chooseAs hm).of_eq e)
      · exact State.canon_segmentStall h
    · exact canon_routeValue h
  refine holds_ite h (holds_ite h ?_)
  split
  · split
    · exact h
    · exact hgo
  · split
    · exact h
    · exact hgo
  · refine holds_ite h ?_
    split
    · exact h
    · exact holds_ite (State.canon_diverge h) (holds_ite hgo h)

theorem canon_execAmerge {ty : Ty} {a b : BitVec 3} {e : Option (BitVec 3)} (h : s.canon = true) : OutCanon (execAmerge g ty d a b e s) :=
  canon_withPass h (fun hs => canon_serveAmerge hs)

theorem canon_serveLgen {d : Option (BitVec 3)} {a : BitVec 3} {st : BitVec 4} {p : Option (BitVec 3)} (h : s.canon = true) :
    (serveLgen d a st p c s).Canon := by
  unfold serveLgen
  split
  · exact h
  refine holds_ite h (holds_ite h (holds_ite h (holds_ite h (holds_ite h (holds_ite h (State.canon_modSet ?_ ..))))))
  split
  · refine State.canon_pushFrom ?_
    split
    · exact State.canon_pushFrom (State.canon_ite (State.canon_popAt h) h)
    exact State.canon_ite (State.canon_popAt h) h
  split
  · exact State.canon_pushFrom (State.canon_ite (State.canon_popAt h) h)
  exact State.canon_ite (State.canon_popAt h) h

theorem canon_execLgen {d : Option (BitVec 3)} {a : BitVec 3} {st : BitVec 4} {p : Option (BitVec 3)} (h : s.canon = true) :
    OutCanon (execLgen g d a st p s) :=
  canon_withPass h (fun hs => canon_serveLgen hs)

/-! #### Circuits -/

theorem State.canon_putArr (h : s.canon = true) {r : Arr} : (s.putArr t a r).canon = true := State.canon_putTile_frame h

theorem State.canon_modArr (h : s.canon = true) {f : Arr → Arr} : (s.modArr t a f).canon = true := State.canon_putArr h

theorem State.canon_cirAcquire (h : s.canon = true) {ns : List Need} : (s.cirAcquire t a ns).canon = true := State.canon_modArr h

theorem State.canon_cirRecord (h : s.canon = true) {notice : Bool} {code : BitVec 8} {kind : BitVec 3} {w1 : Nat} :
    (s.cirRecord t a notice code kind w1).canon = true :=
  State.canon_tileRecord h

theorem State.canon_cirFault (h : s.canon = true) {code : BitVec 8} {kind : BitVec 3} {w1 : Nat} : (s.cirFault t a code kind w1).canon = true :=
  State.canon_modArr (State.canon_cirRecord h)

theorem State.canon_planeEnd (h : s.canon = true) : (s.planeEnd t).canon = true := State.canon_putTile_frame h

theorem Tile.canon_movePage (h : x.canon = true) {src dst : Nat → Nat} : (x.movePage src dst).canon = true := by
  refine Tile.canon_foldl h fun hs => Tile.canon_set_mem hs ?_
  exact Memory.wf_writeLE (Tile.wf_mem hs) ..

theorem Tile.canon_dropSpan (h : x.canon = true) :
    { x with mem := x.mem.filter (fun m : Nat × Byte => !(b0 ≤ m.1 && m.1 < b0 + 256)),
             memPoison := x.memPoison.filter (fun d => !(b0 ≤ d * 8 && d * 8 < b0 + 256)) }.canon = true :=
  Tile.canon_set_mem h (SMap.wf_filter (Tile.wf_mem h) _)

theorem Tile.canon_revert (h : x.canon = true) {r : Arr} : (x.revert a r).canon = true := by
  unfold Tile.revert
  extract_lets gone y
  have hy : y.canon = true := Tile.canon_foldl h fun hx => Tile.canon_foldl hx fun hz => Tile.canon_dropSpan hz
  exact Tile.canon_frame hy

theorem State.canon_cirAct (h : s.canon = true) {c : Cmd} : (s.cirAct t o c a).canon = true := by
  unfold State.cirAct
  dsimp only
  split
  · exact State.canon_ite (State.canon_stopCmd h) (State.canon_modCmd (State.canon_putArr h))
  · refine State.canon_ite h ?_
    split
    · exact State.canon_stopCmd h
    exact State.canon_ite (State.canon_stopCmd h) (State.canon_cmdDone (State.canon_putArr h))
  · exact State.canon_ite (State.canon_cmdDone (State.canon_cirAcquire h)) (State.canon_ite (State.canon_stopCmd h) (State.canon_cmdDone
      (State.canon_cirAcquire (State.canon_putArr h))))
  · exact State.canon_ite (State.canon_stopCmd h) (State.canon_cmdDone (State.canon_cirAcquire (State.canon_putArr h)))
  · exact State.canon_ite (State.canon_cmdDone (State.canon_putArr h)) (State.canon_putArr h)
  · exact State.canon_ite h (State.canon_cmdDone (State.canon_putTile h _ (Tile.canon_revert (State.canon_tile h ..))))
  · refine State.canon_ite h (State.canon_ite (State.canon_cmdDone h) (State.canon_ite h ?_))
    split
    · exact State.canon_stopCmd h
    exact State.canon_cmdDone (State.canon_modArr (State.canon_putTile h _ (Tile.canon_movePage (State.canon_tile h ..))))
  · refine State.canon_ite h ?_
    split
    · exact State.canon_stopCmd h
    split
    · exact State.canon_stopCmd h
    exact State.canon_cmdDone (State.canon_modArr (State.canon_putTile h _ (Tile.canon_movePage (State.canon_tile h ..))))
  exact h

theorem State.canon_cirStep (h : s.canon = true) {c : Cmd} : (s.cirStep t o v c a).canon = true := by
  refine State.canon_ite h (State.canon_ite (State.canon_stopCmd h) ?_)
  split
  · exact State.canon_stopCmd h
  exact State.canon_ite h (State.canon_cirAct h)

theorem canon_execConversionComplete (h : s.canon = true) : OutCanon (execConversionComplete t a s) := by
  refine holds_ite h ?_
  split
  · exact h
  dsimp only
  split
  · exact State.canon_stopCmd (State.canon_modCmd (State.canon_putArr h))
  split
  · exact State.canon_stopCmd (State.canon_modCmd (State.canon_putArr h))
  exact State.canon_cmdDone (State.canon_putArr h)

theorem State.canon_cirPerform (h : s.canon = true) {r : Arr} {w : Double} {k : Option Token} {ev : TraceEv} :
    (s.cirPerform t a r w k ev).canon = true := by
  unfold State.cirPerform
  extract_lets x latch valid p e port addr kind take took rd
  have ht : take.Canon := holds_ite (State.canon_chooseAs h) h
  refine State.canon_ite (State.canon_cirFault h) (State.canon_ite (State.canon_cirFault h) (State.canon_ite (State.canon_cirFault h)
    (State.canon_ite (State.canon_cirFault h) ?_)))
  clear_value take
  split
  · next s0 =>
    have h0 : s0.canon = true := ht
    extract_lets s1 s2 s3 own s4 s5
    have h1 : s1.canon = true := State.canon_ite (State.canon_popAt h0) h0
    have h2 : s2.canon = true := State.canon_putArr h1
    have h3 : s3.canon = true := State.canon_ite (State.canon_cirAcquire h2) h2
    have h4 : s4.canon = true := State.canon_ite (State.canon_issueAcc h3) h3
    have h5 : s5.canon = true := State.canon_ite (State.canon_pushFrom h4) h4
    exact State.canon_nodeNoted (State.canon_countTile h5)
  · exact State.canon_segmentStall h

theorem State.canon_cirMatch (h : s.canon = true) {r : Arr} {ev : TraceEv} : OptCanon (s.cirMatch t a r ev) := by
  unfold State.cirMatch
  cases s.set? t ev.set with
  | none => trivial
  | some v => exact State.canon_nodeHalt h

theorem State.canon_cirTurn? (h : s.canon = true) : OptCanon (s.cirTurn? t a) :=
  holds_ite (State.canon_putTile_frame h) (holds_ite trivial (State.canon_putTile_frame h))

theorem canon_execCircuitStep (h : s.canon = true) : OutCanon (execCircuitStep t a s) := by
  unfold execCircuitStep
  extract_lets r w
  refine holds_ite (State.canon_getD (State.canon_cirMatch h) h) (holds_ite h (holds_ite ?_ (holds_ite ?_ (holds_ite h ?_))))
  · refine holds_ite (State.canon_putArr h) (holds_ite h ?_)
    split
    · next e => exact (State.canon_post (State.canon_putArr h)).of_eq e
    · exact h
  · exact State.canon_ite h (State.canon_putArr (State.canon_cirRecord h))
  · refine holds_ite (State.canon_driftStall h) ?_
    split
    · next e => exact (State.canon_cirMatch h).of_eq e
    split
    · exact h
    · next e => exact State.canon_cirPerform ((State.canon_cirTurn? h).of_eq e)

theorem canon_execCircuitControlForward (h : s.canon = true) : OutCanon (execCircuitControlForward t a s) := by
  refine holds_ite h ?_
  split
  · exact h
  exact holds_ite h (holds_ite (State.canon_cirFault h) (holds_ite h (State.canon_ite (State.canon_modArr (State.canon_ite (State.canon_pushAt
    (State.canon_ite (State.canon_cirAcquire (State.canon_popAt h)) (State.canon_popAt h)) ..) (State.canon_ite (State.canon_cirAcquire
    (State.canon_popAt h)) (State.canon_popAt h)))) (State.canon_ite (State.canon_pushAt (State.canon_ite (State.canon_cirAcquire (State.canon_popAt
    h)) (State.canon_popAt h)) ..) (State.canon_ite (State.canon_cirAcquire (State.canon_popAt h)) (State.canon_popAt h))))))

/-! #### Load -/

theorem State.canon_addChan (h : s.canon = true) {c : Chan} : (s.addChan c).canon = true := State.canon_frame h

theorem State.canon_prune (h : s.canon = true) : (s.prune).canon = true := State.canon_dropUnbound (State.canon_frame h)

theorem State.canon_putWords (h : s.canon = true) {x : ImgSet} : (s.putWords x).canon = true := by
  refine State.canon_putTile h _ (Tile.canon_set_pool (State.canon_tile h ..) ?_)
  exact SMap.wf_foldl (Tile.wf_pool (State.canon_tile h ..)) fun hm => SMap.wf_put hm ..

theorem Tile.canon_preload (h : x.canon = true) {bs : List Byte} : (x.preload a bs).canon = true := by
  refine Tile.canon_set_mem h ?_
  refine SMap.wf_foldl (Tile.wf_mem h) fun hm => ?_
  split
  · exact Memory.wf_write hm ..
  exact hm

theorem Tile.canon_putShadow (h : x.canon = true) {l : Latch} {p : Option Plane} : (x.putShadow l p).canon = true := by
  unfold Tile.putShadow
  split <;> exact Tile.canon_frame h

theorem State.canon_loadImage (h : s.canon = true) {m : Image} {l : Latch} {joins : Option Nat} {knew : List Need} {src : List ImgPiece} :
    (s.loadImage m l joins knew src).canon = true := by
  unfold State.loadImage
  extract_lets pid tiles s1 early s2 s3 s4
  have h1 : s1.canon = true := State.canon_foldl (State.canon_frame h) fun hs => State.canon_putWords hs
  have h2 : s2.canon = true := State.canon_foldl h1 fun hs => State.canon_putTile hs _ (Tile.canon_putShadow (State.canon_tile hs _))
  have h3 : s3.canon = true := State.canon_foldl h2 fun hs => State.canon_putTile hs _ (Tile.canon_preload (State.canon_tile hs _))
  have h4 : s4.canon = true := State.canon_foldl h3 fun hs => State.canon_addChan hs
  exact State.canon_prune (State.canon_frame h4)

theorem State.canon_zeroSet (h : s.canon = true) : (s.zeroSet t v).canon = true :=
  State.canon_foldl (State.canon_foldl h fun hs => State.canon_foldl hs fun hs => State.canon_putX hs) fun hs => State.canon_zeroSpill hs

theorem State.canon_placeGo (h : s.canon = true) {pid : Nat} {sets : SMap SetState} : (s.placeGo t pid sets).canon = true := State.canon_frame h

theorem State.canon_joinRegion (h : s.canon = true) : (s.joinRegion r t).canon = true := State.canon_frame h

theorem Tile.canon_started (h : x.canon = true) {l : Latch} {p : Plane} {now : Nat} {ns : List Need} : (x.started l p now ns).canon = true :=
  Tile.canon_frame (Tile.canon_putShadow h)

theorem State.canon_onTime (h : s.canon = true) {pid : Nat} : (s.onTime t pid).canon = true := State.canon_frame h

theorem State.canon_swapTo (h : s.canon = true) {l : Latch} : (s.swapTo t l).canon = true := by
  unfold State.swapTo
  split
  · exact h
  refine State.canon_prune (State.canon_onTime (State.canon_placeGo (State.canon_foldl (State.canon_putTile ?_ _ (Tile.canon_started
    (Tile.canon_foldl (State.canon_tile ?_ ..) fun hs => Tile.canon_preload hs))) fun hs => State.canon_zeroSet hs)))
  · split
    · exact State.canon_joinRegion (State.canon_planeEnd h)
    exact State.canon_planeEnd h
  · split
    · exact State.canon_joinRegion (State.canon_planeEnd h)
    exact State.canon_planeEnd h

theorem canon_execPlaneSwap (h : s.canon = true) : OutCanon (execPlaneSwap t s) := by
  unfold execPlaneSwap
  split
  · exact h
  exact holds_ite h (State.canon_swapTo h)

theorem State.canon_newRegion (h : s.canon = true) {m : Image} : (s.newRegion m).1.canon = true := State.canon_frame h

theorem State.canon_cfgAct (h : s.canon = true) {c : Cmd} {l : Latch} {start : Bool} {ds : List Double} {src : List ImgPiece} :
    (s.cfgAct t o v c l start ds src).canon = true := by
  unfold State.cfgAct
  split
  · exact State.canon_stopCmd h
  exact State.canon_ite (State.canon_stopCmd h) (State.canon_modCmd (State.canon_prune (State.canon_foldl h fun hs => State.canon_putTile hs _
    (Tile.canon_putShadow (State.canon_tile hs ..)))))

theorem State.canon_cfgLoad (h : s.canon = true) {c : Cmd} {l : Latch} {arm start : Bool} : (s.cfgLoad t o c l arm start).canon = true := by
  unfold State.cfgLoad
  split
  · exact State.canon_stopCmd h
  exact State.canon_ite (State.canon_modCmd (State.canon_ite (State.canon_foldl (State.canon_loadImage (State.canon_fst_ite (State.canon_newRegion h)
    h)) fun hs => State.canon_putTile_frame hs) (State.canon_loadImage (State.canon_fst_ite (State.canon_newRegion h) h)))) (State.canon_cmdDone
    (State.canon_ite (State.canon_foldl (State.canon_loadImage (State.canon_fst_ite (State.canon_newRegion h) h)) fun hs => State.canon_putTile_frame
    hs) (State.canon_loadImage (State.canon_fst_ite (State.canon_newRegion h) h))))

theorem State.canon_cfgStep (h : s.canon = true) {c : Cmd} {l : Latch} {arm start : Bool} : (s.cfgStep t o v c l arm start).canon = true := by
  refine State.canon_ite (State.canon_ite (State.canon_cmdDone h) h) (State.canon_ite (State.canon_cfgLoad h) (State.canon_ite h ?_))
  split
  · next e => exact State.canon_stopCmd ((State.canon_fetchBytes h).of_eq e)
  · next e => exact (State.canon_fetchBytes h).of_eq e
  next e =>
    dsimp only
    split
    · next e' => exact State.canon_stopCmd ((State.canon_fetchBytes ((State.canon_fetchBytes h).of_eq e)).of_eq e')
    · next e' => exact (State.canon_fetchBytes ((State.canon_fetchBytes h).of_eq e)).of_eq e'
    next e' => exact State.canon_cfgAct ((State.canon_fetchBytes ((State.canon_fetchBytes h).of_eq e)).of_eq e')

theorem State.canon_abandonPlane (h : s.canon = true) {l : Latch} : (s.abandonPlane t o l u).canon = true :=
  State.canon_putTile (State.canon_notice h) _ (Tile.canon_putShadow (State.canon_tile (State.canon_notice h) ..))

theorem State.canon_abandonLoad (h : s.canon = true) {c : Cmd} {l : Latch} : (s.abandonLoad t o c l).canon = true := by
  refine State.canon_prune (State.canon_modThread ?_ ..)
  split
  · exact State.canon_putTile_frame (State.canon_modSet (State.canon_ite (State.canon_frame (State.canon_foldl h fun hs => State.canon_abandonPlane
      hs)) (State.canon_foldl h fun hs => State.canon_abandonPlane hs)) ..)
  exact State.canon_modSet (State.canon_ite (State.canon_frame (State.canon_foldl h fun hs => State.canon_abandonPlane hs)) (State.canon_foldl h fun
    hs => State.canon_abandonPlane hs)) ..

theorem State.canon_abandonLoads (h : s.canon = true) : (s.abandonLoads t).canon = true := by
  refine State.canon_foldl h fun hs => State.canon_foldl hs fun hs => ?_
  split
  · exact State.canon_ite (State.canon_abandonLoad hs) hs
  exact hs

/-! #### Control -/

theorem State.canon_pushPending (h : s.canon = true) {a1 : List (Nat × Token)} {a2 : List Nat} : (s.pushPending t a1 a2).2.canon = true := by
  induction a1 generalizing s a2 with
  | nil => exact h
  | cons x l ih => exact State.canon_snd_ite (ih h) (ih (State.canon_pushAt h ..))

theorem State.canon_flush (h : s.canon = true) : (s.flush t o).canon = true := by
  unfold State.flush
  split
  · exact h
  exact State.canon_modSet (State.canon_pushPending h) ..

theorem State.canon_emit (h : s.canon = true) {sub : Nat} {arg : BitVec 24} : (s.emit t o sub arg).canon = true :=
  State.canon_flush (State.canon_modSet h ..)

theorem State.canon_seqHeads (h : s.canon = true) : OptCanon (s.seqHeads t o v) := by
  unfold State.seqHeads
  split
  · exact State.canon_popAt h
  exact holds_ite (State.canon_setFaultAt h) trivial

theorem State.canon_popAll (h : s.canon = true) {es : List Nat} : (s.popAll t es).canon = true := State.canon_foldl h fun hs => State.canon_popAt hs

theorem canon_seqEvent (h : s.canon = true) {f : SetState → State → State} (hf : ∀ {a0 s}, s.canon = true → (f a0 s).canon = true) :
    OutCanon (seqEvent t o s f) := by
  unfold seqEvent
  split
  · exact h
  refine holds_ite (State.canon_ite (State.canon_flush h) h) (holds_ite h ?_)
  split
  · next e => exact (State.canon_seqHeads h).of_eq e
  exact hf h

theorem canon_execEoiForward (h : s.canon = true) : OutCanon (execEoiForward t o s) :=
  canon_seqEvent h (fun hs => State.canon_ite hs (State.canon_emit (State.canon_popAll hs)))

theorem canon_execEosForward (h : s.canon = true) : OutCanon (execEosForward t o s) :=
  canon_seqEvent h (fun hs => State.canon_ite hs (State.canon_ite (State.canon_popAll hs) (State.canon_emit (State.canon_popAll hs))))

theorem canon_execDrnForward (h : s.canon = true) : OutCanon (execDrnForward t o s) :=
  canon_seqEvent h (fun hs => State.canon_ite hs (State.canon_emit (State.canon_modSet (State.canon_acquireSet (State.canon_popAll hs)) ..)))

theorem canon_execSetCompletion (h : s.canon = true) : OutCanon (execSetCompletion t o s) :=
  canon_seqEvent h (fun hs => State.canon_ite hs (State.canon_ite (State.canon_ite (State.canon_modSet hs ..) (State.canon_emit (State.canon_modSet
    hs ..))) (State.canon_ite hs (State.canon_emit (State.canon_modSet hs ..)))))

theorem canon_execProbeArrival (h : s.canon = true) : OutCanon (execProbeArrival t o e s) := by
  unfold execProbeArrival
  split
  · exact h
  exact holds_ite (State.canon_modSet (State.canon_popAt h) ..) h

theorem canon_execSyncArrival (h : s.canon = true) : OutCanon (execSyncArrival t o e s) := by
  unfold execSyncArrival
  split
  · exact h
  exact holds_ite (holds_ite (State.canon_driftStall h) (holds_ite (State.canon_popAt h) (State.canon_emit (State.canon_observe (State.canon_modSet
    (State.canon_putTile_frame (State.canon_popAt h)) ..))))) h

theorem canon_execRegionComplete (h : s.canon = true) : OutCanon (execRegionComplete r s) := by
  unfold execRegionComplete
  split
  · exact h
  exact holds_ite (State.canon_modRegion (State.canon_endWrites (State.canon_foldl (State.canon_foldl h fun hs => State.canon_planeEnd hs) fun hs =>
    State.canon_undropLink hs)) ..) h

theorem State.canon_fromOutside (h : s.canon = true) {c : Chan} : (s.fromOutside n c).canon = true := State.canon_ite (State.canon_putChan h ..) h

theorem canon_execTokenArrival (h : s.canon = true) : OutCanon (execTokenArrival n s) := by
  unfold execTokenArrival
  split
  · exact h
  split
  · exact State.canon_fromOutside h
  exact holds_ite h (holds_ite (State.canon_putChan h ..) (State.canon_putChan h ..))

theorem canon_execSlotReturn (h : s.canon = true) : OutCanon (execSlotReturn n s) := by
  unfold execSlotReturn
  split
  · exact h
  refine holds_ite (State.canon_prune ?_) ?_
  · split
    · exact State.canon_ite (State.canon_putTile_frame (State.canon_putChan h ..)) (State.canon_putChan h ..)
    exact State.canon_putChan h ..
  · split
    · exact State.canon_putChan h ..
    exact h

theorem State.canon_endStall (h : s.canon = true) {c : Chan} : (s.endStall t c).canon = true := State.canon_segmentStall h

theorem State.canon_fromUnit (h : s.canon = true) {c : Chan} {m : Nat} : (s.fromUnit n c m l).canon = true := by
  unfold State.fromUnit
  dsimp only
  split
  · exact h
  refine State.canon_ite h ?_
  split
  · next e => exact State.canon_settleUnit (State.canon_putUnit (State.canon_putChan ((State.canon_chooseAs h).of_eq e) ..))
  exact State.canon_endStall h

theorem canon_execBorderDelivery (h : s.canon = true) : OutCanon (execBorderDelivery n s) := by
  unfold execBorderDelivery
  split
  · exact h
  split
  · exact State.canon_fromUnit h
  · exact h
  · exact h
  · exact State.canon_putChan h ..
  dsimp only
  split
  · next e => exact State.canon_putChan ((State.canon_chooseAs h).of_eq e) ..
  exact State.canon_endStall h

theorem State.canon_debugStop (h : s.canon = true) {hit : Elem × BitVec 8} : (s.debugStop r hit).canon = true := by
  unfold State.debugStop
  dsimp only
  split
  · exact State.canon_regionRecord h
  · split
    · exact h
    exact State.canon_regionRecord h
  · exact State.canon_regionRecord h
  · split
    · exact h
    exact State.canon_regionRecord h
  split
  · exact h
  exact State.canon_regionRecord h

theorem canon_execHaltComplete (h : s.canon = true) : OutCanon (execHaltComplete r s) := by
  unfold execHaltComplete
  split
  · exact h
  exact holds_ite (State.canon_foldl (State.canon_modRegion h ..) fun hs => State.canon_debugStop hs) h

/-! #### ConvLane -/

theorem canon_execPk4 {sf : Bool} {rm : RM} {sat : Sat} {dty : QuadTy} {src : Pk4Src} {a c : Opd} (h : s.canon = true) :
    OutCanon (execPk4 g sf rm sat dty src d a b c s) := by
  unfold execPk4
  split <;> exact canon_laneExec h

/-! #### Regions -/

theorem State.canon_placeImage (h : s.canon = true) {m : Image} {prio : BitVec 4} {src : ImgPiece} : (s.placeImage m prio src).canon = true :=
  State.canon_foldl (State.canon_loadImage (State.canon_newRegion h)) fun hs => State.canon_swapTo hs

theorem State.canon_launchGone (h : s.canon = true) {code : Option (BitVec 8)} : (s.launchGone i code).canon = true := State.canon_frame h

theorem canon_execRegionPlacement (h : s.canon = true) : OutCanon (execRegionPlacement i s) := by
  unfold execRegionPlacement
  split
  · exact h
  refine holds_ite h (holds_ite (State.canon_launchGone h) (holds_ite (State.canon_launchGone h) (holds_ite h ?_)))
  split
  · exact State.canon_launchGone h
  exact holds_ite h (State.canon_placeImage (State.canon_launchGone h))

theorem State.canon_beginPreempt (h : s.canon = true) {full : Bool} {areas : SMap Nat} {cmd : Option (Nat × Nat × Nat)} :
    (s.beginPreempt r full areas cmd).canon = true := by
  unfold State.beginPreempt
  split
  · exact h
  exact State.canon_modRegion (State.canon_foldl h fun hs => State.canon_abandonLoads hs) ..

theorem canon_execPreemptiveLaunch (h : s.canon = true) : OutCanon (execPreemptiveLaunch i s) := by
  unfold execPreemptiveLaunch
  split
  · exact h
  refine holds_ite h ?_
  split
  · exact State.canon_launchGone h
  · exact h
  exact holds_ite h (State.canon_beginPreempt h)

theorem State.canon_withSaveDesc (h : s.canon = true) {c : Cmd} {k : State → SaveDesc → State} (hk : ∀ {s a1}, s.canon = true → (k s a1).canon = true)
    :
    (s.withSaveDesc t o v c k).canon = true := by
  refine State.canon_fetchDesc h (fun hs => State.canon_ite (State.canon_stopCmd hs) (State.canon_fetchDesc hs (fun hs => ?_)))
  split
  · exact State.canon_stopCmd hs
  exact hk hs

theorem State.canon_preemptStep (h : s.canon = true) {c : Cmd} : (s.preemptStep t o v c).canon = true := by
  refine State.canon_ite h (State.canon_withSaveDesc h (fun hs => ?_))
  split
  · exact State.canon_stopCmd hs
  exact State.canon_ite (State.canon_stopCmd hs) (State.canon_modCmd (State.canon_beginPreempt hs))

theorem State.canon_savePiece (h : s.canon = true) {base len : Nat} {cells : List (Nat × Byte)} : (s.savePiece base len cells).canon = true := by
  refine State.canon_set_mem h ?_
  exact SMap.wf_foldl (SMap.wf_filter (State.canon_mem h) ..) fun hm => Memory.wf_write hm ..

theorem State.canon_saveMemories (h : s.canon = true) {full : Bool} : (s.saveMemories t full a).canon = true :=
  State.canon_ite (State.canon_savePiece (State.canon_savePiece (State.canon_savePiece (State.canon_savePiece (State.canon_savePiece
    (State.canon_savePiece (State.canon_savePiece h))))))) (State.canon_foldl (State.canon_savePiece (State.canon_savePiece h)) fun hs =>
    State.canon_savePiece hs)

theorem Tile.canon_vacated (h : x.canon = true) {full : Bool} : (x.vacated r full).canon = true := Tile.canon_frame h

theorem State.canon_dropWaiters (h : s.canon = true) : (s.dropWaiters t).canon = true := State.canon_frame h

theorem State.canon_saveTile (h : s.canon = true) {full : Bool} : (s.saveTile r full t a).canon = true :=
  State.canon_dropWaiters (State.canon_putTile (State.canon_frame (State.canon_saveMemories h)) _ (Tile.canon_vacated (State.canon_tile h ..)))

theorem canon_execPreemptionComplete (h : s.canon = true) : OutCanon (execPreemptionComplete r s) := by
  unfold execPreemptionComplete
  split
  · exact h
  split
  · refine holds_ite h ?_
    dsimp only
    split
    · exact State.canon_cmdDone (State.canon_modRegion (State.canon_endWrites (State.canon_foldl h fun hs => State.canon_saveTile hs)) ..)
    exact State.canon_modRegion (State.canon_endWrites (State.canon_foldl h fun hs => State.canon_saveTile hs)) ..
  exact h

theorem State.canon_reloadWords (h : s.canon = true) {p : Plane} : (s.reloadWords t p).canon = true := by
  unfold State.reloadWords
  split
  · exact h
  exact State.canon_frame (State.canon_foldl h fun hs => State.canon_putWords hs)

theorem Tile.canon_merged (h : x.canon = true) {y : Tile} : (x.merged y).canon = true := Tile.canon_frame h

theorem State.canon_restoreDrain (h : s.canon = true) {v : Saved} : (s.restoreDrain v a).canon = true := by
  have hy := Tile.canon_merged (State.canon_tile h v.tile) (y := v.tileState)
  exact Tile.canon_set_lvs hy (SMap.wf_foldl (Tile.wf_lvs hy) fun hm => SMap.wf_put hm ..)

theorem SMap.wfFrom_shift {α : Type} [DecidableEq α] {d : α} {m : SMap α} {base lo : Nat} (hm : SMap.wfFrom d lo m = true)
    (hb : ∀ c ∈ m, base ≤ c.1) : SMap.wfFrom d (lo - base) (m.map fun c => (c.1 - base, c.2)) = true := by
  induction m generalizing lo with
  | nil => rfl
  | cons c m ih =>
    obtain ⟨k, v⟩ := c
    simp only [SMap.wfFrom, Bool.and_eq_true, decide_eq_true_eq] at hm
    obtain ⟨⟨hk, hv⟩, hm⟩ := hm
    have hbk : base ≤ k := hb (k, v) List.mem_cons_self
    have hrest := ih hm fun c hc => hb c (List.mem_cons_of_mem _ hc)
    simp only [List.map_cons, SMap.wfFrom, Bool.and_eq_true, decide_eq_true_eq]
    exact ⟨⟨by omega, hv⟩, by rwa [show k - base + 1 = k + 1 - base by omega]⟩

theorem State.wf_pieceBytes (h : s.canon = true) {base len : Nat} : Memory.wf (s.pieceBytes base len) = true := by
  have hw := SMap.wfFrom_shift (base := base) (SMap.wfFrom_filter (State.canon_mem h) fun c => decide (base ≤ c.1) && decide (c.1 < base + len))
    fun c hc => by simp only [List.mem_filter, Bool.and_eq_true, decide_eq_true_eq] at hc; exact hc.2.1
  rwa [Nat.zero_sub] at hw

theorem State.wf_pieceWords {base len w : Nat} : SMap.wf 0 (s.pieceWords w base len n) = true :=
  SMap.wf_foldl rfl fun hm => SMap.wf_put hm ..

theorem State.canon_restoreFull (h : s.canon = true) {v : Saved} : (s.restoreFull v a).canon = true :=
  Tile.canon_iff.2 ⟨State.wf_pieceBytes h, State.wf_pieceBytes h, State.wf_pieceWords, State.wf_pieceWords, State.wf_pieceWords⟩

theorem State.canon_restoreTile (h : s.canon = true) : (s.restoreTile r t a).canon = true := by
  unfold State.restoreTile
  split
  · exact h
  next v _ =>
  extract_lets s1 x s2 s3
  have h1 : s1.canon = true := State.canon_joinRegion (State.canon_planeEnd h)
  have hx : x.canon = true := Tile.canon_ite (State.canon_restoreFull h1) (State.canon_restoreDrain h1)
  have h2 : s2.canon = true := State.canon_putTile h1 t (Tile.canon_frame hx)
  have h3 : s3.canon = true := State.canon_foldl h2 fun hs => State.canon_reloadWords hs
  exact State.canon_frame h3

theorem State.canon_restoreStep (h : s.canon = true) {c : Cmd} : (s.restoreStep t o v c).canon = true := by
  refine State.canon_withSaveDesc h (fun hs => ?_)
  split
  · exact State.canon_stopCmd hs
  exact State.canon_ite (State.canon_stopCmd hs) (State.canon_ite hs (State.canon_ite (State.canon_stopCmd hs) (State.canon_ite hs
    (State.canon_cmdDone (State.canon_prune (State.canon_modRegion (State.canon_foldl hs fun hs => State.canon_restoreTile hs) ..))))))

theorem State.canon_endTile (h : s.canon = true) : (s.endTile t).canon = true := by
  unfold State.endTile
  extract_lets s1 x s2 s3
  have h1 : s1.canon = true := State.canon_planeEnd h
  have h2 : s2.canon = true := State.canon_putTile_frame h1
  have h3 : s3.canon = true := State.canon_frame h2
  exact State.canon_dropWaiters h3

theorem State.canon_unhold (h : s.canon = true) : (s.unhold t).canon = true :=
  State.canon_foldl (State.canon_putTile_frame h) fun hs => State.canon_ite (State.canon_foldl hs fun hs => State.canon_zeroSpill hs) hs

theorem State.canon_dropSaves (h : s.canon = true) : (s.dropSaves r).canon = true :=
  State.canon_foldl (State.canon_frame h) fun hs => State.canon_unhold hs

theorem State.canon_endUnit (h : s.canon = true) : (s.endUnit n).canon = true := State.canon_ite h (State.canon_abortUnit h)

theorem State.canon_endUnits (h : s.canon = true) {tiles : NSet} : (s.endUnits r tiles).canon = true :=
  State.canon_foldl (State.canon_foldl h fun hs => State.canon_endUnit hs) fun hs => State.canon_closeLink hs

theorem canon_execRegionEnd (h : s.canon = true) : OutCanon (execRegionEnd r s) := by
  unfold execRegionEnd
  split
  · exact h
  refine State.canon_prune (State.canon_frame ?_)
  split
  · exact State.canon_cmdDone (State.canon_dropSaves (State.canon_ite (State.canon_foldl (State.canon_endUnits h) fun hs => State.canon_endTile hs)
      (State.canon_endUnits h)))
  exact State.canon_dropSaves (State.canon_ite (State.canon_foldl (State.canon_endUnits h) fun hs => State.canon_endTile hs) (State.canon_endUnits h))

theorem State.canon_deadlock (h : s.canon = true) {waits : List LullWait} : (s.deadlock r waits).canon = true :=
  State.canon_foldl (State.canon_foldl h fun hs => State.canon_setFaultAt hs) fun hs => State.canon_regionRecord hs

theorem canon_execLullSweep (h : s.canon = true) : OutCanon (execLullSweep r s) := by
  unfold execLullSweep
  split
  · exact h
  exact holds_ite h (State.canon_ite (State.canon_deadlock (State.canon_modRegion h ..)) (State.canon_modRegion h ..))

/-! #### Progress -/

theorem State.canon_progress (h : s.canon = true) {c : Cmd} : (s.progress t o v c).canon = true := by
  refine State.canon_ite (State.canon_ite h (State.canon_setFaultAt h)) ?_
  split
  · exact State.canon_strmRdStep h
  · exact State.canon_strmWrStep h
  · exact State.canon_claimStep h
  · exact State.canon_fillStep h
  · exact State.canon_relStep h
  · exact State.canon_cubeStep h
  · exact State.canon_cubeStep h
  · exact State.canon_cubeStep h
  · exact State.canon_cubeStep h
  · exact State.canon_bindStep h
  · exact State.canon_unbindStep h
  · exact State.canon_cfgStep h
  · exact State.canon_preemptStep h
  · exact State.canon_restoreStep h
  · exact State.canon_nmqSubStep h
  split
  · exact State.canon_cirStep h
  exact State.canon_ite (State.canon_copyStep h) h

theorem canon_execEngineProgress (h : s.canon = true) : OutCanon (execEngineProgress t o seq s) := by
  unfold execEngineProgress
  split
  · exact h
  split
  · exact h
  refine holds_ite h ?_
  split
  · exact State.canon_ite h (State.canon_progress h)
  · exact State.canon_ite (State.canon_modCmd h) h
  · exact State.canon_ite h (State.canon_strmFlow h)
  exact h

theorem State.canon_portWait (h : s.canon = true) {p : PortNode} : OptCanon (s.portWait t p) := by
  unfold State.portWait
  split
  · exact h
  exact holds_ite h (holds_ite trivial (State.canon_modPort (State.canon_putTile_frame h)))

theorem State.canon_portReadHead (h : s.canon = true) {p : PortNode} : (s.portReadHead t p).Canon := by
  unfold State.portReadHead
  dsimp only
  split
  · exact h
  exact holds_ite trivial (fun _ => State.canon_modPort (State.canon_pushFrom h))

theorem State.canon_portRead (h : s.canon = true) {p : PortNode} : (s.portRead t p).Canon := by
  refine holds_ite (holds_ite trivial (State.canon_modPort (State.canon_pushAt h ..))) ?_
  split
  · trivial
  next e =>
    refine holds_ite (State.canon_portReadHead ((State.canon_portWait h).of_eq e)) ?_
    split
    · exact (State.canon_portWait h).of_eq e
    exact holds_ite (State.canon_modPort ((State.canon_portWait h).of_eq e)) (holds_ite trivial (fun _ => State.canon_modPort (State.canon_pushFrom
      ((State.canon_portWait h).of_eq e))))

theorem State.canon_portClose (h : s.canon = true) {p : PortNode} : (s.portClose t p).Canon := by
  refine holds_ite trivial ?_
  split
  · exact State.canon_modPort (State.canon_popAt h)
  split
  · next e => exact State.canon_modPort (State.canon_popAt ((State.canon_post h).of_eq e))
  trivial

theorem State.canon_portDense (h : s.canon = true) {p : PortNode} : (s.portDense t p).Canon := by
  unfold State.portDense
  dsimp only
  split
  · exact h
  exact State.canon_modPort (State.canon_tileWrite h)

theorem State.canon_portStore (h : s.canon = true) {p : PortNode} {k : Token} : (s.portStore t p k).Canon := by
  unfold State.portStore
  dsimp only
  split
  · exact h
  exact holds_ite (holds_ite trivial (fun _ => State.canon_putTile_frame (State.canon_issueAcc h))) (holds_ite (fun _ => State.canon_ite
    (State.canon_popAt (State.canon_modPort (State.canon_tileWrite h))) (State.canon_modPort (State.canon_tileWrite h))) (State.canon_ite
    (State.canon_popAt (State.canon_modPort (State.canon_tileWrite h))) (State.canon_modPort (State.canon_tileWrite h))))

theorem State.canon_portHead (h : s.canon = true) {p : PortNode} {k : Token} : (s.portHead t p k).Canon := by
  refine holds_ite h ?_
  split
  · exact h
  exact fun _ => State.canon_modPort (State.canon_popAt (State.canon_tileWrite h))

theorem State.canon_portWrite (h : s.canon = true) {p : PortNode} : (s.portWrite t p).Canon := by
  refine holds_ite (State.canon_portDense h) ?_
  split
  · trivial
  exact holds_ite h (holds_ite (State.canon_portClose h) (holds_ite (State.canon_popAt h) (holds_ite (holds_ite trivial (State.canon_portHead h))
    (holds_ite h (holds_ite (holds_ite h (fun _ => State.canon_modPort (State.canon_popAt h))) (State.canon_portStore h))))))

theorem State.canon_portMatch (h : s.canon = true) {p : PortNode} {ev : TraceEv} : OptCanon (s.portMatch t p ev) := by
  unfold State.portMatch
  cases s.set? t p.set with
  | none => trivial
  | some v => exact State.canon_nodeHalt h

theorem canon_execPortNodeInvocation (h : s.canon = true) : OutCanon (execPortNodeInvocation t k s) := by
  unfold execPortNodeInvocation
  split
  · exact h
  next p _ =>
  refine holds_ite h ?_
  have hact : PortAct.Canon (if (s.tile t).heldFor.isSome then PortAct.fault s { code := Code.tileRange, elem := BitVec.ofNat 48 p.pos }
      else if p.dir ≤ 1 then s.portRead t p else s.portWrite t p) := holds_ite h (holds_ite (State.canon_portRead h) (State.canon_portWrite h))
  split
  · exact h
  · next e => exact State.canon_ite (hact.of_eq e) h
  · next e => exact State.canon_ite (State.canon_portFault (hact.of_eq e)) h
  · next e =>
    extract_lets ev
    have hm : OptCanon (if s.runs t && s.traceStalls ev then some (s.driftStall t p.set) else s.portMatch t p ev) :=
      holds_ite (State.canon_driftStall h) (State.canon_portMatch h)
    split
    · next e2 => exact hm.of_eq e2
    · exact State.canon_ite (State.canon_nodeNoted (hact.of_eq e _)) h

/-! #### Events -/

theorem State.canon_poisonLine (h : s.canon = true) {line : Nat} : (s.poisonLine line).canon = true :=
  State.canon_ite h (State.canon_logEvent (State.canon_frame h))

theorem canon_execPatrolScrub {line : Nat} {c : Option Bool} (h : s.canon = true) : OutCanon (execPatrolScrub line c s) := by
  refine holds_ite h ?_
  split
  · exact h
  · exact State.canon_corrected h
  exact State.canon_poisonLine h

theorem Tile.canon_poisonUnit (h : x.canon = true) {u : Unit5} {off : Nat} : (x.poisonUnit u off).canon = true := by
  unfold Tile.poisonUnit
  split <;> exact Tile.canon_frame h

theorem State.canon_latent (h : s.canon = true) {u : Unit5} {off : Nat} : (s.latent t u off).canon = true := by
  unfold State.latent
  split
  · exact State.canon_regionRecord h
  exact State.canon_logLatent h

theorem canon_execStorageScrub {u : Unit5} {off : Nat} {c : Option Bool} (h : s.canon = true) : OutCanon (execStorageScrub t u off c s) := by
  unfold execStorageScrub
  split
  · exact holds_ite h (State.canon_latent (State.canon_putTile h _ (Tile.canon_poisonUnit (State.canon_tile h ..))))
  exact h

theorem State.canon_channelEvent (h : s.canon = true) : (s.channelEvent n kind).canon = true := State.canon_logEvent (State.canon_modCfg h ..)

theorem canon_execClockSupplyFault (h : s.canon = true) : OutCanon (execClockSupplyFault s) :=
  State.canon_frame (State.canon_foldl h fun hs => State.canon_setFaultAt hs)

theorem State.canon_laneFault (h : s.canon = true) : (s.laneFault t o tid).canon = true := by
  unfold State.laneFault
  split
  · exact h
  split
  · exact h
  exact State.canon_ite h (State.canon_threadFault (State.canon_ite h (State.canon_modSet h ..)))

theorem State.canon_chanFaultSet (h : s.canon = true) : (s.chanFaultSet t o e).canon = true := by
  unfold State.chanFaultSet
  dsimp only
  split
  · exact h
  split
  · exact State.canon_notice (State.canon_modBinding h)
  · exact State.canon_stopCmd h
  exact State.canon_setFaultAt h

theorem State.canon_chanFault (h : s.canon = true) : (s.chanFault n).canon = true := by
  unfold State.chanFault
  split
  · exact h
  split
  · exact State.canon_unitHw h
  · split
    · exact State.canon_modArr (State.canon_tileRecord h)
    · exact State.canon_portFault h
    · exact State.canon_chanFaultSet h
    exact State.canon_notice h
  exact h

theorem State.canon_tierPoison (h : s.canon = true) {line : Nat} : (s.tierPoison line).canon = true := by
  unfold State.tierPoison
  split
  · exact State.canon_frame h
  exact h

theorem canon_execSingleFault {site : FaultSite} (h : s.canon = true) : OutCanon (execSingleFault site s) := by
  unfold execSingleFault
  split
  · exact holds_ite (State.canon_ite h (State.canon_tierPoison h)) (State.canon_ite (State.canon_corrected h) (State.canon_poisonLine h))
  · exact holds_ite h (State.canon_putTile h _ (Tile.canon_poisonUnit (State.canon_tile h ..)))
  · exact State.canon_putTile_frame h
  · exact State.canon_laneFault h
  · exact State.canon_setFaultAt h
  · exact State.canon_chanFault h
  · split
    · exact State.canon_ite (State.canon_frame h) h
    exact h
  · exact h
  exact State.canon_unitHw h

theorem State.canon_inboundWrite (h : s.canon = true) {loc : Place2} {w : Double} : (s.inboundWrite node pa n loc w).canon = true :=
  State.canon_issueAcc h

theorem canon_execInboundAccess {a : Inbound} (h : s.canon = true) : OutCanon (execInboundAccess node a s) := by
  refine holds_ite h (holds_ite h ?_)
  split
  · exact h
  · exact holds_ite h (holds_ite (State.canon_ite (State.canon_cfgWrite h) h) (State.canon_ite (State.canon_inboundWrite h) h))
  exact State.canon_ite (State.canon_inboundWrite h) h

theorem State.canon_i3cWake (h : s.canon = true) : (s.i3cWake).canon = true := State.canon_ite (State.canon_modCfg h ..) h

theorem State.canon_driftLostRecord (h : s.canon = true) : (s.driftLostRecord t).canon = true :=
  State.canon_ite h (State.canon_driftPut (State.canon_putTile_frame h))

theorem canon_execDriftDrain (h : s.canon = true) : OutCanon (execDriftDrain t s) := by
  unfold execDriftDrain
  split
  · refine holds_ite h ?_
    split
    · exact State.canon_driftRoom (State.canon_driftLostRecord (State.canon_putTile_frame h))
    · exact h
    · next e => exact State.canon_driftRoom (State.canon_driftLostRecord (State.canon_putTile_frame ((State.canon_ringPut h).of_eq e)))
    split
    · exact State.canon_driftRoom (State.canon_driftLostRecord (State.canon_putTile_frame (State.canon_modRegionRegs h)))
    exact State.canon_driftRoom (State.canon_driftLostRecord (State.canon_putTile_frame h))
  exact h

theorem canon_execGustWalkHop (h : s.canon = true) : OutCanon (execGustWalkHop t s) := by
  unfold execGustWalkHop
  split
  · exact h
  refine holds_ite h (holds_ite (State.canon_driftStall h) ?_)
  dsimp only
  split
  · exact State.canon_observe (State.canon_putTile_frame h)
  exact State.canon_putTile_frame (State.canon_observe (State.canon_putTile_frame h))

theorem State.canon_treeSyncAt (h : s.canon = true) {id : BitVec 24} : (s.treeSyncAt t id).canon = true := by
  unfold State.treeSyncAt
  dsimp only
  split
  · exact State.canon_observe (State.canon_putTile_frame h)
  exact State.canon_putTile_frame h

theorem canon_execTreeSync (h : s.canon = true) : OutCanon (execTreeSync r s) := by
  unfold execTreeSync
  split
  · exact h
  refine holds_ite h ?_
  split
  · exact State.canon_driftStall h
  exact State.canon_foldl (State.canon_modRegion h ..) fun hs => State.canon_treeSyncAt hs

theorem canon_execReplayDiverge (h : s.canon = true) : OutCanon (execReplayDiverge t kind elem s) := by
  unfold execReplayDiverge
  dsimp only
  split
  · exact h
  exact holds_ite (State.canon_diverge h) h

/-! #### Moves -/

theorem State.canon_arriveLaunch (h : s.canon = true) {l : Launch} : (s.arriveLaunch l).canon = true :=
  State.canon_ite (State.canon_frame (State.canon_ite (State.canon_wake h) h)) (State.canon_frame (State.canon_ite (State.canon_wake h) h))

theorem State.canon_make (h : s.canon = true) {m : Move} : (s.make m).canon = true := by
  unfold State.make
  split
  · exact State.canon_performAcc h
  · exact State.canon_narrowAcc h
  · exact State.canon_spreadXlat h
  · exact State.canon_drainOne h
  · exact State.canon_frame h
  · exact State.canon_frame h
  · exact State.canon_arriveLaunch h
  · exact State.canon_modCfg h ..
  · exact h
  exact h

end

/-! ### Instructions, moves and steps -/

section
variable {s : State} {t o : Nat}

/-- Every instruction and event keeps the canonical form: those of one family by the lemma of the operation that they share. -/
theorem canon_exec {i : Instr} (h : s.canon = true) : OutCanon (exec i s) := by
  cases i with
  | addInt | subInt | mulInt | mulhi | mad | divInt | remInt | minInt | maxInt | absInt | negInt | adds | subs | dot4Int | andB | orB | xorB | notB |
    andn | shl | shr | sra | rotl | popc | clz | ctz | brev | bfe | bfi | addImm | mulImm | andImm | orImm | xorImm | shlImm | shrImm | sraImm |
    minImm | maxImm | movImm | movhi | lea | extLo | extHi | pack64 | mov | sel | addF32 | subF32 | mulF32 | fmaF32 | fmsF32 | fnmaF32 | minF32 |
    maxF32 | absF32 | negF32 | divF32 | sqrtF32 | rcpF32 | rsqrtF32 | exp2F32 | log2F32 | copysignF32 | classF32 | rintF32 | addPacked | subPacked |
    mulPacked | fmaPacked | minPacked | maxPacked | absPacked | negPacked | dot2 | dot4B8 | cvt | pk2 | upk | scl | bscale | cmp | cmpImm | pAnd |
    pOr | pXor | pNot | pAndn | pMov =>
    exact canon_laneExec h
  | nop => exact canon_execNop h
  | ffclr => exact canon_execFfclr h
  | pk4 => exact canon_execPk4 h
  | ldDev | ldAcqDev | stDev | stRelDev => exact canon_devExec h
  | ldLoc | ldAcqLoc | stLoc | stRelLoc => exact canon_locExec h
  | atom => exact canon_execAtom h
  | red => exact canon_execRed h
  | fence => exact canon_execFence h
  | eqWait => exact canon_execEqWait h
  | spill => exact canon_execSpill h
  | fill => exact canon_execFill h
  | strmRd | strmWr | engBar | cpIn | cpOut | cpLocal | cpPush | cpPushz | cpPop | cpPopd | slotClaim | slotFill | slotRel | cubeMm | cubeGate |
    cubeSpread | cubeFold | cubeBind | cubeUnbind | cirConvert | cirSched | cirRun | cirRunf | cirHalt | cirRevert | cirPageout | cirPagein | cfgLd |
    preempt | restore | nmqSub =>
    exact canon_enterExec h
  | chPush => exact canon_execChPush h
  | chPop => exact canon_execChPop h
  | chPeek => exact canon_execChPeek h
  | chTag => exact canon_execChTag h
  | chCtl => exact canon_execChCtl h
  | steer => exact canon_execSteer h
  | merge => exact canon_execMerge h
  | amerge => exact canon_execAmerge h
  | lgen => exact canon_execLgen h
  | br => exact canon_execBr h
  | brC => exact canon_execBrC h
  | exit => exact canon_execExit h
  | exitAbandon => exact canon_execExitAbandon h
  | loop => exact canon_execLoop h
  | loopR => exact canon_execLoopR h
  | thrNew => exact canon_execThrNew h
  | grpJoin => exact canon_execGrpJoin h
  | grpLeave => exact canon_execGrpLeave h
  | barSet => exact canon_execBarSet h
  | barBind => exact canon_execBarBind h
  | barArrive => exact canon_execBarArrive h
  | acsLd => exact canon_execAcsLd h
  | acsSt => exact canon_execAcsSt h
  | sregRd => exact canon_execSregRd h
  | sregWr => exact canon_execSregWr h
  | capRd => exact canon_execCapRd h
  | capWr => exact canon_execCapWr h
  | trapRd => exact canon_execTrapRd h
  | trapAct => exact canon_execTrapAct h
  | trapFwd => exact canon_execTrapFwd h
  | cfgSel => exact canon_execCfgSel h
  | nmqPoll => exact canon_execNmqPoll h
  | mark => exact canon_execMark h
  | perfRd => exact canon_execPerfRd h
  | engineQueueIssue => exact canon_execEngineQueueIssue h
  | commandRetire => exact canon_execCommandRetire h
  | returnDatum => exact canon_execReturnDatum h
  | returnGroupComplete => exact canon_execReturnGroupComplete h
  | translationWalk => exact State.canon_doWalk h
  | atomicPipelineCycle => exact State.canon_pipeTake (State.canon_pipeAge h)
  | selection => exact State.canon_select h
  | eoiForward => exact canon_execEoiForward h
  | eosForward => exact canon_execEosForward h
  | drnForward => exact canon_execDrnForward h
  | probeArrival => exact canon_execProbeArrival h
  | syncArrival => exact canon_execSyncArrival h
  | setCompletion => exact canon_execSetCompletion h
  | planeSwap => exact canon_execPlaneSwap h
  | regionComplete => exact canon_execRegionComplete h
  | regionPlacement => exact canon_execRegionPlacement h
  | preemptiveLaunch => exact canon_execPreemptiveLaunch h
  | preemptionComplete => exact canon_execPreemptionComplete h
  | strayToken => exact canon_execStrayToken h
  | lullSweep => exact canon_execLullSweep h
  | borderDelivery => exact canon_execBorderDelivery h
  | circuitStep => exact canon_execCircuitStep h
  | circuitControlForward => exact canon_execCircuitControlForward h
  | conversionComplete => exact canon_execConversionComplete h
  | slotClearDone => exact holds_ite (State.canon_putSlot (State.canon_zeroSlot h)) h
  | cubeDigestsComplete => exact canon_execCubeDigestsComplete h
  | cubeStreamFiring => exact canon_execCubeStreamFiring h
  | cubeControlForward => exact canon_execCubeControlForward h
  | portNodeInvocation => exact canon_execPortNodeInvocation h
  | bsuLaunch => exact canon_execBsuLaunch h
  | bsuResume => exact canon_execBsuResume h
  | bsuAbort => exact canon_execBsuAbort h
  | bsuQuery => exact canon_execBsuQuery h
  | nmqCommandDone => exact canon_execNmqCommandDone h
  | bsuNodeFire => exact State.canon_settleUnit (State.canon_bsuFire h)
  | bsuLoadReturn => exact canon_execBsuLoadReturn h
  | bsuLinkArrival => exact canon_execBsuLinkArrival h
  | mitigationEnd => exact State.canon_flushRings (State.canon_frame h)
  | mailboxDelivery => exact State.canon_ite (State.canon_bellNext h) (State.canon_mailboxNext h)
  | faultDoorbell => exact State.canon_bellNext h
  | keyCommandComplete => exact State.canon_keyComplete h
  | invalidationComplete => exact State.canon_xinvDone h
  | checkpointDone => exact State.canon_ckptFinish h
  | haltComplete => exact canon_execHaltComplete h
  | driftDrain => exact canon_execDriftDrain h
  | gustWalkHop => exact canon_execGustWalkHop h
  | treeSync => exact canon_execTreeSync h
  | engineProgress => exact canon_execEngineProgress h
  | tokenArrival => exact canon_execTokenArrival h
  | slotReturn => exact canon_execSlotReturn h
  | bsuStorePerformed => exact canon_execBsuStorePerformed h
  | strayDiscardEnd | strayDiscardAll => exact State.canon_writeStraycmd h
  | nmqTailWrite => exact State.canon_ite h (State.canon_modCfg h ..)
  | activationAlert =>
    exact State.canon_ite (State.canon_alertUnit (State.canon_logEvent (State.canon_frame h))) (State.canon_logEvent (State.canon_frame h))
  | patrolScrub => exact canon_execPatrolScrub h
  | storageScrub => exact canon_execStorageScrub h
  | channelNarrow => exact holds_ite h (State.canon_channelEvent (State.canon_modCfg h ..))
  | channelRetire => exact holds_ite h (State.canon_unitHw (State.canon_channelEvent (State.canon_modCfg h ..)))
  | tileHealthClear | cxlLinkDown => exact holds_ite h (State.canon_modCfg h ..)
  | clockSupplyFault => exact canon_execClockSupplyFault h
  | peerTimeout => exact canon_execPeerTimeout h
  | inboundAccess => exact canon_execInboundAccess h
  | mailboxWrite => exact State.canon_mailbox h
  | powerOnReset => exact State.canon_powerOn h
  | recoveryLoad => exact State.canon_recover h
  | keyLoad | keyInvalidate => exact State.canon_writeKeycmd h
  | xinvAll | xinvAsid | xinvPage | xinvKeyid => exact State.canon_writeXinvcmd h
  | xfsvcWrite => exact State.canon_writeXfsvc h
  | checkpointSave | checkpointRestore => exact State.canon_writeCkptctl h
  | fltResume | fltSkip | fltRetire | fltResumeCommand | fltAbandonCommand | fltResumeSet => exact State.canon_writeFltcmd h
  | dbgHalt | dbgResume | dbgStep | dbgRead | dbgWrite => exact State.canon_writeDbgcmd h
  | replayDiverge => exact canon_execReplayDiverge h
  | perturbRead => exact State.canon_sregReadClears h
  | enrol | attest | setDebug | release | powerRequest => exact State.canon_writeSeccmd h
  | boardPowerOff => exact State.canon_powerOff h
  | i3cCapWrite => exact holds_ite h (State.canon_modCfg (State.canon_i3cWake h) ..)
  | i3cWake => exact State.canon_i3cWake h
  | registerWrite => exact canon_execRegisterWrite h
  | singleFault => exact canon_execSingleFault h
  | regionEnd => exact canon_execRegionEnd h

theorem canon_issueStep (h : s.canon = true) : OutCanon (issueStep s t o) := by
  unfold issueStep
  split
  · next e => exact (State.canon_fetch h).of_eq e
  · next e => exact State.canon_issued ((State.canon_fetch h).of_eq e)
  · next e =>
    have h1 := (State.canon_fetch h).of_eq e
    split
    · next e2 => exact State.canon_issued ((canon_exec h1).of_eq e2)
    · trivial
    · trivial

theorem canon_moveStep {m : Move} (h : s.canon = true) : OutCanon (moveStep m s) := by
  cases m with
  | issue t o => exact canon_issueStep h
  | happen i => exact canon_exec h
  | _ => exact State.canon_make h

theorem canon_step (h : s.canon = true) : OutCanon (step s) := by
  unfold step
  extract_lets s1
  have h1 : s1.canon = true := State.canon_frame h
  split
  · exact canon_moveStep (State.canon_frame h1)
  split
  · exact canon_moveStep h1
  · exact h1

end

/-- Settles O53, by one lemma for each operation that yields a state: it writes device memory and the memories of the tiles through the operations
of sparse maps alone, and these keep the canonical form. -/
theorem canonicalFormIsKept : Obligations.CanonicalFormIsKept := by
  unfold Obligations.CanonicalFormIsKept
  intro s s' h hs
  exact (canon_step h).of_eq hs

end Sys2Proof.Machine
end

section
/-! SUPPORT. Reads of several bytes after writes (O58), and the arrival of tokens, slot returns and border packets (O29). -/
namespace Sys2Proof.Machine

/-! ### Reads of several bytes -/

theorem Memory.readLE_congr {m m' : Memory} {a n : Nat} (h : ∀ i, i < n → Memory.read m (a + i) = Memory.read m' (a + i)) :
    Memory.readLE m a n = Memory.readLE m' a n := by
  induction n generalizing a with
  | zero => rfl
  | succ n ih =>
    have hrest : Memory.readLE m (a + 1) n = Memory.readLE m' (a + 1) n := ih fun i hi => by
      simpa [Nat.add_assoc, Nat.add_comm 1] using h (i + 1) (by omega)
    simp only [Memory.readLE, hrest, show Memory.read m a = Memory.read m' a from h 0 (by omega)]

theorem Memory.readLE_writeLE_same {m : Memory} (hm : Memory.wf m = true) (a n v : Nat) :
    Memory.readLE (Memory.writeLE m a n v) a n = v % 256 ^ n := by
  induction n generalizing m a v with
  | zero => simp [Memory.readLE, Nat.mod_one]
  | succ n ih =>
    have hw := Memory.wf_write hm a (BitVec.ofNat 8 v)
    rw [Memory.readLE, Memory.writeLE, ih hw, Memory.read_writeLE_outside hw _ (by omega), Memory.read_write_same hm, Nat.pow_succ',
      Nat.mod_mul, BitVec.toNat_ofNat]

theorem Memory.readLE_writeLE_disjoint {m : Memory} (hm : Memory.wf m = true) {a n b k : Nat} (v : Nat) (h : b + k ≤ a ∨ a + n ≤ b) :
    Memory.readLE (Memory.writeLE m a n v) b k = Memory.readLE m b k :=
  Memory.readLE_congr fun i hi => Memory.read_writeLE_outside hm v (by omega)

theorem Memory.read_writeLE {m : Memory} (hm : Memory.wf m = true) (a n v b : Nat) :
    Memory.read (Memory.writeLE m a n v) b = if a ≤ b ∧ b < a + n then BitVec.ofNat 8 (v / 256 ^ (b - a)) else Memory.read m b := by
  split
  · next h =>
    obtain ⟨i, rfl⟩ := Nat.exists_eq_add_of_le h.1
    rw [Memory.read_writeLE_inside hm v (by omega), Nat.add_sub_cancel_left]
  · next h => exact Memory.read_writeLE_outside hm v (by omega)

/-! ### A word of the LVS and a plain double -/

theorem State.lvs_putLvs_same {s : State} (h : s.canon = true) (t w : Nat) (x : Word) : (s.putLvs t w x).lvs t w = x := by
  have hl := Tile.wf_lvs (State.canon_tile h t)
  simp only [State.lvs, State.putLvs, State.tile_putTile_same h]
  exact SMap.get_put_same (SMap.rises_of_wf hl) w x

theorem State.lvs_putLvs_other {s : State} (h : s.canon = true) {t w u k : Nat} (x : Word) (hne : (u, k) ≠ (t, w)) :
    (s.putLvs t w x).lvs u k = s.lvs u k := by
  have hl := Tile.wf_lvs (State.canon_tile h t)
  by_cases hu : u = t
  · subst hu
    simp only [State.lvs, State.putLvs, State.tile_putTile_same h]
    exact SMap.get_put_other (SMap.rises_of_wf hl) x fun hk => hne (by rw [hk])
  · simp only [State.lvs, State.putLvs, State.tile_putTile_other h _ hu]

theorem NSet.has_drop (l : NSet) (n : Nat) : NSet.has (NSet.drop l n) n = false := by simp [NSet.has, NSet.drop]

theorem State.lvsPoison_putLvs {s : State} (h : s.canon = true) (t w : Nat) (x : Word) :
    NSet.has ((s.putLvs t w x).tile t).lvsPoison w = false := by
  simp only [State.putLvs, State.tile_putTile_same h, NSet.has_drop]

theorem State.readPlain_writePlain {s : State} (h : s.canon = true) (pa : Nat) (x : Double) : (s.writePlain pa x).readPlain pa = x := by
  have hr := Memory.readLE_writeLE_same (State.canon_mem h) pa 8 x.toNat
  simp only [State.readPlain, State.writePlain, hr]
  exact BitVec.eq_of_toNat_eq (by simp; omega)

/-- Settles O58, by the laws of sparse maps: a write of several bytes is read back byte by byte, and memories in canonical form that read the
same are equal. -/
theorem memoryAndRegisterLaws : Obligations.MemoryAndRegisterLaws := by
  unfold Obligations.MemoryAndRegisterLaws
  refine ⟨fun m a n v hm => ⟨Memory.wf_writeLE hm a n v, Memory.readLE_writeLE_same hm a n v, fun b k => Memory.readLE_writeLE_disjoint hm v,
      Memory.read_writeLE hm a n v⟩, fun m m' hm hm' => SMap.wfFrom_ext hm hm', fun s t w x h => ?_, fun s pa x h => ?_⟩
  · exact ⟨State.canon_putLvs h t w x, State.lvs_putLvs_same h t w x, State.lvsPoison_putLvs h t w x, fun u k => State.lvs_putLvs_other h x,
      rfl, fun u hu => State.tile_putTile_other h _ hu⟩
  · exact ⟨State.canon_writePlain h pa x, State.readPlain_writePlain h pa x, rfl⟩

/-! ### Channels -/

theorem State.chooseAs_off {s : State} {t : Nat} (h : s.rplMode t = .off) (kind elem : Nat) (choice : Double) :
    s.chooseAs t kind elem choice = .take s := by
  simp [State.chooseAs, h]

theorem execTokenArrival_waits {s : State} {n : Nat} {c : Chan} {k : Token} {rest : List Token} (hn : s.chans.look n = some c)
    (hf : c.fly = k :: rest) (hr : s.released k = false) : exec (.tokenArrival n) s = .next s := by
  rw [exec_tokenArrival]
  simp [execTokenArrival, hn, hf, hr]

/-- A token that may arrive enters the window of its border's converter, or the buffer of its channel. -/
theorem execTokenArrival_arrives {s : State} {n : Nat} {c : Chan} {k : Token} {rest : List Token} (hn : s.chans.look n = some c)
    (hf : c.fly = k :: rest) (hr : s.released k = true) : exec (.tokenArrival n) s = .next (s.putChan n (
      if c.cross = true ∧ fromLink c = false then { c with fly := rest, win := c.win ++ [k], sent := c.sent + 1 }
      else { c with fly := rest, buf := c.buf ++ [k], late := if s.arrivesLate c then c.late + 1 else c.late })) := by
  rw [exec_tokenArrival]
  by_cases hx : c.cross = true ∧ fromLink c = false
  · simp [execTokenArrival, hn, hf, hr, hx]
  · have hx' : (c.cross && !fromLink c) = false := by simpa using hx
    simp [execTokenArrival, hn, hf, hr, hx, hx', State.enterBuf]

theorem execSlotReturn_returns {s : State} {n : Nat} {c : Chan} (hn : s.chans.look n = some c) (hr : 0 < c.rets)
    (hb : ∀ t e, c.cons = .tile t e → (s.tile t).strayBusy = false) :
    exec (.slotReturn n) s = .next (s.putChan n { c with free := c.free + 1, rets := c.rets - 1 }).prune := by
  rw [exec_slotReturn]
  cases hc : c.cons with
  | tile t e =>
    have hidle (c' : Chan) : ((s.putChan n c').tile t).strayBusy = false := hb t e hc
    simp [execSlotReturn, hn, hr, Chan.consTile, hc, hidle]
  | _ => simp [execSlotReturn, hn, hr, Chan.consTile, hc]

theorem execBorderDelivery_delivers {s : State} {n : Nat} {c : Chan} {k : Token} {rest : List Token} (hn : s.chans.look n = some c)
    (hp : fromLink c = false) (hw : c.win = k :: rest) (hl : ∀ u l, c.cons ≠ .link u l) (hr : ∀ a b e, c.cons ≠ .remote a b e)
    (ho : s.rplMode ((c.consTile.map Prod.fst).getD 0) = .off) :
    exec (.borderDelivery n) s = .next (s.putChan n { s.enterBuf c k with win := rest, delivered := c.delivered + 1 }) := by
  rw [exec_borderDelivery]
  have hc := State.chooseAs_off ho 3 c.xc (c.deliveryChoice n)
  unfold execBorderDelivery
  simp only [hn, hw]
  split
  · next m l hm => simp [fromLink, hm] at hp
  · next e _ => cases e
  · next u l e _ _ => exact absurd e (hl u l)
  · next he _ => exact absurd he (hr _ _ _)
  · next k' rest' e _ _ _ =>
    cases e
    simp only [hc]

/-- Settles O29: each event moves the one token or slot that its branch names, and without record or replay the converter's choice is free. -/
theorem channelsMoveTokens : Obligations.ChannelsMoveTokens := by
  unfold Obligations.ChannelsMoveTokens
  exact fun s n c k rest hn => ⟨execTokenArrival_waits hn, execTokenArrival_arrives hn, execSlotReturn_returns hn,
    execBorderDelivery_delivers hn⟩

end Sys2Proof.Machine
end

section
/-! SUPPORT. Writes of registers by system software: configuration space and supervisor registers (O41). -/
namespace Sys2Proof.Machine

/-! ### Registers of configuration space -/

theorem execRegisterWrite_off {s : State} (hp : s.cfg.pwr = 3) (n : RegName) (w : Double) : exec (.registerWrite n w) s = .next s := by
  simp [execRegisterWrite, hp]

theorem State.pwr_beq_off {s : State} (hp : s.cfg.pwr ≠ 3) : (s.cfg.pwr == 3) = false := by simpa using hp

/-- With the power on, a write of configuration space is the write by the map, with the fields of system software. -/
theorem execRegisterWrite_config {s : State} (hp : s.cfg.pwr ≠ 3) (off : Nat) (w : Double) :
    exec (.registerWrite (.config off) w) s = .next (s.cfgWrite off w true s.cfg.devid.toNat).1 := by
  simp only [exec_registerWrite, execRegisterWrite, State.pwr_beq_off hp, Bool.false_eq_true, if_false]

theorem execRegisterWrite_sreg {s : State} (hp : s.cfg.pwr ≠ 3) (t o : Nat) (r : SReg) (w : Double) :
    exec (.registerWrite (.sreg t o r) w) s = .next (s.sregWrite (tgt t o) r w).1 := by
  simp only [exec_registerWrite, execRegisterWrite, State.pwr_beq_off hp, Bool.false_eq_true, if_false]

theorem extractLsb'_putKeyDouble (k : BitVec 256) (w : Double) {i j : Nat} (hj : j < 4) :
    (putKeyDouble k i w).extractLsb' (64 * j) 64 = if j = i then w else k.extractLsb' (64 * j) 64 := by
  have hm : (0xFFFFFFFFFFFFFFFF : BitVec 256) = (BitVec.allOnes 64).setWidth 256 := by decide
  ext b hb
  simp only [putKeyDouble, hm, BitVec.getElem_extractLsb', BitVec.getLsbD_or, BitVec.getLsbD_and, BitVec.getLsbD_not, BitVec.getLsbD_shiftLeft,
    BitVec.getLsbD_setWidth, BitVec.getLsbD_allOnes]
  by_cases hji : j = i
  · subst hji
    have h1 : 64 * j + b < 256 := by omega
    have h3 : b < 256 := by omega
    simp [h1, h3, hb]
  · have hout : 64 * j + b < 64 * i ∨ 64 ≤ 64 * j + b - 64 * i := by omega
    have h1 : 64 * j + b < 256 := by omega
    rcases hout with h | h
    · simp [hji, h, h1]
    · have hw : w.getLsbD (64 * j + b - 64 * i) = false := BitVec.getLsbD_of_ge _ _ h
      simp [hji, hw, h1, show ¬ (64 * j + b - 64 * i < 64) by omega]

theorem clampCap_eq (w : BitVec 16) : clampCap w = BitVec.ofNat 16 (max 800 (min 3200 w.toNat)) := by
  apply BitVec.eq_of_toNat_eq
  unfold clampCap
  split
  · next h => simp [Nat.max_eq_left (show min 3200 w.toNat ≤ 800 by omega)]
  · split
    · next h => simp [Nat.min_eq_left (show 3200 ≤ w.toNat by omega)]
    · next h1 h2 =>
      rw [Nat.min_eq_right (by omega), Nat.max_eq_right (by omega)]
      simp

section
variable {s : State} {off i : Nat} {w : Double}

theorem State.cfgWrite_ckptctl (hat : s.cfg.capAt off = some (1, 15)) (w : Double) (node : Nat) :
    s.cfgWrite off w true node = s.writeCkptctl w := by simp [State.cfgWrite, hat]

theorem State.cfgWrite_keycmd (hat : s.cfg.capAt off = some (2, 1)) (w : Double) (node : Nat) :
    s.cfgWrite off w true node = s.writeKeycmd w := by simp [State.cfgWrite, hat]

theorem State.cfgWrite_seccmd (hat : s.cfg.capAt off = some (11, 2)) (w : Double) (node : Nat) :
    s.cfgWrite off w true node = s.writeSeccmd w node := by simp [State.cfgWrite, hat]

theorem State.cfgWrite_keyData1 (hat : s.cfg.capAt off = some (2, 2 + i)) (hi : i < 4) (node : Nat) :
    s.cfgWrite off w true node = (s.modCfg (fun c => { c with keyData1 := putKeyDouble c.keyData1 i w }), false) := by
  interval_cases i <;> simp [State.cfgWrite, hat]

theorem State.cfgWrite_keyData2 (hat : s.cfg.capAt off = some (2, 6 + i)) (hi : i < 4) (node : Nat) :
    s.cfgWrite off w true node = (s.modCfg (fun c => { c with keyData2 := putKeyDouble c.keyData2 i w }), false) := by
  interval_cases i <;> simp [State.cfgWrite, hat]

theorem State.cfgWrite_mbox (hat : s.cfg.capAt off = some (4, 2 + i)) (hi : i < 4) (node : Nat) :
    s.cfgWrite off w true node = s.mailbox node i w := by
  interval_cases i <;> simp [State.cfgWrite, hat]

/-- OP 00 of KEYCMD writes KEYID. -/
theorem State.writeKeycmd_keyid (hp : s.cfg.pwr ≠ 3) (ho : w.extractLsb' 56 2 = 0) : (s.writeKeycmd w).1 =
    { s with cfg := { s.cfg with keyErr := s.cfg.keyErr && !w.getLsbD 62, keyId := w.extractLsb' 0 12 } } := by
  simp only [State.writeKeycmd, State.pwr_beq_off hp, ho, State.modCfg, beq_self_eq_true, Bool.false_eq_true, if_false, if_true]

theorem State.writeCkptctl_none (hp : s.cfg.pwr ≠ 3) (ho : w.extractLsb' 0 2 = 0) : (s.writeCkptctl w).1 =
    { s with cfg := { s.cfg with ckptDone := s.cfg.ckptDone && !w.getLsbD 62, ckptErr := s.cfg.ckptErr && !w.getLsbD 61 } } := by
  simp only [State.writeCkptctl, State.pwr_beq_off hp, ho, State.modCfg, beq_self_eq_true, Bool.true_or, Bool.false_eq_true, if_false, if_true]

theorem State.writeSeccmd_none (hp : s.cfg.pwr ≠ 3) (ho : w.extractLsb' 52 4 = 0) (node : Nat) : (s.writeSeccmd w node).1 =
    { s with cfg := { s.cfg with secErr := s.cfg.secErr && !w.getLsbD 62, secArg := w.extractLsb' 48 4, secBuf := w.extractLsb' 6 42 } } := by
  simp only [State.writeSeccmd, State.pwr_beq_off hp, ho, State.modCfg, beq_self_eq_true, Bool.false_eq_true, if_false, if_true]

/-! ### Supervisor registers -/

/-- The W1C bits of a plain supervisor register: bit 1 of the base of a fault ring (R231) or of a trace ring (R250). -/
def w1cMask : SReg → Double
  | .rfqbase => 2
  | .trcbase => 2
  | _ => 0

theorem w1cMask_other {r : SReg} (hf : r ≠ .rfqbase) (ht : r ≠ .trcbase) : w1cMask r = 0 := by
  cases r with
  | rfqbase => exact absurd rfl hf
  | trcbase => exact absurd rfl ht
  | _ => rfl

/-- A register without a command of its own is written by its map, unless its own rule refuses the write. -/
theorem State.sregWrite_plain {g : Target} {r : SReg} (hx : r ≠ .xinvcmd) (hf : r ≠ .xfsvc) (hc : r ≠ .fltcmd) (hy : r ≠ .straycmd)
    (hd : r ≠ .dbgcmd) : s.sregWrite g r w =
      if s.sregRefuses g r w (s.sregRead g r) = true then (s, true)
      else if (svMask r == 0) = true then (s, false)
      else (s.sregPut g r ((s.sregRead g r &&& ~~~(svMask r) &&& ~~~(w &&& w1cMask r)) ||| (w &&& svMask r)), false) := by
  cases r with
  | xinvcmd => exact absurd rfl hx
  | xfsvc => exact absurd rfl hf
  | fltcmd => exact absurd rfl hc
  | straycmd => exact absurd rfl hy
  | dbgcmd => exact absurd rfl hd
  | _ => rfl

/-- R389, R392: a plain supervisor register that is written keeps the bits outside its map. -/
theorem execRegisterWrite_plain {t o : Nat} {r : SReg} (hp : s.cfg.pwr ≠ 3) (hx : r ≠ .xinvcmd) (hf : r ≠ .xfsvc) (hc : r ≠ .fltcmd)
    (hy : r ≠ .straycmd) (hd : r ≠ .dbgcmd) :
    let g := tgt t o
    let old := s.sregRead g r
    (s.sregRefuses g r w old = true → exec (.registerWrite (.sreg t o r) w) s = .next s) ∧
    (s.sregRefuses g r w old = false → svMask r ≠ 0 → r ≠ .rfqbase → r ≠ .trcbase → exec (.registerWrite (.sreg t o r) w) s =
      .next (s.sregPut g r ((old &&& ~~~(svMask r)) ||| (w &&& svMask r)))) ∧
    (s.sregRefuses g r w old = false → r = .rfqbase ∨ r = .trcbase → exec (.registerWrite (.sreg t o r) w) s =
      .next (s.sregPut g r ((old &&& ~~~(svMask r) &&& ~~~(w &&& 2)) ||| (w &&& svMask r)))) ∧
    (svMask r = 0 → exec (.registerWrite (.sreg t o r) w) s = .next s) := by
  intro g old
  rw [execRegisterWrite_sreg hp, State.sregWrite_plain hx hf hc hy hd]
  refine ⟨fun hr => ?_, fun hr hm h1 h2 => ?_, fun hr h => ?_, fun hm => ?_⟩
  · rw [if_pos hr]
  · have hz (a : Double) : a &&& ~~~(w &&& 0) = a := (congrArg (a &&& ~~~·) BitVec.and_zero).trans BitVec.and_allOnes
    rw [if_neg (ne_true_of_eq_false hr), if_neg (by simpa using hm), w1cMask_other h1 h2, hz]
  · rcases h with rfl | rfl
    · rw [if_neg (ne_true_of_eq_false hr)]
      rfl
    · rw [if_neg (ne_true_of_eq_false hr)]
      rfl
  · rw [hm, beq_self_eq_true, if_pos rfl]
    split <;> rfl

/-! ### The records of configuration space that hold a command -/

theorem execRegisterWrite_keycmd (hp : s.cfg.pwr ≠ 3) (hat : s.cfg.capAt off = some (2, 1)) (k : BitVec 12) :
    exec (.registerWrite (.config off) (keyWord 1 k)) s = exec (.keyLoad k) s ∧
      exec (.registerWrite (.config off) (keyWord 2 k)) s = exec (.keyInvalidate k) s := by
  simp only [execRegisterWrite_config hp, State.cfgWrite_keycmd hat, exec_keyLoad, exec_keyInvalidate, execKeyLoad, execKeyInvalidate, and_self]

theorem execRegisterWrite_keyid (hp : s.cfg.pwr ≠ 3) (hat : s.cfg.capAt off = some (2, 1)) (ho : w.extractLsb' 56 2 = 0) :
    exec (.registerWrite (.config off) w) s =
      .next { s with cfg := { s.cfg with keyErr := s.cfg.keyErr && !w.getLsbD 62, keyId := w.extractLsb' 0 12 } } := by
  rw [execRegisterWrite_config hp, State.cfgWrite_keycmd hat, State.writeKeycmd_keyid hp ho]

theorem execRegisterWrite_keyData1 (hp : s.cfg.pwr ≠ 3) (hi : i < 4) (hat : s.cfg.capAt off = some (2, 2 + i)) :
    ∃ x : BitVec 256, exec (.registerWrite (.config off) w) s = .next { s with cfg := { s.cfg with keyData1 := x } } ∧
      ∀ j, j < 4 → x.extractLsb' (64 * j) 64 = if j = i then w else s.cfg.keyData1.extractLsb' (64 * j) 64 := by
  refine ⟨putKeyDouble s.cfg.keyData1 i w, ?_, fun j hj => extractLsb'_putKeyDouble _ w hj⟩
  rw [execRegisterWrite_config hp, State.cfgWrite_keyData1 hat hi]
  rfl

theorem execRegisterWrite_keyData2 (hp : s.cfg.pwr ≠ 3) (hi : i < 4) (hat : s.cfg.capAt off = some (2, 6 + i)) :
    ∃ x : BitVec 256, exec (.registerWrite (.config off) w) s = .next { s with cfg := { s.cfg with keyData2 := x } } ∧
      ∀ j, j < 4 → x.extractLsb' (64 * j) 64 = if j = i then w else s.cfg.keyData2.extractLsb' (64 * j) 64 := by
  refine ⟨putKeyDouble s.cfg.keyData2 i w, ?_, fun j hj => extractLsb'_putKeyDouble _ w hj⟩
  rw [execRegisterWrite_config hp, State.cfgWrite_keyData2 hat hi]
  rfl

theorem execRegisterWrite_mbox (hp : s.cfg.pwr ≠ 3) (hi : i < 4) (hat : s.cfg.capAt off = some (4, 2 + i)) :
    exec (.registerWrite (.config off) w) s = exec (.mailboxWrite s.cfg.devid.toNat (BitVec.ofNat 2 i) w) s := by
  have hn : (BitVec.ofNat 2 i).toNat = i := by rw [BitVec.toNat_ofNat]; omega
  rw [execRegisterWrite_config hp, State.cfgWrite_mbox hat hi, exec_mailboxWrite, execMailboxWrite, hn]

theorem execRegisterWrite_ckptctl (hp : s.cfg.pwr ≠ 3) (hat : s.cfg.capAt off = some (1, 15)) :
    exec (.registerWrite (.config off) 1) s = exec .checkpointSave s ∧
      exec (.registerWrite (.config off) 2) s = exec .checkpointRestore s := by
  simp only [execRegisterWrite_config hp, State.cfgWrite_ckptctl hat, exec_checkpointSave, exec_checkpointRestore, execCheckpointSave,
    execCheckpointRestore, and_self]

theorem execRegisterWrite_ckptctl_none (hp : s.cfg.pwr ≠ 3) (hat : s.cfg.capAt off = some (1, 15)) (ho : w.extractLsb' 0 2 = 0) :
    exec (.registerWrite (.config off) w) s = .next { s with cfg := { s.cfg with
      ckptDone := s.cfg.ckptDone && !w.getLsbD 62, ckptErr := s.cfg.ckptErr && !w.getLsbD 61 } } := by
  rw [execRegisterWrite_config hp, State.cfgWrite_ckptctl hat, State.writeCkptctl_none hp ho]

theorem execRegisterWrite_seccmd_none (hp : s.cfg.pwr ≠ 3) (hat : s.cfg.capAt off = some (11, 2)) (ho : w.extractLsb' 52 4 = 0) :
    exec (.registerWrite (.config off) w) s = .next { s with cfg := { s.cfg with
      secErr := s.cfg.secErr && !w.getLsbD 62, secArg := w.extractLsb' 48 4, secBuf := w.extractLsb' 6 42 } } := by
  rw [execRegisterWrite_config hp, State.cfgWrite_seccmd hat, State.writeSeccmd_none hp ho]

theorem execRegisterWrite_powerCap (hp : s.cfg.pwr ≠ 3) (hat : s.cfg.capAt off = some (10, 1)) :
    exec (.registerWrite (.config off) w) s = .next { s with cfg := { s.cfg with
      powerCap := BitVec.ofNat 16 (max 800 (min 3200 (w.extractLsb' 0 16).toNat)) } } := by
  rw [execRegisterWrite_config hp, ← clampCap_eq]
  simp [State.cfgWrite, hat, State.modCfg]

end

/-- Settles O41: each register's own lemma, and for the plain doubles of configuration space the branch of the write that its index names. -/
theorem registerWrites : Obligations.RegisterWrites := by
  unfold Obligations.RegisterWrites
  refine ⟨fun s n w hp => execRegisterWrite_off hp n w, fun s t o r w hp hx hf hc hy hd => execRegisterWrite_plain hp hx hf hc hy hd,
    fun s off w hp => ⟨execRegisterWrite_keyid hp, fun k hat => execRegisterWrite_keycmd hp hat k,
      fun i hi => ⟨execRegisterWrite_keyData1 hp hi, execRegisterWrite_keyData2 hp hi, execRegisterWrite_mbox hp hi⟩,
      fun hat => ?_, fun hat => ?_, fun hat => ?_, execRegisterWrite_ckptctl_none hp, execRegisterWrite_ckptctl hp,
      execRegisterWrite_seccmd_none hp, fun hat => ?_, fun hat => ?_, fun hat => ?_, fun hat => ?_, fun hat => ?_,
      execRegisterWrite_powerCap hp, fun hat => ?_⟩⟩
  all_goals
    rw [execRegisterWrite_config hp]
    simp [State.cfgWrite, hat, State.modCfg, execRecoveryLoad]

end Sys2Proof.Machine
end

section
/-! SUPPORT. Drift, Gust walks, tree SYNC, replay divergence and PERTURB (O47). -/
namespace Sys2Proof.Machine

/-! ### Drift -/

/-- An append to a ring that finds room writes device memory alone. -/
theorem State.tiles_of_ringPut {s s1 : State} {base w0 w1 w2 w3 : Double} {a : Bool} (h : s.ringPut base w0 w1 w2 w3 = .wrote s1 a) :
    s1.tiles = s.tiles := by
  unfold State.ringPut at h
  split at h
  · cases h
  · dsimp only at h
    split_ifs at h
    cases h
    rfl

/-- No record is owed to a tile that has lost none. -/
theorem State.driftLostRecord_none {s : State} {t : Nat} (h : (s.tile t).driftLost = 0) : s.driftLostRecord t = s := if_pos h

/-- A drained record leaves Drift, and nothing else is written when none was lost. -/
theorem State.driftLostRecord_drained {s : State} {t : Nat} {ks : List TraceRec} (h : s.canon = true) (hl : (s.tile t).driftLost = 0) :
    (s.putTile t { s.tile t with drift := ks }).driftLostRecord t = s.putTile t { s.tile t with drift := ks } := by
  refine State.driftLostRecord_none ?_
  rw [State.tile_putTile_same h]
  exact hl

theorem execDriftDrain_cases {s : State} {t o : Nat} {v : SetState} {rest : List (Nat × SetState)} {k : TraceRec} {ks : List TraceRec}
    (hd : (s.tile t).drift = k :: ks) (hl : (s.tile t).driftLost = 0) (hs : s.setsOf t = (o, v) :: rest) (h : s.canon = true) :
    (s.ringBankHeld v.regs.trcbase = true → exec (.driftDrain t) s = .next s) ∧
    (s.ringBankHeld v.regs.trcbase = false →
    (∀ s1 a, s.ringPut v.regs.trcbase k.w0 k.w1 k.w2 k.w3 = .wrote s1 a →
      exec (.driftDrain t) s = .next ((s1.putTile t { s1.tile t with drift := ks }).driftRoom t)) ∧
    (∀ a, s.ringPut v.regs.trcbase k.w0 k.w1 k.w2 k.w3 = .full a → exec (.driftDrain t) s = .next s) ∧
    (s.ringPut v.regs.trcbase k.w0 k.w1 k.w2 k.w3 = .off →
      exec (.driftDrain t) s = .next ((s.putTile t { s.tile t with drift := ks }).driftRoom t))) := by
  have hh : (s.setsOf t).head? = some (o, v) := by rw [hs]; rfl
  rw [exec_driftDrain]
  refine ⟨fun hb => ?_, fun hb => ⟨fun s1 a hr => ?_, fun a hr => ?_, fun hr => ?_⟩⟩
  · simp only [execDriftDrain, hd, hh, hb, if_true]
  · have h1 : s1.canon = true := (State.canon_ringPut h).of_eq hr
    have hl1 : (s1.tile t).driftLost = 0 := by rw [State.tile, State.tiles_of_ringPut hr]; exact hl
    simp only [execDriftDrain, hd, hh, hb, Bool.false_eq_true, if_false, hr, State.driftLostRecord_drained h1 hl1]
  · simp only [execDriftDrain, hd, hh, hb, Bool.false_eq_true, if_false, hr]
  · simp only [execDriftDrain, hd, hh, hb, Bool.false_eq_true, if_false, hr, State.driftLostRecord_drained h hl]

/-! ### Gust walks -/

section
variable {s : State} {t : Nat} {g : Gust} {rest : List Gust}

theorem execGustWalkHop_hidden (hg : (s.tile t).gusts = g :: rest) (hd : s.dbgObserve = false) : exec (.gustWalkHop t) s = .next s := by
  simp only [exec_gustWalkHop, execGustWalkHop, hg, hd, Bool.not_false, if_true]

theorem execGustWalkHop_stalls (hg : (s.tile t).gusts = g :: rest) (hd : s.dbgObserve = true)
    (hs : s.traceStalls (pathEvent t g (s.hopEnd t g).1) = true) : exec (.gustWalkHop t) s = .next (s.driftStall t g.set) := by
  simp only [exec_gustWalkHop, execGustWalkHop, hg, hd, hs, Bool.not_true, Bool.false_eq_true, if_false, if_true]

theorem execGustWalkHop_ends (hg : (s.tile t).gusts = g :: rest) (hd : s.dbgObserve = true)
    (hs : s.traceStalls (pathEvent t g (s.hopEnd t g).1) = false) (hh : (s.hopEnd t g).2 = none) :
    exec (.gustWalkHop t) s =
      .next ((s.putTile t { s.tile t with gusts := rest }).observe (pathEvent t g (s.hopEnd t g).1)) := by
  simp only [exec_gustWalkHop, execGustWalkHop, hg, hd, hs, hh, Bool.not_true, Bool.false_eq_true, if_false]

theorem execGustWalkHop_goesOn {u : Nat} {n : Note} (hg : (s.tile t).gusts = g :: rest) (hd : s.dbgObserve = true)
    (hs : s.traceStalls (pathEvent t g (s.hopEnd t g).1) = false) (hh : (s.hopEnd t g).2 = some (u, n)) :
    exec (.gustWalkHop t) s =
      (let s1 := (s.putTile t { s.tile t with gusts := rest }).observe (pathEvent t g (s.hopEnd t g).1)
      .next (s1.putTile u { s1.tile u with gusts := (s1.tile u).gusts ++ [⟨g.probe, g.hop + 1, g.left - 1, n.set, n⟩] })) := by
  simp only [exec_gustWalkHop, execGustWalkHop, hg, hd, hs, hh, Bool.not_true, Bool.false_eq_true, if_false]

theorem State.hopEnd_cube (hl : 2 ≤ g.note.last) : s.hopEnd t g = (2, none) := if_pos hl

/-- A walk asks the channel of the end that it stands at for the firing that made its token: the channel has forgotten it, the token came from
outside, or the producer keeps the firing's note. -/
theorem State.hopEnd_channel {e i u eo : Nat} {c : Chan} (hl : g.note.last < 2) (he : g.note.inEnd = some e) (hc : s.inChan t e = some (i, c))
    (hp : c.prod = .tile u eo) :
    (c.maker g.note.pops = none → s.hopEnd t g = (4, none)) ∧ (c.maker g.note.pops = some none → s.hopEnd t g = (5, none)) ∧
    (∀ key num n, c.maker g.note.pops = some (some (key, num)) →
      (((s.tile u).notes.look key).getD []).find? (fun n => n.num == num) = some n →
      s.hopEnd t g = if g.left ≤ 1 then (3, none) else (0, some (u, n))) := by
  have hl' : ¬ 2 ≤ g.note.last := by omega
  refine ⟨fun hm => ?_, fun hm => ?_, fun key num n hm hn => ?_⟩
  · simp only [State.hopEnd, if_neg hl', he, Option.bind_some, hc, hp, hm]
  · simp only [State.hopEnd, if_neg hl', he, Option.bind_some, hc, hp, hm]
  · simp only [State.hopEnd, if_neg hl', he, Option.bind_some, hc, hp, hm, hn]

end

/-! ### Tree SYNC -/

theorem execTreeSync_asked {s : State} {r : Nat} {x : Region} (hr : s.region? r = some x) (hs : x.st = .running) (hd : s.dbgObserve = true)
    (hst : ∀ t v, t ∈ x.tiles → s.syncSet t = some v → s.traceStalls (syncEvent t v.1 v.2 false) = false)
    (ha : (s.regionSets r).any (fun v => (v.2.2.trcctl).extractLsb' 24 8 != 0) = true) : exec (.treeSync r) s =
      .next (x.tiles.foldl (fun s t => s.treeSyncAt t (x.syncId + 1)) (s.modRegion r (fun y => { y with syncId := y.syncId + 1 }))) := by
  have hfree : x.tiles.findSome? (fun t => (s.syncSet t).bind (fun v =>
      if s.traceStalls (syncEvent t v.1 v.2 false) then some (t, v.1) else none)) = none := by
    rw [List.findSome?_eq_none_iff]
    intro t ht
    cases hv : s.syncSet t with
    | none => rfl
    | some v => simp [hst t v ht hv]
  simp only [exec_treeSync, execTreeSync, hr, hs, hd, ha, bne_self_eq_false, Bool.not_true, Bool.or_false, Bool.false_eq_true, if_false, hfree]

theorem execTreeSync_unasked {s : State} {r : Nat} {x : Region} (hr : s.region? r = some x)
    (ha : (s.regionSets r).any (fun v => (v.2.2.trcctl).extractLsb' 24 8 != 0) = false) : exec (.treeSync r) s = .next s := by
  simp only [exec_treeSync, execTreeSync, hr, ha, Bool.not_false, Bool.or_true, if_true]

/-! ### Replay divergence and PERTURB -/

/-- An element that is held to its log, runs and could choose diverges exactly when the logged choice is not among its choices. -/
theorem execReplayDiverge_able {s : State} {t kind elem : Nat} {w : Double} (hw : s.hindLook t kind elem = some w)
    (hm : s.rplMode t = .strict ∨ s.rplMode t = .advisory) (hh : s.halting t = false) (hr : s.runs t = true)
    (ha : (s.chooser t kind elem).able = true) : exec (.replayDiverge t kind elem) s =
      if (s.chooser t kind elem).choices.contains w then .next s
      else
        let c := s.chooser t kind elem
        .next (s.diverge t c.set c.blk kind elem c.elem c.node c.invoc w 2) := by
  rw [exec_replayDiverge]
  cases hc : (s.chooser t kind elem).choices.contains w <;> rcases hm with hm | hm <;>
    simp only [execReplayDiverge, hw, hm, hh, hr, ha, hc, Bool.not_false, Bool.not_true, Bool.and_true, Bool.and_false, Bool.false_eq_true,
      if_false, if_true]

theorem execPerturbRead_clears {s : State} {t o : Nat} {v : SetState} (hv : s.set? t o = some v) :
    exec (.perturbRead t o) s = .next (s.modSet t o (fun v => { v with regs := { v.regs with perturb := 0 } })) := by
  obtain ⟨p, hp, hl⟩ : ∃ p, (s.tile t).active = some p ∧ p.sets.look o = some v := Option.bind_eq_some_iff.mp hv
  have hq : (s.tile t).plane? 0 = some p := hp
  simp only [exec_perturbRead, execPerturbRead, State.sregReadClears, State.modRegs, State.modTset, State.tplane?, tgt, hq, hl, State.putTplane,
    State.modSet, hv, State.putSet, hp]
  rfl

/-- Settles O47: each event of tracing by its branches. -/
theorem traceEvents : Obligations.TraceEvents := by
  unfold Obligations.TraceEvents
  refine ⟨fun s t o v rest k ks hd hl hs h => execDriftDrain_cases hd hl hs h, fun s t g rest hg => ⟨execGustWalkHop_hidden hg,
      execGustWalkHop_stalls hg, execGustWalkHop_ends hg, fun u n => execGustWalkHop_goesOn hg, State.hopEnd_cube,
      fun e i c u hl he hc ⟨eo, hp⟩ => State.hopEnd_channel hl he hc hp⟩,
    fun s r x hr hs hd hst => ⟨execTreeSync_asked hr hs hd hst, execTreeSync_unasked hr⟩, ?_, fun s t o v => execPerturbRead_clears⟩
  intro s t kind elem w c hw hm hh hr ha
  rw [execReplayDiverge_able hw hm hh hr ha]
  exact ⟨fun hc => if_neg (ne_true_of_eq_false hc), fun hc => if_pos hc⟩

end Sys2Proof.Machine
end

section
/-! SUPPORT. Scrubs, repairs and alerts of device memory (O37), and key commands and checkpoints (O43). -/
namespace Sys2Proof.Machine

/-! ### Scrubbing (R27, R29, R240) -/

section
variable {s : State} {line : Nat}

theorem State.poisonLine_poisoned (h : s.linePoison line = true) : s.poisonLine line = s := if_pos h

theorem State.poisonLine_clean (h : s.linePoison line = false) : ∃ row bank, s.poisonLine line =
    { s with poison := NSet.add s.poison line }.logEvent 3 false row bank (chanOf (line * 64)) :=
  ⟨_, _, if_neg (ne_true_of_eq_false h)⟩

theorem State.corrected_counts {n : Nat} (h : ¬ (SMap.get 0 s.corr n + 1) % 4096 = 0) :
    s.corrected n = { s with corr := SMap.put 0 s.corr n (SMap.get 0 s.corr n + 1) } := if_neg h

theorem State.corrected_logs {n : Nat} (h : (SMap.get 0 s.corr n + 1) % 4096 = 0) :
    s.corrected n = { s with corr := SMap.put 0 s.corr n (SMap.get 0 s.corr n + 1) }.logEvent 2 false 0 0 n := if_pos h

/-- A line of device memory in a bank that is not held is scrubbed: nothing found, an error corrected, or an error that the code cannot correct. -/
theorem execPatrolScrub_reaches (hl : line * 64 < devEnd) (hb : s.bankHeld (line * 64) = false) :
    exec (.patrolScrub line none) s = .next s ∧
    exec (.patrolScrub line (some true)) s = .next (s.corrected (chanOf (line * 64))) ∧
    exec (.patrolScrub line (some false)) s = .next (s.poisonLine line) := by
  have hg : (decide (devEnd ≤ line * 64) || s.bankHeld (line * 64)) = false :=
    Bool.or_eq_false_iff.mpr ⟨decide_eq_false (Nat.not_le.mpr hl), hb⟩
  simp only [exec_patrolScrub, execPatrolScrub, hg, Bool.false_eq_true, if_false, and_self]

theorem execPatrolScrub_uncorrectable (hl : line * 64 < devEnd) (hb : s.bankHeld (line * 64) = false) (hp : s.linePoison line = false) :
    ∃ row bank, exec (.patrolScrub line (some false)) s =
      .next ({ s with poison := NSet.add s.poison line }.logEvent 3 false row bank (chanOf (line * 64))) := by
  obtain ⟨-, -, hx⟩ := execPatrolScrub_reaches hl hb
  obtain ⟨row, bank, he⟩ := State.poisonLine_clean hp
  exact ⟨row, bank, by rw [hx, he]⟩

theorem execStorageScrub_uncorrectable {t off : Nat} {u : Unit5} (ht : t < 768) (ho : off < unitSize u)
    (hp : (s.tile t).unitPoison u off = false) :
    exec (.storageScrub t u off (some false)) s = .next ((s.putTile t ((s.tile t).poisonUnit u off)).latent t u off) := by
  simp only [exec_storageScrub, execStorageScrub, hp, decide_eq_false (Nat.not_le.mpr ho), decide_eq_false (Nat.not_le.mpr ht), Bool.or_self,
    Bool.false_eq_true, if_false]

/-! ### Repair and health (R22, R36, R41) -/

theorem execChannelRetire_retires {n : Nat} (hn : n < 384) (hr : NSet.has s.cfg.retired n = false) : exec (.channelRetire n) s =
    .next (((s.modCfg (fun c => { c with retired := NSet.add c.retired n, narrowed := NSet.drop c.narrowed n })).channelEvent n 5).unitHw n 7) := by
  simp only [exec_channelRetire, execChannelRetire, hr, decide_eq_false (Nat.not_le.mpr hn), Bool.or_self, Bool.false_eq_true, if_false]

theorem execChannelNarrow_narrows {n : Nat} (hn : n < 384) (hr : NSet.has s.cfg.retired n = false) (hw : NSet.has s.cfg.narrowed n = false) :
    exec (.channelNarrow n) s = .next ((s.modCfg (fun c => { c with narrowed := NSet.add c.narrowed n })).channelEvent n 4) := by
  simp only [exec_channelNarrow, execChannelNarrow, hr, hw, decide_eq_false (Nat.not_le.mpr hn), Bool.or_self, Bool.false_eq_true, if_false]

theorem execTileHealthClear_clears {t : Nat} (ht : t < 768) (hh : s.cfg.healthy t = true) : exec (.tileHealthClear t) s =
    .next (s.modCfg (fun c => { c with health := SMap.put true c.health t false, gridGen := c.gridGen + 1 })) := by
  simp only [exec_tileHealthClear, execTileHealthClear, hh, decide_eq_false (Nat.not_le.mpr ht), Bool.not_true, Bool.or_self,
    Bool.false_eq_true, if_false]

theorem execCxlLinkDown_drops {p : Nat} (hp : p < 8) (hu : s.cfg.tierUp.getLsbD p = true) : exec (.cxlLinkDown p) s =
    .next (s.modCfg (fun c => { c with tierUp := setBit c.tierUp p false, tierGen := c.tierGen + 1 })) := by
  simp only [exec_cxlLinkDown, execCxlLinkDown, hu, decide_eq_false (Nat.not_le.mpr hp), Bool.not_true, Bool.or_self, Bool.false_eq_true,
    if_false]

/-! ### Alerts (R33) -/

/-- An alert holds its bank and is logged; a unit that it names as its source may pause. -/
theorem execActivationAlert_holds {n bank : Nat} (hb : bank < 32) : ∃ row,
    let logged (bsu : Bool) : State := { s with holds := NSet.add s.holds (n * 32 + bank) }.logEvent 1 bsu row bank n
    exec (.activationAlert n bank false) s = .next (logged false) ∧
    exec (.activationAlert n bank true) s = .next ((logged true).alertUnit n (s.free 10)) := by
  refine ⟨(s.free 34).extractLsb' 0 32, ?_⟩
  simp only [exec_activationAlert, execActivationAlert, Nat.mod_eq_of_lt hb, Bool.false_eq_true, if_false, if_true, and_self]

theorem execMitigationEnd_releases {n bank : Nat} (hb : bank < 32) :
    exec (.mitigationEnd n bank) s = .next { s with holds := NSet.drop s.holds (n * 32 + bank) }.flushRings := by
  rw [exec_mitigationEnd, execMitigationEnd, Nat.mod_eq_of_lt hb]

end

/-- Settles O37: each event by the branch of its own lemma. -/
theorem memoryHealthEvents : Obligations.MemoryHealthEvents := by
  unfold Obligations.MemoryHealthEvents
  refine ⟨fun s line hl hb => ?_, fun s t off u ht ho hp => ⟨execStorageScrub_uncorrectable ht ho hp, rfl, rfl⟩,
    fun s n hn hr => ⟨execChannelRetire_retires hn hr, execChannelNarrow_narrows hn hr⟩, fun s t => execTileHealthClear_clears,
    fun s p => execCxlLinkDown_drops, fun s n bank hb => ?_⟩
  · obtain ⟨hnone, hcorrectable, huncorrectable⟩ := execPatrolScrub_reaches hl hb
    refine ⟨hnone, fun hc => ?_, fun hc => ?_, fun hp => ?_, execPatrolScrub_uncorrectable hl hb⟩
    · rw [hcorrectable, State.corrected_counts hc]
    · rw [hcorrectable, State.corrected_logs hc]
    · rw [huncorrectable, State.poisonLine_poisoned hp]
  · obtain ⟨row, hplain, hunit⟩ := execActivationAlert_holds (s := s) (n := n) hb
    exact ⟨⟨row, hplain⟩, ⟨row, s.free 10, hunit⟩, execMitigationEnd_releases hb⟩

/-! ### Key commands (R31, R32) -/

theorem keyWord_op (op : BitVec 2) (k : BitVec 12) : (keyWord op k).extractLsb' 56 2 = op := by
  refine BitVec.eq_of_getLsbD_eq fun i hi => ?_
  have hkey : ¬ 56 + i < 12 := by omega
  have hgap : ¬ 56 + i - 12 < 44 := by omega
  have hop : 56 + i - 12 - 44 = i := by omega
  simp only [keyWord, BitVec.getLsbD_extractLsb', BitVec.getLsbD_append, hi, hkey, hgap, hop, decide_true, Bool.true_and, if_true, if_false]

theorem keyWord_keyid (op : BitVec 2) (k : BitVec 12) : (keyWord op k).extractLsb' 0 12 = k := by
  refine BitVec.eq_of_getLsbD_eq fun i hi => ?_
  simp only [keyWord, BitVec.getLsbD_extractLsb', BitVec.getLsbD_append, Nat.zero_add, hi, decide_true, Bool.true_and, if_true]

/-- Bit 62, which clears ERR, lies in the zero bits above OP. -/
theorem keyWord_err (op : BitVec 2) (k : BitVec 12) : (keyWord op k).getLsbD 62 = false := by
  simp only [keyWord, BitVec.getLsbD_append]
  rfl

section
variable {s : State} {w : Double}

theorem State.modCfg_fixed {f : Regs → Regs} (h : f s.cfg = s.cfg) : s.modCfg f = s := by rw [State.modCfg, h]

theorem State.writeKeycmd_off (hp : s.cfg.pwr = 3) (w : Double) : (s.writeKeycmd w).1 = s := by simp [State.writeKeycmd, hp]

theorem State.keyCommand_starts {op : BitVec 2} {k : BitVec 12} (hb : s.cfg.keyBusy = false) (hc : s.cfg.ckptBusy = false) (hk : k ≠ 0)
    (ho : op ≠ 3) (hd : s.cfg.keyData1 ≠ s.cfg.keyData2) : s.keyCommand op k = some ((s.dropKey k).modCfg (fun c => { c with
      keyBusy := true, keyId := k, keyAct := k, keyPend := if op == 1 then some (c.keyData1, c.keyData2) else none })) := by
  simp only [State.keyCommand, hb, hc, beq_false_of_ne hk, beq_false_of_ne ho, beq_false_of_ne hd, Bool.or_self, Bool.false_eq_true, if_false]

theorem State.keyCommand_refused {k : BitVec 12} (h : s.cfg.keyBusy = true ∨ s.cfg.ckptBusy = true ∨ k = 0 ∨ s.cfg.keyData1 = s.cfg.keyData2)
    (op : BitVec 2) : s.keyCommand op k = none := by
  refine if_pos ?_
  rcases h with h | h | h | h <;> simp [h]

/-- A command that KEYCMD is written with leaves ERR as it is if it starts, and sets it if it is refused. -/
theorem State.writeKeycmd_command {op : BitVec 2} (hp : s.cfg.pwr ≠ 3) (ho : op ≠ 0) (k : BitVec 12) : (s.writeKeycmd (keyWord op k)).1 =
    (s.keyCommand op k).getD (s.modCfg (fun c => { c with keyErr := true })) := by
  have hs : s.modCfg (fun c => { c with keyErr := c.keyErr && !(keyWord op k).getLsbD 62 }) = s :=
    State.modCfg_fixed (by rw [keyWord_err, Bool.not_false, Bool.and_true])
  simp only [State.writeKeycmd, State.pwr_beq_off hp, hs, keyWord_op, keyWord_keyid, beq_false_of_ne ho, Bool.false_eq_true, if_false]
  cases s.keyCommand op k <;> rfl

theorem execKeyCommand_starts {k : BitVec 12} (hp : s.cfg.pwr ≠ 3) (hb : s.cfg.keyBusy = false) (hc : s.cfg.ckptBusy = false) (hk : k ≠ 0)
    (hd : s.cfg.keyData1 ≠ s.cfg.keyData2) :
    exec (.keyLoad k) s = .next ((s.dropKey k).modCfg (fun c =>
      { c with keyBusy := true, keyId := k, keyAct := k, keyPend := some (c.keyData1, c.keyData2) })) ∧
    exec (.keyInvalidate k) s = .next ((s.dropKey k).modCfg (fun c =>
      { c with keyBusy := true, keyId := k, keyAct := k, keyPend := none })) := by
  constructor
  · rw [exec_keyLoad, execKeyLoad, State.writeKeycmd_command hp (by decide), State.keyCommand_starts hb hc hk (by decide) hd]
    rfl
  · rw [exec_keyInvalidate, execKeyInvalidate, State.writeKeycmd_command hp (by decide), State.keyCommand_starts hb hc hk (by decide) hd]
    rfl

theorem execKeyCommand_refused {k : BitVec 12} (hp : s.cfg.pwr ≠ 3)
    (h : s.cfg.keyBusy = true ∨ s.cfg.ckptBusy = true ∨ k = 0 ∨ s.cfg.keyData1 = s.cfg.keyData2) :
    exec (.keyLoad k) s = .next (s.modCfg (fun c => { c with keyErr := true })) ∧
    exec (.keyInvalidate k) s = .next (s.modCfg (fun c => { c with keyErr := true })) := by
  rw [exec_keyLoad, execKeyLoad, State.writeKeycmd_command hp (by decide), State.keyCommand_refused h, exec_keyInvalidate, execKeyInvalidate,
    State.writeKeycmd_command hp (by decide), State.keyCommand_refused h]
  exact ⟨rfl, rfl⟩

/-- A key command ends: its old pair is forgotten, the pair to load is installed, and the key data are cleared. -/
theorem execKeyCommandComplete_ends (hb : s.cfg.keyBusy = true) (hu : s.keyInUse s.cfg.keyAct = false) : exec .keyCommandComplete s =
    .next { s with
      oldKeys := s.oldKeys.erase s.cfg.keyAct.toNat,
      keys := (match s.cfg.keyPend with
        | some p => s.keys.insert s.cfg.keyAct.toNat (p.2 ++ p.1)
        | none => s.keys),
      cfg := { s.cfg with keyBusy := false, keyPend := none, keyData1 := 0, keyData2 := 0 } } :=
  congrArg Host.Outcome.next (if_neg (by simp [hb, hu]))

theorem execKeyCommandComplete_waits (h : s.cfg.keyBusy = false ∨ s.keyInUse s.cfg.keyAct = true) : exec .keyCommandComplete s = .next s := by
  refine congrArg Host.Outcome.next (if_pos ?_)
  rcases h with h | h <;> simp [h]

/-! ### Checkpoints (R42, R43, R45) -/

theorem State.writeCkptctl_off (hp : s.cfg.pwr = 3) (w : Double) : (s.writeCkptctl w).1 = s := by simp [State.writeCkptctl, hp]

/-- The words that start a save and a restore leave DONE and ERR of the operation before. -/
theorem State.modCfg_ckptctl_kept (hw : w = 1 ∨ w = 2) :
    s.modCfg (fun c => { c with ckptDone := c.ckptDone && !w.getLsbD 62, ckptErr := c.ckptErr && !w.getLsbD 61 }) = s := by
  obtain ⟨hdone, herr⟩ : w.getLsbD 62 = false ∧ w.getLsbD 61 = false := by rcases hw with rfl | rfl <;> decide
  exact State.modCfg_fixed (by rw [hdone, herr, Bool.not_false, Bool.and_true, Bool.and_true])

/-- The words that start a save and a restore hold an operation. -/
theorem ckptctl_op (hw : w = 1 ∨ w = 2) : (w.extractLsb' 0 2 == 0 || w.extractLsb' 0 2 == 3) = false := by
  rcases hw with rfl | rfl <;> decide

theorem State.writeCkptctl_starts (hp : s.cfg.pwr ≠ 3) (hw : w = 1 ∨ w = 2) (h : s.ckptRefusal = none) : (s.writeCkptctl w).1 =
    s.modCfg (fun c => { c with ckptBusy := true, ckptRestore := w.extractLsb' 0 2 == 2, ckptProgress := 0 }) := by
  simp only [State.writeCkptctl, State.modCfg_ckptctl_kept hw, State.pwr_beq_off hp, ckptctl_op hw, h, Bool.false_eq_true, if_false]

theorem State.writeCkptctl_refused {e : BitVec 8} (hp : s.cfg.pwr ≠ 3) (hw : w = 1 ∨ w = 2) (h : s.ckptRefusal = some e) :
    (s.writeCkptctl w).1 = s.modCfg (fun c => { c with ckptErr := true, ckptEcode := e }) := by
  simp only [State.writeCkptctl, State.modCfg_ckptctl_kept hw, State.pwr_beq_off hp, ckptctl_op hw, h, Bool.false_eq_true, if_false]

theorem execCheckpoint_starts (hp : s.cfg.pwr ≠ 3) (h : s.ckptRefusal = none) :
    exec .checkpointSave s = .next (s.modCfg (fun c => { c with ckptBusy := true, ckptRestore := false, ckptProgress := 0 })) ∧
    exec .checkpointRestore s = .next (s.modCfg (fun c => { c with ckptBusy := true, ckptRestore := true, ckptProgress := 0 })) :=
  ⟨congrArg Host.Outcome.next (State.writeCkptctl_starts hp (.inl rfl) h), congrArg Host.Outcome.next (State.writeCkptctl_starts hp (.inr rfl) h)⟩

theorem execCheckpoint_refused {e : BitVec 8} (hp : s.cfg.pwr ≠ 3) (h : s.ckptRefusal = some e) :
    exec .checkpointSave s = .next (s.modCfg (fun c => { c with ckptErr := true, ckptEcode := e })) ∧
    exec .checkpointRestore s = .next (s.modCfg (fun c => { c with ckptErr := true, ckptEcode := e })) :=
  ⟨congrArg Host.Outcome.next (State.writeCkptctl_refused hp (.inl rfl) h), congrArg Host.Outcome.next (State.writeCkptctl_refused hp (.inr rfl) h)⟩

theorem execCheckpointDone_waits (h : s.cfg.ckptBusy = false ∨ s.holds ≠ []) : exec .checkpointDone s = .next s := by
  refine congrArg Host.Outcome.next (if_pos ?_)
  rcases h with h | h <;> simp [h]

theorem execCheckpointDone_ends (hb : s.cfg.ckptBusy = true) (hh : s.holds = []) (hm : s.cfg.persistRange s.cfg.ckptAddr (1539 * gib) = true) :
    exec .checkpointDone s = .next ((if s.cfg.ckptRestore then s.restoreAll s.cfg.ckptAddr (fun _ => true)
      else s.saveAll s.cfg.ckptAddr (fun _ => true)).modCfg (fun c =>
        { c with ckptBusy := false, ckptDone := true, ckptProgress := 1536 })) := by
  simp only [exec_checkpointDone, execCheckpointDone, State.ckptFinish, hb, hh, hm, List.isEmpty_nil, Bool.not_true, Bool.or_self,
    Bool.false_eq_true, if_false, if_true]

/-- A checkpoint whose memory is no longer there ends with ERR and code 3, whatever it has copied. -/
theorem execCheckpointDone_fails (hb : s.cfg.ckptBusy = true) (hh : s.holds = [])
    (hm : s.cfg.persistRange s.cfg.ckptAddr (1539 * gib) = false) :
    ∃ t, exec .checkpointDone s = .next t ∧ t.cfg.ckptBusy = false ∧ t.cfg.ckptErr = true ∧ t.cfg.ckptEcode = 3 := by
  simp only [exec_checkpointDone, execCheckpointDone, State.ckptFinish, hb, hh, hm, List.isEmpty_nil, Bool.not_true, Bool.or_self,
    Bool.false_eq_true, if_false]
  exact ⟨_, rfl, rfl, rfl, rfl⟩

/-! ### With the power off (R273) -/

theorem execKeyAndCheckpoint_off (hp : s.cfg.pwr = 3) (k : BitVec 12) : exec (.keyLoad k) s = .next s ∧ exec (.keyInvalidate k) s = .next s ∧
    exec .checkpointSave s = .next s ∧ exec .checkpointRestore s = .next s :=
  ⟨congrArg Host.Outcome.next (State.writeKeycmd_off hp _), congrArg Host.Outcome.next (State.writeKeycmd_off hp _),
    congrArg Host.Outcome.next (State.writeCkptctl_off hp _), congrArg Host.Outcome.next (State.writeCkptctl_off hp _)⟩

end

/-- Settles O43: a command's word acts by the rule of its register, and an operation's end by its branches. -/
theorem keyAndCheckpointEvents : Obligations.KeyAndCheckpointEvents := by
  unfold Obligations.KeyAndCheckpointEvents
  exact ⟨fun s k hp => execKeyAndCheckpoint_off hp k,
    fun s k hp => ⟨execKeyCommand_starts hp, execKeyCommand_refused hp⟩,
    fun s => ⟨execKeyCommandComplete_ends, execKeyCommandComplete_waits⟩,
    fun s => ⟨execCheckpoint_starts, fun e => execCheckpoint_refused, execCheckpointDone_waits, execCheckpointDone_ends,
      execCheckpointDone_fails⟩⟩

end Sys2Proof.Machine
end

section
/-! SUPPORT. Invalidations and the service of translation faults (O44). -/
namespace Sys2Proof.Machine

/-! ### The word of XINVCMD (R55) -/

section
variable (op : BitVec 3) (key : BitVec 12) (asid : BitVec 16)

theorem xinvWord_op : (xinvWord op key asid).extractLsb' 56 3 = op := by
  rw [xinvWord, BitVec.extractLsb'_append_eq_of_le (by decide), BitVec.extractLsb'_append_eq_of_le (by decide),
    BitVec.extractLsb'_append_eq_of_le (by decide)]
  exact BitVec.extractLsb'_append_eq_right

theorem xinvWord_key : (xinvWord op key asid).extractLsb' 44 12 = key := by
  rw [xinvWord, BitVec.extractLsb'_append_eq_of_le (by decide), BitVec.extractLsb'_append_eq_of_le (by decide)]
  exact BitVec.extractLsb'_append_eq_right

theorem xinvWord_asid : (xinvWord op key asid).extractLsb' 0 16 = asid := BitVec.extractLsb'_append_eq_right

/-- Bit 62, which clears ERR, lies in the zero bits above OP. -/
theorem xinvWord_err : (xinvWord op key asid).getLsbD 62 = false := by
  simp only [xinvWord, BitVec.getLsbD_append]
  rfl

end

/-! ### The registers of a set of the active plane -/

section
variable {s : State} {t o : Nat} {v : SetState}

theorem State.tset?_tgt (hv : s.set? t o = some v) : s.tset? (tgt t o) = some v := by
  obtain ⟨p, hp, hl⟩ : ∃ p, (s.tile t).active = some p ∧ p.sets.look o = some v := Option.bind_eq_some_iff.mp hv
  have hq : (s.tile t).plane? 0 = some p := hp
  simp only [State.tset?, State.tplane?, tgt, hq, Option.bind_some, hl]

theorem State.modRegs_tgt (hv : s.set? t o = some v) (f : SetRegs → SetRegs) :
    s.modRegs (tgt t o) f = s.modSet t o (fun v => { v with regs := f v.regs }) := by
  obtain ⟨p, hp, hl⟩ : ∃ p, (s.tile t).active = some p ∧ p.sets.look o = some v := Option.bind_eq_some_iff.mp hv
  have hq : (s.tile t).plane? 0 = some p := hp
  simp only [State.modRegs, State.modTset, State.tplane?, tgt, hq, hl, State.putTplane, State.modSet, hv, State.putSet, hp]
  rfl

theorem State.modSet_congr {f g : SetState → SetState} (hv : s.set? t o = some v) (h : f v = g v) : s.modSet t o f = s.modSet t o g := by
  simp only [State.modSet, hv, h]

/-! ### Commands of XINVCMD -/

theorem State.set?_invalidate (op : BitVec 3) (key : BitVec 12) (asid : BitVec 16) (va : Nat) :
    (s.invalidate op key asid va).set? t o = s.set? t o := by
  unfold State.invalidate
  split <;> rfl

/-- The word of an invalidation leaves ERR of the command before. -/
theorem State.modRegs_xinvWord_err (hv : s.set? t o = some v) (op : BitVec 3) (key : BitVec 12) (asid : BitVec 16) :
    s.modRegs (tgt t o) (fun x => { x with xinvErr := x.xinvErr && !(xinvWord op key asid).getLsbD 62 }) = s := by
  rw [State.modRegs_tgt hv]
  exact State.modSet_self fun v _ => by rw [xinvWord_err, Bool.not_false, Bool.and_true]

section
variable {op : BitVec 3} (hv : s.set? t o = some v) (h0 : op ≠ 0) (key : BitVec 12) (asid : BitVec 16)
include hv h0

theorem State.writeXinvcmd_starts (h4 : op.toNat ≤ 4) (hb : v.regs.xinvBusy = false) : (s.writeXinvcmd (tgt t o) (xinvWord op key asid)).1 =
    (s.invalidate op key asid v.regs.xinvAddr.toNat).modSet t o (fun v => { v with regs := { v.regs with
      xinvBusy := true, xinvKeyid := key, xinvAsid := asid,
      xinvWait := s.translated (if op == 2 || op == 3 then some asid else none) } }) := by
  have hi : (s.invalidate op key asid v.regs.xinvAddr.toNat).set? t o = some v := (State.set?_invalidate _ _ _ _).trans hv
  simp only [State.writeXinvcmd, State.modRegs_xinvWord_err hv, State.tset?_tgt hv, xinvWord_op, xinvWord_key, xinvWord_asid, Option.map_some,
    Option.getD_some, beq_false_of_ne h0, hb, decide_eq_false (Nat.not_lt.mpr h4), Bool.or_self, Bool.false_eq_true, if_false,
    State.modRegs_tgt hi]

theorem State.writeXinvcmd_busy (hb : v.regs.xinvBusy = true) : (s.writeXinvcmd (tgt t o) (xinvWord op key asid)).1 =
    s.modSet t o (fun v => { v with regs := { v.regs with xinvErr := true } }) := by
  simp only [State.writeXinvcmd, State.modRegs_xinvWord_err hv, State.tset?_tgt hv, xinvWord_op, Option.map_some, Option.getD_some,
    beq_false_of_ne h0, hb, Bool.or_true, Bool.false_eq_true, if_false, if_true, State.modRegs_tgt hv]

end

/-- An invalidation whose earlier accesses have all been performed is over. -/
theorem execInvalidationComplete_ends (hv : s.set? t o = some v) (hb : v.regs.xinvBusy = true) (hw : v.regs.xinvWait.all s.done = true) :
    exec (.invalidationComplete t o) s =
      .next (s.modSet t o (fun v => { v with regs := { v.regs with xinvBusy := false, xinvWait := [] } })) := by
  rw [exec_invalidationComplete, execInvalidationComplete, State.xinvDone, State.modRegs_tgt hv]
  exact congrArg Host.Outcome.next (State.modSet_congr hv (by simp only [hb, hw, Bool.and_self, if_true]))

theorem execXfsvcWrite_drops (hv : s.set? t o = some v) (w : Double) :
    exec (.xfsvcWrite t o w) s = .next { s with coal := s.coal.filter (fun c =>
      !(c.asid == xctxAsid v.regs.xctx && c.vpn == (w.extractLsb' 16 40).toNat && c.wr == w.getLsbD 0)) } := by
  simp only [exec_xfsvcWrite, execXfsvcWrite, State.writeXfsvc, State.tset?_tgt hv]

end

/-- Settles O44: what each command drops is the branch of its OP. -/
theorem translationControlEvents : Obligations.TranslationControlEvents := by
  unfold Obligations.TranslationControlEvents
  intro s t o v hv
  dsimp only
  refine ⟨fun hb => ?_, fun hb => ?_, execXfsvcWrite_drops hv⟩
  · have starts {op : BitVec 3} (h0 : op ≠ 0) (h4 : op.toNat ≤ 4) (key : BitVec 12) (asid : BitVec 16) :=
      congrArg (Host.Outcome.next (φ := Fault) (ρ := Refusal)) (State.writeXinvcmd_starts hv h0 key asid h4 hb)
    exact ⟨starts (op := 1) (by decide) (by decide) 0 0, starts (op := 2) (by decide) (by decide) 0,
      starts (op := 3) (by decide) (by decide) 0, fun k => starts (op := 4) (by decide) (by decide) k 0⟩
  · have busy {op : BitVec 3} (h0 : op ≠ 0) (key : BitVec 12) (asid : BitVec 16) :=
      congrArg (Host.Outcome.next (φ := Fault) (ρ := Refusal)) (State.writeXinvcmd_busy hv h0 key asid hb)
    exact ⟨busy (op := 1) (by decide) 0 0, busy (op := 2) (by decide) 0, busy (op := 3) (by decide) 0,
      fun k => busy (op := 4) (by decide) k 0, execInvalidationComplete_ends hv hb⟩

end Sys2Proof.Machine
end

section
/-! SUPPORT. Walks, the caches of leaves, and the acceptance of an atomic (O26). -/
namespace Sys2Proof.Machine

/-! ### Walks and the caches that they fill (R50, R52) -/

theorem State.doWalk_open {s : State} {id : Nat} {w : Walk} (hl : SMap.look s.walks id = some w) (hr : w.res = none) :
    let r := s.walkFrom w.die w.asid w.va 4 0 (xctxRoot w.xctx) []
    s.doWalk id = match r.1 with
      | .error none => s
      | .error (some f) => { s with walks := s.walks.insert id { w with res := some f } }.cacheEntries w.die r.2
      | .ok (e, level) =>
        let base := w.va / 2 ^ pageBits level * 2 ^ pageBits level
        ((w.waiters.flatMap (fun x => (s.cachesOf x.tile x.set).map (fun k => (⟨k, w.asid, base, level, e⟩ : Xlat)))).foldl State.cacheLeaf
          { s with walks := s.walks.erase id }).cacheEntries w.die r.2 := by
  have hi : w.res.isSome = false := by rw [hr, Option.isSome_none]
  dsimp only
  simp only [State.doWalk, hl, hi, Bool.false_eq_true, if_false]
  rcases s.walkFrom w.die w.asid w.va 4 0 (xctxRoot w.xctx) [] with ⟨(_ | f) | ⟨e, level⟩, seen⟩ <;> rfl

/-- The pass that drops the surplus of a list keeps every element when there is none. -/
theorem foldl_keepLast_none {α : Type} (p : α → Bool) (l acc : List α) :
    (l.foldl (fun (a : List α × Nat) x => if p x && a.2 < (0 : Nat) then (a.1, a.2 + 1) else (a.1 ++ [x], a.2)) (acc, 0)).1 = acc ++ l := by
  induction l generalizing acc with
  | nil => exact (List.append_nil acc).symm
  | cons x l ih => simpa using ih (acc ++ [x])

/-- A list that holds no more than its capacity is kept whole. -/
theorem keepLast_of_le {α : Type} {p : α → Bool} {n : Nat} {l : List α} (h : (l.filter p).length ≤ n) : keepLast p n l = l := by
  simp only [keepLast, Nat.sub_eq_zero_of_le h]
  exact foldl_keepLast_none p l []

theorem State.cacheLeaf_known {s : State} {x : Xlat} (h : s.xlat.contains x = true) : s.cacheLeaf x = s := if_pos h

theorem State.cacheLeaf_room {s : State} {x : Xlat} (h : s.xlat.contains x = false)
    (hc : (s.xlat.filter (fun y => y.at' == x.at')).length < x.at'.capacity) : s.cacheLeaf x = { s with xlat := s.xlat ++ [x] } := by
  have hk : ((s.xlat ++ [x]).filter (fun y => y.at' == x.at')).length ≤ x.at'.capacity := by
    simpa [List.filter_append] using hc
  simp only [State.cacheLeaf, h, Bool.false_eq_true, if_false, keepLast_of_le hk]

/-! ### What a change of a set leaves of its tile -/

theorem State.atomQ_modSet {s : State} (h : s.canon = true) (t o : Nat) (f : SetState → SetState) :
    ((s.modSet t o f).tile t).atomQ = (s.tile t).atomQ := by
  unfold State.modSet
  split
  · unfold State.putSet
    split
    · rw [State.tile_putTile_same h]
    · rfl
  · rfl

theorem State.putTile_self {s : State} {t : Nat} (h : s.tile t ≠ Tile.reset) : s.putTile t (s.tile t) = s := by
  have hl : SMap.look s.tiles t = some (s.tile t) := by
    unfold State.tile SMap.get at h ⊢
    cases hl : SMap.look s.tiles t with
    | none => exact absurd (by rw [hl]; rfl) h
    | some x => rfl
  simp only [State.putTile, SMap.put, h, if_false, SMap.insert_listed hl]

/-! ### The acceptance of an atomic (R95) -/

section
variable {s : State} {t i : Nat} {a : Access}

theorem State.pipeAge_unaccepted {new : Double} (hq : (s.tile t).atomQ = [⟨i, none, new⟩]) : s.pipeAge t = s := by
  have hne : s.tile t ≠ Tile.reset := fun e => by rw [e] at hq; cases hq
  have hsame : { s.tile t with atomQ := [⟨i, none, new⟩] } = s.tile t := by rw [← hq]
  refine Eq.trans ?_ (State.putTile_self hne)
  simp only [State.pipeAge, hq]
  exact congrArg (s.putTile t) hsame

theorem State.atomWaiting_one {new : Double} (hq : (s.tile t).atomQ = [⟨i, none, new⟩]) (hl : SMap.look s.accs i = some a) :
    s.atomWaiting t = [(i, a)] := by
  simp [State.atomWaiting, hq, hl]

/-- A request that has been accepted does not wait for it any more. -/
theorem State.atomNext_accepted {k : Nat} {new : Double} (hq : (s.tile t).atomQ = [⟨i, some k, new⟩]) : s.atomNext t = .none := by
  have hw : s.atomWaiting t = [] := by simp [State.atomWaiting, hq]
  have hp : State.atomNext.pick s t [] = .none := by
    unfold State.atomNext.pick
    split <;> rfl
  simp only [State.atomNext, hw, hp]
  split <;> rfl

theorem State.atomNext_oldest {q : List (Nat × Access)} (hr : s.rplMode t = .off) (h : s.atomWaiting t = (i, a) :: q) :
    s.atomNext t = .one i a := by
  simp only [State.atomNext, hr, h]

theorem State.atomReady_free (h : a.after = []) : s.atomReady t a = true := by simp [State.atomReady, h]

theorem State.portOf_set (h : a.set ≠ portSet) : s.portOf a = none := by simp [State.portOf, h]


theorem State.countPort_set (h : a.set ≠ portSet) : s.countPort t a = s := by simp only [State.countPort, State.portOf_set h]

theorem State.takePort_set (h : a.set ≠ portSet) : s.takePort t a = s := by simp only [State.takePort, State.portOf_set h]

theorem State.pipeMem_unaccepted {new : Double} (hq : (s.tile t).atomQ = [⟨i, none, new⟩]) : s.pipeMem t = (s.tile t).mem := by
  simp [State.pipeMem, hq]

/-- An atomic whose checks pass and that no request in the pipeline comes before: the memory's value is the answer. -/
theorem State.acceptAtom_alone {op : AtomOp} {ty : ATy} {cmp : Double} {ret : Bool} (hs : s.canon = true)
    (hq : (s.tile t).atomQ = [⟨i, none, 0⟩]) (hk : a.kind = .atom op ty cmp ret) (hn : a.after = []) (hp : a.set ≠ portSet)
    (hc : tileCheck (s.tile t) a.tileAddr a.bytes true true = none) :
    let old : Double := BitVec.ofNat 64 (Memory.readLE (s.tile t).mem a.tileAddr a.bytes)
    let r := atomNew op ty old a.data cmp
    let s0 := s.modSet t a.set (fun v => { v with atomCount := v.atomCount + 1 })
    let s1 := (s0.putTile t { s0.tile t with atomQ := [⟨i, some 0, r.1⟩] }).modSet t a.set (fun v =>
      v.reply i old (if a.checked then Exc.none else r.2))
    s.acceptAtom t i a = { s1 with accs := s1.accs.insert i { a with after := s.readOrder a } }.sawAt t a.set a.tid s.tick false := by
  simp only [State.acceptAtom, hk, State.countPort_set hp, State.takePort_set hp, hc, State.pipeMem_unaccepted hq, State.atomQ_modSet hs, hq, hn,
    List.map_cons, List.map_nil, beq_self_eq_true, if_true, List.nil_append]

theorem State.atomQ_acceptAtom {op : AtomOp} {ty : ATy} {cmp : Double} {ret : Bool} (hs : s.canon = true)
    (hq : (s.tile t).atomQ = [⟨i, none, 0⟩]) (hk : a.kind = .atom op ty cmp ret) (hn : a.after = []) (hp : a.set ≠ portSet)
    (hc : tileCheck (s.tile t) a.tileAddr a.bytes true true = none) : ∃ new, ((s.acceptAtom t i a).tile t).atomQ = [⟨i, some 0, new⟩] := by
  have h0 := State.canon_modSet hs t a.set (fun v => { v with atomCount := v.atomCount + 1 })
  have h1 {q : List AtomReq} := State.canon_putTile_frame (t := t) h0 (v := { State.tile _ t with atomQ := q })
  rw [State.acceptAtom_alone hs hq hk hn hp hc]
  exact ⟨_, (State.atomQ_modSet (State.canon_frame (State.canon_modSet h1 ..)) ..).trans ((State.atomQ_modSet h1 ..).trans
    (congrArg Tile.atomQ (State.tile_putTile_same h0 ..)))⟩

/-- The pipeline's cycle accepts a request that is alone and ready. -/
theorem execAtomicPipelineCycle_alone {op : AtomOp} {ty : ATy} {cmp : Double} {ret : Bool} (hs : s.canon = true)
    (hq : (s.tile t).atomQ = [⟨i, none, 0⟩]) (hl : SMap.look s.accs i = some a) (hk : a.kind = .atom op ty cmp ret) (hn : a.after = [])
    (ho : s.overShown i a = false) (hr : s.rplMode t = .off) (hp : a.set ≠ portSet)
    (hc : tileCheck (s.tile t) a.tileAddr a.bytes true true = none) : exec (.atomicPipelineCycle t) s = .next (s.acceptAtom t i a) := by
  obtain ⟨new, hq'⟩ := State.atomQ_acceptAtom hs hq hk hn hp hc
  rw [exec_atomicPipelineCycle, execAtomicPipelineCycle, State.pipeAge_unaccepted hq]
  simp only [State.pipeTake, State.atomNext_oldest hr (State.atomWaiting_one hq hl), State.atomReady_free hn, ho, State.chooseAs_off hr,
    State.atomNext_accepted hq', List.contains_nil, Bool.not_true, Bool.or_self, Bool.false_eq_true, if_false]

end

/-- Settles O26, by the walk's own branches, the room of a cache, and the one request of the pipeline. -/
theorem walksAndAtomics : Obligations.WalksAndAtomics := by
  unfold Obligations.WalksAndAtomics
  refine ⟨fun s id w hl hr => congrArg Host.Outcome.next (State.doWalk_open hl hr), fun s x => State.cacheLeaf_room, fun s x => State.cacheLeaf_known,
    fun s t i a op ty cmp ret hs hq hl hk hn ho hr hp hc => ⟨execAtomicPipelineCycle_alone hs hq hl hk hn ho hr hp hc,
      State.acceptAtom_alone hs hq hk hn hp hc⟩⟩

end Sys2Proof.Machine
end

section
/-! SUPPORT. Device loads and stores as a pass of one thread issues them (O8). -/
namespace Sys2Proof.Machine

/-! ### The numbers of accesses -/

@[simp] theorem State.issueAcc_snd (s : State) (a : Access) : (s.issueAcc a).2 = s.nextId := rfl

/-- A pass that has served no thread yet has issued no access. -/
theorem State.base_of_solo {s : State} {g : Guard} {c : Ctx} {v : SetState} (h : s.solo? g = some (c, v)) : c.base = s.nextId := by
  obtain ⟨w, p, th, -, -, -, -, -, -, -, hctx, -⟩ := State.solo?_spec h
  exact congrArg Ctx.base hctx

/-- The first access of a pass has no lower lane before it. -/
theorem State.laneBefore_first {s : State} {i : Nat} {a : Access} (h : a.base = i) : s.laneBefore i a = false := by
  refine List.any_eq_false.mpr fun b _ => ?_
  simp only [h, Bool.and_eq_true, decide_eq_true_eq, not_and]
  omega

theorem State.passStores_first (s : State) (t o i : Nat) (loc : Place2) (n : Nat) : s.passStores t o i i loc n = [] := by
  refine List.map_eq_nil_iff.mpr (List.filter_eq_nil_iff.mpr fun b _ => ?_)
  simp only [Bool.and_eq_true, decide_eq_true_eq, not_and]
  omega

/-! ### The checks of an access, in order (R295), and its place -/

section
variable {s s1 : State} {i w : Nat} {a : Access} {sup walk load : Bool} {x : Xl} {v : SetState} {f : FaultInfo}

/-- The access kind of a fault record (R53), by whether the access is a store or a load. -/
theorem faultKind_store (load : Bool) : (if (!load) = true then (1 : BitVec 3) else 0) = if load = true then 0 else 1 := by
  cases load <;> rfl

section
variable (hw : (a.kind == .store) = !load)
include hw

theorem State.devPlace_range (hr : a.va.extractLsb' 56 8 ≠ 0) :
    let r := s.xlFault a.tile (xctxAsid a.xctx) a.va (!load) { code := Code.xlateMiss, kind := if load then 0 else 1, ac := a.ac }
    s.devPlace i a sup walk = .fault r.1 r.2 := by
  simp only [State.devPlace, hw, faultKind_store, bne_iff_ne, hr, ne_eq, not_false_eq_true, if_true]

theorem State.devPlace_misaligned (hr : a.va.extractLsb' 56 8 = 0) (ha : a.va.toNat % a.bytes ≠ 0) :
    let r := s.xlFault a.tile (xctxAsid a.xctx) a.va (!load) { code := Code.align, kind := if load then 0 else 1, ac := a.ac }
    s.devPlace i a sup walk = .fault r.1 r.2 := by
  simp only [State.devPlace, hw, faultKind_store, bne_iff_ne, hr, ha, ne_eq, not_true_eq_false, not_false_eq_true, if_true, if_false]

variable (hr : a.va.extractLsb' 56 8 = 0) (ha : a.va.toNat % a.bytes = 0)
include hr ha

theorem State.devPlace_waits
    (ht : s.translate a.tile a.set a.xctx sup false i a.va (if load then 0 else 1) (!load) walk = .wait s1 w) :
    s.devPlace i a sup walk = .wait s1 w := by
  simp only [State.devPlace, hw, faultKind_store, bne_iff_ne, hr, ha, ht, ne_eq, not_true_eq_false, if_false]

theorem State.devPlace_held
    (ht : s.translate a.tile a.set a.xctx sup false i a.va (if load then 0 else 1) (!load) walk = .ok s1 x)
    (hc : x.mtype = .config → a.bytes = 8) (hm : x.mtype ≠ .peer → s1.memFaults x.pa a.bytes false = false) :
    s.devPlace i a sup walk = .ok s1 x := by
  have hconfig : ¬ (x.mtype == .config && a.bytes != 8) = true := by simpa using hc
  have hpoison : ¬ (x.mtype != .peer && s1.memFaults x.pa a.bytes false) = true := by simpa using hm
  simp only [State.devPlace, hw, faultKind_store, bne_iff_ne, hr, ha, ht, ne_eq, not_true_eq_false, if_false, if_neg hconfig, if_neg hpoison]

end

section
variable (hv : s.set? a.tile a.set = some v) (hb : a.base = i)
include hv

theorem State.placeAcc_waits (hp : s.devPlace i a v.supervisor (s.walkReady a) = .wait s1 w) : s.placeAcc i a = .wait s1 w := by
  simp only [State.placeAcc, hv, Option.map_some, Option.getD_some, hp]

include hb

/-- The first access of a pass that fails a check leaves without having been performed. -/
theorem State.placeAcc_faults (hp : s.devPlace i a v.supervisor (s.walkReady a) = .fault s1 f) :
    s.placeAcc i a = .fault (s1.dropAcc i) f := by
  simp only [State.placeAcc, hv, Option.map_some, Option.getD_some, hp, State.laneBefore_first hb, Bool.false_eq_true, if_false]

/-- The first access of a pass that passes its checks comes after what it was issued after, and no other. -/
theorem State.placeAcc_places (hw : (a.kind == .store) = !load) (hp : s.devPlace i a v.supervisor (s.walkReady a) = .ok s1 x) :
    s.placeAcc i a =
      .ok { s1 with accs := s1.accs.insert i { a with loc := x.loc, after := if load then a.after else a.after.eraseDups } } x := by
  simp only [State.placeAcc, hv, Option.map_some, Option.getD_some, hp, State.laneBefore_first hb, hb, State.passStores_first, hw,
    List.append_nil, Bool.and_false, Bool.false_eq_true, if_false]
  cases load <;> rfl

end

end

/-! ### A device access of a pass of one thread -/

/-- What the service of a thread makes of the outcome of its access's checks: its place, a walk to wait for, or a fault. -/
def DevOp.served (p : DevOp) (c : Ctx) (n : Nat) : XlRes → Serve
  | .fault s f => .fault s f
  | .wait s _ => .ok s (some (p.member c (.place n p.size) n))
  | .ok s x => .ok s (some (p.member c (if x.mtype = .peer then .peer n p.size else .load n p.size) n))

/-- What a load marks pending until its datum returns. -/
def DevOp.marks (p : DevOp) : List Mark := if p.load then (p.data.opd.cover (loadWide p.data p.size)).map Mark.opd else []

theorem DevOp.devAccess_store (p : DevOp) (c : Ctx) (s : State) (v : SetState) : ((p.devAccess c s v).kind == .store) = !p.load := by
  cases hl : p.load <;> simp [DevOp.devAccess, DevOp.access, hl]

section
variable {s s1 : State} {g : Guard} {c : Ctx} {v : SetState} {p : DevOp} {x : Xl} {w : Nat} {f : FaultInfo}
variable (ht : v.ent.typ = .ag) (hm : p.load = true → Reg.isS p.data = true → c.mode = .token ∨ c.mode = .trap)
include ht hm

/-- An AG set may execute a device access in any block, and a load into an s register in its token and trap blocks (R297). -/
theorem chkDev_none : chkAll ([chkType [.ag] allModes] ++ (if p.load then [chkSData p.data] else [])) v { c with tid := 0 } = none := by
  have hany : chkType [.ag] allModes v { c with tid := 0 } = none := by cases c.mode <;> simp [chkType, ht, allModes]
  have hdata (hl : p.load = true) : chkSData p.data v { c with tid := 0 } = none := by
    by_cases hs : Reg.isS p.data = true
    · rcases hm hl hs with hmode | hmode <;> simp [chkSData, hs, chkType, ht, hmode, allTypes]
    · simp [chkSData, hs]
  cases hl : p.load <;> simp [chkAll, hany, hdata, hl]

omit ht hm
variable (h : s.solo? g = some (c, v)) (hr : readsClean p c s v = true)
include h hr

theorem serveDev_solo : serveDev p c s =
    p.served c s.nextId ((s.issueAcc (p.devAccess c s v)).1.placeAcc s.nextId (p.devAccess c s v)) := by
  obtain ⟨-, -, -, -, -, -, -, hg, hsh, -, -, hv⟩ := State.solo?_spec h
  have hclean : s.srcPoison c v.ent p.reads = none := Option.isNone_iff_eq_none.mp hr
  simp only [serveDev, hv, SetState.pendingOn_of_groupsOf hg hsh, hclean, List.isEmpty_nil, Bool.not_true, Bool.false_eq_true, if_false,
    State.issueAcc_snd, beq_iff_eq]
  cases (s.issueAcc (p.devAccess c s v)).1.placeAcc s.nextId (p.devAccess c s v) <;> rfl

include ht hm

theorem devExec_places (hp : (s.issueAcc (p.devAccess c s v)).1.placeAcc s.nextId (p.devAccess c s v) = .ok s1 x) : devExec g p s =
    .next (passDone c s1 (some (p.member c (if x.mtype = .peer then .peer s.nextId p.size else .load s.nextId p.size) s.nextId)) p.marks) := by
  simp only [devExec, withPass_solo h (chkDev_none ht hm), serveDev_solo h hr, hp, DevOp.served, DevOp.marks]

theorem devExec_waits (hp : (s.issueAcc (p.devAccess c s v)).1.placeAcc s.nextId (p.devAccess c s v) = .wait s1 w) : devExec g p s =
    .next (passDone c s1 (some (p.member c (.place s.nextId p.size) s.nextId)) p.marks) := by
  simp only [devExec, withPass_solo h (chkDev_none ht hm), serveDev_solo h hr, hp, DevOp.served, DevOp.marks]

theorem devExec_faults (hp : (s.issueAcc (p.devAccess c s v)).1.placeAcc s.nextId (p.devAccess c s v) = .fault s1 f)
    (htrap : c.mode ≠ .trap) : devExec g p s =
      .next (passLeft c (s1.threadFault c.tile c.set c.tid c.blk c.idx c.loops false f)) := by
  have hmode : (c.mode == .trap) = false := beq_false_of_ne htrap
  simp only [devExec, withPass_solo h (chkDev_none ht hm), serveDev_solo h hr, hp, DevOp.served, hmode, Bool.false_eq_true, if_false]
  rfl

end

/-- The four device accesses are one operation, with what it loads, acquires and releases. -/
theorem exec_devOp {i : Instr} {p : DevOp} {g : Guard} {size : LdSize} {data : Reg} {m : MemRef}
    (hi : (i, p) ∈ [(Instr.ldDev g size data m, ({ load := true, acq := false, rel := false, size := size, data := data, m := m } : DevOp)),
      (.ldAcqDev g size data m, { load := true, acq := true, rel := false, size := size, data := data, m := m }),
      (.stDev g size data m, { load := false, acq := false, rel := false, size := size, data := data, m := m }),
      (.stRelDev g size data m, { load := false, acq := false, rel := true, size := size, data := data, m := m })]) :
    exec i = devExec g p ∧ p.size = size ∧ p.data = data ∧ p.m = m := by
  simp only [List.mem_cons, Prod.mk.injEq, List.not_mem_nil, or_false] at hi
  obtain ⟨rfl, rfl⟩ | ⟨rfl, rfl⟩ | ⟨rfl, rfl⟩ | ⟨rfl, rfl⟩ := hi <;> exact ⟨rfl, rfl, rfl, rfl⟩

/-- Settles O8: the checks of the first access of a pass, in their order, and what its service makes of their outcome. -/
theorem deviceAccessesIssue : Obligations.DeviceAccessesIssue := by
  unfold Obligations.DeviceAccessesIssue
  intro s c v g size data m i p op hi h ht hm hr a s0 n kind found marks trap
  obtain ⟨hx, rfl, rfl, rfl⟩ := exec_devOp hi
  obtain ⟨-, -, -, -, -, -, -, -, -, -, -, hv⟩ := State.solo?_spec h
  have hv0 : s0.set? a.tile a.set = some v := hv
  have hb : a.base = n := State.base_of_solo h
  have hw : (a.kind == .store) = !p.load := p.devAccess_store c s v
  rw [hx]
  refine ⟨fun s1 x hrange halign hfound hconfig hpoison => ?_, fun s1 w hrange halign hfound => ?_, fun htrap hrange => ?_,
    fun htrap hrange halign => ?_⟩
  · exact devExec_places ht hm h hr (State.placeAcc_places hv0 hb hw (State.devPlace_held hw hrange halign hfound hconfig hpoison))
  · exact devExec_waits ht hm h hr (State.placeAcc_waits hv0 (State.devPlace_waits hw hrange halign hfound))
  · exact devExec_faults ht hm h hr (State.placeAcc_faults hv0 hb (State.devPlace_range hw hrange)) htrap
  · exact devExec_faults ht hm h hr (State.placeAcc_faults hv0 hb (State.devPlace_misaligned hw hrange halign)) htrap

end Sys2Proof.Machine
end

section
/-! SUPPORT. The near-memory queue: the command at its head, and the answer of one that is settled (O35). -/
namespace Sys2Proof.Machine

/-! ### The head of the queue (R71, R72) -/

/-- The address of the slot at the head of the queue. -/
def State.nmqHeadSlot (s : State) : Nat := s.cfg.slotBase s.cfg.nmqHead.toNat

/-- Doubles 0 and 1 of that slot, as the queue sees them. -/
def State.nmqHead0 (s : State) : Double := s.seePlain s.nmqHeadSlot
def State.nmqHead1 (s : State) : Double := s.seePlain (s.nmqHeadSlot + 8)

/-- The state in which the command at the head has been taken. -/
def State.nmqTaken (s : State) : State := s.modCfg (fun c => { c with nmqHead := c.nmqHead + 1 })

/-- The head of the queue holds a command that can be taken: the part runs, the slot's memory is there and sound, and the slot's reserved bits
are zero. -/
structure State.NmqReady (s : State) : Prop where
  waits : s.cfg.nmqHead ≠ s.cfg.nmqTail
  running : s.stopped = false
  active : s.cfg.pwr = 0
  free : s.bankHeld s.nmqHeadSlot = false
  sound : s.memFaults s.nmqHeadSlot 64 false = false
  high : s.nmqHead0.extractLsb' 48 12 = 0
  low : s.nmqHead0.extractLsb' 0 32 = 0

section
variable {s : State}

/-- A command that can be taken goes to the service of its OP, with the head behind it. -/
theorem State.nmqTake_ready (h : s.NmqReady) {mine : Nat → Bool} {waits : Double → Bool} (hop : mine (s.nmqHead0.extractLsb' 60 4).toNat = true)
    (hw : waits s.nmqHead1 = false) (f : Nat → Double → State → State) :
    s.nmqTake mine waits f = f s.cfg.nmqHead.toNat s.nmqHead1 s.nmqTaken := by
  obtain ⟨hwaits, hrun, hpwr, hfree, hsound, hhigh, hlow⟩ := h
  simp only [State.nmqHead0, State.nmqHead1, State.nmqHeadSlot] at hop hw hfree hsound hhigh hlow ⊢
  simp only [State.nmqTake, State.nmqTaken, beq_false_of_ne hwaits, hrun, hpwr, hfree, hsound, hhigh, hlow, hop, hw, bne_self_eq_false,
    Bool.not_true, Bool.not_false, Bool.and_false, Bool.or_self, Bool.false_eq_true, if_false]

/-- That the head moves on does not change what the queue sees of memory. -/
theorem State.seePlain_nmqTaken (s : State) (pa : Nat) : s.nmqTaken.seePlain pa = s.seePlain pa := by
  have hmet : s.nmqTaken.met = s.met := State.met_of_accs rfl
  simp only [State.seePlain, State.olds, State.settledWrite, hmet]
  rfl

theorem nmqChan_names {d1 : Double} (hz : d1.extractLsb' 9 55 = 0) (hn : (d1.extractLsb' 0 9).toNat < 384) (f : Nat → State → State) (slot : Nat)
    (s : State) : nmqChan d1 f slot s = f (d1.extractLsb' 0 9).toNat s :=
  if_neg (by rw [hz, decide_eq_false (Nat.not_le.mpr hn)]; decide)

/-! ### Launches (R73) -/

theorem execBsuLaunch_refuses {r : BitVec 8 × Nat} (h : s.NmqReady) (hop : (s.nmqHead0.extractLsb' 60 4).toNat = 1)
    (hw : s.sectionHeld s.nmqHead1 = false) (hz : s.nmqHead1.extractLsb' 48 16 = 0)
    (hr : s.nmqTaken.launchCheck (s.nmqHead1.extractLsb' 0 48).toNat = .error r) :
    exec .bsuLaunch s = .next (s.nmqTaken.nmqAdd s.cfg.nmqHead.toNat (some r) []) := by
  rw [exec_bsuLaunch, execBsuLaunch, State.nmqTake_ready h (by rw [hop]; rfl) hw]
  simp only [hz, hr, bne_self_eq_false, Bool.false_eq_true, if_false]

theorem execBsuLaunch_launches {ents : List (List Double)} (h : s.NmqReady) (hop : (s.nmqHead0.extractLsb' 60 4).toNat = 1)
    (hw : s.sectionHeld s.nmqHead1 = false) (hz : s.nmqHead1.extractLsb' 48 16 = 0)
    (hr : s.nmqTaken.launchCheck (s.nmqHead1.extractLsb' 0 48).toNat = .ok ents) :
    exec .bsuLaunch s = .next ((ents.map entChan).foldl State.settleUnit (ents.foldl (fun s e => s.putUnit (entChan e)
      ((s.unit (entChan e)).launched e)) (s.nmqTaken.nmqAdd s.cfg.nmqHead.toNat none (ents.map entChan)))) := by
  rw [exec_bsuLaunch, execBsuLaunch, State.nmqTake_ready h (by rw [hop]; rfl) hw]
  simp only [hz, hr, bne_self_eq_false, Bool.false_eq_true, if_false]

/-! ### Commands that name one channel (R74) -/

section
variable (h : s.NmqReady) (hz : s.nmqHead1.extractLsb' 9 55 = 0) {n : Nat} (hc : (s.nmqHead1.extractLsb' 0 9).toNat = n) (hn : n < 384)
include h hz hc hn

/-- A command that names one channel is served for it. -/
theorem State.nmqTake_channel {mine : Nat → Bool} (hop : mine (s.nmqHead0.extractLsb' 60 4).toNat = true) (f : Nat → Nat → State → State) :
    s.nmqTake mine (fun _ => false) (fun slot d1 => nmqChan d1 (f slot) slot) = f s.cfg.nmqHead.toNat n s.nmqTaken := by
  subst hc
  rw [State.nmqTake_ready h hop rfl, nmqChan_names hz hn]

theorem execBsuResume_resumes (hop : (s.nmqHead0.extractLsb' 60 4).toNat = 2) (hf : (s.nmqTaken.unit n).st = .faulted)
    (hu : s.nmqTaken.unitHeld n = false) : exec .bsuResume s =
      .next ((((s.nmqTaken.putUnit n { s.nmqTaken.unit n with st := .running }).unitStatus n 9).nmqAdd s.cfg.nmqHead.toNat none
        [n]).settleUnit n) := by
  rw [exec_bsuResume, execBsuResume, State.nmqTake_channel h hz hc hn (by rw [hop]; rfl)]
  simp [hf, hu]

theorem execBsuResume_held (hop : (s.nmqHead0.extractLsb' 60 4).toNat = 2) (hi : (s.nmqTaken.unit n).st ≠ .idle)
    (hu : s.nmqTaken.unitHeld n = true) : exec .bsuResume s = .next (s.nmqTaken.nmqAdd s.cfg.nmqHead.toNat (some (3, n)) []) := by
  rw [exec_bsuResume, execBsuResume, State.nmqTake_channel h hz hc hn (by rw [hop]; rfl)]
  simp [hi, hu]

theorem execBsuAbort_held (hop : (s.nmqHead0.extractLsb' 60 4).toNat = 3) (hi : (s.nmqTaken.unit n).st ≠ .idle)
    (hu : s.nmqTaken.unitHeld n = true) : exec .bsuAbort s = .next (s.nmqTaken.nmqAdd s.cfg.nmqHead.toNat (some (3, n)) []) := by
  rw [exec_bsuAbort, execBsuAbort, State.nmqTake_channel h hz hc hn (by rw [hop]; rfl)]
  simp [hi, hu]

theorem execBsuAbort_aborts (hop : (s.nmqHead0.extractLsb' 60 4).toNat = 3) (hi : (s.nmqTaken.unit n).st ≠ .idle)
    (hu : s.nmqTaken.unitHeld n = false) : exec .bsuAbort s = .next ((s.nmqTaken.nmqAdd s.cfg.nmqHead.toNat none [n]).abortUnit n) := by
  rw [exec_bsuAbort, execBsuAbort, State.nmqTake_channel h hz hc hn (by rw [hop]; rfl)]
  simp [hi, hu]

/-- A query looks at its slot's OP once more, after the head has moved on: it is the OP that the command was taken by. -/
theorem execBsuQuery_answers (hop : (s.nmqHead0.extractLsb' 60 4).toNat = 4) (hi : (s.nmqTaken.unit n).st = .idle) :
    exec .bsuQuery s = .next (s.nmqTaken.nmqAdd s.cfg.nmqHead.toNat (some ((s.nmqTaken.unit n).status, n)) []) := by
  subst hc
  have hagain : (s.nmqTaken.seePlain (s.nmqTaken.cfg.slotBase s.cfg.nmqHead.toNat)).extractLsb' 60 4 = 4 := by
    rw [State.seePlain_nmqTaken]
    exact BitVec.eq_of_toNat_eq hop
  rw [exec_bsuQuery, execBsuQuery, State.nmqTake_ready h (by rw [hop]; rfl) rfl]
  simp only [hagain, nmqChan_names hz hn, hi, bne_self_eq_false, Bool.false_and, Bool.false_eq_true, if_false]

end

/-! ### Answers (R71) -/

theorem execNmqCommandDone_answers {c : NmqCmd} {st : BitVec 8} {n : Nat} (hf : s.nmq.find? (fun c : NmqCmd => c.outcome.isSome) = some c)
    (ho : c.outcome = some (st, n)) (hb : s.bankHeld (s.cfg.slotBase c.slot) = false)
    (hm : s.memFaults (s.cfg.slotBase c.slot) 64 false = false) :
    exec .nmqCommandDone s = .next ({ s with nmq := s.nmq.filter (· != c) }.nmqWrite c.slot st n) := by
  simp only [exec_nmqCommandDone, execNmqCommandDone, hf, ho, hb, hm, Bool.false_eq_true, if_false]

theorem execNmqTailWrite_on (hp : s.cfg.pwr ≠ 3) (tail : BitVec 6) :
    exec (.nmqTailWrite tail) s = .next { s with cfg := { s.cfg with nmqTail := tail } } :=
  congrArg Host.Outcome.next (if_neg (by rw [State.pwr_beq_off hp]; exact Bool.false_ne_true))

theorem execNmqTailWrite_off (hp : s.cfg.pwr = 3) (tail : BitVec 6) : exec (.nmqTailWrite tail) s = .next s :=
  congrArg Host.Outcome.next (if_pos (by simp [hp]))

end

/-- Settles O35: a command at the head that can be taken is served by the branch of its OP; a settled one is answered, and the tail is written
while there is power. -/
theorem nearMemoryCommands : Obligations.NearMemoryCommands := by
  unfold Obligations.NearMemoryCommands
  refine ⟨fun s => ?_, fun s c st n => execNmqCommandDone_answers,
    fun s tail => ⟨fun hp => execNmqTailWrite_on hp tail, fun hp => execNmqTailWrite_off hp tail⟩⟩
  intro slot a d0 d1 n s1 hwaits hrun hpwr hw hfree hsound hhigh hlow
  have h : s.NmqReady := ⟨hwaits, hrun, hpwr, hfree, hsound, hhigh, hlow⟩
  exact ⟨fun hop hz r => execBsuLaunch_refuses h hop hw hz, fun hop hz ents => execBsuLaunch_launches h hop hw hz,
    fun hz hn => ⟨execBsuResume_resumes h hz rfl hn, execBsuResume_held h hz rfl hn, execBsuAbort_held h hz rfl hn,
      execBsuAbort_aborts h hz rfl hn, execBsuQuery_answers h hz rfl hn⟩⟩

end Sys2Proof.Machine
end

section
/-! SUPPORT. Nodes, accesses and link packets of a bank-side unit (O36). -/
namespace Sys2Proof.Machine

section
variable {s : State} {n k : Nat}

/-! ### A node fires (R62, R63) -/

/-- Where `f` has a value at every element, `filterMap` leaves none out: with a token at every input, no input is missing. -/
theorem filterMap_of_map_eq_some {α β : Type} {f : α → Option β} {l : List α} {r : List β} (h : l.map f = r.map some) : l.filterMap f = r := by
  simpa [List.filterMap_map] using congrArg (List.filterMap id) h

/-- With data at every input, a node that may fire does so on them. -/
theorem State.bsuFire_data {heads : List (Nat × Token)} (hr : s.unitRuns n = true) (hk : k < 16) (hoff : ((s.unit n).node k).kind ≠ 0)
    (hlink : ((s.unit n).node k).kind ≠ 0x12) (hout : (s.unit n).outFree k = true) (hrun : SMap.look (s.unit n).runs k = none)
    (hins : ((s.unit n).node k).ins ≠ [])
    (hh : ((s.unit n).node k).ins.map (fun i => (SMap.look (s.unit n).arcs (4 * k + i.1)).map (fun x => (i.1, x))) = heads.map some)
    (hd : heads.all (fun h => !h.2.isCtl) = true) : s.bsuFire n k = s.bsuData n k heads := by
  have hall := filterMap_of_map_eq_some hh
  have hlen : heads.length = ((s.unit n).node k).ins.length := by simpa using (congrArg List.length hh).symm
  have hnone : heads.find? (fun h => h.2.isCtl) = none := by simpa using hd
  simp [State.bsuFire, hr, Nat.not_le.mpr hk, hoff, hlink, hout, hrun, hins, hall, hlen, hnone]

/-! ### Loads return in order (R63) -/

theorem execBsuLoadReturn_performs {l : BsuLoad} {rest : List BsuLoad} (hl : SMap.get [] (s.unit n).loads k = l :: rest) (hv : l.val = none) :
    exec (.bsuLoadReturn n k) s = .next (s.bsuLoad n k l) := by
  obtain ⟨off, val, at'⟩ := l
  subst hv
  simp [execBsuLoadReturn, hl]

theorem execBsuLoadReturn_emits {l : BsuLoad} {x : Word} (hl : SMap.get [] (s.unit n).loads k = [l]) (hv : l.val = some x)
    (hr : s.unitRuns n = true) (hout : (s.unit n).clearOut k = true) : exec (.bsuLoadReturn n k) s =
      .next ((s.putUnit n ({ s.unit n with loads := SMap.put [] (s.unit n).loads k [] }.emit k
        ⟨((s.unit n).node k).fmt, x, []⟩)).settleUnit n) := by
  obtain ⟨off, val, at'⟩ := l
  subst hv
  simp [execBsuLoadReturn, hl, hr, hout]

/-! ### Stores are performed, and packets arrive (R62, R67) -/

theorem State.unitAccepts_running (hr : (s.unit n).st = .running) (hs : s.stopped = false) (hp : s.cfg.pwr = 0) : s.unitAccepts n = true := by
  simp [State.unitAccepts, hr, hs, hp]

theorem execBsuStorePerformed_performs {w : BsuStore} {rest : List BsuStore} (hw : SMap.get [] (s.unit n).stores k = w :: rest)
    (hr : (s.unit n).st = .running) (hs : s.stopped = false) (hp : s.cfg.pwr = 0) (hout : (s.unit n).clearOut k = true)
    (hb : s.bankHeld (bsuAddr n w.off) = false) (hok : s.bsuBad n w.off ((s.unit n).node k).size = none) :
    exec (.bsuStorePerformed n k) s = .next ((s.putUnit n ({ s.unit n with
      stores := SMap.put [] (s.unit n).stores k rest,
      wbuf := (s.unit n).wbuf ++ [(⟨entKey (s.unit n).ent, bsuAddr n w.off, natBytes ((s.unit n).node k).size w.data.toNat⟩ : BsuWrite)] }.emit k
        ⟨0, 0, []⟩)).settleUnit n) := by
  have hst : ((s.unit n).st == .aborting) = false := by rw [hr]; rfl
  simp only [exec_bsuStorePerformed, execBsuStorePerformed, hw, State.unitAccepts_running hr hs hp, hst, hout, hb, hok, Bool.not_true,
    Bool.and_false, Bool.or_self, Bool.false_eq_true, if_false]

theorem execBsuLinkArrival_arrives {l i : Nat} {c : Chan} {x : Token} {rest : List Token}
    (hf : s.chans.find? (fun c => c.2.cons == .link n l && !c.2.win.isEmpty && !s.shadowed c.2) = some (i, c)) (hw : c.win = x :: rest)
    (hd : NSet.has (s.unit n).dropping l = false) (hl : (SMap.get [] (s.unit n).links l).length < 64) :
    exec (.bsuLinkArrival n l) s = .next ((s.putChan i { c with win := rest, delivered := c.delivered + 1 }).putUnit n
      { s.unit n with links := SMap.put [] (s.unit n).links l (SMap.get [] (s.unit n).links l ++ [{ x with rel := [] }]) }) := by
  simp only [exec_bsuLinkArrival, execBsuLinkArrival, hf, hw, hd, Nat.not_le.mpr hl, Bool.false_eq_true, if_false]

end

/-- Settles O36: each event by the branch in which nothing holds it back. -/
theorem bankUnitEvents : Obligations.BankUnitEvents := by
  unfold Obligations.BankUnitEvents
  intro s n
  exact ⟨fun k heads hr hk hoff hlink hout hrun hins hh hd =>
      congrArg (fun t : State => Host.Outcome.next (t.settleUnit n)) (State.bsuFire_data hr hk hoff hlink hout hrun hins hh hd),
    fun k l rest => execBsuLoadReturn_performs, fun k l x => execBsuLoadReturn_emits, fun k w rest => execBsuStorePerformed_performs,
    fun l i c x rest => execBsuLinkArrival_arrives⟩

end Sys2Proof.Machine
end

section
/-! SUPPORT. Accesses of the tile's own memory as a pass of one thread issues them: loads and stores (O9), atomics and reductions (O10). -/
namespace Sys2Proof.Machine

/-! ### The checks of the set, the block and the address (R81, R278, R297) -/

section
variable {s : State} {c : Ctx} {v : SetState}

/-- In every block of a set of the right type, an instruction that any block may hold executes. -/
theorem chkType_allModes {types : List SetType} (ht : v.ent.typ ∈ types) : chkType types allModes v c = none := by
  cases hmode : c.mode <;> simp [chkType, ht, allModes, hmode]

theorem chkSData_none {data : Reg} (hm : Reg.isS data = true → c.mode = .token ∨ c.mode = .trap) : chkSData data v c = none := by
  by_cases hs : Reg.isS data = true
  · have ht : v.ent.typ ∈ allTypes := by cases v.ent.typ <;> decide
    rcases hm hs with hmode | hmode <;> simp [chkSData, hs, chkType, ht, hmode]
  · simp [chkSData, hs]

section
variable {t n : Nat} {a : Int} {write atom : Bool} {ids : List Need}

theorem State.tileIssue_passes (h : tileCheck (s.tile t) a n write atom = none) : s.tileIssue t a n write atom ids = none := by
  simp only [State.tileIssue, h]

/-- A check that fails for another cause than poison fails as the access is issued, whatever the access is ordered after. -/
theorem State.tileIssue_fails {code : BitVec 8} (h : tileCheck (s.tile t) a n write atom = some code) (hc : code ≠ Code.memPoison) :
    s.tileIssue t a n write atom ids = some code := by
  simp only [State.tileIssue, h, beq_false_of_ne hc, Bool.false_and, Bool.false_eq_true, if_false]

end

end

/-! ### Loads and stores (R297, R300) -/

section
variable {s : State} {g : Guard} {c : Ctx} {v : SetState} {p : DevOp}

/-- A CP or RD set may execute an access of the tile's memory in any block, and a load into an s register in its token and trap blocks. -/
theorem chkLoc_none (ht : v.ent.typ = .cp ∨ v.ent.typ = .rd) (hm : p.load = true → Reg.isS p.data = true → c.mode = .token ∨ c.mode = .trap) :
    chkAll ([chkType [.cp, .rd] allModes] ++ (if p.load then [chkSData p.data] else [])) v { c with tid := 0 } = none := by
  have htype : chkType [.cp, .rd] allModes v { c with tid := 0 } = none := chkType_allModes (by simpa using ht)
  cases hl : p.load
  · simp [chkAll, htype]
  · have hdata : chkSData p.data v { c with tid := 0 } = none := chkSData_none (hm hl)
    simp [chkAll, htype, hdata]

variable (h : s.solo? g = some (c, v)) (hr : readsClean p c s v = true)
include h hr

theorem serveLoc_issues (hc : tileCheck (s.tile c.tile) (eaOf c s p.m) (LdSizeBytes p.size) (!p.load) false = none) :
    serveLoc p c s = .ok (s.issueAcc (p.locAccess c s)).1 (some (p.member c (.load s.nextId p.size) s.nextId)) := by
  obtain ⟨-, -, -, -, -, -, -, hg, hsh, -, -, hv⟩ := State.solo?_spec h
  have hclean : s.srcPoison c v.ent p.reads = none := Option.isNone_iff_eq_none.mp hr
  simp only [serveLoc, hv, SetState.pendingOn_of_groupsOf hg hsh, hclean, State.tileIssue_passes hc, State.issueAcc_snd, List.isEmpty_nil,
    Bool.not_true, Bool.false_eq_true, if_false]

theorem serveLoc_faults {code : BitVec 8} (hc : tileCheck (s.tile c.tile) (eaOf c s p.m) (LdSizeBytes p.size) (!p.load) false = some code)
    (hne : code ≠ Code.memPoison) : serveLoc p c s =
      .fault s { code := code, kind := if p.load then 0 else 1, w1 := BitVec.ofInt 64 (eaOf c s p.m), ac := p.m.ac } := by
  obtain ⟨-, -, -, -, -, -, -, hg, hsh, -, -, hv⟩ := State.solo?_spec h
  have hclean : s.srcPoison c v.ent p.reads = none := Option.isNone_iff_eq_none.mp hr
  simp only [serveLoc, hv, SetState.pendingOn_of_groupsOf hg hsh, hclean, State.tileIssue_fails hc hne, List.isEmpty_nil, Bool.not_true,
    Bool.false_eq_true, if_false]

end

/-- The four accesses of the tile's memory are one operation, with what it loads, acquires and releases. -/
theorem exec_locOp {i : Instr} {p : DevOp} {g : Guard} {size : LdSize} {data : Reg} {m : MemRef}
    (hi : (i, p) ∈ [(Instr.ldLoc g size data m, ({ load := true, acq := false, rel := false, size := size, data := data, m := m } : DevOp)),
      (.ldAcqLoc g size data m, { load := true, acq := true, rel := false, size := size, data := data, m := m }),
      (.stLoc g size data m, { load := false, acq := false, rel := false, size := size, data := data, m := m }),
      (.stRelLoc g size data m, { load := false, acq := false, rel := true, size := size, data := data, m := m })]) :
    exec i = locExec g p ∧ p.size = size ∧ p.data = data ∧ p.m = m := by
  simp only [List.mem_cons, Prod.mk.injEq, List.not_mem_nil, or_false] at hi
  obtain ⟨rfl, rfl⟩ | ⟨rfl, rfl⟩ | ⟨rfl, rfl⟩ | ⟨rfl, rfl⟩ := hi <;> exact ⟨rfl, rfl, rfl, rfl⟩

/-- Settles O9: the pass serves its one thread, whose access issues when the checks of R81 pass and traps with their code when they do not. -/
theorem localAccessesIssue : Obligations.LocalAccessesIssue := by
  unfold Obligations.LocalAccessesIssue
  intro s c v g size data m i p op hi h ht hm hr ea n
  obtain ⟨hx, rfl, rfl, rfl⟩ := exec_locOp hi
  have hchk := chkLoc_none ht hm
  rw [hx]
  refine ⟨fun hc => ?_, fun code hc hne htrap => ?_⟩
  · simp only [locExec, withPass_solo h hchk, serveLoc_issues h hr hc]
    rfl
  · have hmode : (c.mode == .trap) = false := beq_false_of_ne htrap
    simp only [locExec, withPass_solo h hchk, serveLoc_faults h hr hc hne, hmode, Bool.false_eq_true, if_false]
    rfl

/-! ### Atomics and reductions (R95, R301 to R303) -/

theorem atomFlags_iff {op : AtomOp} {ty : ATy} : atomFlags op ty = true ↔ op = .add ∧ ty = .f32 := by
  simp [atomFlags]

/-- The access that an atomic or a reduction (`ret` false) issues: the address, operand and comparand that its thread reads. -/
def atomAccess (c : Ctx) (s : State) (sf : Bool) (op : AtomOp) (ty : ATy) (data : Reg) (m : MemRef) (ret : Bool) : Access :=
  { tile := c.tile, set := c.set, tid := c.tid, kind := .atom op ty (if op == .cas then readOpd c s ty.wide (casOpd ty data) else 0) ret,
    loc := .tile (eaOf c s m).toNat, va := BitVec.ofInt 64 (eaOf c s m), bytes := if ty.wide then 8 else 4,
    data := readOpd c s ty.wide data.opd, cls := classBit m.ac, ac := m.ac, acq := false, rel := false, checked := sf,
    after := s.orderNeeds c.tile c.set c.tid (classBit m.ac) true none, blk := c.blk, idx := c.idx }

/-- An atomic or reduction whose checks pass issues its access, which joins the pipeline of the tile behind the requests that are there. -/
theorem serveAtom_joins {s : State} {g : Guard} {c : Ctx} {v : SetState} {sf : Bool} {op : AtomOp} {ty : ATy} {data : Reg} {m : MemRef}
    (h : s.solo? g = some (c, v))
    (hclean : s.srcPoison c v.ent ((MemRefRegs m).map (fun o => (o, false)) ++ (data.opd, ty.wide) ::
      ((if op == .cas then (casOpd ty data).cover ty.wide else []).map (fun o => (o, false)))) = none)
    (hc : tileCheck (s.tile c.tile) (eaOf c s m) (if ty.wide then 8 else 4) true true = none) (ret : Bool) :
    let s1 := (s.issueAcc (atomAccess c s sf op ty data m ret)).1
    serveAtom sf op ty data m ret c s =
      .ok (s1.putTile c.tile { s1.tile c.tile with atomQ := (s1.tile c.tile).atomQ ++ [⟨s.nextId, none, 0⟩] })
        (some (if ret then ⟨c.tid, some data.opd, ty.wide, 0, 0, .atom s.nextId, false⟩
          else ⟨c.tid, none, false, 0, 0, if atomFlags op ty then .atom s.nextId else .check s.nextId, false⟩)) := by
  obtain ⟨-, -, -, -, -, -, -, hg, hsh, -, -, hv⟩ := State.solo?_spec h
  simp only [serveAtom, hv, SetState.pendingOn_of_groupsOf hg hsh, hclean, State.tileIssue_passes hc, State.issueAcc_snd, List.isEmpty_nil,
    Bool.not_true, Bool.false_eq_true, if_false]
  cases atomFlags op ty <;> rfl

/-- Settles O10: the pass serves its one thread; only an atomic has a register to write, and only an f32 add returns flags late. -/
theorem atomicsIssue : Obligations.AtomicsIssue := by
  unfold Obligations.AtomicsIssue
  intro s c v g sf op ty data m n ea cmp h ht hclean hc acc made ff
  have htype : chkType [.rd] allModes v { c with tid := 0 } = none := chkType_allModes (by simp [ht])
  have hserve := serveAtom_joins (sf := sf) h hclean hc
  refine ⟨fun hm => ?_, ?_⟩
  · have hdata : chkSData data v { c with tid := 0 } = none := chkSData_none hm
    have hchk : chkAll [chkType [.rd] allModes, chkSData data] v { c with tid := 0 } = none := by simp [chkAll, htype, hdata]
    simp only [exec_atom, execAtom, withPass_solo h hchk, hserve, atomMarks, atomFlags_iff, if_true]
    rfl
  · simp only [exec_red, execRed, withPass_solo h htype, hserve, atomMarks, atomFlags_iff, Bool.false_eq_true, if_false, List.nil_append]
    rfl

end Sys2Proof.Machine
end

section
/-! SUPPORT. Engine commands under way: what a move of progress and a retirement are (O24). -/
namespace Sys2Proof.Machine

section
variable {s : State} {t o seq n : Nat} {v : SetState} {c : Cmd}

/-! ### Posting (R218) -/

theorem State.post_room (h : SMap.get 0 (s.tile t).eq n < 255) :
    s.post t n = some (s.putTile t { s.tile t with eq := SMap.put 0 (s.tile t).eq n (SMap.get 0 (s.tile t).eq n + 1) }) := by
  simp only [State.post, Nat.not_le.mpr h, if_false]

theorem State.post_full (h : 255 ≤ SMap.get 0 (s.tile t).eq n) : s.post t n = none := if_pos h

section
variable (hv : s.set? t o = some v) (hc : v.cmd? seq = some c) (hr : s.runs t = true)
include hv hc hr

/-! ### Progress (R87) -/

theorem execEngineProgress_issued (ha : c.at' = .issued) (hd : c.stage ≠ doneStage) :
    exec (.engineProgress t o seq) s = .next (s.progress t o v c) := by
  have hstage : (c.stage == doneStage) = false := beq_false_of_ne hd
  simp only [exec_engineProgress, execEngineProgress, hv, hc, hr, ha, hstage, Bool.not_true, Bool.false_and, Bool.false_eq_true, if_false]

theorem execEngineProgress_resuming (ha : c.at' = .resuming) : exec (.engineProgress t o seq) s =
    .next (if s.copyLoad t < 4 then s.modCmd t o seq (fun c => { c with at' := .issued }) else s) := by
  simp only [exec_engineProgress, execEngineProgress, hv, hc, hr, ha, Bool.not_true, Bool.false_and, Bool.false_eq_true, if_false]

/-! ### Retirement (R91) -/

/-- A command whose work and accesses are done retires. -/
theorem execCommandRetire_retires (ha : c.at' ≠ .stopped) (hd : c.stage = doneStage) (hn : s.cmdAccs t o seq = []) :
    exec (.commandRetire t o seq) s = .next (s.retireCmd t o v c) := by
  simp [execCommandRetire, hv, hc, hr, ha, hd, hn]

end

section
variable (hs : s.traceStalls (s.retireEvent t o v c) = false)
include hs

theorem State.retireCmd_unmarked (hp : (c.i.com?).bind SCom.pq = none) :
    s.retireCmd t o v c = (s.leaveQueue t o c).observe (s.retireEvent t o v c) := by
  simp only [State.retireCmd, hs, hp, Bool.false_eq_true, if_false]

theorem State.retireCmd_posts {q : BitVec 4} {s1 : State} (hp : (c.i.com?).bind SCom.pq = some q) (h : s.post t q.toNat = some s1) :
    s.retireCmd t o v c = (s1.leaveQueue t o c).observe (s.retireEvent t o v c) := by
  simp only [State.retireCmd, hs, hp, h, Bool.false_eq_true, if_false]

theorem State.retireCmd_holds {q : BitVec 4} (hp : (c.i.com?).bind SCom.pq = some q) (h : s.post t q.toNat = none) :
    s.retireCmd t o v c = s.modCmd t o c.seq (fun c => { c with at' := .posting }) := by
  simp only [State.retireCmd, hs, hp, h, Bool.false_eq_true, if_false]

end

end

/-- Settles O24: a command goes on by its state in the queue, and one that is done retires by the room of the event queue that it posts to. -/
theorem commandsProgressAndRetire : Obligations.CommandsProgressAndRetire := by
  unfold Obligations.CommandsProgressAndRetire
  intro s t o seq v c hv hc hr
  refine ⟨execEngineProgress_issued hv hc hr, execEngineProgress_resuming hv hc hr, ?_⟩
  intro ha hd hn hs count
  rw [execCommandRetire_retires hv hc hr ha hd hn]
  exact ⟨fun hp => congrArg _ (State.retireCmd_unmarked hs hp), fun n hp hroom => congrArg _ (State.retireCmd_posts hs hp (State.post_room hroom)),
    fun n hp hfull => congrArg _ (State.retireCmd_holds hs hp (State.post_full hfull))⟩

end Sys2Proof.Machine
end

section
/-! SUPPORT. A store is performed (O60): what it writes where it takes effect, and what the steps that follow the write leave as it is. -/
namespace Sys2Proof.Machine

/-! ### Bytes, and lines through the cipher (R3, R30) -/

theorem NSet.has_drop_other {l : NSet} {n m : Nat} (h : m ≠ n) : NSet.has (NSet.drop l n) m = NSet.has l m := by
  simp [NSet.has, NSet.drop, h]

/-- The bytes of a number, written one after another, are the number written whole. -/
theorem Memory.writeBytes_natBytes (m : Memory) (a n v : Nat) : Memory.writeBytes m a (natBytes n v) = Memory.writeLE m a n v := by
  induction n generalizing m a v with
  | zero => rfl
  | succ n ih => exact ih ..

@[simp] theorem length_natBytes (n v : Nat) : (natBytes n v).length = n := by
  induction n generalizing v with
  | zero => rfl
  | succ n ih => simp [natBytes, ih]

theorem Memory.read_writeBytes_otherLine {m : Memory} (hm : Memory.wf m = true) {line b : Nat} {bs : List Byte} (hn : bs.length ≤ 64)
    (hb : b / 64 ≠ line) : Memory.read (Memory.writeBytes m (line * 64) bs) b = Memory.read m b :=
  Memory.read_writeBytes_outside hm bs (by omega)

theorem length_aesEnc_le (ks : List (List Byte)) (b : List Byte) : (aesEnc ks b).length ≤ 16 := by
  simp only [aesEnc, addRound, shiftRows, List.length_zipWith, List.length_map, List.length_range]
  omega

/-- Each block of a unit comes out no longer than its tweak. -/
theorem length_xtsBlocks_le (f : List Byte → List Byte) (n : Nat) {t : List Byte} (ht : t.length ≤ 16) (bs : List Byte) :
    (xtsBlocks f n t bs).length ≤ 16 * n := by
  induction n generalizing t bs with
  | zero => rfl
  | succ n ih =>
    have hnext : (tweakNext t).length ≤ 16 := by simp [tweakNext]
    have hrest := ih hnext (bs.drop 16)
    simp only [xtsBlocks, addRound, List.length_append, List.length_zipWith]
    omega

theorem length_xtsEnc_le (pair : BitVec 512) (line : Nat) (bs : List Byte) : (xtsEnc pair line bs).length ≤ 64 :=
  length_xtsBlocks_le _ 4 (length_aesEnc_le ..) bs

section
variable {s : State} {k : BitVec 12} {pa b : Nat} {bs : List Byte}

/-! ### A write of device memory -/

theorem State.writeKey_zero : s.writeKey 0 pa bs = { s with mem := Memory.writeBytes s.mem pa bs } := if_pos rfl

/-- A write under any key is of device memory alone, and does not read what memory has held. -/
theorem State.writeKey_fresh (l : SMap (List Fresh)) : { s with fresh := l }.writeKey k pa bs =
    { s with mem := (s.writeKey k pa bs).mem, fresh := l } := by
  by_cases hk : k = 0
  · simp only [State.writeKey, hk, if_true]
  · cases hp : s.keysOf k with
    | none => simp only [State.writeKey, hk, if_false, hp, show { s with fresh := l }.keysOf k = none from hp]
    | some p => simp only [State.writeKey, hk, if_false, hp, show { s with fresh := l }.keysOf k = some p from hp]

/-- A write within one line leaves every other line as it is: a key enciphers the line that it stands in. -/
theorem State.read_writeKey_otherLine (hm : Memory.wf s.mem = true) (hn : pa % 64 + bs.length ≤ 64) (hb : b / 64 ≠ pa / 64) :
    Memory.read (s.writeKey k pa bs).mem b = Memory.read s.mem b := by
  have hplain : Memory.read (Memory.writeBytes s.mem pa bs) b = Memory.read s.mem b := Memory.read_writeBytes_outside hm bs (by omega)
  by_cases hk : k = 0
  · simpa only [State.writeKey, hk, if_true] using hplain
  · cases hp : s.keysOf k with
    | none => simpa only [State.writeKey, hk, if_false, hp] using hplain
    | some p =>
      simp only [State.writeKey, hk, if_false, hp]
      exact Memory.read_writeBytes_otherLine hm (length_xtsEnc_le ..) hb

/-- The history of memory notes a write in the list of what doubles have held, and nowhere else. -/
theorem State.noteBytes_eq (s : State) (k : BitVec 12) (pa n : Nat) (f : Fresh) : ∃ l, s.noteBytes k pa n f = { s with fresh := l } := by
  have hfold (ds : List Nat) (s : State) : ∃ l, ds.foldl (fun s d => s.noteWrite (8 * d) f) s = { s with fresh := l } := by
    induction ds generalizing s with
    | nil => exact ⟨s.fresh, rfl⟩
    | cons d ds ih =>
      obtain ⟨l, hl⟩ := ih (s.noteWrite (8 * d) f)
      exact ⟨l, hl⟩
  exact hfold _ s

end

/-! ### Where a store takes effect (R82, R83, R299) -/

section
variable {s : State} {i : Nat} {a : Access}

theorem State.accWrite_tile {x : Nat} (hl : a.loc = .tile x) (hp : NSet.has (s.tile a.tile).memPoison (x / 8) = false ∨ a.bytes = 8) :
    s.accWrite i a = s.tileWrite a.tile x a.bytes a.data.toNat (s.plainWrite a) := by
  have hgo : (NSet.has (s.tile a.tile).memPoison (x / 8) && a.bytes != 8) = false := by
    rcases hp with hp | hp <;> simp [hp]
  simp only [State.accWrite, hl, hgo, Bool.false_eq_true, if_false]

theorem State.accWrite_dev {pa : Nat} {k : BitVec 12} (hl : a.loc = .dev pa k) (hc : s.cfg.place pa ≠ .config) :
    s.accWrite i a = if s.memFaults pa a.bytes false then s
      else (s.noteBytes k pa a.bytes (s.freshOf i a)).writeKey k pa (natBytes a.bytes a.data.toNat) := by
  cases hr : s.cfg.place pa with
  | config => exact absurd hr hc
  | device | tier | hole => simp only [State.accWrite, hl, hr]

theorem State.accWrite_dev_writes {pa : Nat} {k : BitVec 12} (hl : a.loc = .dev pa k) (hc : s.cfg.place pa ≠ .config)
    (hf : s.memFaults pa a.bytes false = false) :
    ∃ l, s.accWrite i a = { s with mem := (s.writeKey k pa (natBytes a.bytes a.data.toNat)).mem, fresh := l } := by
  obtain ⟨l, hn⟩ := s.noteBytes_eq k pa a.bytes (s.freshOf i a)
  exact ⟨l, by rw [State.accWrite_dev hl hc, hf, if_neg Bool.false_ne_true, hn, State.writeKey_fresh]⟩

/-- A store that meets poison where it takes effect changes nothing. -/
theorem State.accWrite_dev_faults {pa : Nat} {k : BitVec 12} (hl : a.loc = .dev pa k) (hc : s.cfg.place pa ≠ .config)
    (hf : s.memFaults pa a.bytes false = true) : s.accWrite i a = s := by
  rw [State.accWrite_dev hl hc, if_pos hf]

theorem State.accWrite_line {n : Nat} {w : BitVec 512} (hl : a.loc = .line n w) (hf : s.memFaults (64 * n) 64 true = false) :
    ∃ l, s.accWrite i a = { s with mem := Memory.writeLE s.mem (64 * n) 64 w.toNat, poison := NSet.drop s.poison n, fresh := l } := by
  obtain ⟨l, hn⟩ := s.noteBytes_eq 0 (64 * n) 64 (s.freshOf i a)
  refine ⟨l, ?_⟩
  simp only [State.accWrite, hl, hf, Bool.false_eq_true, if_false, hn]

/-! ### What follows the write -/

/-- A field that an update of a tile leaves as it is, it leaves in every tile. -/
theorem State.tileField_putTile {α : Type} (f : Tile → α) (h : s.canon = true) {t : Nat} {x : Tile} (hx : f x = f (s.tile t)) (u : Nat) :
    f ((s.putTile t x).tile u) = f (s.tile u) := by
  by_cases hu : u = t
  · rw [hu, State.tile_putTile_same h, hx]
  · rw [State.tile_putTile_other h _ hu]

/-- A change of a set is one of the active plane of its tile. -/
theorem State.tileField_modSet {α : Type} (f : Tile → α) (hf : ∀ (x : Tile) (p : Option Plane), f { x with active := p } = f x)
    (h : s.canon = true) (t o : Nat) (g : SetState → SetState) (u : Nat) : f ((s.modSet t o g).tile u) = f (s.tile u) := by
  unfold State.modSet
  split
  · unfold State.putSet
    split
    · exact State.tileField_putTile f h (hf ..) u
    · rfl
  · rfl

theorem State.lvs_tileWrite (h : s.canon = true) (t x n v : Nat) (ok : Bool) (u w : Nat) : (s.tileWrite t x n v ok).lvs u w = s.lvs u w :=
  congrArg (fun m => SMap.get 0 m w) (State.tileField_putTile Tile.lvs h (by rfl) u)

theorem State.toCome_of_accs {t : State} (h : t.accs = s.accs) : t.toCome = s.toCome := by
  unfold State.toCome
  rw [h]

/-- Forgetting performed accesses is of the accesses alone. -/
theorem State.reap_eq (s : State) : ∃ l, s.reap = { s with accs := l } := by
  have hreap (n : Nat) (s : State) : ∃ l, State.reapN n s = { s with accs := l } := by
    induction n generalizing s with
    | zero => exact ⟨s.accs, rfl⟩
    | succ n ih =>
      unfold State.reapN
      dsimp only
      split
      · exact ⟨s.accs, rfl⟩
      · obtain ⟨l, hl⟩ := ih { s with accs := s.accs.filter s.keeps }
        exact ⟨l, hl⟩
  exact hreap _ s

theorem State.finish_eq (s : State) (i : Nat) (seen : List Need) : ∃ l, s.finish i seen = { s with accs := l } := by
  unfold State.finish
  split
  · exact ⟨s.accs, rfl⟩
  · exact State.reap_eq { s with accs := _ }

/-- A change that keeps every key, and the pair at one key, is not seen at that key. -/
theorem SMap.look_map_fixed {α : Type} {m : SMap α} {n : Nat} {v : α} {f : Nat × α → Nat × α} (hk : ∀ b, (f b).1 = b.1)
    (hf : f (n, v) = (n, v)) (h : m.look n = some v) : SMap.look (m.map f) n = some v := by
  induction m with
  | nil => exact h
  | cons x m ih =>
    obtain ⟨k, w⟩ := x
    have hx : f (k, w) = (k, (f (k, w)).2) := Prod.ext (hk _) rfl
    rw [List.map_cons, hx]
    by_cases hn : n = k
    · subst hn
      have hw : w = v := by simpa [SMap.look] using h
      simp [SMap.look, hw, hf]
    · by_cases hlt : n < k
      · simp [SMap.look, hn, hlt] at h
      · simp only [SMap.look, hn, hlt, if_false] at h ⊢
        exact ih h

/-- The access itself stays when what it writes over is read no more. -/
theorem State.look_supersede (hl : SMap.look s.accs i = some a) : SMap.look (s.supersede i a).accs i = some a := by
  refine SMap.look_map_fixed (fun b => ?_) ?_ hl
  · split <;> rfl
  · simp

/-- A change that fixes the elements of a list that satisfy a condition, and makes no others satisfy it, leaves the part that does. -/
theorem filter_map_fixed {α : Type} {p : α → Bool} {f : α → α} (hp : ∀ x, p (f x) = p x) (hf : ∀ x, p x = true → f x = x) (l : List α) :
    (l.map f).filter p = l.filter p := by
  have hpf : p ∘ f = p := funext hp
  rw [List.filter_map, hpf]
  exact (List.map_congr_left fun x hx => hf x (List.mem_filter.mp hx).2).trans (List.map_id _)

/-- Only performed writes are superseded. -/
theorem State.toCome_supersede : (s.supersede i a).toCome = s.toCome := by
  refine filter_map_fixed (fun b => ?_) (fun b hb => ?_) s.accs
  · split <;> rfl
  · simp only [hb, Bool.not_true, Bool.and_false, Bool.false_and, Bool.false_eq_true, if_false]

section
variable {b : Access}

theorem State.portSaw_accs : (s.portSaw b).accs = s.accs := by unfold State.portSaw; split <;> rfl
theorem State.portSaw_mem : (s.portSaw b).mem = s.mem := by unfold State.portSaw; split <;> rfl
theorem State.portSaw_poison : (s.portSaw b).poison = s.poison := by unfold State.portSaw; split <;> rfl

theorem State.tileField_portSaw {α : Type} (f : Tile → α) (hf : ∀ (x : Tile) (l : SMap Arr), f { x with arrs := l } = f x) (h : s.canon = true)
    (u : Nat) : f ((s.portSaw b).tile u) = f (s.tile u) := by
  unfold State.portSaw
  split
  · exact State.tileField_putTile f h (hf ..) u
  · rfl

end

/-- What follows the write of a store that is performed: what it writes over is read no more, it is to come no more, and its thread or port has
seen memory. -/
def State.settleStore (s : State) (i : Nat) (a : Access) (tick : Nat) : State :=
  (((s.supersede i a).finish i []).sawAt a.tile a.set a.tid tick true).portSaw a

theorem State.performAcc_eq (hl : SMap.look s.accs i = some a) (hk : a.kind = .store) (hp : a.pending = true) (hr : s.accReady a = true)
    (ho : s.overShown i a = false) : s.performAcc i = (s.accWrite i a).settleStore i a s.tick := by
  simp only [State.performAcc, hl, hk, hp, hr, ho, beq_self_eq_true, Bool.not_false, Bool.and_self, if_true]
  rfl

section
variable {tick : Nat}

theorem State.toCome_settleStore (hl : SMap.look s.accs i = some a) (hp : a.pending = true) :
    (s.settleStore i a tick).toCome = s.toCome.erase i :=
  calc (s.settleStore i a tick).toCome
      = ((s.supersede i a).finish i []).toCome := State.toCome_of_accs (State.portSaw_accs.trans (State.modThread_accs ..))
    _ = (s.supersede i a).toCome.erase i := State.toCome_finish (State.look_supersede hl) hp []
    _ = s.toCome.erase i := by rw [State.toCome_supersede]

theorem State.settleStore_mem : (s.settleStore i a tick).mem = s.mem := by
  obtain ⟨l, hfin⟩ := (s.supersede i a).finish_eq i []
  rw [State.settleStore, State.portSaw_mem, State.sawAt, State.modThread_mem, hfin]
  rfl

theorem State.settleStore_poison : (s.settleStore i a tick).poison = s.poison := by
  obtain ⟨l, hfin⟩ := (s.supersede i a).finish_eq i []
  rw [State.settleStore, State.portSaw_poison, State.sawAt, State.modThread_poison, hfin]
  rfl

/-- Of a tile, what follows the write changes its active plane and its arrays alone. -/
theorem State.tileField_settleStore {α : Type} (f : Tile → α) (hplane : ∀ (x : Tile) (p : Option Plane), f { x with active := p } = f x)
    (harrs : ∀ (x : Tile) (l : SMap Arr), f { x with arrs := l } = f x) (h : s.canon = true) (u : Nat) :
    f ((s.settleStore i a tick).tile u) = f (s.tile u) := by
  have hfin : ((s.supersede i a).finish i []).canon = true := State.canon_finish (State.canon_supersede h)
  obtain ⟨l, hl⟩ := (s.supersede i a).finish_eq i []
  calc f ((s.settleStore i a tick).tile u)
      = f ((((s.supersede i a).finish i []).sawAt a.tile a.set a.tid tick true).tile u) :=
        State.tileField_portSaw f harrs (State.canon_sawAt hfin) u
    _ = f (((s.supersede i a).finish i []).tile u) := State.tileField_modSet f hplane hfin ..
    _ = f (s.tile u) := by rw [hl]; rfl

theorem State.tileMem_settleStore (h : s.canon = true) (u : Nat) : ((s.settleStore i a tick).tile u).mem = (s.tile u).mem :=
  State.tileField_settleStore Tile.mem (fun _ _ => rfl) (fun _ _ => rfl) h u

theorem State.lvs_settleStore (h : s.canon = true) (u w : Nat) : (s.settleStore i a tick).lvs u w = s.lvs u w :=
  congrArg (fun m => SMap.get 0 m w) (State.tileField_settleStore Tile.lvs (fun _ _ => rfl) (fun _ _ => rfl) h u)

/-- The memories and the LVS of every tile are as they were. -/
def State.TilesKept (s t : State) : Prop := (∀ u, (t.tile u).mem = (s.tile u).mem) ∧ (∀ u w, t.lvs u w = s.lvs u w)

/-- What follows a write to device memory leaves every tile as it was before the write. -/
theorem State.tilesKept_settleStore {w : State} (h : w.canon = true) (ht : w.tiles = s.tiles) : s.TilesKept (w.settleStore i a tick) := by
  have htile (u : Nat) : w.tile u = s.tile u := congrArg (fun m => SMap.get Tile.reset m u) ht
  exact ⟨fun u => by rw [State.tileMem_settleStore h, htile], fun u n => by rw [State.lvs_settleStore h, State.lvs, htile]; rfl⟩

end

end

/-! ### A store that is performed -/

section
variable {s : State} {i : Nat} {a : Access}
variable (h : s.canon = true) (hl : SMap.look s.accs i = some a) (hk : a.kind = .store) (hp : a.pending = true) (hr : s.accReady a = true)
variable (ho : s.overShown i a = false)
include h hl hk hp hr ho

theorem State.performAcc_tile {x : Nat} (hx : a.loc = .tile x) (hw : NSet.has (s.tile a.tile).memPoison (x / 8) = false ∨ a.bytes = 8) :
    (s.performAcc i).toCome = s.toCome.erase i ∧ (s.performAcc i).mem = s.mem ∧
      (∀ u, u ≠ a.tile → ((s.performAcc i).tile u).mem = (s.tile u).mem) ∧ (∀ u w, (s.performAcc i).lvs u w = s.lvs u w) ∧
      ((s.performAcc i).tile a.tile).mem = Memory.writeLE (s.tile a.tile).mem x a.bytes a.data.toNat := by
  have hc : (s.tileWrite a.tile x a.bytes a.data.toNat (s.plainWrite a)).canon = true := State.canon_tileWrite h
  rw [State.performAcc_eq hl hk hp hr ho, State.accWrite_tile hx hw]
  refine ⟨State.toCome_settleStore hl hp, State.settleStore_mem, fun u hu => ?_, fun u w => ?_, ?_⟩
  · rw [State.tileMem_settleStore hc, State.tileWrite, State.tile_putTile_other h _ hu]
  · rw [State.lvs_settleStore hc, State.lvs_tileWrite h]
  · rw [State.tileMem_settleStore hc, State.tileWrite, State.tile_putTile_same h]

/-- A store that takes effect in device memory, or nowhere: it is to come no more, the tiles stay, and memory is as the write leaves it. -/
theorem State.performAcc_outside (ha : (s.accWrite i a).accs = s.accs) (ht : (s.accWrite i a).tiles = s.tiles) :
    (s.performAcc i).toCome = s.toCome.erase i ∧ s.TilesKept (s.performAcc i) ∧
      (s.performAcc i).mem = (s.accWrite i a).mem ∧ (s.performAcc i).poison = (s.accWrite i a).poison := by
  rw [State.performAcc_eq hl hk hp hr ho]
  exact ⟨(State.toCome_settleStore (ha ▸ hl) hp).trans (by rw [State.toCome_of_accs ha]),
    State.tilesKept_settleStore (State.canon_accWrite h) ht, State.settleStore_mem, State.settleStore_poison⟩

theorem State.performAcc_dev {pa : Nat} {k : BitVec 12} (hx : a.loc = .dev pa k) (hc : s.cfg.place pa ≠ .config)
    (hf : s.memFaults pa a.bytes false = false) :
    (s.performAcc i).toCome = s.toCome.erase i ∧ s.TilesKept (s.performAcc i) ∧
      (s.performAcc i).mem = (s.writeKey k pa (natBytes a.bytes a.data.toNat)).mem := by
  obtain ⟨l, hw⟩ := State.accWrite_dev_writes (i := i) hx hc hf
  obtain ⟨hcome, htiles, hmem, -⟩ := State.performAcc_outside h hl hk hp hr ho (by rw [hw]) (by rw [hw])
  exact ⟨hcome, htiles, by rw [hmem, hw]⟩

end

/-- Settles O60: the write of each kind of place is an update of one memory, and what follows it leaves the memories alone. -/
theorem storesWriteTheirBytes : Obligations.StoresWriteTheirBytes := by
  unfold Obligations.StoresWriteTheirBytes
  intro s i a h hl hk hp hr ho t byte tilesKept
  have hm := State.canon_mem h
  refine ⟨fun x hx hw => ?_, fun pa hx hc hf => ?_, fun l w hx hf => ?_, fun pa k hx hc hn => ?_⟩
  · obtain ⟨hcome, hmem, hother, hlvs, hown⟩ := State.performAcc_tile h hl hk hp hr ho hx hw
    exact ⟨hcome, hmem, hother, hlvs, fun b => by rw [hown, Memory.read_writeLE (Tile.wf_mem (State.canon_tile h _))]⟩
  · obtain ⟨hcome, htiles, hmem⟩ := State.performAcc_dev h hl hk hp hr ho hx hc hf
    exact ⟨hcome, htiles, fun b => by rw [hmem, State.writeKey_zero, Memory.writeBytes_natBytes, Memory.read_writeLE hm]⟩
  · obtain ⟨f, hw⟩ := State.accWrite_line (i := i) hx hf
    obtain ⟨hcome, htiles, hmem, hpoison⟩ := State.performAcc_outside h hl hk hp hr ho (by rw [hw]) (by rw [hw])
    refine ⟨hcome, htiles, ?_, fun m hne => ?_, fun b => ?_⟩
    · rw [hpoison, hw, NSet.has_drop]
    · rw [hpoison, hw, NSet.has_drop_other hne]
    · rw [hmem, hw, Memory.read_writeLE hm]
  · cases hf : s.memFaults pa a.bytes false with
    | false =>
      obtain ⟨hcome, htiles, hmem⟩ := State.performAcc_dev h hl hk hp hr ho hx hc hf
      exact ⟨hcome, htiles, fun b hb => by rw [hmem, State.read_writeKey_otherLine hm (by simpa using hn) hb]⟩
    | true =>
      have hw := State.accWrite_dev_faults (i := i) hx hc hf
      obtain ⟨hcome, htiles, hmem, -⟩ := State.performAcc_outside h hl hk hp hr ho (by rw [hw]) (by rw [hw])
      exact ⟨hcome, htiles, fun b _ => by rw [hmem, hw]⟩

end Sys2Proof.Machine
end

section
/-! SUPPORT. Events of circuits (O33): the branch of each event of an array, and what a circuit's turn leaves of its tile. -/
namespace Sys2Proof.Machine

/-! ### What a turn of the circuit cycle leaves (R108) -/

section
variable {s s1 : State} {t a e : Nat}

/-- A tile that is not as after reset is listed, whatever the form of the other tiles. -/
theorem State.tile_putTile_listed {v : Tile} (hv : v ≠ Tile.reset) : (s.putTile t v).tile t = v := by
  simp only [State.tile, State.putTile, SMap.put, if_neg hv, SMap.get, SMap.look_insert_same, Option.getD_some]

/-- An array in another mode than that of reset is listed in its tile. -/
theorem State.arrs_ne_nil (h : (s.arr t a).mode ≠ .storage) : (s.tile t).arrs ≠ [] :=
  fun he => h (by rw [State.arr, he]; rfl)

theorem State.headAt_congr (hc : s1.chans = s.chans) (ha : (s1.tile t).active = (s.tile t).active) : s1.headAt t e = s.headAt t e := by
  simp only [State.headAt, State.inChan, hc, ha]

/-- A turn changes nothing but what its tile notes of the circuit cycle. -/
theorem State.cirTurn?_eq (h : s.cirTurn? t a = some s1) :
    ∃ now was, s1 = s.putTile t { s.tile t with cirTurn := now, cirWas := was } := by
  unfold State.cirTurn? at h
  dsimp only at h
  split at h
  · exact ⟨_, _, (Option.some.inj h).symm⟩
  · split at h
    · cases h
    · exact ⟨_, _, (Option.some.inj h).symm⟩

theorem State.headAt_cirTurn? (hm : (s.arr t a).mode ≠ .storage) (h : s.cirTurn? t a = some s1) : s1.headAt t e = s.headAt t e := by
  obtain ⟨now, was, rfl⟩ := State.cirTurn?_eq h
  have hne : { s.tile t with cirTurn := now, cirWas := was } ≠ Tile.reset := fun he => State.arrs_ne_nil hm (congrArg Tile.arrs he)
  exact State.headAt_congr rfl (by rw [State.tile_putTile_listed hne])

theorem State.cirTurn?_due (h : NSet.has (s.tile t).cirTurn a = true) :
    s.cirTurn? t a = some (s.putTile t { s.tile t with cirTurn := NSet.drop (s.tile t).cirTurn a }) := if_pos h

end

/-! ### A step of a running circuit (R108, R109, R115) -/

/-- A region that runs is not coming to a halt. -/
theorem State.halting_of_runs {s : State} {t : Nat} (h : s.runs t = true) : s.halting t = false := by
  unfold State.runs at h
  unfold State.halting
  generalize (s.regionOf t).bind s.region? = o at h ⊢
  cases o with
  | none => rfl
  | some x =>
    obtain ⟨-, -, hx⟩ : s.stopped = false ∧ x.st = .running ∧ (x.halt = .none ∨ x.halt = .stepping) := by simpa using h
    rcases hx with hx | hx <;> simp [hx]

section
variable {s : State} {t a : Nat} {r : Arr} {w : Double}
variable (hr : s.arr t a = r) (hw : r.stepAt r.step.toNat = w) (hm : r.mode = .running) (hrun : s.runs t = true)

theorem State.cirHolds_of_ready (hpop : stPop w = true → ∃ k, s.headAt t r.ice = some k ∧ k.isCtl = false)
    (hemit : stEmit w = true → s.roomAt t r.oce ≠ 0) (hport : stPort w = 1 → s.cirAccs t a = []) : s.cirHolds t a r w = false := by
  have hp : (stPop w && !(s.headAt t r.ice).any (fun k => !k.isCtl)) = false := by
    cases h : stPop w with
    | false => rfl
    | true =>
      obtain ⟨k, hk, hd⟩ := hpop h
      simp [hk, hd]
  have he : (stEmit w && s.roomAt t r.oce == 0) = false := by simpa using hemit
  have ha : (stPort w == 1 && !(s.cirAccs t a).isEmpty) = false := by simpa using hport
  rw [State.cirHolds, hp, he, ha]; rfl

include hr hw hm hrun

theorem execCircuitStep_halts (hk : stKind w = 2) (hev : r.hev = false) :
    exec (.circuitStep t a) s = .next (s.putArr t a { r with mode := .halted, absent := false }) := by
  subst hr hw
  simp [execCircuitStep, hm, hrun, hk, hev]

theorem execCircuitStep_absent (hk : stKind w ≠ 2) (hp : r.present.getLsbD (stCtx w / 16) = false) (ha : r.absent = false) :
    exec (.circuitStep t a) s = .next ((s.cirRecord t a true Code.ctxAbsent 7 0).putArr t a { r with absent := true }) := by
  subst hr hw
  simp [execCircuitStep, hm, hrun, hk, hp, ha]

theorem execCircuitStep_performs (hk : stKind w ≠ 2) (hp : r.present.getLsbD (stCtx w / 16) = true) (hh : s.cirHolds t a r w = false)
    (hs : s.traceStalls (s.cirEvent t a r w) = false) (hb : s.cirMatch t a r (s.cirEvent t a r w) = none) :
    exec (.circuitStep t a) s = .next (match s.cirTurn? t a with
      | none => s
      | some s1 => s1.cirPerform t a r w (if stPop w then s.headAt t r.ice else none) (s.cirEvent t a r w)) := by
  subst hr hw
  have hmode : (s.arr t a).mode ≠ .storage := by rw [hm]; decide
  simp only [exec_circuitStep, execCircuitStep, hm, hrun, State.halting_of_runs hrun, hk, hp, hh, hs, hb]
  cases ht : s.cirTurn? t a with
  | none => simp
  | some s1 => simp [State.headAt_cirTurn? hmode ht]

/-- A control token is forwarded, or dropped where the circuit has no output. -/
theorem execCircuitControlForward_forwards {k : Token} (hk : stKind w ≠ 2) (hpop : stPop w = true)
    (hp : r.present.getLsbD (stCtx w / 16) = true) (hh : s.headAt t r.ice = some k) (hc : k.isCtl = true) (hbad : k.badCtl = false)
    (hroom : r.oce ≠ 255 → s.roomAt t r.oce ≠ 0) :
    exec (.circuitControlForward t a) s = .next (
      let s0 := s.popAt t r.ice
      let s1 := if r.iacq = true ∨ k.isDrn = true then s0.cirAcquire t a k.rel else s0
      let rel := if k.isDrn then s1.cirNeeds t a 4 (s1.arr t a) else if r.orel then s1.cirNeeds t a 2 (s1.arr t a) else []
      let s2 := if r.oce ≠ 255 then s1.pushAt t r.oce { k with rel := rel } else s1
      if k.sub = 1 ∧ r.oce ≠ 255 then s2.modArr t a (fun r => { r with eoi := r.eoi + 1 }) else s2) := by
  subst hr hw
  have hfull : ((s.arr t a).oce != 255 && decide (s.roomAt t (s.arr t a).oce = 0)) = false := by simpa using hroom
  simp only [exec_circuitControlForward, execCircuitControlForward, hm, hrun, hk, hpop, hp, hh, hc, hbad, hfull]
  simp

end

/-! ### The end of a conversion (R102) -/

section
variable {s : State} {t a : Nat} {r : Arr}

/-- A check that passes on every page that a mask names passes on all their bytes. -/
theorem findSome?_pageSpans_none {α : Type} {f : Nat → Option α} {pm : BitVec 8}
    (h : ∀ p b, pm.getLsbD p = true → p < 8 → b ∈ pageSpans a p → f b = none) :
    (((List.range 8).filter (fun p => pm.getLsbD p)).flatMap (pageSpans a)).findSome? f = none := by
  refine List.findSome?_eq_none_iff.mpr fun b hb => ?_
  obtain ⟨p, hp, hbp⟩ := List.mem_flatMap.mp hb
  obtain ⟨hlt, hpm⟩ := List.mem_filter.mp hp
  exact h p b hpm (List.mem_range.mp hlt) hbp

theorem execConversionComplete_halts {o : Nat} {c : Cmd} {m : SCom} {arr : BitVec 5} {pm : BitVec 8} (hr : s.arr t a = r)
    (hm : r.mode = .converting) (hw : s.writesInto t a = false) (hq : r.cmds = [(o, c.seq)]) (hc : s.cubeCmd t (o, c.seq) = some c)
    (hi : c.i = .cirConvert m arr pm) (hs : c.stage = 2)
    (hok : ∀ p b, pm.getLsbD p = true → p < 8 → b ∈ pageSpans a p → (s.tile t).poisonIn b 256 = none ∧ (s.tile t).badContext b 256 = none) :
    exec (.conversionComplete t a) s = .next ((s.putArr t a { r with
      mode := .halted, present := pm, vals := (s.free 40).extractLsb' 0 32, step := 0, latch := (s.free 41).extractLsb' 0 32,
      valid := (s.free 42).getLsbD 0, pdata := 0, cycles := 0, first := false, hdr := [], sched := [], taken := 0, eoi := 0,
      absent := false, holds := false, knew := [], since := 0 }).cmdDone t o c.seq) := by
  subst hr
  have hpoison := findSome?_pageSpans_none fun p b hp hlt hb => (hok p b hp hlt hb).1
  have hctx := findSome?_pageSpans_none fun p b hp hlt hb => (hok p b hp hlt hb).2
  simp [execConversionComplete, hm, hw, hq, hc, hi, hs, hpoison, hctx]

end

/-- Settles O33: each event by the branch in which nothing holds it back; a turn leaves the head of the input that a step takes. -/
theorem circuitEvents : Obligations.CircuitEvents := by
  unfold Obligations.CircuitEvents
  constructor
  · intro s t a r w head ev hm hrun
    exact ⟨execCircuitStep_halts rfl rfl hm hrun, execCircuitStep_absent rfl rfl hm hrun,
      fun hk hp hpop hemit hport => execCircuitStep_performs rfl rfl hm hrun hk hp (State.cirHolds_of_ready hpop hemit hport),
      State.cirTurn?_due, fun k => execCircuitControlForward_forwards rfl rfl hm hrun⟩
  · intro s t a o c m arr pm r
    exact execConversionComplete_halts rfl

end Sys2Proof.Machine
end

section
/-! SUPPORT. Fences, event-queue waits and spill words as a pass of one thread executes them (O11). -/
namespace Sys2Proof.Machine

/-- A pass of one thread that can execute, outside a trap block, and takes a fault: the thread leaves the pass with it. -/
theorem withPass_faults {s s1 : State} {g : Guard} {c : Ctx} {v : SetState} {chk : SetState → Ctx → Option (BitVec 8)} {marks : List Mark}
    {serve : Ctx → State → Serve} {f : FaultInfo} (h : s.solo? g = some (c, v)) (hc : chk v { c with tid := 0 } = none)
    (hmode : c.mode ≠ .trap) (hserve : serve c s = .fault s1 f) :
    withPass s g chk marks serve = .next (passLeft c (s1.threadFault c.tile c.set c.tid c.blk c.idx c.loops false f)) := by
  have hb : (c.mode == .trap) = false := beq_false_of_ne hmode
  simp only [withPass_solo h hc, hserve, hb, Bool.false_eq_true, if_false]
  rfl

theorem chkNone_none (v : SetState) (c : Ctx) : chkNone v c = none := rfl

/-- What a fence does to its thread (R305): later accesses of the masked classes come after `ns`, and a token block's commands after what
the thread knows for the whole part. -/
theorem serveFence_orders (lvl : Nat) (mask : BitVec 16) (c : Ctx) (s : State) :
    let ns := s.known c.tile c.set c.tid mask lvl
    serveFence lvl mask c s = .ok
      ((if lvl = 4 then (s.coverWrites c.tile c.set c.tid mask ns).drainAnswered else s).modThread c.tile c.set c.tid (fun th =>
        let kept := (th.after.map (fun x : BitVec 16 × List Need => (x.1, s.live x.2))).filter (fun x => !x.2.isEmpty)
        let since := if th.after.all (fun x => (s.live x.2).length == x.2.length) then th.since else s.tick
        { th with after := if ns.isEmpty then kept else kept ++ [(mask, ns)],
                  fenced := if c.mode = .token then s.live th.fenced ++ s.known c.tile c.set c.tid mask 4 else s.live th.fenced,
                  since := max since th.seen })) none := by
  intro ns
  simp only [serveFence, State.recall, Thread.orderAfter, beq_iff_eq, ns]
  cases (s.known c.tile c.set c.tid mask lvl).isEmpty <;> rfl

theorem Scope.level_eq_four_iff {scope : Scope} : Scope.level scope = 4 ↔ scope = .device ∨ scope = .domain := by
  cases scope <;> decide

/-- A spill word that is not among those of its thread, in the terms of the check (R164). -/
theorem spillRange_fails {en : Bool} {n words : Nat} (h : (en && decide (n < words)) = false) : (!en || decide (words ≤ n)) = true := by
  simpa [imp_iff_not_or] using h

section
variable {s : State} {g : Guard} {c : Ctx} {v : SetState} (h : s.solo? g = some (c, v))
include h

section
variable {a : BitVec 5} {n : Nat} (hp : s.opdPoison c v.ent false (.x a) = none)
include hp

theorem serveSpill_moves (hen : spEn v.regs.spmap = true) (hn : n < spWords v.regs.spmap)
    (hheld : spAcs v.regs.spmap = true → (s.tile c.tile).heldFor = none) :
    let x := s.tile c.tile
    let w := spillWord v.regs.spmap v.ent c.tid n
    let val := s.xReg c.tile v.ent c.tid a.toNat
    serveSpill a n c s = .ok (if spAcs v.regs.spmap then
        s.putTile c.tile { x with acs := SMap.put 0 x.acs w val, acsPoison := NSet.drop x.acsPoison w }
      else s.putLvs c.tile w val) none := by
  obtain ⟨-, -, -, -, -, -, -, hg, hsh, -, -, hv⟩ := State.solo?_spec h
  simp only [serveSpill, hv, SetState.pendingOn_of_groupsOf hg hsh, hp, hen]
  cases hacs : spAcs v.regs.spmap
  · simp [Nat.not_le.mpr hn]
  · simp [Nat.not_le.mpr hn, hheld hacs]

theorem serveSpill_range (hbad : (spEn v.regs.spmap && decide (n < spWords v.regs.spmap)) = false) :
    serveSpill a n c s = .fault s { code := Code.tileRange, w1 := BitVec.ofNat 64 n } := by
  obtain ⟨-, -, -, -, -, -, -, hg, hsh, -, -, hv⟩ := State.solo?_spec h
  simp [serveSpill, hv, SetState.pendingOn_of_groupsOf hg hsh, hp, spillRange_fails hbad]

theorem serveSpill_held (hen : spEn v.regs.spmap = true) (hn : n < spWords v.regs.spmap) (hacs : spAcs v.regs.spmap = true)
    (hheld : (s.tile c.tile).heldFor.isSome = true) : serveSpill a n c s = .fault s { code := Code.slotState } := by
  obtain ⟨-, -, -, -, -, -, -, hg, hsh, -, -, hv⟩ := State.solo?_spec h
  simp [serveSpill, hv, SetState.pendingOn_of_groupsOf hg hsh, hp, hen, Nat.not_le.mpr hn, hacs, hheld]

end

variable {d : BitVec 5} {n : Nat}

theorem serveFill_moves (hen : spEn v.regs.spmap = true) (hn : n < spWords v.regs.spmap)
    (hheld : spAcs v.regs.spmap = true → (s.tile c.tile).heldFor = none) :
    let x := s.tile c.tile
    let w := spillWord v.regs.spmap v.ent c.tid n
    (if spAcs v.regs.spmap then NSet.has x.acsPoison w else NSet.has x.lvsPoison w) = false →
    serveFill d n c s = .ok s (some ⟨c.tid, some (.x d), false, 0, 0,
      .value ((if spAcs v.regs.spmap then SMap.get 0 x.acs w else s.lvs c.tile w).setWidth 64), false⟩) := by
  intro x w hclean
  obtain ⟨-, -, -, -, -, -, -, hg, hsh, -, -, hv⟩ := State.solo?_spec h
  have hfree : (spAcs v.regs.spmap && (s.tile c.tile).heldFor.isSome) = false := by
    cases hacs : spAcs v.regs.spmap
    · rfl
    · simp [hheld hacs]
  simp only [serveFill, hv, SetState.pendingOn_of_groupsOf hg hsh, hen, hfree, Nat.not_le.mpr hn, List.isEmpty_nil, Bool.not_true,
    decide_false, Bool.or_self, Bool.false_eq_true, if_false, hclean, x, w]

theorem serveFill_range (hbad : (spEn v.regs.spmap && decide (n < spWords v.regs.spmap)) = false) :
    serveFill d n c s = .fault s { code := Code.tileRange, w1 := BitVec.ofNat 64 n } := by
  obtain ⟨-, -, -, -, -, -, -, hg, hsh, -, -, hv⟩ := State.solo?_spec h
  simp [serveFill, hv, SetState.pendingOn_of_groupsOf hg hsh, spillRange_fails hbad]

theorem serveFill_held (hen : spEn v.regs.spmap = true) (hn : n < spWords v.regs.spmap) (hacs : spAcs v.regs.spmap = true)
    (hheld : (s.tile c.tile).heldFor.isSome = true) : serveFill d n c s = .fault s { code := Code.slotState } := by
  obtain ⟨-, -, -, -, -, -, -, hg, hsh, -, -, hv⟩ := State.solo?_spec h
  simp [serveFill, hv, SetState.pendingOn_of_groupsOf hg hsh, hen, Nat.not_le.mpr hn, hacs, hheld]

end

/-- Settles O11: the pass serves its one thread, by the branch of the service that the state of the spill words or of the event queue names. -/
theorem fenceWaitSpillResults : Obligations.FenceWaitSpillResults := by
  unfold Obligations.FenceWaitSpillResults
  refine ⟨fun s c v g scope mask h => ?_, fun s c v g n k h hk => ?_, fun s c v g a n h => ?_,
    fun s c v g d n h => ?_, fun s c v g a d n h hmode => ?_⟩
  · intro lvl ns covered
    have hlvl : Scope.level scope = lvl := by cases scope <;> rfl
    have hcov : (if lvl = 4 then (s.coverWrites c.tile c.set c.tid mask ns).drainAnswered else s) = covered := by
      simp only [← hlvl, Scope.level_eq_four_iff, covered]
    simp only [exec_fence, execFence, withPass_solo h (chkNone_none _ _), hlvl, serveFence_orders, hcov, ns]
  · simp [exec_eqWait, execEqWait, withPass_solo h (chkNone_none _ _), serveEqWait, hk]
  · intro x w val hen hn hp hheld
    simp only [exec_spill, execSpill, withPass_solo h (chkNone_none _ _), serveSpill_moves h hp hen hn hheld]
    rfl
  · intro x w hen hn hheld hclean
    simp only [exec_fill, execFill, withPass_solo h (chkNone_none _ _), serveFill_moves h hen hn hheld hclean]
    rfl
  · intro trap hp
    exact ⟨fun hbad => ⟨withPass_faults h (chkNone_none _ _) hmode (serveSpill_range h hp hbad),
        withPass_faults h (chkNone_none _ _) hmode (serveFill_range h hbad)⟩,
      fun hen hn hacs hheld => ⟨withPass_faults h (chkNone_none _ _) hmode (serveSpill_held h hp hen hn hacs hheld),
        withPass_faults h (chkNone_none _ _) hmode (serveFill_held h hen hn hacs hheld)⟩⟩

end Sys2Proof.Machine
end

section
/-! SUPPORT. Returns of data: what each kind of late result gives when it is called for, and what its thread and group make of it (O25). -/
namespace Sys2Proof.Machine

/-- What a member's return leaves of the state: nothing yet, the place of its access, its fault, or its datum written. -/
def Datum.settle (t o gid tid : Nat) (v : SetState) (grp : Group) (m : Member) : Datum → State
  | .wait s => s
  | .placed s l => s.relate t o gid tid l
  | .fault s f => s.lateFault t o gid grp tid f
  | .value s x => s.deliverDatum t o v grp gid m x

section
variable {s : State} {t o gid tid i : Nat} {v : SetState} {grp : Group} {m : Member} {size : LdSize} {a : Access}
variable (hv : s.set? t o = some v) (hg : v.groups.look gid = some grp)

/-! ### What a late result gives -/

theorem State.memberDatum_value {x : Double} (h : m.late = .value x ∨ m.late = .reply x) : s.memberDatum t o m = .value s x := by
  rcases h with h | h <;> simp only [State.memberDatum, h]

theorem State.memberDatum_load (h : m.late = .load i size ∨ m.late = .peer i size) : s.memberDatum t o m = s.accDatum i size := by
  rcases h with h | h <;> simp only [State.memberDatum, h]

/-- A load whose order allows it reads at one step, or fails where its place is. -/
theorem State.accDatum_ready (hl : SMap.look s.accs i = some a) (hr : s.accReady a = true) :
    s.accDatum i size = match s.accRead a (s.readStep a) with
      | .ok n => .value ((s.finish i (s.readOrder a)).sawAt a.tile a.set a.tid ((s.readStep a).elim s.tick (· - 1)) a.acq) (extendLoad size n)
      | .error code => .fault (s.dropAcc i) (s.accFault a code) := by
  cases hread : s.accRead a (s.readStep a) <;> simp only [State.accDatum, hl, hr, hread, Bool.not_true, Bool.false_eq_true, if_false]

/-- An access that missed is placed again. -/
theorem State.memberDatum_place (h : m.late = .place i size) (hl : SMap.look s.accs i = some a) :
    s.memberDatum t o m = match s.placeAcc i a with
      | .fault s1 f => .fault s1 f
      | .wait s1 _ => .wait s1
      | .ok s1 x => .placed s1 (if x.mtype = .peer then .peer i size else .load i size) := by
  cases hplace : s.placeAcc i a <;> simp only [State.memberDatum, h, hl, hplace, beq_iff_eq]

theorem State.memberDatum_sregWr {w : Word} {r : SReg} {x : Double} (h : m.late = .sregWr w r x i)
    (hr : (SMap.look s.accs i).all s.accReady = true) :
    s.memberDatum t o m = .value ((s.answered i).lateSregWr t o w r x).1 (if ((s.answered i).lateSregWr t o w r x).2 then 1 else 0) := by
  simp only [State.memberDatum, h, hr, Bool.not_true, Bool.false_eq_true, if_false]

/-! ### What becomes of it -/

include hv hg in
theorem execReturnDatum_settles (hm : grp.members.find? (fun m => m.tid == tid && !m.done) = some m) :
    execReturnDatum t o gid tid s = .next ((s.memberDatum t o m).settle t o gid tid v grp m) := by
  cases hd : s.memberDatum t o m <;> simp only [execReturnDatum, hv, hg, hm, hd, Datum.settle]

include hv hg in
theorem execReturnGroupComplete_clears (hd : grp.members.all Member.done = true) :
    execReturnGroupComplete t o gid s = .next (s.putSet t o { v with groups := v.groups.erase gid }) := by
  simp only [execReturnGroupComplete, hv, hg, hd, if_true]

include hv in
/-- The one access that a set waits for has gone to another node, whose reply does not come (R262). -/
theorem execPeerTimeout_faults {dev pa : Nat} (hone : v.groups = [(gid, grp)]) (hmem : grp.members = [m]) (ht : m.tid = tid) (hd : m.done = false)
    (h : m.late = .peer i size ∨ m.late = .check i) (hl : SMap.look s.accs i = some a) (hpeer : a.loc = .peer dev pa) :
    execPeerTimeout t o tid s = .next ((s.dropAcc i).lateFault t o gid grp tid (s.accFault a Code.memPoison)) := by
  rcases h with h | h <;> simp [execPeerTimeout, hv, hone, hmem, h, hl, hpeer, ht, hd]

end

/-- Settles O25: a member's return is what its late result gives, settled; a set that waits for one access of another node finds it alone. -/
theorem dataReturn : Obligations.DataReturn := by
  unfold Obligations.DataReturn
  intro s t o gid v grp hv hg
  refine ⟨execReturnGroupComplete_clears hv hg, fun m tid hm => ?_, fun tid i m a dev pa size hone hmem ht hd h hl hpeer =>
    execPeerTimeout_faults hv hone hmem ht hd h hl hpeer⟩
  have hret : exec (.returnDatum t o gid tid) s = .next ((s.memberDatum t o m).settle t o gid tid v grp m) := execReturnDatum_settles hv hg hm
  rw [hret]
  refine ⟨fun x h => ?_, fun i size a h hl hr => ?_, fun i size a h hl => ?_, fun r w x i h hr => ?_⟩
  · rw [State.memberDatum_value h]
    rfl
  · rw [State.memberDatum_load h, State.accDatum_ready hl hr]
    dsimp only
    cases s.accRead a (s.readStep a) <;> rfl
  · rw [State.memberDatum_place h hl]
    cases s.placeAcc i a <;> rfl
  · rw [State.memberDatum_sregWr h hr]
    rfl

end Sys2Proof.Machine
end

section
/-! SUPPORT. Traps of an instruction whose check fails or that reads poison, and what taking a thread fault saves and leaves (O57). -/
namespace Sys2Proof.Machine

/-! ### A set of the active plane, changed -/

section
variable {s : State} {t o : Nat}

/-- A tile with an active plane is listed. -/
theorem State.look_tile_of_active {p : Plane} (h : (s.tile t).active = some p) : SMap.look s.tiles t = some (s.tile t) := by
  unfold State.tile SMap.get at h ⊢
  cases hl : SMap.look s.tiles t with
  | none => rw [hl] at h; cases h
  | some x => rfl

/-- A plane put back on a tile that has one is an update of a listed tile, which needs no canonical form. -/
theorem State.putTile_active {x : Tile} {p : Plane} (hx : x.active = some p) : s.putTile t x = { s with tiles := s.tiles.insert t x } := by
  have hne : x ≠ Tile.reset := fun e => by rw [e] at hx; cases hx
  simp only [State.putTile, SMap.put, hne, if_false]

theorem State.modSet_eq {v : SetState} (hs : s.set? t o = some v) (f : SetState → SetState) : ∃ p, (s.tile t).active = some p ∧
    SMap.look p.sets o = some v ∧
    s.modSet t o f = { s with tiles := s.tiles.insert t { s.tile t with active := some (p.putSet o (f v)) } } := by
  obtain ⟨p, hp, hv⟩ := Option.bind_eq_some_iff.mp hs
  refine ⟨p, hp, hv, ?_⟩
  simp only [State.modSet, hs, State.putSet, hp]
  exact State.putTile_active rfl

theorem State.modSet_absent (hs : s.set? t o = none) (f : SetState → SetState) : s.modSet t o f = s := by
  simp only [State.modSet, hs]

theorem State.tile_insert_same (s : State) (t : Nat) (x : Tile) : State.tile { s with tiles := s.tiles.insert t x } t = x := by
  simp only [State.tile, SMap.get, SMap.look_insert_same, Option.getD_some]

/-- A change of a set is one of the active plane of its tile. -/
theorem State.tile_modSet_same (s : State) (t o : Nat) (f : SetState → SetState) :
    ∃ p, (s.modSet t o f).tile t = { s.tile t with active := p } := by
  cases hs : s.set? t o with
  | none => exact ⟨_, by rw [State.modSet_absent hs]⟩
  | some v =>
    obtain ⟨p, -, -, he⟩ := State.modSet_eq hs f
    exact ⟨_, by rw [he, State.tile_insert_same]⟩

theorem State.tile_modSet_other {u : Nat} (hu : u ≠ t) (f : SetState → SetState) : (s.modSet t o f).tile u = s.tile u := by
  cases hs : s.set? t o with
  | none => rw [State.modSet_absent hs]
  | some v =>
    obtain ⟨p, hp, -, he⟩ := State.modSet_eq hs f
    simp only [he, State.tile, SMap.get, SMap.look_insert_listed (State.look_tile_of_active hp) _ hu]

theorem State.set?_modSet_same (s : State) (t o : Nat) (f : SetState → SetState) : (s.modSet t o f).set? t o = (s.set? t o).map f := by
  cases hs : s.set? t o with
  | none => rw [State.modSet_absent hs, hs]; rfl
  | some v =>
    obtain ⟨p, -, -, he⟩ := State.modSet_eq hs f
    simp only [State.set?, he, State.tile_insert_same, Option.bind_some, Plane.putSet, SMap.look_insert_same, Option.map_some]

theorem State.set?_modSet_other {k : Nat} (hk : k ≠ o) (f : SetState → SetState) : (s.modSet t o f).set? t k = s.set? t k := by
  cases hs : s.set? t o with
  | none => rw [State.modSet_absent hs]
  | some v =>
    obtain ⟨p, hp, hv, he⟩ := State.modSet_eq hs f
    simp only [State.set?, he, State.tile_insert_same, Option.bind_some, Plane.putSet, SMap.look_insert_listed hv _ hk, hp]

theorem State.lvs_modSet (s : State) (t o : Nat) (f : SetState → SetState) (w : Nat) : (s.modSet t o f).lvs t w = s.lvs t w := by
  obtain ⟨p, hp⟩ := s.tile_modSet_same t o f
  simp only [State.lvs, hp]

end

/-! ### Taking a thread fault (R223) -/

/-- A record joins the faulted vector of a set with a trap block, which counts it. -/
def SetState.record (v : SetState) (e : FaultEntry) : SetState := { v with faulted := v.faulted ++ [{ e with forwarded := false }] }.count 0x0A 1

/-- The record of a thread's fault (R226). -/
def State.threadRecord (s : State) (t o tid blk idx : Nat) (v : SetState) (f : FaultInfo) : FaultEntry :=
  ⟨recWord0 f {} t o tid blk idx, f.w1, recWord2 (s.blockNode t o blk) v.eoiInvoc, recWord3 f, false, tid, false⟩

section
variable {s : State} {t o tid : Nat} {v : SetState} {th : Thread} (hs : s.set? t o = some v) (hth : v.threads.look tid = some th)
include hs hth

theorem State.set?_modThread_same (f : Thread → Thread) : (s.modThread t o tid f).set? t o = some (v.putThread tid (f th)) := by
  simp only [State.modThread, State.set?_modSet_same, hs, Option.map_some, hth]

/-- A set with a trap block handles its own records: a thread's fault is a change of its set alone (R228). -/
theorem State.threadFault_eq (htrap : v.hasTrap = true) (blk idx : Nat) (loops : Loops) (f : FaultInfo) :
    s.threadFault t o tid blk idx loops false f =
      (s.modThread t o tid (fun th => { th with place := .faulted blk idx, loops := loops })).modSet t o
        (fun w => w.record (s.threadRecord t o tid blk idx v f)) := by
  have hparked := State.set?_modThread_same hs hth (fun th => { th with place := .faulted blk idx, loops := loops })
  have hkeeps : (v.putThread tid { th with place := .faulted blk idx, loops := loops }).hasTrap = true := htrap
  simp only [State.threadFault, Bool.false_eq_true, if_false, hs, State.enterVector, State.modSet, hparked, hkeeps, if_true,
    Bool.not_true]
  rfl

theorem State.set?_threadFault (htrap : v.hasTrap = true) {blk idx : Nat} {loops : Loops} {f : FaultInfo} :
    (s.threadFault t o tid blk idx loops false f).set? t o =
      some ((v.putThread tid { th with place := .faulted blk idx, loops := loops }).record (s.threadRecord t o tid blk idx v f)) := by
  rw [State.threadFault_eq hs hth htrap, State.set?_modSet_same, State.set?_modThread_same hs hth, Option.map_some]

end

/-! ### A pass whose check fails -/

section
variable {s : State} {g : Guard} {c : Ctx} {v : SetState} (h : s.solo? g = some (c, v)) (hmode : c.mode ≠ .trap)
include h hmode

/-- The one thread of a pass takes the trap of the check that fails (R278). -/
theorem withPass_traps {chk : SetState → Ctx → Option (BitVec 8)} {marks : List Mark} {serve : Ctx → State → Serve} {code : BitVec 8}
    (hc : chk v { c with tid := 0 } = some code) : withPass s g chk marks serve =
      .next (passLeft c (s.threadFault c.tile c.set c.tid c.blk c.idx c.loops false { code := code })) := by
  obtain ⟨w, p, th, hf, ht, hd, hth, hg, hsh, hgd, hctx, hs⟩ := State.solo?_spec h
  have hb : (c.mode == .trap) = false := beq_false_of_ne hmode
  have hstores : s.storesOf c = [] := by
    simp only [State.storesOf, hs, Option.map_some, Option.getD_some, SetState.storePending_of_groupsOf hg]
  simp only [withPass, hf, ← hctx, hc, ht, List.foldl_cons, List.foldl_nil, trapPass, hstores, hb]
  rfl

omit hmode in
/-- An instruction on registers alone takes MEM_POISON at the first of its sources that is poisoned (R159). -/
theorem serveLane_poisoned {sp : LaneSpec} {w : Nat} (hins : popEnds v.ent sp.srcs = [])
    (hout : sp.dst.bind (fun x => (x.o.outEnd v.ent).map (fun e => (e, x))) = none)
    (hw : sp.srcs.findSome? (fun x => s.opdPoison c v.ent x.wide x.o) = some w) : serveLane sp c s = .fault s (lvsFault w) := by
  obtain ⟨-, -, -, -, -, -, -, hg, hsh, -, -, hs⟩ := State.solo?_spec h
  simp [serveLane, hs, SetState.pendingOn_of_groupsOf hg hsh, hins, hout, State.pops, hw, lvsFault]

end

/-! ### The checks of R278 -/

section
variable {v : SetState} {c : Ctx}

theorem chkAll_first {f : SetState → Ctx → Option (BitVec 8)} {l : List (SetState → Ctx → Option (BitVec 8))} {code : BitVec 8}
    (h : f v c = some code) : chkAll (f :: l) v c = some code := by
  simp only [chkAll, List.findSome?_cons, h]

theorem chkAll_next {f : SetState → Ctx → Option (BitVec 8)} {l : List (SetState → Ctx → Option (BitVec 8))}
    (h : f v c = none) : chkAll (f :: l) v c = chkAll l v c := by
  simp only [chkAll, List.findSome?_cons, h]

theorem chkSup_fails (h : v.supervisor = false) : chkSup v c = some Code.privilege := by
  simp only [chkSup, h, Bool.false_eq_true, if_false]

theorem chkType_fails {types : List SetType} {modes : List BlockMode} (h : v.ent.typ ∉ types ∨ c.mode ∉ modes) :
    chkType types modes v c = some Code.typeViolation := by
  rcases h with h | h <;> simp [chkType, h]

/-- An engine command is checked for the privilege, where it needs one, then for an AG set's token block (R307). -/
theorem chkCommand_fails {sup : Bool} (hsup : sup = true → v.supervisor = true) (h : v.ent.typ ≠ .ag ∨ c.mode ≠ .token) :
    chkAll ((if sup then [chkSup] else []) ++ [chkType [.ag] [.token]]) v c = some Code.typeViolation := by
  have htype : chkType [.ag] [.token] v c = some Code.typeViolation := chkType_fails (by simpa using h)
  cases sup
  · exact chkAll_first htype
  · have hpass : chkSup v c = none := by simp only [chkSup, hsup rfl, if_true]
    exact (chkAll_next hpass).trans (chkAll_first htype)

end

/-- Every engine command enters its queue by one operation, under its own guard. -/
theorem exec_queued {i : Instr} {m : SCom} {desc : Option (BitVec 4)} {sup waits : Bool} (h : queued? i = some (m, desc, sup, waits)) :
    exec i = enterExec i m desc sup waits ∧ i.guard = m.g := by
  unfold queued? at h
  split at h <;> cases h <;> exact ⟨rfl, rfl⟩

/-- A supervisor instruction tests the ends that it names, then the privilege. -/
theorem exec_privileged {i : Instr} {a d : List Opd} (h : privileged? i = some (a, d)) (s : State) :
    ∃ chk marks serve, exec i s = withPass s i.guard chk marks serve ∧
      ∀ v c, chkEnds a d v c = none → v.supervisor = false → chk v c = some Code.privilege := by
  unfold privileged? at h
  split at h <;> cases h
  -- sreg.wr and cap.wr
  case h_1 | h_2 => exact ⟨_, _, _, rfl, fun v c _ hv => chkSup_fails hv⟩
  -- cfg.sel of another tile and nmq.poll, which name ends
  case h_3 | h_8 => exact ⟨_, _, _, rfl, fun v c he hv => (chkAll_next he).trans (chkAll_first (chkSup_fails hv))⟩
  -- the commands
  all_goals exact ⟨_, _, _, rfl, fun v c _ hv => chkAll_first (chkSup_fails hv)⟩

/-- Settles O57: the check that fails gives its trap, and a thread's fault is a change of its set alone. -/
theorem trapsAndThreadFaults : Obligations.TrapsAndThreadFaults := by
  unfold Obligations.TrapsAndThreadFaults
  refine ⟨fun s c v i h hmode => ?_, fun s t o tid blk idx loops f v th hs hth htrap => ?_⟩
  · intro trap
    refine ⟨fun a d hi he hv => ?_, fun m d sup waits hi hsup hhome => ?_, fun g z d m hi ht => ?_, fun g z d m hi ht => ?_,
      fun g ty d a b hi hbits hpoison => ?_⟩
    · obtain ⟨chk, marks, serve, hx, hchk⟩ := exec_privileged hi s
      exact hx.trans (withPass_traps h hmode (hchk _ _ he hv))
    · obtain ⟨hx, hguard⟩ := exec_queued hi
      rw [hx]
      exact withPass_traps (hguard ▸ h) hmode (chkCommand_fails hsup hhome)
    · have htype : v.ent.typ ∉ [SetType.ag] := by simpa using ht
      rcases hi with rfl | rfl | rfl | rfl <;> exact withPass_traps h hmode (chkAll_first (chkType_fails (.inl htype)))
    · have htype : v.ent.typ ∉ [SetType.cp, .rd] := by simp [ht]
      rcases hi with rfl | rfl | rfl | rfl <;> exact withPass_traps h hmode (chkAll_first (chkType_fails (.inl htype)))
    · subst hi
      have hends : chkEnds [.x a, .x b] [.x d] v { c with tid := 0 } = none := by simp [chkEnds, Opd.inEnd, Opd.outEnd]
      have hfirst : s.opdPoison c v.ent ty.wide (.x a) = some (v.ent.xWord c.tid a.toNat) := by simp [State.opdPoison, hpoison]
      exact withPass_faults h hends hmode (serveLane_poisoned h (by rfl) (by rfl) (by simp [iOpd, hfirst]))
  · intro s1
    have hset : s1.set? t o =
        some ((v.putThread tid { th with place := .faulted blk idx, loops := loops }).record (s.threadRecord t o tid blk idx v f)) :=
      State.set?_threadFault hs hth htrap
    have heq := State.threadFault_eq hs hth htrap blk idx loops f
    refine ⟨?_, ?_, ?_, fun u hu => ?_, fun q hq => ?_, fun w => ?_⟩
    · simp only [State.thread?, hset, Option.bind_some, SetState.record, SetState.count, SetState.putThread, SMap.look_insert_same]
    · rw [hset]
      rfl
    · simp only [s1, heq, State.modSet_mem, State.modThread_mem]
    · simp only [s1, heq, State.modThread, State.tile_modSet_other hu]
    · simp only [State.thread?, hset, hs, Option.bind_some, SetState.record, SetState.count, SetState.putThread, SMap.look_insert_listed hth _ hq]
    · simp only [s1, heq, State.modThread, State.lvs_modSet]

end Sys2Proof.Machine
end

section
/-! SUPPORT. The frame of an instruction on operands: what its pops, its one write and the end of its pass leave as it is (O59). -/
namespace Sys2Proof.Machine

/-! ### What is kept -/

/-- What a tile stores beside its registers and its sets. -/
def Tile.storage (x : Tile) := (x.mem, x.opmem, x.acs, x.pool, x.eq, x.arrs, x.cube, x.slots)

/-- What the part holds beside its tiles and channels. -/
def State.machine (s : State) := (s.mem, s.poison, s.keys, s.cfg, s.regions, s.accs, s.xlat, s.units, s.nodes)

theorem Tile.storage_eq_iff {x y : Tile} : y.storage = x.storage ↔ y.mem = x.mem ∧ y.opmem = x.opmem ∧ y.acs = x.acs ∧ y.pool = x.pool ∧
    y.eq = x.eq ∧ y.arrs = x.arrs ∧ y.cube = x.cube ∧ y.slots = x.slots := by
  simp only [Tile.storage, Prod.mk.injEq]

theorem State.machine_eq_iff {s t : State} : t.machine = s.machine ↔ t.mem = s.mem ∧ t.poison = s.poison ∧ t.keys = s.keys ∧ t.cfg = s.cfg ∧
    t.regions = s.regions ∧ t.accs = s.accs ∧ t.xlat = s.xlat ∧ t.units = s.units ∧ t.nodes = s.nodes := by
  simp only [State.machine, Prod.mk.injEq]

/-- `s'` is `s` but for the channels, and in tile `t` for the LVS and set `o`. -/
structure State.Frame (t o : Nat) (s s' : State) : Prop where
  machine : s'.machine = s.machine
  otherTiles : ∀ u, u ≠ t → s'.tile u = s.tile u
  storage : (s'.tile t).storage = (s.tile t).storage
  otherSets : ∀ k, k ≠ o → s'.set? t k = s.set? t k

/-- A frame that keeps the LVS of the tile too, and of the set its threads and shared registers. -/
structure State.Quiet (t o : Nat) (s s' : State) : Prop extends State.Frame t o s s' where
  lvs : ∀ w, s'.lvs t w = s.lvs t w
  threads : ∀ q, s'.thread? t o q = s.thread? t o q
  sreg : (s'.set? t o).map SetState.sreg = (s.set? t o).map SetState.sreg
  k : (s'.set? t o).map SetState.k = (s.set? t o).map SetState.k

/-- A frame that keeps the LVS and the whole set, and gives no number to an access or a group: channels have moved, and what the tile notes
of them. -/
structure State.Still (t o : Nat) (s s' : State) : Prop extends State.Frame t o s s' where
  lvs : ∀ w, s'.lvs t w = s.lvs t w
  own : s'.set? t o = s.set? t o
  nextId : s'.nextId = s.nextId

section
variable {t o : Nat} {s s' s'' : State}

theorem State.Frame.refl (t o : Nat) (s : State) : s.Frame t o s := ⟨rfl, fun _ _ => rfl, rfl, fun _ _ => rfl⟩

theorem State.Frame.trans (h : s.Frame t o s') (h' : s'.Frame t o s'') : s.Frame t o s'' where
  machine := h'.machine.trans h.machine
  otherTiles u hu := (h'.otherTiles u hu).trans (h.otherTiles u hu)
  storage := h'.storage.trans h.storage
  otherSets k hk := (h'.otherSets k hk).trans (h.otherSets k hk)

theorem State.Quiet.refl (t o : Nat) (s : State) : s.Quiet t o s := ⟨.refl .., fun _ => rfl, fun _ => rfl, rfl, rfl⟩

theorem State.Quiet.trans (h : s.Quiet t o s') (h' : s'.Quiet t o s'') : s.Quiet t o s'' where
  toFrame := h.toFrame.trans h'.toFrame
  lvs w := (h'.lvs w).trans (h.lvs w)
  threads q := (h'.threads q).trans (h.threads q)
  sreg := h'.sreg.trans h.sreg
  k := h'.k.trans h.k

theorem State.Still.refl (t o : Nat) (s : State) : s.Still t o s := ⟨.refl .., fun _ => rfl, rfl, rfl⟩

theorem State.Still.trans (h : s.Still t o s') (h' : s'.Still t o s'') : s.Still t o s'' where
  toFrame := h.toFrame.trans h'.toFrame
  lvs w := (h'.lvs w).trans (h.lvs w)
  own := h'.own.trans h.own
  nextId := h'.nextId.trans h.nextId

theorem State.Still.quiet (h : s.Still t o s') : s.Quiet t o s' where
  toFrame := h.toFrame
  lvs := h.lvs
  threads q := by simp only [State.thread?, h.own]
  sreg := by rw [h.own]
  k := by rw [h.own]

/-! ### What keeps it -/

/-- A state with the same tiles. -/
theorem State.still_tiles (ht : s'.tiles = s.tiles) (hm : s'.machine = s.machine) (hn : s'.nextId = s.nextId) : s.Still t o s' := by
  have htile (u : Nat) : s'.tile u = s.tile u := by simp only [State.tile, ht]
  have hset (k : Nat) : s'.set? t k = s.set? t k := by simp only [State.set?, htile]
  exact ⟨⟨hm, fun u _ => htile u, by rw [htile], fun k _ => hset k⟩, fun w => by simp only [State.lvs, htile], hset o, hn⟩

theorem State.still_putChan {n : Nat} {c : Chan} : s.Still t o (s.putChan n c) := State.still_tiles rfl rfl rfl

/-- A tile put back with its storage and its plane. -/
theorem State.frame_putTile (h : s.canon = true) {x : Tile} (hx : x.storage = (s.tile t).storage) (ha : x.active = (s.tile t).active) :
    s.Frame t o (s.putTile t x) ∧ ∀ k, (s.putTile t x).set? t k = s.set? t k := by
  have hset (k : Nat) : (s.putTile t x).set? t k = s.set? t k := by simp only [State.set?, State.tile_putTile_same h, ha]
  exact ⟨⟨rfl, fun u hu => State.tile_putTile_other h x hu, by rw [State.tile_putTile_same h, hx], fun k _ => hset k⟩, hset⟩

theorem State.still_pass (h : s.canon = true) {e : Nat} : s.Still t o (s.pass t e) := by
  obtain ⟨hf, hset⟩ := State.frame_putTile (o := o) (x := { s.tile t with passed := NSet.add (s.tile t).passed e }) h rfl rfl
  exact ⟨hf, fun w => by simp only [State.pass, State.lvs, State.tile_putTile_same h], hset o, rfl⟩

theorem State.still_popAt (h : s.canon = true) {e : Nat} : s.Still t o (s.popAt t e) := by
  unfold State.popAt
  split
  · split
    · exact State.still_putChan.trans (State.still_pass (State.canon_putChan h ..))
    · exact State.still_putChan
  · exact .refl ..

theorem State.still_reserve {e : Nat} : s.Still t o (s.reserve t e) := by
  unfold State.reserve
  split
  · exact State.still_putChan
  · exact .refl ..

theorem State.still_pushFrom {src : Option (Nat × Nat)} {e : Nat} {k : Token} : s.Still t o (s.pushFrom src t e k) := by
  unfold State.pushFrom
  split
  · exact State.still_putChan
  · exact .refl ..

theorem State.frame_modSet (f : SetState → SetState) : s.Frame t o (s.modSet t o f) where
  machine := by simp only [State.machine, State.modSet_mem, State.modSet_poison, State.modSet_keys, State.modSet_cfg, State.modSet_regions,
    State.modSet_accs, State.modSet_xlat, State.modSet_units, State.modSet_nodes]
  otherTiles u hu := State.tile_modSet_other hu f
  storage := by
    obtain ⟨p, hp⟩ := s.tile_modSet_same t o f
    rw [hp]
    rfl
  otherSets k hk := State.set?_modSet_other hk f

theorem State.quiet_modSet {f : SetState → SetState} (hf : ∀ v, (f v).threads = v.threads ∧ (f v).sreg = v.sreg ∧ (f v).k = v.k) :
    s.Quiet t o (s.modSet t o f) := by
  refine ⟨State.frame_modSet f, State.lvs_modSet s t o f, fun q => ?_, ?_, ?_⟩
  all_goals
    simp only [State.thread?, State.set?_modSet_same]
    cases s.set? t o with
    | none => rfl
    | some v => simp [hf v]

end

/-! ### The pops and the end of a pass -/

section
variable {s : State} {c : Ctx} {v : SetState} {srcs : List Operand}

theorem State.still_takeOperands (h : s.canon = true) : s.Still c.tile c.set (s.takeOperands c v srcs) := by
  unfold State.takeOperands
  generalize popEnds v.ent srcs = l
  induction l generalizing s with
  | nil => exact .refl ..
  | cons p l ih => exact (State.still_popAt h).trans (ih (State.canon_popAt h))

theorem State.canon_takeOperands (h : s.canon = true) : (s.takeOperands c v srcs).canon = true :=
  State.canon_foldl h fun hs => State.canon_popAt hs

theorem State.takeOperands_nil (h : popEnds v.ent srcs = []) : s.takeOperands c v srcs = s := by
  simp only [State.takeOperands, h, List.foldl_nil]

/-- A return group joins those of its set. -/
def SetState.addGroup (v : SetState) (id : Nat) (k : Group) : SetState := { v with groups := v.groups.insert id k }

/-- A pass that has members makes one group of them. -/
theorem State.newGroup_eq {marks : List Mark} {ms : List Member} (h : ms ≠ []) : ∃ k : Group, k.members = ms ∧ k.marks = marks ∧
    s.newGroup c marks ms = { s.modSet c.tile c.set (fun v => v.addGroup s.nextId k) with nextId := s.nextId + 1 } := by
  refine ⟨⟨c.blk, c.idx, marks, ms, c.loops, c.mode == .trap, s.firingOf c.tile c.set c.blk⟩, rfl, rfl, ?_⟩
  simp only [State.newGroup, List.isEmpty_eq_false_iff.mpr h, Bool.false_eq_true, if_false]
  rfl

theorem State.quiet_nextId {t o n : Nat} : s.Quiet t o { s with nextId := n } :=
  ⟨⟨rfl, fun _ _ => rfl, rfl, fun _ _ => rfl⟩, fun _ => rfl, fun _ => rfl, rfl, rfl⟩

theorem State.quiet_newGroup {marks : List Mark} {ms : List Member} : s.Quiet c.tile c.set (s.newGroup c marks ms) := by
  by_cases hms : ms = []
  · subst hms
    exact .refl ..
  · obtain ⟨k, -, -, he⟩ := s.newGroup_eq (c := c) (marks := marks) hms
    rw [he]
    exact (State.quiet_modSet (f := fun v => v.addGroup s.nextId k) fun v => ⟨rfl, rfl, rfl⟩).trans State.quiet_nextId

theorem State.chans_newGroup {marks : List Mark} {ms : List Member} : (s.newGroup c marks ms).chans = s.chans := by
  unfold State.newGroup
  split
  · rfl
  · exact State.modSet_chans ..

variable {m : Option Member} {marks : List Mark}

/-- The sweep and the counters of a set when a pass of one thread has executed. -/
def SetState.passed (v : SetState) (tid : Nat) : SetState :=
  { v with sweep := v.sweep.map (fun w : Sweep => w.setPass [tid] []) }.count 0x03 1

theorem passDone_eq : passDone c s m marks =
    ((s.modSet c.tile c.set (fun v => v.passed c.tid)).newGroup c marks m.toList).newGroup c [] (m.toList.filterMap Member.check?) := rfl

theorem quiet_passDone : s.Quiet c.tile c.set (passDone c s m marks) := by
  rw [passDone_eq]
  exact ((State.quiet_modSet (f := fun v => v.passed c.tid) fun v => ⟨rfl, rfl, rfl⟩).trans State.quiet_newGroup).trans State.quiet_newGroup

theorem chans_passDone : (passDone c s m marks).chans = s.chans := by
  rw [passDone_eq, State.chans_newGroup, State.chans_newGroup, State.modSet_chans]

theorem groups_passDone_none : ((passDone c s none marks).set? c.tile c.set).map SetState.groups = (s.set? c.tile c.set).map SetState.groups := by
  have hone : passDone c s none marks = s.modSet c.tile c.set (fun v => v.passed c.tid) := rfl
  rw [hone, State.set?_modSet_same, Option.map_map]
  rfl

/-- A pass whose late result has no check of its own makes one group (R160, R453). -/
theorem groups_passDone_some {m : Member} (hs : s.set? c.tile c.set = some v) (hm : m.check? = none) :
    ∃ k : Group, ((passDone c s (some m) marks).set? c.tile c.set).map SetState.groups = some (v.groups.insert s.nextId k) ∧ k.members = [m] ∧
      k.marks = marks := by
  have hone : passDone c s (some m) marks = (s.modSet c.tile c.set (fun v => v.passed c.tid)).newGroup c marks [m] := by
    rw [passDone_eq, Option.toList_some, List.filterMap_cons, hm]
    rfl
  obtain ⟨k, hmem, hmarks, he⟩ := State.newGroup_eq (s := s.modSet c.tile c.set (fun v => v.passed c.tid)) (c := c) (marks := marks)
    (List.cons_ne_nil m [])
  refine ⟨k, ?_, hmem, hmarks⟩
  rw [hone, he]
  change (((s.modSet c.tile c.set _).modSet c.tile c.set _).set? c.tile c.set).map _ = _
  rw [State.set?_modSet_same, State.set?_modSet_same, hs, State.modSet_nextId]
  rfl

end

/-! ### One write -/

/-- A thread of a set, changed. -/
def SetState.updThread (v : SetState) (tid : Nat) (f : Thread → Thread) : SetState :=
  match v.threads.look tid with
  | some th => v.putThread tid (f th)
  | none => v

/-- What the write of a result to a register that a set holds makes of the set: an s register, a predicate or a k bit. -/
def SetState.writeOpd (v : SetState) (o : Opd) (wide : Bool) (x : Double) (tid now : Nat) : SetState :=
  match o with
  | .s n => v.putS n.toNat (if wide then x else (x.extractLsb' 0 32).setWidth 64)
  | .q n => v.updThread tid (fun th => { th with q := if n == 7 then th.q else setBit th.q n.toNat (x.getLsbD 0) })
  | .k n => v.putK n.toNat (x.getLsbD 0) now
  | _ => v

section
variable {v : SetState} {tid : Nat} {f : Thread → Thread}

theorem State.modThread_eq (s : State) (t o tid : Nat) (f : Thread → Thread) :
    s.modThread t o tid f = s.modSet t o (fun v => v.updThread tid f) := rfl

theorem SetState.updThread_self (hf : ∀ th, f th = th) : v.updThread tid f = v := by
  unfold SetState.updThread
  split
  · next th hth => rw [hf, SetState.putThread, SMap.insert_listed hth]
  · rfl

theorem SetState.updThread_sreg : (v.updThread tid f).sreg = v.sreg := by
  unfold SetState.updThread
  split <;> rfl

theorem SetState.updThread_k : (v.updThread tid f).k = v.k := by
  unfold SetState.updThread
  split <;> rfl

theorem SetState.look_updThread_same : (v.updThread tid f).threads.look tid = (v.threads.look tid).map f := by
  unfold SetState.updThread
  split
  · next th hth => simp only [SetState.putThread, SMap.look_insert_same, hth, Option.map_some]
  · next hth => rw [hth]; rfl

theorem SetState.look_updThread_other {q : Nat} (hq : q ≠ tid) : (v.updThread tid f).threads.look q = v.threads.look q := by
  unfold SetState.updThread
  split
  · next th hth => exact SMap.look_insert_listed hth _ hq
  · rfl

theorem SMap.look_put_other {α : Type} [DecidableEq α] {d : α} {m : SMap α} (hm : SMap.wf d m = true) {n k : Nat} (x : α) (h : k ≠ n) :
    (SMap.put d m n x).look k = m.look k := by
  unfold SMap.put
  split
  · exact SMap.look_erase_other (SMap.rises_of_wf hm) h
  · exact SMap.look_insert_other (SMap.rises_of_wf hm) x h

variable {o : Opd} {wide : Bool} {x : Double} {now : Nat}

theorem SetState.writeOpd_sreg (h : ∀ n, o ≠ .s n) : (v.writeOpd o wide x tid now).sreg = v.sreg := by
  cases o with
  | s n => exact absurd rfl (h n)
  | q n => exact SetState.updThread_sreg
  | x | k | ch | pc | spec | lc => rfl

theorem SetState.look_writeOpd_sreg {n m : BitVec 4} (hnm : n ≠ m) (hw : SMap.wf (0 : Double) v.sreg = true) :
    SMap.look (v.writeOpd (.s m) wide x tid now).sreg n.toNat = SMap.look v.sreg n.toNat :=
  SMap.look_put_other hw _ (fun e => hnm (BitVec.eq_of_toNat_eq e))

theorem SetState.writeOpd_k (h : ∀ n, o ≠ .k n) : (v.writeOpd o wide x tid now).k = v.k := by
  cases o with
  | k n => exact absurd rfl (h n)
  | q n => exact SetState.updThread_k
  | x | s | ch | pc | spec | lc => rfl

theorem SetState.look_writeOpd_other {q : Nat} (hq : q ≠ tid) : (v.writeOpd o wide x tid now).threads.look q = v.threads.look q := by
  cases o with
  | q n => exact SetState.look_updThread_other hq
  | x | s | k | ch | pc | spec | lc => rfl

/-- A write changes no more of its thread than a predicate. -/
theorem SetState.look_writeOpd_same {th : Thread} (hth : v.threads.look tid = some th) :
    ∃ q, (v.writeOpd o wide x tid now).threads.look tid = some { th with q := q } ∧ ((∀ n, o ≠ .q n) → q = th.q) := by
  cases o with
  | q n => exact ⟨_, SetState.look_updThread_same.trans (by rw [hth]; rfl), fun h => absurd rfl (h n)⟩
  | x | s | k | ch | pc | spec | lc => exact ⟨th.q, hth, fun _ => rfl⟩

end

/-- `s'` is `s` but for words `ws` of the LVS of a tile. -/
structure State.WroteLvs (t o : Nat) (ws : List Nat) (s s' : State) : Prop extends State.Frame t o s s' where
  lvs : ∀ w, w ∉ ws → s'.lvs t w = s.lvs t w
  own : s'.set? t o = s.set? t o
  chans : s'.chans = s.chans

/-- What a result's write leaves: the LVS but for the words of its destination, its set but for the register that the destination names,
and, where it pushes nothing, the channels. -/
structure State.Wrote (c : Ctx) (v : SetState) (d : Operand) (x : Double) (s s' : State) : Prop extends State.Frame c.tile c.set s s' where
  lvs : ∀ w, w ∉ d.words v.ent c.tid → s'.lvs c.tile w = s.lvs c.tile w
  own : s'.set? c.tile c.set = some (v.writeOpd d.o d.wide x c.tid s.tick)
  chans : (∀ n, d.o ≠ .ch n) → (∀ n, d.o ≠ .pc n) → s'.chans = s.chans

section
variable {s : State} {c : Ctx} {v : SetState} {d : Operand} {x : Double}

theorem State.wroteLvs_putLvs (h : s.canon = true) {t o w : Nat} {ws : List Nat} (hw : w ∈ ws) (y : Word) : s.WroteLvs t o ws (s.putLvs t w y) := by
  obtain ⟨hf, hset⟩ := State.frame_putTile (t := t) (o := o) h
    (x := { s.tile t with lvs := SMap.put 0 (s.tile t).lvs w y, lvsPoison := NSet.drop (s.tile t).lvsPoison w }) rfl rfl
  exact ⟨hf, fun u hu => State.lvs_putLvs_other h y (fun e => hu ((Prod.mk.inj e).2 ▸ hw)), hset o, rfl⟩

theorem State.WroteLvs.trans {t o : Nat} {ws : List Nat} {s' s'' : State} (h : s.WroteLvs t o ws s') (h' : s'.WroteLvs t o ws s'') :
    s.WroteLvs t o ws s'' where
  toFrame := h.toFrame.trans h'.toFrame
  lvs w hw := (h'.lvs w hw).trans (h.lvs w hw)
  own := h'.own.trans h.own
  chans := h'.chans.trans h.chans

theorem State.WroteLvs.wrote {s' : State} {n : BitVec 5} (h : s.WroteLvs c.tile c.set (d.words v.ent c.tid) s')
    (hs : s.set? c.tile c.set = some v) (hd : d.o = .x n) : s.Wrote c v d x s' :=
  ⟨h.toFrame, h.lvs, by rw [h.own, hs, hd]; rfl, fun _ _ => h.chans⟩

theorem State.putSet_eq_modSet {t o : Nat} (hs : s.set? t o = some v) (w : SetState) : s.putSet t o w = s.modSet t o (fun _ => w) := by
  simp only [State.modSet, hs]

/-- A write of a register that a set holds is a change of the set. -/
theorem State.wrote_modSet {s' : State} (hs : s.set? c.tile c.set = some v) {f : SetState → SetState} (he : s' = s.modSet c.tile c.set f)
    (hf : f v = v.writeOpd d.o d.wide x c.tid s.tick) : s.Wrote c v d x s' := by
  subst he
  exact ⟨State.frame_modSet f, fun w _ => State.lvs_modSet .., by rw [State.set?_modSet_same, hs, Option.map_some, hf],
    fun _ _ => State.modSet_chans ..⟩

/-- A push, or a destination that takes no write, leaves the set as it is. -/
theorem State.wrote_still {s' : State} (hs : s.set? c.tile c.set = some v) (h : s.Still c.tile c.set s')
    (hf : v.writeOpd d.o d.wide x c.tid s.tick = v) (hc : (∀ n, d.o ≠ .ch n) → (∀ n, d.o ≠ .pc n) → s'.chans = s.chans) :
    s.Wrote c v d x s' :=
  ⟨h.toFrame, fun w _ => h.lvs w, by rw [h.own, hs, hf], hc⟩

theorem writeOpd_wrote (h : s.canon = true) (hs : s.set? c.tile c.set = some v) : s.Wrote c v d x (writeOpd c s d.wide d.tag d.o x) := by
  obtain ⟨o, wide, tag, fmt⟩ := d
  unfold writeOpd
  simp only [hs]
  cases o with
  | x n =>
    have hfirst : v.ent.xWord c.tid n.toNat ∈ Operand.words ⟨.x n, wide, tag, fmt⟩ v.ent c.tid := List.mem_cons_self
    have hlow := State.wroteLvs_putLvs (t := c.tile) (o := c.set) h hfirst (x.extractLsb' 0 32)
    cases wide with
    | false => exact hlow.wrote hs rfl
    | true =>
      have hhigh : v.ent.xWord c.tid (n.toNat + 1) ∈ Operand.words ⟨.x n, true, tag, fmt⟩ v.ent c.tid := by simp [Operand.words]
      exact (hlow.trans (State.wroteLvs_putLvs (State.canon_putLvs h ..) hhigh _)).wrote hs rfl
  | s n => exact State.wrote_modSet hs (State.putSet_eq_modSet hs _) rfl
  | q n =>
    refine State.wrote_modSet hs (f := fun w => w.writeOpd (.q n) wide x c.tid s.tick) ?_ rfl
    dsimp only
    split
    · next hn => exact (State.modSet_self fun w _ => SetState.updThread_self fun th => by simp only [hn, if_true]).symm
    · next hn => simp only [SetState.writeOpd, hn]; rfl
  | k n => exact State.wrote_modSet hs (State.putSet_eq_modSet hs _) rfl
  | ch n => exact State.wrote_still hs State.still_pushFrom rfl fun hc => absurd rfl (hc n)
  | pc n => exact State.wrote_still hs State.still_pushFrom rfl fun _ hc => absurd rfl (hc n)
  | spec | lc => exact State.wrote_still hs (.refl ..) rfl fun _ _ => rfl

end

/-! ### Results -/

section
variable {s : State} {c : Ctx} {v : SetState} {srcs : List Operand} {d : Operand}

/-- The slot that a late push holds. -/
def State.reserveOpd (s : State) (c : Ctx) (v : SetState) (d : Operand) : State := (d.o.outEnd v.ent).elim s (s.reserve c.tile)

theorem State.still_reserveOpd : s.Still c.tile c.set (s.reserveOpd c v d) := by
  unfold State.reserveOpd
  cases d.o.outEnd v.ent with
  | none => exact .refl ..
  | some e => exact State.still_reserve

theorem State.reserveOpd_register (hch : ∀ n, d.o ≠ .ch n) (hpc : ∀ n, d.o ≠ .pc n) : s.reserveOpd c v d = s := by
  have hout : d.o.outEnd v.ent = none := by
    cases ho : d.o with
    | ch n => exact absurd ho (hch n)
    | pc n => exact absurd ho (hpc n)
    | x | s | q | k | spec | lc => rfl
  simp only [State.reserveOpd, hout, Option.elim_none]

theorem resultLate_eq {sf flags : Bool} {r : Double × Exc} : resultLate c s v srcs d sf flags r =
    passDone c ((s.takeOperands c v srcs).reserveOpd c v d)
      (some ⟨c.tid, some d.o, d.wide, d.tag, if sf then Exc.none else r.2, .value r.1, false⟩) (lateMarks d flags) := by
  unfold resultLate State.reserveOpd
  cases d.o.outEnd v.ent <;> rfl

/-- A set one of whose threads has given its result: the destination is written, and the flags are raised. -/
def SetState.withResult (v : SetState) (d : Operand) (sf : Bool) (r : Double × Exc) (tid now : Nat) : SetState :=
  (v.writeOpd d.o d.wide r.1 tid now).updThread tid (fun th => th.setFlags sf (if sf then Exc.none else r.2))

section
variable {sf : Bool} {r : Double × Exc} {tid now : Nat}

theorem SetState.withResult_sreg (hd : ∀ n, d.o ≠ .s n) : (v.withResult d sf r tid now).sreg = v.sreg :=
  SetState.updThread_sreg.trans (SetState.writeOpd_sreg hd)

theorem SetState.look_withResult_sreg {n m : BitVec 4} (hd : d.o = .s m) (hnm : n ≠ m) (hw : SMap.wf (0 : Double) v.sreg = true) :
    SMap.look (v.withResult d sf r tid now).sreg n.toNat = SMap.look v.sreg n.toNat := by
  rw [SetState.withResult, SetState.updThread_sreg, hd, SetState.look_writeOpd_sreg hnm hw]

theorem SetState.withResult_k (hd : ∀ n, d.o ≠ .k n) : (v.withResult d sf r tid now).k = v.k :=
  SetState.updThread_k.trans (SetState.writeOpd_k hd)

theorem SetState.look_withResult_other {q : Nat} (hq : q ≠ tid) : (v.withResult d sf r tid now).threads.look q = v.threads.look q :=
  (SetState.look_updThread_other hq).trans (SetState.look_writeOpd_other hq)

theorem SetState.look_withResult_same {th : Thread} (hth : v.threads.look tid = some th) :
    ∃ th', (v.withResult d sf r tid now).threads.look tid = some th' ∧ th'.ff = (if sf then th.ff else th.ff ||| r.2) ∧ th'.place = th.place ∧
      th'.loops = th.loops ∧ ((∀ n, d.o ≠ .q n) → th'.q = th.q) := by
  obtain ⟨q, hlook, hq⟩ := SetState.look_writeOpd_same (o := d.o) (wide := d.wide) (x := r.1) (now := now) hth
  refine ⟨_, by rw [SetState.withResult, SetState.look_updThread_same, hlook]; rfl, ?_⟩
  cases sf <;> exact ⟨rfl, rfl, rfl, hq⟩

/-- An immediate result is the end of a pass on a state that keeps the frame, in which the set holds the result. -/
theorem resultNow_eq (h : s.canon = true) (hs : s.set? c.tile c.set = some v) : ∃ s1 now, resultNow c s v srcs d sf r = passDone c s1 none [] ∧
    s.Frame c.tile c.set s1 ∧ (∀ w, w ∉ d.words v.ent c.tid → s1.lvs c.tile w = s.lvs c.tile w) ∧
    s1.set? c.tile c.set = some (v.withResult d sf r c.tid now) ∧
    ((∀ n, d.o ≠ .ch n) → (∀ n, d.o ≠ .pc n) → popEnds v.ent srcs = [] → s1.chans = s.chans) := by
  have hpop : s.Still c.tile c.set (s.takeOperands c v srcs) := State.still_takeOperands h
  have hwrite := writeOpd_wrote (d := d) (x := r.1) (State.canon_takeOperands h) (hpop.own.trans hs)
  refine ⟨_, (s.takeOperands c v srcs).tick, rfl, ?_, fun w hw => ?_, ?_, fun hch hpc hnone => ?_⟩
  · exact (hpop.toFrame.trans hwrite.toFrame).trans (State.frame_modSet _)
  · rw [State.modThread, State.lvs_modSet, hwrite.lvs w hw, hpop.lvs]
  · rw [State.modThread_eq, State.set?_modSet_same, hwrite.own]
    rfl
  · rw [State.modThread_chans, hwrite.chans hch hpc, State.takeOperands_nil hnone]

end

end

/-- Settles O59: the pops, the write and the end of the pass each keep a frame, and the frames compose. -/
theorem resultFrame : Obligations.ResultFrame := by
  unfold Obligations.ResultFrame
  intro quiet
  have hquiet {c : Ctx} {s t : State} (h : s.Quiet c.tile c.set t) : quiet c s t :=
    ⟨State.machine_eq_iff.mp h.machine, h.otherTiles, Tile.storage_eq_iff.mp h.storage, h.lvs, h.otherSets, h.threads, h.sreg, h.k⟩
  refine ⟨fun s g c v srcs d sf flags r h hsolo => ?_, fun s c v srcs m marks h => ?_, fun s g c v srcs d sf r h hsolo => ?_⟩
  · obtain ⟨-, -, -, -, -, -, -, -, -, -, -, hs⟩ := State.solo?_spec hsolo
    have hstill : s.Still c.tile c.set ((s.takeOperands c v srcs).reserveOpd c v d) :=
      (State.still_takeOperands h).trans State.still_reserveOpd
    intro t m
    have ht : t = passDone c ((s.takeOperands c v srcs).reserveOpd c v d) (some m) (lateMarks d flags) := resultLate_eq
    rw [ht]
    refine ⟨hquiet (hstill.quiet.trans quiet_passDone), ?_, fun hch hpc hnone => ?_⟩
    · exact hstill.nextId ▸ groups_passDone_some (hstill.own.trans hs) rfl
    · rw [chans_passDone, State.reserveOpd_register hch hpc, State.takeOperands_nil hnone]
  · have hstill : s.Still c.tile c.set (s.takeOperands c v srcs) := State.still_takeOperands h
    refine ⟨hquiet (hstill.quiet.trans quiet_passDone), fun hm => ?_, fun hnone => ?_⟩
    · subst hm
      exact groups_passDone_none.trans (by rw [hstill.own])
    · exact chans_passDone.trans (by rw [State.takeOperands_nil hnone])
  · obtain ⟨-, -, -, -, -, -, -, -, -, -, -, hs⟩ := State.solo?_spec hsolo
    obtain ⟨s1, now, ht, hframe, hlvs, hown, hchans⟩ := resultNow_eq (srcs := srcs) (d := d) (sf := sf) (r := r) h hs
    have hend : s1.Quiet c.tile c.set (passDone c s1 none []) := quiet_passDone
    have hall := hframe.trans hend.toFrame
    have hsreg := hend.sreg.trans (by rw [hown]; rfl : _ = some (v.withResult d sf r c.tid now).sreg)
    rw [ht]
    refine ⟨State.machine_eq_iff.mp hall.machine, hall.otherTiles, Tile.storage_eq_iff.mp hall.storage,
      fun w hw => (hend.lvs w).trans (hlvs w hw), hall.otherSets, fun q hq => ?_, fun hd => ?_, fun n m hd hnm hw => ?_, fun hd => ?_,
      fun th hth => ?_, fun hch hpc hnone => chans_passDone.trans (hchans hch hpc hnone)⟩
    · refine (hend.threads q).trans ?_
      simp only [State.thread?, hown, hs, Option.bind_some, SetState.look_withResult_other hq]
    · rw [hsreg, SetState.withResult_sreg hd]
    · have hmap := congrArg (Option.map (fun l => SMap.look l n.toNat)) hsreg
      rw [Option.map_map, Option.map_some, SetState.look_withResult_sreg hd hnm hw] at hmap
      exact hmap
    · rw [hend.k, hown, Option.map_some, SetState.withResult_k hd]
    · obtain ⟨th', hlook, hkept⟩ := SetState.look_withResult_same (d := d) (sf := sf) (r := r) (now := now) hth
      exact ⟨th', by rw [hend.threads, State.thread?, hown]; exact hlook, hkept⟩

end Sys2Proof.Machine
end

section
/-! SUPPORT. Slot clearing, cooperative digests, the cube's binding and the port nodes (O34): the branch of each event in which nothing
holds it back. -/
namespace Sys2Proof.Machine

/-! ### Slot clearing and digests (R167, R178) -/

section
variable {s : State}

theorem execSlotClearDone_claims {t n : Nat} (h : s.nextClear t n = true) :
    exec (.slotClearDone t n) s = .next ((s.zeroSlot t n).putSlot t n { s.slot t n with st := .claimed }) :=
  if_pos h

/-- With one region, the digests that all members of its group have given settle their command. -/
theorem execCubeDigestsComplete_settles {r u die gid : Nat} {x : Region} {us : List Nat} {d : Nat × Nat} (hr : s.regions = [(r, x)])
    (hu : x.tiles.filter (fun u => dieOf u == die && grpEn (s.cubegrp u) && grpGid (s.cubegrp u) == gid) = u :: us)
    (hd : (s.tile u).cube.digest.find? (fun x : Nat × Nat => us.all (fun w => (SMap.look (s.tile w).cube.digest x.1).isSome)) = some d) :
    exec (.cubeDigestsComplete die gid) s = .next (s.settle (u :: us) d.1) := by
  simp only [exec_cubeDigestsComplete, execCubeDigestsComplete, hr, List.foldl_cons, List.foldl_nil, hu, hd]

end

/-! ### The binding takes, fires and passes control tokens on (R175, R176) -/

section
variable {s : State} {t : Nat} {b : Binding} {v : SetState}
variable (hb : (s.tile t).cube.binding = some b) (hv : s.set? t b.set = some v) (hf : b.fault = false) (hr : s.runs t = true)
include hb hv hf hr

/-- Before its panel is whole a binding cannot fire, so it takes what stands at its input. -/
theorem execCubeStreamFiring_takes {k : Token} (hh : s.headAt t (v.ent.chIn b.chI) = some k) (hl : b.fill < 32 * b.desc.k) :
    exec (.cubeStreamFiring t) s = .next (s.bindTake t b (v.ent.chIn b.chI) k) := by
  have hroom : b.fill < 2 * (32 * b.desc.k) := by omega
  simp [execCubeStreamFiring, hb, hv, hf, hr, hh, hroom, Nat.not_le.mpr hl]

/-- With nothing to take, a binding whose panel is whole fires where its output has room. -/
theorem execCubeStreamFiring_fires (hh : s.headAt t (v.ent.chIn b.chI) = none) (hl : 32 * b.desc.k ≤ b.fill)
    (hroom : 0 < s.roomAt t (v.ent.chOut b.chO)) :
    exec (.cubeStreamFiring t) s = .next (s.bindFire t v b (v.ent.chOut b.chO)) := by
  simp [execCubeStreamFiring, hb, hv, hf, hr, hh, hl, hroom]

/-- Between panels a binding passes EOI, EOS or DRN on, a DRN only once the tile's accesses have been performed: EOI starts the panels again at 0,
EOS is noted in the set, and DRN ends the binding. -/
theorem execCubeControlForward_forwards {k : Token} (hh : s.headAt t (v.ent.chIn b.chI) = some k) (hc : k.isCtl = true)
    (hbad : k.badCtl = false) (hhd : b.headed = false) (hl : b.fill = 0) (hroom : s.roomAt t (v.ent.chOut b.chO) ≠ 0)
    (hsub : k.sub = 1 ∨ k.sub = 2 ∨ k.sub = 3 ∧ s.tileAccs t = false) :
    exec (.cubeControlForward t) s = .next (
      let eo := v.ent.chOut b.chO
      let s1 := (s.popAt t (v.ent.chIn b.chI)).pushAt t eo { k with rel := if k.isDrn then s.tileNeeds t else [] }
      if k.sub = 1 then s1.modBinding t (fun b => { b with panel := 0 })
      else if k.sub = 2 then s1.modSet t b.set (fun v => { v with eosOut := NSet.add v.eosOut eo })
      else ((s1.acquireSet t b.set k.rel).modSet t b.set (fun v => { v with drnOut := NSet.add v.drnOut eo })).endBinding t) := by
  have hdrn : k.isDrn = (k.sub == 3) := by rw [Token.isDrn, hc, Bool.true_and]
  simp only [exec_cubeControlForward, execCubeControlForward, hb, hv, hh]
  rcases hsub with h | h | ⟨h, hacc⟩
  · simp [hdrn, hc, hbad, hf, hhd, hl, hr, hroom, h]
  · simp [hdrn, hc, hbad, hf, hhd, hl, hr, hroom, h]
  · simp [hdrn, hc, hbad, hf, hhd, hl, hr, hroom, h, hacc]

end

/-! ### An invocation of a port node (R98, R253) -/

/-- What a port node of a running region does next: its read or its write, by its direction. -/
def State.portAct (s : State) (t : Nat) (p : PortNode) : PortAct := if p.dir ≤ 1 then s.portRead t p else s.portWrite t p

section
variable {s : State} {t k : Nat} {p : PortNode}
variable (hp : (s.tile t).ports.find? (fun p => p.port == k) = some p) (hf : p.fault = false) (hr : s.runs t = true)
  (hh : (s.tile t).heldFor = none)
include hp hf hr hh

theorem execPortNodeInvocation_quiet {s1 : State} (ha : s.portAct t p = .quiet s1) : exec (.portNodeInvocation t k) s = .next s1 := by
  rw [State.portAct] at ha
  simp [execPortNodeInvocation, hp, hf, hr, hh, ha]

theorem execPortNodeInvocation_fault {s1 : State} {f : FaultInfo} (ha : s.portAct t p = .fault s1 f) :
    exec (.portNodeInvocation t k) s = .next (s1.portFault t p f) := by
  rw [State.portAct] at ha
  simp [execPortNodeInvocation, hp, hf, hr, hh, ha]

theorem execPortNodeInvocation_fire {cond : FireCond} {act : Option (Nat × Nat) → State} (ha : s.portAct t p = .fire cond act)
    (hs : s.traceStalls (s.nodeEvent t p.set 5 p.port p.invoc [cond]) = false)
    (hm : s.portMatch t p (s.nodeEvent t p.set 5 p.port p.invoc [cond]) = none) :
    exec (.portNodeInvocation t k) s = .next (
      let ev := s.nodeEvent t p.set 5 p.port p.invoc [cond]
      (act (ev.note.map (fun n => (elemKey 5 p.port, n.num)))).nodeNoted t 5 p.port (.port t p.port) ev) := by
  rw [State.portAct] at ha
  simp only [exec_portNodeInvocation, execPortNodeInvocation, hp, hf, hr, hh, ha, hs, hm, Option.isSome_none, Bool.not_true,
    Bool.true_or, Bool.or_self, Bool.and_false, Bool.false_eq_true, if_true, if_false]

end

/-- Settles O34: each event by the branch that its hypotheses leave, the three control tokens by their subtype. -/
theorem slotAndCubeEvents : Obligations.SlotAndCubeEvents := by
  unfold Obligations.SlotAndCubeEvents
  refine ⟨fun s t n => execSlotClearDone_claims, fun s r x u die gid us d => execCubeDigestsComplete_settles, ?_, ?_⟩
  · intro s t b v hb hv hf hr e eo panel
    refine ⟨fun k => execCubeStreamFiring_takes hb hv hf hr, execCubeStreamFiring_fires hb hv hf hr, ?_⟩
    intro k hh hc hbad hhd hl hroom s1
    have hpass := execCubeControlForward_forwards hb hv hf hr hh hc hbad hhd hl hroom
    refine ⟨fun h => ?_, fun h => ?_, fun h hacc => ?_⟩
    · simpa [h] using hpass (.inl h)
    · simpa [h] using hpass (.inr (.inl h))
    · simpa [h] using hpass (.inr (.inr ⟨h, hacc⟩))
  · intro s t k p hp hf hr hh a
    exact ⟨fun s1 => execPortNodeInvocation_quiet hp hf hr hh, fun s1 f => execPortNodeInvocation_fault hp hf hr hh,
      fun cond act => execPortNodeInvocation_fire hp hf hr hh⟩

end Sys2Proof.Machine
end

section
/-! SUPPORT. Thread creation, groups and barriers as a pass of one thread executes them (O18). -/
namespace Sys2Proof.Machine

/-! ### The key of a group, and a barrier that may be set (R189, R190) -/

theorem extractLsb'_loWord (x : Double) : (loWord x).extractLsb' 0 16 = x.extractLsb' 0 16 :=
  BitVec.extractLsb'_extractLsb'_of_le (by decide)

/-- A barrier that no thread waits at may be set or bound. -/
theorem Barrier.settable {b : Barrier} (h : b.st = .unset ∨ (b.st = .armed ∧ b.waiters = [])) :
    (b.st == .releasing || (b.st == .armed && !b.waiters.isEmpty)) = false := by
  rcases h with h | ⟨h, hw⟩
  · rw [h]; rfl
  · rw [h, hw]; rfl

section
variable {s : State} {t n : Nat} {region : Bool}
variable (hb : (s.bar t region n).st = .unset ∨ ((s.bar t region n).st = .armed ∧ (s.bar t region n).waiters = []))
include hb

theorem State.barSet_settable (count : Nat) : s.barSet t region n count = some (s.putBar t region n
    { s.bar t region n with st := if count = 0 then .unset else .armed, n := count, reload := count, key := none }) :=
  if_neg (ne_true_of_eq_false (Barrier.settable hb))

theorem State.barBind_settable (key : BitVec 16) : s.barBind t region n key = some (s.putBar t region n
    { s.bar t region n with st := if s.members t region key = 0 then .unset else .armed, n := s.members t region key, key := some key }) :=
  if_neg (ne_true_of_eq_false (Barrier.settable hb))

end

section
variable {s : State} {p : Party} {region : Bool} {n : Nat}

theorem State.arrive_armed (hst : (s.bar p.tile region n).st = .armed) : s.arrive p region n = .parked (s.putBar p.tile region n
    { s.bar p.tile region n with n := (s.bar p.tile region n).n - 1, waiters := (s.bar p.tile region n).waiters ++ [p],
                                 accs := (s.bar p.tile region n).accs ++ s.known p.tile p.set p.tid 0xFFFF (if region then 4 else 2) }) := by
  simp only [State.arrive, hst]

theorem State.arrive_releasing (hst : (s.bar p.tile region n).st = .releasing) : s.arrive p region n = .held (s.putBar p.tile region n
    { s.bar p.tile region n with held := (s.bar p.tile region n).held ++ [p] }) := by
  simp only [State.arrive, hst]

end

section
variable {s : State} {g : Guard} {c : Ctx} {v : SetState} (h : s.solo? g = some (c, v))
include h

/-! ### Thread creation (R186, R361) -/

theorem execThrNew_creates {d a : Opd} {blk : BitVec 12} {x : Double} (hc : chkBlocks [blk] v c = none)
    (hr : readyOperands c s v [wOpd a] (some (wOpd d)) = some [x]) :
    let r := s.newThread c.tile c.set c.tid blk.toNat (loWord x)
    exec (.thrNew g d a blk) s = .next (actDone c v [wOpd a] (writeOpd c r.1 false 0 d (BitVec.ofNat 64 r.2)) none []) := by
  have hends : chkEnds [a] [d] v { c with tid := 0 } = none := chkEnds_of_ready hr (fun _ ho => ho) (fun _ ho => ho)
  exact withPass_acts h ((chkAll_next hends).trans (chkAll_next hc)) hr rfl

/-! ### Groups (R189, R362) -/

section
variable {a : Opd} {x : Double} (hr : readyOperands c s v [wOpd a] none = some [x])
include hr

/-- An instruction on one word that is ready, whose effect goes on. -/
theorem withPass_acts1 {k : Ctx → State → Word → Serve} {s1 : State} (hk : k c s (loWord x) = .ok s1 none) :
    withPass s g (chkEnds [a] []) [] (fun c s => acts1 c s a (k c)) = .next (actDone c v [wOpd a] s1 none []) :=
  withPass_acts (k := fun c s vs => k c s (loWord (vs.headD 0))) h (chkEnds_of_ready hr (fun _ ho => ho) (fun _ ho => ho)) hr hk

theorem execGrpJoin_joins {s1 : State} (hj : s.join c.tile c.set c.tid (x.extractLsb' 0 16) = some s1) :
    exec (.grpJoin g a) s = .next (actDone c v [wOpd a] s1 none []) :=
  withPass_acts1 h hr (by simp only [extractLsb'_loWord, hj])

theorem execGrpLeave_leaves : exec (.grpLeave g a) s =
    .next (actDone c v [wOpd a] (s.leave c.tile c.set c.tid (x.extractLsb' 0 16)) none []) :=
  withPass_acts1 h hr (by simp only [extractLsb'_loWord])

/-! ### Barriers (R190, R363, R364) -/

section
variable {region : Bool} {n : BitVec 5} (hn : s.noBarrier c.tile region n = false)
include hn

theorem execBarSet_sets {s1 : State} (hx : (loWord x).toNat ≤ 8191) (hs : s.barSet c.tile region n.toNat (loWord x).toNat = some s1) :
    exec (.barSet g region n a) s = .next (actDone c v [wOpd a] s1 none []) :=
  withPass_acts1 h hr (by simp only [hn, hs, Nat.not_lt.mpr hx, decide_false, Bool.or_self, Bool.false_eq_true, if_false])

theorem execBarBind_binds {s1 : State} (hs : s.barBind c.tile region n.toNat (x.extractLsb' 0 16) = some s1) :
    exec (.barBind g region n a) s = .next (actDone c v [wOpd a] s1 none []) :=
  withPass_acts1 h hr (by simp only [hn, extractLsb'_loWord, hs, Bool.false_eq_true, if_false])

end

end

section
variable {region : Bool} {n : BitVec 5} (hn : s.noBarrier c.tile region n = false)
include hn

theorem execBarArrive_parks {s1 : State} (ha : s.arrive ⟨c.tile, c.set, c.tid, c.mode == .trap⟩ region n.toNat = .parked s1) :
    exec (.barArrive g region n) s = .next (passGone c ((s1.parkAt c (c.loops.after c.idx).2 (c.loops.after c.idx).1
      (.barrier region n.toNat)).barCheck c.tile region n.toNat)) := by
  have hserve : serveArrive region n c s = .gone ((s1.parkAt c (c.loops.after c.idx).2 (c.loops.after c.idx).1
      (.barrier region n.toNat)).barCheck c.tile region n.toNat) := by
    simp only [serveArrive, hn, ha, Bool.false_eq_true, if_false]
  simp only [exec_barArrive, execBarArrive, withPass_solo h (chkNone_none _ _), hserve, passGone]

theorem execBarArrive_held {s1 : State} (ha : s.arrive ⟨c.tile, c.set, c.tid, c.mode == .trap⟩ region n.toNat = .held s1) :
    exec (.barArrive g region n) s = .next (passGone c (s1.parkAt c (c.loops.after c.idx).2 (c.loops.after c.idx).1
      (.held region n.toNat c.idx))) := by
  have hserve : serveArrive region n c s = .gone (s1.parkAt c (c.loops.after c.idx).2 (c.loops.after c.idx).1
      (.held region n.toNat c.idx)) := by
    simp only [serveArrive, hn, ha, Bool.false_eq_true, if_false]
  simp only [exec_barArrive, execBarArrive, withPass_solo h (chkNone_none _ _), hserve, passGone]

end

end

/-- Settles O18: thr.new, grp and bar.set and bar.bind as acts on one ready word; an arrival by the state of its barrier. -/
theorem threadGroupBarrierResults : Obligations.ThreadGroupBarrierResults := by
  unfold Obligations.ThreadGroupBarrierResults
  refine ⟨fun s c v g d a blk x h hc hr => execThrNew_creates h hc hr, fun s c v g a x h hr => ?_, fun s c v g region n a x h hr hn => ?_,
    fun s c v g region n h hn => ?_⟩
  · exact ⟨fun s1 hj => execGrpJoin_joins h hr hj, execGrpLeave_leaves h hr⟩
  · intro b key count held gives hb
    exact ⟨fun hx => execBarSet_sets h hr hn hx (State.barSet_settable hb count), execBarBind_binds h hr hn (State.barBind_settable hb key)⟩
  · intro b after me arrived late
    exact ⟨fun hst => execBarArrive_parks h hn (State.arrive_armed hst), fun hst => execBarArrive_held h hn (State.arrive_releasing hst)⟩

end Sys2Proof.Machine
end

section
/-! SUPPORT. Control tokens through a set (O28): the branch of each event that its automatic ends and its set leave. -/
namespace Sys2Proof.Machine

section
variable {s : State} {t o : Nat} {v : SetState}

/-! ### What the sequencer sees, and what it pushes (R194) -/

theorem State.seqFree_spec (hf : s.seqFree t v = true) : s.runs t = true ∧ v.stopped = false ∧ v.sweep = none ∧ v.fwd = [] := by
  simpa [State.seqFree, and_assoc] using hf

theorem State.headSub_of_head {e : Nat} {k : Token} (he : s.headAt t e = some k) (hc : k.isCtl = true) (hb : k.badCtl = false) :
    s.headSub t e k.sub = true := by
  simp only [State.headSub, he, Option.any_some, hc, hb, beq_self_eq_true, Bool.not_false, Bool.and_self]

/-- An end that has carried EOS takes no other (R194 item 6). -/
theorem SetState.copies_eos_once {e : Nat} (he : NSet.has v.eosOut e = true) {arg : BitVec 24} {rel : List Need} {k : Token} :
    (e, k) ∉ v.copies 2 arg rel := by
  intro hmem
  obtain ⟨d, hd, hde⟩ := List.mem_map.mp hmem
  obtain ⟨-, hfree⟩ := List.mem_filter.mp hd
  obtain rfl : d = e := congrArg Prod.fst hde
  simp [he] at hfree

variable (hs : s.set? t o = some v) (hf : s.seqFree t v = true)
include hs hf

/-! ### Events of the sequencer (R194, R195) -/

section
variable (hh : s.seqHeads t o v = none)
include hh

/-- With nothing to push, pop or refuse first, an event of the sequencer has its own effect. -/
theorem seqEvent_acts (f : SetState → State → State) : seqEvent t o s f = .next (f v s) := by
  obtain ⟨-, -, -, hfwd⟩ := State.seqFree_spec hf
  simp only [seqEvent, hs, hf, hh, hfwd, List.isEmpty_nil, Bool.not_true, Bool.false_eq_true, if_false]

theorem execEoiForward_forwards (hne : s.autoEnds t o v ≠ []) (hall : (s.autoEnds t o v).all (fun e => s.headSub t e 1) = true)
    (hone : (s.argsAt t (s.autoEnds t o v)).length ≤ 1) : exec (.eoiForward t o) s =
      .next ((s.popAll t (s.autoEnds t o v)).emit t o 1 ((s.argsAt t (s.autoEnds t o v)).headD v.eoiInvoc)) := by
  have hne' : (s.autoEnds t o v).isEmpty = false := List.isEmpty_eq_false_iff.mpr hne
  simp only [exec_eoiForward, execEoiForward, seqEvent_acts hs hf hh, hne', hall, Nat.not_lt.mpr hone, decide_false, Bool.not_true, Bool.or_self,
    Bool.false_eq_true, if_false]

theorem execEosForward_forwards {data : List Nat} (hd : data = (s.autoEnds t o v).filter (fun e => !isPred e)) (hne : data ≠ [])
    (hall : data.all (fun e => s.headSub t e 2) = true) (hone : (s.argsAt t data).length ≤ 1) : exec (.eosForward t o) s =
      .next (if v.eosSeen = true ∨ v.eosOut ≠ [] then s.popAll t data
        else (s.popAll t data).emit t o 2 ((s.argsAt t data).headD 0)) := by
  subst hd
  have hne' := List.isEmpty_eq_false_iff.mpr hne
  have hdone : (v.eosSeen || !v.eosOut.isEmpty) = true ↔ v.eosSeen = true ∨ v.eosOut ≠ [] := by simp
  simp only [exec_eosForward, execEosForward, seqEvent_acts hs hf hh, hne', hall, Nat.not_lt.mpr hone, decide_false, Bool.not_true, Bool.or_self,
    Bool.false_eq_true, if_false, hdone]

theorem execDrnForward_forwards {es : List Nat}
    (he : es = (s.autoEnds t o v).filter (fun e => !s.sourceEnd t e && !NSet.has (s.tile t).passed e)) (hne : es ≠ [])
    (hall : es.all (fun e => s.headSub t e 3) = true) (hc : v.completed = true) (ha : s.setAccs t o v = false) : exec (.drnForward t o) s =
      .next ((((s.popAll t es).acquireSet t o (s.relsAt t es)).modSet t o (fun v => { v with drnPassed := true })).emit t o 3 0) := by
  subst he
  have hne' := List.isEmpty_eq_false_iff.mpr hne
  simp only [exec_drnForward, execDrnForward, seqEvent_acts hs hf hh, hne', hall, hc, ha, Bool.not_true, Bool.or_self, Bool.false_eq_true, if_false]

theorem execSetCompletion_completes (hc : v.complete = true) (hd : v.completed = false) : exec (.setCompletion t o) s =
    .next (if v.eosSeen = true then s.modSet t o (fun v => { v with completed := true })
      else (s.modSet t o (fun v => { v with completed := true })).emit t o 2 0) := by
  simp only [exec_setCompletion, execSetCompletion, seqEvent_acts hs hf hh, hc, hd, Bool.not_true, Bool.not_false, Bool.false_eq_true, if_false,
    if_true]

theorem execSetCompletion_drains (hc : v.complete = true) (hd : v.completed = true) (hp : v.drnPassed = false) (ha : s.setAccs t o v = false)
    (hall : (s.autoEnds t o v).all (s.passedAt t) = true) : exec (.setCompletion t o) s =
      .next ((s.modSet t o (fun v => { v with drnPassed := true })).emit t o 3 0) := by
  simp only [exec_setCompletion, execSetCompletion, seqEvent_acts hs hf hh, hc, hd, hp, ha, hall, Bool.not_true, Bool.or_self,
    Bool.false_eq_true, if_false]

end

/-! ### PROBE and SYNC (R255) -/

section
variable {e : Nat} {k : Token} (hin : e ∈ s.autoEnds t o v) (he : s.headAt t e = some k) (hc : k.isCtl = true) (hb : k.badCtl = false)
include hin he hc hb

theorem execProbeArrival_takes (hk : k.sub = 4) : exec (.probeArrival t o e) s =
    .next ((s.popAt t e).modSet t o (fun v => { v with probes := v.probes.insert e (k.arg.extractLsb' 0 16) })) := by
  obtain ⟨hruns, hstop, -, -⟩ := State.seqFree_spec hf
  have hsub : s.headSub t e 4 = true := hk ▸ State.headSub_of_head he hc hb
  have hmem : (s.autoEnds t o v).contains e = true := List.contains_iff_mem.mpr hin
  simp only [exec_probeArrival, execProbeArrival, hs, hruns, hstop, hmem, hsub, he, Option.map_some, Option.getD_some, Bool.not_false,
    Bool.and_self, if_true]

theorem execSyncArrival_takes (hk : k.sub = 5) (hw : s.traceStalls (syncEvent t o v true) = false) : exec (.syncArrival t o e) s =
    .next (if NSet.has v.syncs k.arg.toNat then s.popAt t e
      else ((((s.popAt t e).putTile t { (s.popAt t e).tile t with lastSync := k.arg }).modSet t o
        (fun v => { v with syncs := NSet.add v.syncs k.arg.toNat })).observe (syncEvent t o v true)).emit t o 5 k.arg) := by
  obtain ⟨hruns, hstop, -, hfwd⟩ := State.seqFree_spec hf
  have hsub : s.headSub t e 5 = true := hk ▸ State.headSub_of_head he hc hb
  have hmem : (s.autoEnds t o v).contains e = true := List.contains_iff_mem.mpr hin
  simp only [exec_syncArrival, execSyncArrival, hs, hruns, hstop, hfwd, hmem, hsub, hw, he, List.isEmpty_nil, Option.map_some, Option.getD_some,
    Bool.not_false, Bool.and_self, Bool.false_eq_true, if_true, if_false]
  split <;> rfl

end

end

/-- Settles O28: each event of the sequencer by the branch that its hypotheses leave once nothing is to be pushed, popped or refused first. -/
theorem controlTokensForward : Obligations.ControlTokensForward := by
  unfold Obligations.ControlTokensForward
  intro s t o v hs hf hh ends data open'
  exact ⟨execEoiForward_forwards hs hf hh, execEosForward_forwards hs hf hh rfl, execDrnForward_forwards hs hf hh rfl,
    fun e k hin he hc hb => ⟨execProbeArrival_takes hs hf hin he hc hb, execSyncArrival_takes hs hf hin he hc hb⟩,
    execSetCompletion_completes hs hf hh, fun e _ he arg rel => SetState.copies_eos_once he, execSetCompletion_drains hs hf hh⟩

end Sys2Proof.Machine
end

section
/-! SUPPORT. A tile swaps to a loaded plane (O30): the plane that its tile then runs is not changed by what the swap makes of registers and
channels. -/
namespace Sys2Proof.Machine

/-- A tile runs a plane, and its latch selects none. -/
structure State.RunsPlane (s : State) (t : Nat) (q : Plane) : Prop where
  active : (s.tile t).active = some q
  latch : (s.tile t).latch = none

section
variable {s s' : State} {t : Nat} {q : Plane}

theorem State.RunsPlane.of_tiles (h : s.RunsPlane t q) (ht : s'.tiles = s.tiles := by exact rfl) : s'.RunsPlane t q := by
  have htile : s'.tile t = s.tile t := by simp only [State.tile, ht]
  exact ⟨htile ▸ h.active, htile ▸ h.latch⟩

/-- A tile put back with its plane is listed, whatever the form of the other tiles. -/
theorem State.runsPlane_putTile {x : Tile} (ha : x.active = some q) (hl : x.latch = none) : (s.putTile t x).RunsPlane t q := by
  have hne : x ≠ Tile.reset := fun e => by rw [e] at ha; cases ha
  have htile : (s.putTile t x).tile t = x := State.tile_putTile_listed hne
  exact ⟨by rw [htile, ha], by rw [htile, hl]⟩

theorem State.RunsPlane.foldl {α : Type} {f : State → α → State} {l : List α} (h : s.RunsPlane t q)
    (hf : ∀ {s a}, s.RunsPlane t q → (f s a).RunsPlane t q) : (l.foldl f s).RunsPlane t q := by
  induction l generalizing s with
  | nil => exact h
  | cons a l ih => exact ih (hf h)

theorem State.RunsPlane.putLvs (h : s.RunsPlane t q) (w : Nat) (x : Word) : (s.putLvs t w x).RunsPlane t q := State.runsPlane_putTile h.active h.latch

theorem State.RunsPlane.zeroSpill (h : s.RunsPlane t q) (m : Double) (e : SetEntry) (tid : Nat) : (s.zeroSpill t m e tid).RunsPlane t q := by
  unfold State.zeroSpill
  split
  · exact h
  · refine h.foldl fun hs => ?_
    dsimp only
    split
    · exact State.runsPlane_putTile hs.active hs.latch
    · exact hs.putLvs _ _

theorem State.RunsPlane.zeroSet (h : s.RunsPlane t q) (v : SetState) : (s.zeroSet t v).RunsPlane t q :=
  (h.foldl fun hs => hs.foldl fun hs => hs.putLvs _ _).foldl fun hs => hs.zeroSpill _ _ _

/-- The plane of a tile as it runs from a step on, ordered after what `ns` names. -/
def Plane.started (p : Plane) (now : Nat) (ns : List Need) : Plane :=
  { p with sets := p.sets.map (fun v => (v.1, v.2.go now ns)), data := [], joins := none, knew := [] }

/-- What the accesses of a plane's sets come after when its tile swaps to it (R400, R446). -/
def State.swapNeeds (s : State) (t : Nat) (p : Plane) : List Need :=
  (s.live (p.knew ++ (s.setsOf t).flatMap (fun v => v.2.knew)) ++ s.tileNeeds t).eraseDups

theorem State.runsPlane_swapTo {l : Latch} {p : Plane} (hp : (s.tile t).shadow l = some p) :
    (s.swapTo t l).RunsPlane t (p.started s.tick (s.swapNeeds t p)) := by
  simp only [State.swapTo, hp]
  exact State.RunsPlane.of_tiles ((State.runsPlane_putTile rfl rfl).foldl fun hs => hs.zeroSet _)

/-! ### The swap (R198, R199) -/

theorem execPlaneSwap_swaps {l : Latch} {p : Plane} (hl : (s.tile t).latch = some l) (hp : (s.tile t).shadow l = some p)
    (hcounts : s.counts t = true) (haccs : s.tileAccs t = false) (howes : s.owing t = false) (hstrays : s.strays t = 0)
    (hstopped : s.stopped = false) (hrun : ∀ x, (s.regionOf t).bind s.region? = some x → x.st = .running) :
    exec (.planeSwap t) s = .next (s.swapTo t l) := by
  have hlisted : ((s.tile t).shadow l).isNone = false := by rw [hp, Option.isNone_some]
  cases hx : (s.regionOf t).bind s.region? with
  | none => simp [execPlaneSwap, hl, hlisted, hx, hcounts, haccs, howes, hstrays, hstopped]
  | some x => simp [execPlaneSwap, hl, hlisted, hx, hrun x hx, hcounts, haccs, howes, hstrays, hstopped]

end

/-- Settles O30: nothing holds the swap back, and its tile then runs the plane started afresh. -/
theorem tileSwapsPlane : Obligations.TileSwapsPlane := by
  unfold Obligations.TileSwapsPlane
  intro s t l p _ hl hp hcounts haccs howes hstrays hstopped hrun
  have hruns := State.runsPlane_swapTo hp
  exact ⟨execPlaneSwap_swaps hl hp hcounts haccs howes hstrays hstopped hrun, hruns.latch, hruns.active⟩

end Sys2Proof.Machine
end

section
/-! SUPPORT. Regions as wholes (O31): completion, placement, pre-emption and the end by system software, each by the branch that the state of
the region or of the dispatcher leaves. -/
namespace Sys2Proof.Machine

/-! ### A region that ends, and one that is pre-empted (R196, R199, R232, R439) -/

section
variable {s : State} {r : Nat} {x : Region} (hx : s.region? r = some x)
include hx

theorem execRegionComplete_completes (hst : x.st = .running) (hhalt : x.halt = .none) (hjoin : x.joining = []) (hdone : x.tiles.all s.tileDone = true) :
    let s1 := x.tiles.foldl (fun s t => s.planeEnd t) s
    exec (.regionComplete r) s = .next ((((s1.chans.filter (fun c => c.2.touches x.tiles)).foldl (fun s c => s.undropLink c.2) s1).endWrites
      x.tiles).modRegion r (fun x => { x with st := .complete })) := by
  simp only [exec_regionComplete, execRegionComplete, hx, hst, hhalt, hjoin, hdone, List.isEmpty_nil, beq_self_eq_true, Bool.and_self, if_true]

theorem execPreemptionComplete_saves {full : Bool} (hst : x.st = .preempting full) (hland : s.landed x = true) (hstop : s.stopped = false)
    (hholds : s.holds = []) (hcmd : x.byCmd = none) :
    exec (.preemptionComplete r) s = .next ((x.tiles.foldl (fun s t => s.saveTile r full t (SMap.get 0 x.saves t)) s).endWrites x.tiles |>.modRegion r
      (fun x => { x with st := .preempted full, byCmd := none })) := by
  have hheld : x.saves.any (fun a => s.rangeHeld a.2 (if full then 4194304 else 0x90000)) = false := by
    simp [State.rangeHeld, hholds]
  simp only [exec_preemptionComplete, execPreemptionComplete, hx, hst, hland, hstop, hheld, hcmd, Bool.not_true, Bool.or_self, Bool.false_eq_true,
    if_false]

theorem execRegionEnd_ends (hcmd : x.byCmd = none) :
    let s1 := s.endUnits r (if x.st.holds then x.tiles else [])
    let s2 := (if x.st.holds then x.tiles.foldl State.endTile s1 else s1).dropSaves r
    exec (.regionEnd r) s = .next { s2 with regions := s2.regions.erase r }.prune := by
  simp only [exec_regionEnd, execRegionEnd, hx, hcmd]

end

/-! ### The dispatcher (R207) -/

section
variable {s : State} {i : Nat} {l : Launch} (hw : s.waiting.find? (fun w => w.1 == i) = some (i, l)) (hd : s.dispatches = true)
variable (hfirst : s.launchFirst i l = true) (hheld : s.imageHeld l.img = false)
include hw hd hfirst hheld

theorem execRegionPlacement_checkpoint (hc : s.cfg.ckptBusy = true) : exec (.regionPlacement i) s = .next (s.launchGone i (some 0)) := by
  simp only [exec_regionPlacement, execRegionPlacement, hw, hd, hfirst, hheld, hc, Bool.not_true, Bool.or_self, Bool.false_eq_true, if_false, if_true]

variable (hread : s.imageReadable l.img = true) (hc : s.cfg.ckptBusy = false)
include hread hc

/-- With no checkpoint in progress and its image readable, a launch waits for its tiles, and then its image is checked. -/
theorem execRegionPlacement_waits (hfree : s.launchFree l = false) : exec (.regionPlacement i) s = .next s := by
  simp only [exec_regionPlacement, execRegionPlacement, hw, hd, hfirst, hheld, hread, hc, hfree, Bool.not_true, Bool.not_false, Bool.or_self,
    Bool.false_eq_true, if_false, if_true]

theorem execRegionPlacement_refuses (hfree : s.launchFree l = true) {e : BitVec 8} (he : s.checkLaunch l = .error e) :
    exec (.regionPlacement i) s = .next (s.launchGone i (some e)) := by
  simp only [exec_regionPlacement, execRegionPlacement, hw, hd, hfirst, hheld, hread, hc, hfree, he, Bool.not_true, Bool.or_self,
    Bool.false_eq_true, if_false]

theorem execRegionPlacement_places (hfree : s.launchFree l = true) {m : Image} (hm : s.checkLaunch l = .ok m)
    (hunheld : ∀ t ∈ imgTiles m.sets, (s.tile t).heldFor = none) :
    exec (.regionPlacement i) s = .next ((s.launchGone i none).placeImage m l.prio
      ⟨l.img, max 32 (imgHead (doubles 4 (Memory.bytes s.mem l.img 32))).len, 0, false⟩) := by
  have hdata : (imgTiles m.sets).any (fun t => (s.tile t).heldFor.isSome && m.data.any (fun d => d.tile == t)) = false :=
    List.any_eq_false.mpr fun t ht => by simp [hunheld t ht]
  simp only [exec_regionPlacement, execRegionPlacement, hw, hd, hfirst, hheld, hread, hc, hfree, hm, hdata, Bool.not_true, Bool.or_self,
    Bool.false_eq_true, if_false]

variable (hp : l.preempt = true)
include hp

theorem execPreemptiveLaunch_refuses {e : BitVec 8} (he : s.checkLaunch l = .error e) :
    exec (.preemptiveLaunch i) s = .next (s.launchGone i (some e)) := by
  simp only [exec_preemptiveLaunch, execPreemptiveLaunch, hw, hd, hfirst, hheld, hread, hc, hp, he, Bool.not_true, Bool.or_self,
    Bool.false_eq_true, if_false]

theorem execPreemptiveLaunch_preempts {m : Image} {r : Nat} {x : Region} (hm : s.checkLaunch l = .ok m)
    (hr : s.regions.find? (fun r => r.2.st == .running && r.2.prio < l.prio && r.2.joining.isEmpty &&
      r.2.tiles.any (s.launchTiles l).contains) = some (r, x)) {areas : SMap Nat}
    (ha : areas = x.tiles.filterMap (fun t => (SMap.look l.saves t).map (fun a => (t, a * 65536)))) (hlen : areas.length = x.tiles.length)
    (hok : areasOk (areas.map Prod.snd) = true) : exec (.preemptiveLaunch i) s = .next (s.beginPreempt r false areas none) := by
  subst ha
  simp only [exec_preemptiveLaunch, execPreemptiveLaunch, hw, hd, hfirst, hheld, hread, hc, hp, hm, hr, hlen, hok, Bool.not_true, Bool.or_self,
    bne_self_eq_false, Bool.false_eq_true, if_false]

end

/-- Settles O31: a region's events by its state; the dispatcher's by what holds a launch back, in the order in which it looks. -/
theorem regionsComeAndGo : Obligations.RegionsComeAndGo := by
  unfold Obligations.RegionsComeAndGo
  refine ⟨fun s r x hx => ⟨execRegionComplete_completes hx, fun full => execPreemptionComplete_saves hx, execRegionEnd_ends hx⟩, ?_⟩
  intro s i l hw hd hfirst hread hheld gone refused
  exact ⟨fun m hc hfree hm hunheld => execRegionPlacement_places hw hd hfirst hheld hread hc hfree hm hunheld,
    fun e hc hfree he => execRegionPlacement_refuses hw hd hfirst hheld hread hc hfree he,
    fun hc hfree => execRegionPlacement_waits hw hd hfirst hheld hread hc hfree,
    fun hc => execRegionPlacement_checkpoint hw hd hfirst hheld hc,
    fun e hp hc he => execPreemptiveLaunch_refuses hw hd hfirst hheld hread hc hp he,
    fun m r x hp hc hm hr hlen hok => execPreemptiveLaunch_preempts hw hd hfirst hheld hread hc hp hm hr rfl hlen hok⟩

end Sys2Proof.Machine
end

section
/-! SUPPORT. Stray tokens, their discard, and a sweep of Lull (O32). -/
namespace Sys2Proof.Machine

/-! ### What is put back as it is -/

theorem SMap.put_get {α : Type} [DecidableEq α] {d : α} {m : SMap α} (hm : SMap.wf d m = true) (n : Nat) :
    SMap.put d m n (SMap.get d m n) = m := by
  refine SMap.wfFrom_ext (SMap.wf_put hm n _) hm fun k => ?_
  by_cases hk : k = n
  · rw [hk, SMap.get_put_same (SMap.rises_of_wf hm)]
  · exact SMap.get_put_other (SMap.rises_of_wf hm) _ hk

theorem State.putTile_tile {s : State} (h : s.canon = true) (t : Nat) : s.putTile t (s.tile t) = s := by
  rw [State.putTile, State.tile, SMap.put_get (State.canon_tiles h)]

/-- A change of the values of a map is seen at each key. -/
theorem SMap.look_map_values {α β : Type} {m : SMap α} {f : Nat × α → Nat × β} {g : α → β} (hf : ∀ x, f x = (x.1, g x.2)) (n : Nat) :
    SMap.look (m.map f) n = (m.look n).map g := by
  induction m with
  | nil => rfl
  | cons x m ih =>
    rw [List.map_cons, hf, SMap.look, SMap.look]
    split
    · rfl
    · split
      · rfl
      · exact ih

theorem SMap.isEmpty_insert {α : Type} (m : SMap α) (n : Nat) (v : α) : (m.insert n v).isEmpty = false := by
  cases m with
  | nil => rfl
  | cons x m =>
    rw [SMap.insert]
    split
    · rfl
    · split <;> rfl

theorem SMap.isEmpty_foldl_insert {α β : Type} {l : List β} (hl : l ≠ []) (key : β → Nat) (val : β → α) (m : SMap α) :
    (l.foldl (fun m b => SMap.insert m (key b) (val b)) m).isEmpty = false := by
  induction l generalizing m with
  | nil => exact absurd rfl hl
  | cons b l ih =>
    rw [List.foldl_cons]
    by_cases hn : l = []
    · rw [hn, List.foldl_nil, SMap.isEmpty_insert]
    · exact ih hn _

/-! ### The notice of a stray token (R199) -/

theorem execStrayToken_notices {s : State} {n t e : Nat} {c : Chan} (hn : s.chans.look n = some c) (hc : c.cons = .tile t e)
    (hs : c.strays < s.strayCount c) :
    exec (.strayToken n) s = .next ((s.putChan n { c with strays := c.strays + 1 }).notice t (s.endSet t e) 0 (s.node t 1 e)
      (((s.set? t (s.endSet t e)).map SetState.eoiInvoc).getD 0) { notice := true } { code := Code.strayToken, elem := BitVec.ofNat 48 e }) := by
  simp only [exec_strayToken, execStrayToken, hn, hc, hs, if_true]

/-! ### A discard (R200) -/

/-- A discard takes the stray tokens of a channel: it has some, and ends at the tile, at the end that is named if one is. -/
def State.discards (s : State) (t : Nat) (at? : Option Nat) (c : Chan) : Bool :=
  (c.consTile.map Prod.fst) == some t && s.isStray c && at?.all (fun e => c.consTile == some (t, e))

/-- A channel whose last `k` tokens a discard has removed, as pops would. -/
def Chan.discarded (c : Chan) (k : Nat) : Chan :=
  { c with buf := c.buf.take (c.buf.length - k), rets := c.rets + k, popped := c.popped + k, strays := 0, late := 0 }

section
variable {s : State} {t : Nat} {at? : Option Nat}

theorem State.discards_at {e : Nat} {c : Chan} (hc : c.consTile = some (t, e)) (hs : s.isStray c = true) : s.discards t (some e) c = true := by
  simp only [State.discards, hc, hs, Option.map_some, Option.all_some, beq_self_eq_true, Bool.and_self]

theorem State.look_chans_discard (n : Nat) : (s.discard t at?).chans.look n =
    (s.chans.look n).map (fun c => if s.discards t at? c then c.discarded (s.strayCount c) else c) := by
  refine SMap.look_map_values (fun x => ?_) n
  by_cases hd : s.discards t at? x.2 = true
  · exact (if_pos hd).trans (congrArg (Prod.mk x.1) (if_pos hd).symm)
  · exact (if_neg hd).trans (congrArg (Prod.mk x.1) (if_neg hd).symm)

/-- A discard that removes something is in progress until the slot returns have come. -/
theorem State.strayBusy_discard (h : s.canon = true) {x : Nat × Chan} (hx : x ∈ s.chans) (hd : s.discards t at? x.2 = true) :
    ((s.discard t at?).tile t).strayBusy = true := by
  have hne : s.chans.filter (fun c => s.discards t at? c.2) ≠ [] := List.ne_nil_of_mem (List.mem_filter.mpr ⟨hx, hd⟩)
  have htile : (s.discard t at?).tile t = { s.tile t with strayRets :=
      ((s.chans.filter (fun c => s.discards t at? c.2)).foldl (fun m c => SMap.insert m c.1 (c.2.rets + s.strayCount c.2)) []) } :=
    State.tile_putTile_same h t _
  rw [Tile.strayBusy, htile, SMap.isEmpty_foldl_insert hne Prod.fst (fun c => c.2.rets + s.strayCount c.2), Bool.not_false]

theorem State.strayBusy_discard_end (h : s.canon = true) {e : Nat} (he : s.strayAt t e = true) :
    ((s.discard t (some e)).tile t).strayBusy = true := by
  obtain ⟨x, hx, hhit⟩ := List.any_eq_true.mp he
  rw [Bool.and_eq_true, beq_iff_eq] at hhit
  exact State.strayBusy_discard h hx (State.discards_at hhit.1 hhit.2)

/-! ### A write of STRAYCMD (R200) -/

section
variable {w : Double} (h : s.canon = true) (hw : w.getLsbD 62 = false)
include h hw

/-- A command that does not clear ERR leaves the tile as it is before it acts. -/
theorem State.putTile_strayErr : s.putTile t { s.tile t with strayErr := (s.tile t).strayErr && !w.getLsbD 62 } = s := by
  rw [hw, Bool.not_false, Bool.and_true]
  exact State.putTile_tile h t

variable (hbusy : (s.tile t).strayBusy = false)
include hbusy

theorem State.writeStraycmd_end (hop : (w.extractLsb' 56 2).toNat = 1) (he : (w.extractLsb' 0 8).toNat < 192) :
    (s.writeStraycmd t w).1 =
      let s1 := s.discard t (some (w.extractLsb' 0 8).toNat)
      if s.strayAt t (w.extractLsb' 0 8).toNat then s1.putTile t { s1.tile t with strayEnd := w.extractLsb' 0 8 }
      else s.putTile t { s.tile t with strayErr := true } := by
  have hrange : decide (191 < (w.extractLsb' 0 8).toNat) = false := decide_eq_false (by omega)
  simp only [State.writeStraycmd, State.putTile_strayErr h hw, hop, hbusy, hrange, Bool.false_or]
  cases s.strayAt t (w.extractLsb' 0 8).toNat <;> rfl

theorem State.writeStraycmd_all (hop : (w.extractLsb' 56 2).toNat = 2) : (s.writeStraycmd t w).1 =
    let s1 := s.discard t none
    s1.putTile t { s1.tile t with strayEnd := w.extractLsb' 0 8 } := by
  simp only [State.writeStraycmd, State.putTile_strayErr h hw, hop, hbusy, Bool.false_eq_true, if_false]

end

section
variable (h : s.canon = true) (hbusy : (s.tile t).strayBusy = false)
include h hbusy

theorem execStrayDiscardEnd_discards {e : Nat} (he : e < 192) :
    let s1 := s.discard t (some e)
    exec (.strayDiscardEnd t e) s = .next (
      if s.strayAt t e then s1.putTile t { s1.tile t with strayEnd := BitVec.ofNat 8 e }
      else s.putTile t { s.tile t with strayErr := true }) := by
  have hend : (BitVec.ofNat 8 1 ++ (0 : BitVec 48) ++ BitVec.ofNat 8 e).extractLsb' 0 8 = BitVec.ofNat 8 e := BitVec.extractLsb'_append_eq_right
  have hnat : (BitVec.ofNat 8 e).toNat = e := by rw [BitVec.toNat_ofNat]; omega
  have hop : (BitVec.ofNat 8 1 ++ (0 : BitVec 48) ++ BitVec.ofNat 8 e).extractLsb' 56 2 = 1 := by
    rw [BitVec.extractLsb'_append_eq_of_le (by decide)]
    decide
  have hclear : (BitVec.ofNat 8 1 ++ (0 : BitVec 48) ++ BitVec.ofNat 8 e).getLsbD 62 = false := by
    rw [BitVec.getLsbD_append, if_neg (by decide)]
    decide
  have hwrite := State.writeStraycmd_end h hclear hbusy (by rw [hop]; rfl) (by rw [hend, hnat]; exact he)
  rw [hend, hnat] at hwrite
  exact congrArg Host.Outcome.next hwrite

theorem execStrayDiscardAll_discards :
    let s1 := s.discard t none
    exec (.strayDiscardAll t) s = .next (s1.putTile t { s1.tile t with strayEnd := 0 }) :=
  congrArg Host.Outcome.next (State.writeStraycmd_all h (w := BitVec.ofNat 8 2 ++ (0 : BitVec 56)) (by decide) hbusy (by decide))

end

end

/-! ### A sweep of Lull (R205, R206) -/

theorem execLullSweep_counts {s : State} {r : Nat} {x : Region} (hx : s.region? r = some x) (hst : x.st = .running) (hhalt : x.halt = .none)
    (hstop : s.stopped = false) :
    let now := s.lullCounts r x
    let same := now == x.lullLast
    let still := if same then x.lullStill + 1 else 0
    let due := same && decide ((if x.still = 0 then 64 else x.still.toNat) ≤ still) && !x.lullSaid && !(s.lullWaits r x).isEmpty
    let s1 := s.modRegion r (fun y => { y with lullLast := now, lullStill := still,
                                               lullQuiet := if quietCounts now then y.lullQuiet + 1 else 0,
                                               quiescent := quietCounts now && decide (1 ≤ y.lullQuiet),
                                               lullSaid := same && (y.lullSaid || due) })
    exec (.lullSweep r) s = .next (if due then s1.deadlock r (s.lullWaits r x) else s1) := by
  simp only [exec_lullSweep, execLullSweep, hx, hst, hhalt, hstop, bne_self_eq_false, Bool.or_self, Bool.false_eq_true, if_false, beq_iff_eq]

/-- Settles O32: a discard is a write of STRAYCMD that leaves ERR, and takes each stray token of the channels that it hits. -/
theorem straysAndDeadlocks : Obligations.StraysAndDeadlocks := by
  unfold Obligations.StraysAndDeadlocks
  refine ⟨fun s n t e c => execStrayToken_notices,
    fun s t e h hbusy he => ⟨execStrayDiscardEnd_discards h hbusy he, State.strayBusy_discard_end h⟩,
    fun s t h hbusy => execStrayDiscardAll_discards h hbusy, fun s t e n c hn hc hs => ?_, fun s r x => execLullSweep_counts⟩
  have hcons : c.consTile = some (t, e) := by rw [Chan.consTile, hc]
  rw [State.look_chans_discard, hn, Option.map_some, if_pos (State.discards_at hcons hs), Chan.discarded]

end Sys2Proof.Machine
end

section
/-! SUPPORT. Selection, engine queues and one step: a selector forms its sweep (O27), an engine command enters its queue and issues from it (O12,
O23), and a set's sequencer executes what its pool word decodes to (O55). -/
namespace Sys2Proof.Machine

/-! ### A selection (R208 to R211, R244) -/

/-- The set as a selection takes it: its breakpoints are those that its registers hold now (R244). -/
def SetState.armed (v : SetState) : SetState := { v with regs := { v.regs with bkptOn := v.regs.bkpt } }

/-- The set once its selector has taken a block: its sweep is formed, and the selection is counted (R210, R409). -/
def State.selected (s : State) (t : Nat) (v : SetState) (n : Nat) (b : Block) : SetState :=
  { s.formSweep t v n b with ready := v.afterPick (s.readyBlocks t v) n, selections := v.selections + 1 }.count 0x02 1

section
variable {s : State} {t o n : Nat} {v : SetState} {b : Block} {w : Sweep}

/-- A firing that goes on is observed no second time (R209). -/
theorem State.selObserve_underWay (h : v.underWay n b = true) : s.selObserve t o v n b w = s := if_pos h

theorem State.selObserve_fires (h : v.underWay n b = false) : s.selObserve t o v n b w =
    if b.mode = .thread then s.observe (s.selEvent t o v n b w)
    else ((s.observe (s.selEvent t o v n b w)).noteFiring t 0 (blockKey o n) (s.blockNote t o v n b)).probeFiring t (s.blockNote t o v n b) := by
  simp only [State.selObserve, h, Bool.false_eq_true, if_false, beq_iff_eq]

section
variable {v0 : SetState} (hs : s.set? t o = some v0) (hsweep : v0.sweep = none) (hstop : v0.stopped = false) (hfwd : v0.fwd = [])
variable (hheld : v0.driftHeld = false) (hruns : s.runs t = true) (hbound : v0.armed.blocks.findIdx? (s.testsBound t o v0.armed) = none)
variable (hpick : v0.armed.pick (s.readyBlocks t v0.armed) = some n) (hb : v0.armed.blocks[n]? = some b)
variable (hform : (s.formSweep t v0.armed n b).sweep = some w)
include hs hsweep hstop hfwd hheld hruns hbound hpick hb hform

/-- A selection that nothing holds forms the sweep of the block that the set picks: it goes on with a firing, or neither a full Drift nor a
breakpoint meets the one that it begins. -/
theorem State.select_forms (hmeets : v0.armed.underWay n b = true ∨ s.traceStalls (s.selEvent t o v0.armed n b w) = false ∧
      s.bkptHit v0.armed (s.blockNode t o n) v0.armed.eoiInvoc (b.mode != .thread) = none) :
    s.select t o = ((s.putSet t o (s.selected t v0.armed n b)).selObserve t o v0.armed n b w).endIfPast t o := by
  have hfree : ¬ (v0.sweep.isSome || v0.stopped || !v0.fwd.isEmpty || !(s.runs t || s.halting t)) = true := by
    simp [hsweep, hstop, hfwd, hruns]
  have hstall : (!v0.armed.underWay n b && s.traceStalls (s.selEvent t o v0.armed n b w)) = false := by
    rcases hmeets with h | ⟨h, -⟩ <;> simp [h]
  have hhit : (if v0.armed.underWay n b = true then none
      else s.bkptHit v0.armed (s.blockNode t o n) v0.armed.eoiInvoc (b.mode != .thread)) = none := by
    rcases hmeets with h | ⟨-, h⟩ <;> simp [h]
  unfold State.select
  rw [hs]
  refine (if_neg hfree).trans ((if_neg (Bool.eq_false_iff.mp hheld)).trans ?_)
  extract_lets regs v ready
  have hv : v = v0.armed := rfl
  simp only [ready, hv, hbound, hpick, hb, hform, hhit, hstall, hruns, State.selected, Bool.not_true, Bool.false_and, Bool.false_eq_true, if_false]

end

end

/-- Settles O27: a selection forms the sweep of the block that its set picks, and observes it unless a firing goes on. -/
theorem selectionFormsSweep : Obligations.SelectionFormsSweep := by
  unfold Obligations.SelectionFormsSweep
  intro s t o n v0 b w hs hsweep hstop hfwd hheld hruns v hbound hpick hb hform s1
  have hforms := State.select_forms hs hsweep hstop hfwd hheld hruns hbound hpick hb hform
  refine ⟨fun hway => ?_, fun hway htrace hbkpt => ?_⟩
  · exact congrArg _ ((hforms (.inl hway)).trans (congrArg (State.endIfPast · t o) (State.selObserve_underWay hway)))
  · exact congrArg _ ((hforms (.inr ⟨htrace, hbkpt⟩)).trans (congrArg (State.endIfPast · t o) (State.selObserve_fires hway)))

/-! ### A command enters its queue (R216, R307) -/

section
variable {s : State} {c : Ctx} {v : SetState} {i : Instr} {m : SCom} {desc : Option (BitVec 4)} {sup waits : Bool}

/-- An engine command may be issued in a token block of an AG set, which is a supervisor set where the command needs one (R307). -/
theorem chkCommand_none (ht : v.ent.typ = .ag) (hm : c.mode = .token) (hsup : sup = true → v.ent.sup = true) :
    chkAll ((if sup then [chkSup] else []) ++ [chkType [.ag] [.token]]) v c = none := by
  have htype : chkType [.ag] [.token] v c = none := by simp [chkType, ht, hm]
  cases sup
  · exact chkAll_next htype
  · have hpass : chkSup v c = none := if_pos (hsup rfl)
    exact (chkAll_next hpass).trans (chkAll_next htype)

/-- The command as the anchor makes it: with its descriptor address, and with what the anchor's fences and earlier accesses put before it. -/
def State.command (s : State) (c : Ctx) (v : SetState) (i : Instr) (m : SCom) (desc : Option (BitVec 4)) : Cmd :=
  newCmd i ((desc.map (fun d => c.s d.toNat)).getD 0) c (((v.threads.look c.tid).map (fun th => s.live th.fenced)).getD [])
    (s.cmdAfter c.tile c.set m.ac) v.nextSeq

variable (h : s.solo? m.g = some (c, v))
include h

theorem serveEnter_enters (hroom : v.queue.length < 16) : serveEnter i m desc waits c s =
    let s1 := (s.putSet c.tile c.set { v with queue := v.queue ++ [s.command c v i m desc] }).tried c m.tq true
    if waits then .park (s1.modSet c.tile c.set (fun v => v.count 0x03 1)) (.command v.nextSeq) else .ok s1 none := by
  obtain ⟨-, -, th, -, -, -, hth, hg, hsh, -, -, hv⟩ := State.solo?_spec h
  simp only [serveEnter, hv, SetState.pendingOn_of_groupsOf hg hsh, Nat.not_le.mpr hroom, State.command, hth, List.isEmpty_nil, Bool.not_true,
    Bool.false_eq_true, if_false, Option.map_some, Option.getD_some]
  rfl

theorem serveEnter_full (hfull : ¬ v.queue.length < 16) : serveEnter i m desc waits c s =
    let s1 := s.modSet c.tile c.set (fun v => v.count 0x08 1)
    if m.tq = none then .park s1 .queueFull else .ok (s1.tried c m.tq false) none := by
  obtain ⟨-, -, -, -, -, -, -, hg, hsh, -, -, hv⟩ := State.solo?_spec h
  simp only [serveEnter, hv, SetState.pendingOn_of_groupsOf hg hsh, Nat.not_lt.mp hfull, List.isEmpty_nil, Bool.not_true, Bool.false_eq_true,
    if_false, if_true]
  cases m.tq <;> rfl

end

/-- Settles O12: the room of the queue, then whether the anchor waits for the command, or whether the command is tried. -/
theorem engineCommandsEnter : Obligations.EngineCommandsEnter := by
  unfold Obligations.EngineCommandsEnter
  intro s c v i m desc sup waits hi h ht hm hsup gate k entered refused
  obtain ⟨-, -, th, -, -, -, hth, -⟩ := State.solo?_spec h
  have hk : s.command c v i m desc = k := by simp only [State.command, k, gate, hth, Option.map_some, Option.getD_some]
  rw [(exec_queued hi).1, enterExec, withPass_solo h (chkCommand_none ht hm hsup)]
  by_cases hroom : v.queue.length < 16
  · rw [serveEnter_enters h hroom, hk, if_pos hroom]
    cases waits <;> rfl
  · rw [serveEnter_full h hroom, if_neg hroom]
    by_cases htq : m.tq = none
    · simp only [htq, if_true]
      rfl
    · simp only [htq, if_false]
      rfl

/-! ### The head of a queue issues (R215, R219, R316) -/

/-- Settles O23: the state of the set, its unit, its ports, its token and its order let the head issue; a barrier also retires. -/
theorem engineQueueIssues : Obligations.EngineQueueIssues := by
  unfold Obligations.EngineQueueIssues
  intro s t o v before rest c hs hq hheld hstop hruns htoken hcopy hgate hports hbar k s1 s2 s3
  have hunit : (!c.i.onCopyEngine || decide (s.copyLoad t < 4)) = true := by
    cases hc : c.i.onCopyEngine
    · rfl
    · simp [hcopy hc]
  have hmet : c.gate.all s.met = true := List.all_eq_true.mpr hgate
  have hfirst : (isBarrier c.i && !before.isEmpty) = false := by simpa using hbar
  rw [exec_engineQueueIssue, execEngineQueueIssue]
  simp only [hs, hq]
  refine (if_neg (Bool.eq_false_iff.mp hheld)).trans ((if_neg ?_).trans (apply_ite Host.Outcome.next _ _ _).symm)
  cases hw : (c.i.com?).bind SCom.wq with
  | none => simp only [hstop, hruns, hunit, hmet, hports, hfirst, Bool.not_true, Bool.or_self, Bool.false_eq_true, not_false_eq_true]
  | some n =>
    obtain ⟨m, hm, hn⟩ := Option.bind_eq_some_iff.mp hw
    simp only [hstop, hruns, hunit, hmet, hports, hfirst, htoken m n hm hn, decide_true, Bool.not_true, Bool.or_self, Bool.false_eq_true,
      not_false_eq_true]

/-! ### A step (R208, R212, R278) -/

section
variable {s : State} {t o : Nat} {v : SetState} {x : Sweep} {p : Pass} {b : Block} {i : Instr}

/-- A set's sequencer runs what its pool word decodes to. -/
theorem State.fetch_runs (hs : s.set? t o = some v) (hx : v.sweep = some x) (hp : x.passes[x.cur]? = some p) (hb : v.blocks[x.blk]? = some b)
    (hstop : v.stopped = false) (hheld : v.driftHeld = false) (hruns : s.runs t = true)
    (hsound : NSet.has (s.tile t).poolPoison (poolWord o b x.idx) = false)
    (hi : decodeWord (SMap.get 0 (s.tile t).pool (poolWord o b x.idx)) = .ok i) :
    s.fetch t o = .run i (s.atIssue t o v (x.mode == .trap) x.idx p) := by
  simp only [State.fetch, hs, hx, hp, hb, hstop, hheld, hruns, hsound, hi, Bool.not_true, Bool.or_self, Bool.false_and, Bool.false_eq_true, if_false]

theorem issueStep_runs {s1 : State} (h : s.fetch t o = .run i s1) : issueStep s t o = match exec i s1 with
    | .next s2 => .next (s2.issued t o)
    | .fault f => .fault f
    | .refused r => .refused r := by
  cases hx : exec i s1 <;> simp only [issueStep, h, hx]

end

/-- A step makes the move at the head of the agenda, with the counter advanced. -/
theorem step_first {s : State} {m : Move} {rest : List Move} (h : s.agenda = m :: rest) :
    step s = moveStep m { s with tick := s.tick + 1, agenda := rest } := by
  simp only [step, h]

/-- Settles O55: the head of the agenda by its kind; an issue runs what it fetches. -/
theorem stepRunsTheDecodedInstruction : Obligations.StepRunsTheDecodedInstruction := by
  unfold Obligations.StepRunsTheDecodedInstruction
  intro s rest s1
  refine ⟨fun i h => step_first h, fun i h => step_first h, fun l h => step_first h, ?_⟩
  intro t o v x p b i h hs hx hp hb hstop hheld hruns hsound hi
  have hfetch : s1.fetch t o = .run i (s1.atIssue t o v (x.mode == .trap) x.idx p) :=
    State.fetch_runs hs hx hp hb hstop hheld hruns hsound hi
  exact (step_first h).trans (issueStep_runs hfetch)

end Sys2Proof.Machine
end

section
/-! SUPPORT. Two states at which the statements about faults fail: a clock fault finds no set that its plane lists out of order (O38), and
abandoning a cooperative cube command lets go of the slots that it read on another member's tile (O45). -/
namespace Sys2Proof.Machine

/-! ### A clock fault (R239) -/

/-- An AG set of a tile at its start. -/
def agSet (tile : Nat) : SetState := .start { wordEntry 0 with tile := tile, typ := .ag } []

/-- A region that runs on one tile, whose plane lists set 1 before set 0. -/
def disordered : State := { State.reset with
  tiles := [(0, { Tile.reset with active := some ⟨0, [(1, agSet 0), (0, agSet 0)], 0, [], none, [], []⟩ })],
  regions := [(0, Region.placed 0 64 [0])] }

theorem canon_disordered : disordered.canon = true := by decide

theorem regionSets_disordered : disordered.regionSets 0 = [(0, 1, agSet 0), (0, 0, agSet 0)] := rfl

/-- The set that comes out of order is no set of the active plane, before the fault and after it. -/
theorem execClockSupplyFault_disordered :
    ∃ t, exec .clockSupplyFault disordered = .next t ∧ t.set? 0 0 = none := ⟨_, rfl, rfl⟩

/-- Refutes O38: a clock fault does not stop the sets of a running region that their plane lists out of order. The statement asks for no order
of the sets of a plane, and the canonical form would not give one (`canon_disordered`): in `disordered`, set 0 is among the region's sets, and
`SMap.look`, which expects rising numbers, never finds it. -/
theorem not_hardwareFaultEvents : ¬ Obligations.HardwareFaultEvents := by
  unfold Obligations.HardwareFaultEvents
  rintro ⟨hclock, -⟩
  obtain ⟨t, ht, -, -, hstops, -⟩ := hclock disordered
  obtain ⟨t', ht', hnone⟩ := execClockSupplyFault_disordered
  have hsame : t = t' := Host.Outcome.next.inj (ht.symm.trans ht')
  have hlisted : (0, 0, agSet 0) ∈ disordered.regionSets 0 := by simp [regionSets_disordered]
  have hstopped := hstops 0 (Region.placed 0 64 [0]) 0 0 (agSet 0) (List.mem_singleton.mpr rfl) rfl hlisted
  rw [hsame, hnone] at hstopped
  cases hstopped

/-! ### Abandoning a cooperative command (R178, R229) -/

/-- A member's share of a cooperative cube.mm of 32 by 32 by 8, stopped within its panel; its plane A stands in slot 0 of the member that sources
it, as `aux` says after the count. -/
def stoppedShare : Cmd where
  i := .cubeMm ⟨⟨false, 7⟩, none, none, 0, none⟩ 0
  addr := 0
  blk := 0
  idx := 0
  gate := []
  after := []
  at' := .stopped
  seq := 0
  invoc := 0
  stage := 4
  ds := [0x4000000000, 0x0804004000000000, 0, 0]
  pos := 0
  buf := []
  held := []
  aux := [0, 0]

/-- The set that issued it, with the record of its CUBE_CHECK. -/
def memberSet : SetState := { agSet 1 with
  queue := [stoppedShare]
  faulted := [⟨recWord0 { code := Code.cubeCheck } { eng := true } 1 0 0 0 0, 0, 0, 0, true, 0, true⟩] }

/-- A group of one row on tiles 0 and 1: tile 0 sources the row's plane A, and its slot 0 has one reader left, the share of tile 1. -/
def lending : State := { State.reset with
  tiles := [
    (0, { Tile.reset with active := some ⟨0, [(0, agSet 0)], 0x8000000000000000, [], none, [], []⟩, slots := [(0, ⟨.inUse, 0, 1⟩)] }),
    (1, { Tile.reset with active := some ⟨0, [(0, memberSet)], 0x8000400000000000, [], none, [], []⟩, slots := [(0, ⟨.inUse, 0, 1⟩)],
                          cube := { Cube.reset with cmds := [(0, 0)] } })],
  regions := [(0, Region.placed 0 64 [0, 1])] }

theorem canon_lending : lending.canon = true := by decide

/-- The source's slot loses its reader when the share is abandoned. -/
theorem execFltAbandonCommand_lending :
    ∃ t, exec (.fltAbandonCommand 1 0 0) lending = .next t ∧ t.slot 0 0 = ⟨.ready, 0, 0⟩ := ⟨_, rfl, rfl⟩

/-- Refutes O45: abandoning a cooperative cube command changes another tile than its own. In `lending`, a canonical state (`canon_lending`), tile
1's share reads plane A in slot 0 of tile 0 (R178), and `State.leaveSlots` gives that slot back: it goes from IN USE to READY, though the
statement has every other tile stay as it is. -/
theorem not_faultHandlingEvents : ¬ Obligations.FaultHandlingEvents := by
  unfold Obligations.FaultHandlingEvents
  rintro ⟨hacts, -⟩
  obtain ⟨-, hcommand, -⟩ := hacts lending 1 0 0 memberSet rfl (by decide)
  obtain ⟨-, s1, v1, hs1, -, -, -, -, -, -, -, hothers, -⟩ := hcommand rfl (by decide) rfl
  obtain ⟨t, ht, hslot⟩ := execFltAbandonCommand_lending
  have htile : t.tile 0 = lending.tile 0 := by
    rw [Host.Outcome.next.inj (ht.symm.trans hs1)]
    exact (State.tile_modSet_other (by decide) _).trans (hothers 0 (by decide))
  have hkept : t.slot 0 0 = lending.slot 0 0 := by rw [State.slot, htile]; rfl
  exact absurd (hslot.symm.trans hkept) (by decide)

end Sys2Proof.Machine
end

section
/-! SUPPORT. The encoder and the decoder undo each other (O49, O50): each field, each format, each shape of operands, then opcode by opcode. -/
namespace Sys2Proof
open Sys2Proof.Laws

/-! ### Fields: a code is read as `x` exactly when it is what the encoder writes for `x` -/

/-- Two tables agree when each code that the encoder writes is read back and each code that is read is written again. -/
theorem eq_some_iff_of_tables {α β : Type} [BEq β] [LawfulBEq β] {dec : β → Option α} {enc : α → β} (hd : ∀ x, dec (enc x) = some x)
    (he : ∀ n, (dec n).all (fun x => enc x == n) = true) {n : β} {x : α} : dec n = some x ↔ n = enc x := by
  constructor
  · intro h
    have := he n
    rw [h] at this
    exact (beq_iff_eq.1 this).symm
  · rintro rfl
    exact hd x

@[simp] theorem guardEnc_guardDec : ∀ g : BitVec 4, guardEnc (guardDec g) = g := by decide

@[simp] theorem opdDec_opdEnc (o : Opd) : opdDec (opdEnc o) = some o := by
  cases o with
  | x n | s n | q n | ch n | pc n | k n | lc n => revert n; decide
  | spec r => cases r <;> rfl

@[simp] theorem opdDec_eq_some {n : BitVec 7} {o : Opd} : opdDec n = some o ↔ n = opdEnc o := eq_some_iff_of_tables opdDec_opdEnc (by decide)

@[simp] theorem regDec_regEnc (r : Reg) : regDec (regEnc r) = some r := by
  cases r with
  | x n | s n => revert n; decide

@[simp] theorem regDec_eq_some {n : BitVec 7} {r : Reg} : regDec n = some r ↔ n = regEnc r := eq_some_iff_of_tables regDec_regEnc (by decide)

@[simp] theorem xDec_append : ∀ n : BitVec 5, xDec (0#2 ++ n) = some n := by decide

@[simp] theorem xDec_eq_some {m : BitVec 7} {n : BitVec 5} : xDec m = some n ↔ m = 0#2 ++ n :=
  eq_some_iff_of_tables (enc := fun n => 0#2 ++ n) xDec_append (by decide)

@[simp] theorem chDec_chEnc : ∀ n : BitVec 3, chDec (chEnc n) = some n := by decide

@[simp] theorem chDec_eq_some {m : BitVec 7} {n : BitVec 3} : chDec m = some n ↔ m = chEnc n := eq_some_iff_of_tables chDec_chEnc (by decide)

@[simp] theorem chNameDec_chNameEnc (c : ChName) : chNameDec (chNameEnc c) = some c := by
  cases c with
  | ch n | pc n => revert n; decide

@[simp] theorem chNameDec_eq_some {m : BitVec 7} {c : ChName} : chNameDec m = some c ↔ m = chNameEnc c :=
  eq_some_iff_of_tables chNameDec_chNameEnc (by decide)

@[simp] theorem sDec_sEnc : ∀ n : BitVec 4, sDec (sEnc n) = some n := by decide

@[simp] theorem sDec_eq_some {m : BitVec 7} {n : BitVec 4} : sDec m = some n ↔ m = sEnc n := eq_some_iff_of_tables sDec_sEnc (by decide)

@[simp] theorem ityDec_ityEnc (t : ITy) : ityDec (ityEnc t) = some t := by cases t <;> rfl

@[simp] theorem ityDec_eq_some {n : BitVec 3} {t : ITy} : ityDec n = some t ↔ n = ityEnc t := eq_some_iff_of_tables ityDec_ityEnc (by decide)

@[simp] theorem satDec_satEnc (t : Sat) : satDec (satEnc t) = some t := by cases t <;> rfl

@[simp] theorem satDec_eq_some {n : BitVec 2} {t : Sat} : satDec n = some t ↔ n = satEnc t := eq_some_iff_of_tables satDec_satEnc (by decide)

@[simp] theorem sizeDec_sizeEnc (t : LdSize) : sizeDec (sizeEnc t) = some t := by cases t <;> rfl

@[simp] theorem sizeDec_eq_some {n : BitVec 3} {t : LdSize} : sizeDec n = some t ↔ n = sizeEnc t :=
  eq_some_iff_of_tables sizeDec_sizeEnc (by decide)

@[simp] theorem atyDec_atyEnc (t : ATy) : atyDec (atyEnc t) = some t := by cases t <;> rfl

@[simp] theorem atyDec_eq_some {n : BitVec 3} {t : ATy} : atyDec n = some t ↔ n = atyEnc t := eq_some_iff_of_tables atyDec_atyEnc (by decide)

@[simp] theorem b8Dec_b8Enc (f : B8) : b8Dec (b8Enc f) = f := by
  obtain ⟨p, u, n⟩ := f
  revert p u n
  decide

@[simp] theorem b8Enc_b8Dec : ∀ n : BitVec 5, b8Enc (b8Dec n) = n := by decide

@[simp] theorem rmDec_rmEnc (r : RM) : rmDec (rmEnc r) = r := by cases r <;> rfl

@[simp] theorem rmEnc_rmDec : ∀ n : BitVec 2, rmEnc (rmDec n) = n := by decide

@[simp] theorem ofBool_beq_one : ∀ b : Bool, (BitVec.ofBool b == 1#1) = b := by decide

@[simp] theorem ofBool_of_beq_one : ∀ b : BitVec 1, BitVec.ofBool (b == 1#1) = b := by decide

/-- A type's code with the modifier bits that qualify it (R279). -/
@[simp] theorem tyDec_eq_some {t : BitVec 3} {u : BitVec 1} {f : BitVec 5} {ty : Ty} :
    tyDec t u f = some ty ↔ t = ty.code ∧ u = ty.uBit ∧ f = ty.fBits := by
  have hd : ∀ ty : Ty, tyDec ty.code ty.uBit ty.fBits = some ty := by
    intro ty
    cases ty with
    | b8 f => exact congrArg (fun f => some (Ty.b8 f)) (b8Dec_b8Enc f)
    | q8 u => cases u <;> rfl
    | i32 | n32 | i64 | n64 | f32 | bf16 => rfl
  have he : ∀ n : BitVec 3 × BitVec 1 × BitVec 5,
      (tyDec n.1 n.2.1 n.2.2).all (fun ty => (ty.code, ty.uBit, ty.fBits) == n) = true := by
    rintro ⟨t, u, f⟩
    revert t u f
    decide
  simpa using eq_some_iff_of_tables (dec := fun n : BitVec 3 × BitVec 1 × BitVec 5 => tyDec n.1 n.2.1 n.2.2) hd he (n := (t, u, f))

@[simp] theorem tyDec_enc (ty : Ty) : tyDec ty.code ty.uBit ty.fBits = some ty := tyDec_eq_some.2 ⟨rfl, rfl, rfl⟩

/-- The packed types of OPC 0x11 (R335) are types whose signedness bit is 0. -/
def PTy.fBits : PTy → BitVec 5
  | .bf16 => 0
  | .b8 f => b8Enc f

theorem modP_eq (rm : RM) (sat : Sat) (ty : PTy) : modP rm sat ty = WMod.pack ⟨rmEnc rm, satEnc sat, 0, 0, 0, ty.fBits⟩ := by cases ty <;> rfl

@[simp] theorem ptyDec_eq_some {t : BitVec 3} {f : BitVec 5} {ty : PTy} : ptyDec t f = some ty ↔ t = ty.code ∧ f = ty.fBits := by
  have hd : ∀ ty : PTy, ptyDec ty.code ty.fBits = some ty := by
    intro ty
    cases ty with
    | bf16 => rfl
    | b8 f => exact congrArg (fun f => some (PTy.b8 f)) (b8Dec_b8Enc f)
  have he : ∀ n : BitVec 3 × BitVec 5, (ptyDec n.1 n.2).all (fun ty => (ty.code, ty.fBits) == n) = true := by
    rintro ⟨t, f⟩
    revert t f
    decide
  simpa using eq_some_iff_of_tables (dec := fun n : BitVec 3 × BitVec 5 => ptyDec n.1 n.2) hd he (n := (t, f))

@[simp] theorem ptyDec_enc (ty : PTy) : ptyDec ty.code ty.fBits = some ty := ptyDec_eq_some.2 ⟨rfl, rfl⟩

/-- The destination of pk4 (R338): a binary8 format with P = 0 would be read as an integer quad. -/
theorem quadDec_quadEnc {t : QuadTy} (h : ∀ f, t = .b8 f → f.ok = true) : quadDec (quadEnc t) = some t := by
  cases t with
  | q8 u => cases u <;> rfl
  | b8 f =>
    obtain ⟨p, u, n⟩ := f
    have hp : (p != 0) = true := h _ rfl
    clear h
    revert p u n
    decide

theorem quadEnc_of_quadDec {n : BitVec 5} {t : QuadTy} (h : quadDec n = some t) : n = quadEnc t := by
  have he : ∀ n : BitVec 5, (quadDec n).all (fun t => quadEnc t == n) = true := by decide
  have hn := he n
  rw [h] at hn
  exact (beq_iff_eq.1 hn).symm

@[simp] theorem condDec_condEnc (t : Cond) : condDec (condEnc t).toNat = some t := by cases t <;> rfl

@[simp] theorem condDec_eq_some {n : BitVec 6} {t : Cond} : condDec n.toNat = some t ↔ n = condEnc t :=
  eq_some_iff_of_tables (dec := fun n : BitVec 6 => condDec n.toNat) condDec_condEnc (by decide)

@[simp] theorem condImmDec_condImmEnc (t : CondImm) : condImmDec (condImmEnc t).toNat = some t := by cases t <;> rfl

@[simp] theorem condImmDec_eq_some {n : BitVec 6} {t : CondImm} : condImmDec n.toNat = some t ↔ n = condImmEnc t :=
  eq_some_iff_of_tables (dec := fun n : BitVec 6 => condImmDec n.toNat) condImmDec_condImmEnc (by decide)

@[simp] theorem scopeDec_scopeEnc (t : Scope) : scopeDec (scopeEnc t).toNat = some t := by cases t <;> rfl

@[simp] theorem scopeDec_eq_some {n : BitVec 6} {t : Scope} : scopeDec n.toNat = some t ↔ n = scopeEnc t :=
  eq_some_iff_of_tables (dec := fun n : BitVec 6 => scopeDec n.toNat) scopeDec_scopeEnc (by decide)

@[simp] theorem selDec_selEnc (t : PlaneSel) : selDec (selEnc t).toNat = some t := by cases t <;> rfl

@[simp] theorem selDec_eq_some {n : BitVec 2} {t : PlaneSel} : selDec n.toNat = some t ↔ n = selEnc t :=
  eq_some_iff_of_tables (dec := fun n : BitVec 2 => selDec n.toNat) selDec_selEnc (by decide)

/-- A bit vector whose number is `k` is the literal `k`. -/
theorem eq_ofNat_of_toNat {n k : Nat} {x : BitVec n} (h : x.toNat = k) : x = BitVec.ofNat n k := by
  rw [← h, BitVec.ofNat_toNat, BitVec.setWidth_eq]

@[simp] theorem subDec_subEnc (t : CtlSub) : subDec (subEnc t).toNat = some t := by cases t <;> rfl

@[simp] theorem subDec_eq_some {n : BitVec 16} {t : CtlSub} : subDec n.toNat = some t ↔ n = subEnc t := by
  refine ⟨fun h => ?_, fun h => h ▸ subDec_subEnc t⟩
  unfold subDec at h
  split at h <;> cases h <;> exact eq_ofNat_of_toNat ‹_›

@[simp] theorem trapOpDec_trapOpEnc (t : TrapOp) : trapOpDec (trapOpEnc t).toNat = some t := by cases t <;> rfl

@[simp] theorem trapOpDec_eq_some {n : BitVec 16} {t : TrapOp} : trapOpDec n.toNat = some t ↔ n = trapOpEnc t := by
  refine ⟨fun h => ?_, fun h => h ▸ trapOpDec_trapOpEnc t⟩
  unfold trapOpDec at h
  split at h <;> cases h <;> exact eq_ofNat_of_toNat ‹_›

@[simp] theorem sregDec_sregEnc (r : SReg) : sregDec (sregEnc r) = some r := by
  cases r with
  | bkpt n => revert n; decide
  | _ => rfl

@[simp] theorem sregDec_eq_some {n : BitVec 16} {r : SReg} : sregDec n = some r ↔ n = sregEnc r := by
  refine ⟨fun h => ?_, fun h => h ▸ sregDec_sregEnc r⟩
  unfold sregDec at h
  split at h
  case h_22 =>
    split at h
    · next hk =>
      cases h
      obtain ⟨hlo, hhi⟩ := hk
      have hn := eq_ofNat_of_toNat (x := n) rfl
      generalize n.toNat = k at hn hlo hhi
      subst hn
      interval_cases k <;> rfl
    · cases h
  all_goals
    cases h
    exact eq_ofNat_of_toNat ‹_›

theorem atomOpEnc_of_dec {n : BitVec 6} {op : AtomOp} (h : atomOpDec n.toNat = some op) : n = atomOpEnc op := by
  have he : ∀ n : BitVec 6, (atomOpDec n.toNat).all (fun op => atomOpEnc op == n) = true := by decide
  have hn := he n
  rw [h] at hn
  exact (beq_iff_eq.1 hn).symm

/-- FN 0x08 to 0x0D are the reductions (R303). -/
theorem atomOpEnc_of_dec_sub {n : BitVec 6} {op : AtomOp} (hlo : 8 ≤ n.toNat) (hhi : n.toNat < 14) (h : atomOpDec (n.toNat - 8) = some op) :
    n = 8 + atomOpEnc op := by
  have he : ∀ n : BitVec 6, 8 ≤ n.toNat → n.toNat < 14 → (atomOpDec (n.toNat - 8)).all (fun op => 8 + atomOpEnc op == n) = true := by decide
  have hn := he n hlo hhi
  rw [h] at hn
  exact (beq_iff_eq.1 hn).symm

/-- A tag field with ANY in bit 4 (R351), whatever the bits above and ACQ at bit 3 are. -/
@[simp] theorem tagDec_eq_some {hi : BitVec 11} {any acq : BitVec 1} {t : BitVec 3} {tag : Option (BitVec 3)} :
    tagDec (hi ++ any ++ acq ++ t) = some tag ↔ any = BitVec.ofBool tag.isNone ∧ t = tag.getD 0 := by
  unfold tagDec
  simp (disch := decide) only [BitVec.extractLsb'_append_eq_of_le, BitVec.extractLsb'_append_eq_of_add_le]
  simp only [Nat.reduceSub, BitVec.extractLsb'_eq_self]
  revert any t
  cases tag with
  | none => decide
  | some n => revert n; decide

/-- The channels of lgen (R360): `base` is the number of the first, a multiple of 8 above q7. -/
@[simp] theorem lgenDec_eq_some {up : BitVec 4} (hup : up = 7 ∨ up = 8) {n : BitVec 7} {c : Option (BitVec 3)} :
    lgenDec (8 * up.toNat) n = some c ↔ n = (c.map (fun n => (up ++ n : BitVec 7))).getD 55 := by
  have hd : ∀ c : Option (BitVec 3), lgenDec (8 * up.toNat) ((c.map (fun n => (up ++ n : BitVec 7))).getD 55) = some c := by
    intro c
    cases c with
    | none => rfl
    | some n => revert n; rcases hup with rfl | rfl <;> decide
  refine eq_some_iff_of_tables hd ?_
  rcases hup with rfl | rfl <;> decide

@[simp] theorem memDec_eq_some {f : WM} {m : MemRef} :
    memDec f = some m ↔ f.base = m.base ∧ f.ofs = ofsEnc m.ofs ∧ f.sc = m.sc ∧ f.ac = m.ac ∧ f.off = m.off := by
  obtain ⟨base, ofs, sc, ac, off⟩ := m
  have hne : ∀ o : BitVec 5, 127#7 ≠ 0#2 ++ o := by decide
  unfold memDec
  split
  · next h => cases ofs <;> simp [h, ofsEnc, hne]
  · next h =>
    have h : f.ofs ≠ 127#7 := h
    cases ofs <;> simp [h, ofsEnc, xDec_eq_some, and_left_comm]

theorem memDec_of_fields (opc fn : BitVec 6) (sf : BitVec 1) (g : BitVec 4) (data : BitVec 7) (size : BitVec 3) (m : MemRef) :
    memDec ⟨opc, fn, sf, g, data, m.base, ofsEnc m.ofs, m.sc, m.ac, size, m.off⟩ = some m := memDec_eq_some.2 ⟨rfl, rfl, rfl, rfl, rfl⟩

/-- A field that is 0 without its mark (R282). -/
theorem marked_eq_some {n : Nat} {m : BitVec 1} {x : BitVec n} {o : Option (BitVec n)} :
    (m = 1 ∨ x = 0) ∧ (if m = 1 then some x else none) = o ↔ x = o.getD 0 ∧ m = BitVec.ofBool o.isSome := by
  have hm : m = 0 ∨ m = 1 := by revert m; decide
  rcases hm with rfl | rfl <;> cases o <;> simp

@[simp] theorem scomDec_eq_some {f : WS} {c : SCom} :
    scomDec f = some c ↔ f.sf = 0 ∧ f.g = guardEnc c.g ∧ f.wq = c.wq.getD 0 ∧ f.pq = c.pq.getD 0 ∧ f.wt = BitVec.ofBool c.wq.isSome ∧
      f.pt = BitVec.ofBool c.pq.isSome ∧ f.ac = c.ac ∧ f.try' = BitVec.ofBool c.tq.isSome ∧ f.tq = c.tq.getD 0 := by
  obtain ⟨g, wq, pq, ac, tq⟩ := c
  have hw := marked_eq_some (m := f.wt) (x := f.wq) (o := wq)
  have hp := marked_eq_some (m := f.pt) (x := f.pq) (o := pq)
  have ht := marked_eq_some (m := f.try') (x := f.tq) (o := tq)
  have hg : guardDec f.g = g ↔ f.g = guardEnc g := ⟨fun h => h ▸ (guardEnc_guardDec _).symm, fun h => h ▸ guardDec_guardEnc g⟩
  unfold scomDec
  split
  · next h => simp only [Option.some.injEq, SCom.mk.injEq]; grind
  · next h => grind

theorem scomDec_of_fields (opc fn : BitVec 6) (port desc : BitVec 4) (low : BitVec 21) (c : SCom) :
    scomDec ⟨opc, fn, 0#1, guardEnc c.g, port, desc, c.wq.getD 0#4, c.pq.getD 0#4, BitVec.ofBool c.wq.isSome, BitVec.ofBool c.pq.isSome, c.ac,
      BitVec.ofBool c.tq.isSome, c.tq.getD 0#3, low⟩ = some c := scomDec_eq_some.2 ⟨rfl, rfl, rfl, rfl, rfl, rfl, rfl, rfl, rfl⟩

/-! ### Formats: the fields of a word, and the word of its fields -/

@[simp] theorem WMod.of_pack (m : WMod) : WMod.of m.pack = m := by
  unfold WMod.of WMod.pack
  simp (disch := decide) only [BitVec.extractLsb'_append_eq_of_le, BitVec.extractLsb'_append_eq_of_add_le]
  simp only [Nat.reduceSub, BitVec.extractLsb'_eq_self]

theorem WMod.pack_of (w : BitVec 16) : (WMod.of w).pack = w := by
  unfold WMod.of WMod.pack
  simp (disch := decide) only [BitVec.extractLsb'_append_extractLsb'_eq_extractLsb']
  exact BitVec.extractLsb'_eq_self

@[simp] theorem WA.of_pack (f : WA) : WA.of f.pack = f := by
  unfold WA.of WA.pack
  simp (disch := decide) only [BitVec.extractLsb'_append_eq_of_le, BitVec.extractLsb'_append_eq_of_add_le]
  simp only [Nat.reduceSub, BitVec.extractLsb'_eq_self]

theorem WA.pack_of (w : Double) : (WA.of w).pack = w := by
  unfold WA.of WA.pack
  simp (disch := decide) only [BitVec.extractLsb'_append_extractLsb'_eq_extractLsb']
  exact BitVec.extractLsb'_eq_self

@[simp] theorem WI.of_pack (f : WI) : WI.of f.pack = f := by
  unfold WI.of WI.pack
  simp (disch := decide) only [BitVec.extractLsb'_append_eq_of_le, BitVec.extractLsb'_append_eq_of_add_le]
  simp only [Nat.reduceSub, BitVec.extractLsb'_eq_self]

theorem WI.pack_of (w : Double) : (WI.of w).pack = w := by
  unfold WI.of WI.pack
  simp (disch := decide) only [BitVec.extractLsb'_append_extractLsb'_eq_extractLsb']
  exact BitVec.extractLsb'_eq_self

@[simp] theorem WM.of_pack (f : WM) : WM.of f.pack = f := by
  unfold WM.of WM.pack
  simp (disch := decide) only [BitVec.extractLsb'_append_eq_of_le, BitVec.extractLsb'_append_eq_of_add_le]
  simp only [Nat.reduceSub, BitVec.extractLsb'_eq_self]

theorem WM.pack_of (w : Double) : (WM.of w).pack = w := by
  unfold WM.of WM.pack
  simp (disch := decide) only [BitVec.extractLsb'_append_extractLsb'_eq_extractLsb']
  exact BitVec.extractLsb'_eq_self

@[simp] theorem WS.of_pack (f : WS) : WS.of f.pack = f := by
  unfold WS.of WS.pack
  simp (disch := decide) only [BitVec.extractLsb'_append_eq_of_le, BitVec.extractLsb'_append_eq_of_add_le]
  simp only [Nat.reduceSub, BitVec.extractLsb'_eq_self]

theorem WS.pack_of (w : Double) : (WS.of w).pack = w := by
  unfold WS.of WS.pack
  simp (disch := decide) only [BitVec.extractLsb'_append_extractLsb'_eq_extractLsb']
  exact BitVec.extractLsb'_eq_self

@[simp] theorem WJ.of_pack (f : WJ) : WJ.of f.pack = f := by
  unfold WJ.of WJ.pack
  simp (disch := decide) only [BitVec.extractLsb'_append_eq_of_le, BitVec.extractLsb'_append_eq_of_add_le]
  simp only [Nat.reduceSub, BitVec.extractLsb'_eq_self]

theorem WJ.pack_of (w : Double) : (WJ.of w).pack = w := by
  unfold WJ.of WJ.pack
  simp (disch := decide) only [BitVec.extractLsb'_append_extractLsb'_eq_extractLsb']
  exact BitVec.extractLsb'_eq_self

@[simp] theorem WA.opc_pack (f : WA) : f.pack.extractLsb' 58 6 = f.opc := congrArg WA.opc f.of_pack

@[simp] theorem WI.opc_pack (f : WI) : f.pack.extractLsb' 58 6 = f.opc := congrArg WI.opc f.of_pack

@[simp] theorem WM.opc_pack (f : WM) : f.pack.extractLsb' 58 6 = f.opc := congrArg WM.opc f.of_pack

@[simp] theorem WS.opc_pack (f : WS) : f.pack.extractLsb' 58 6 = f.opc := congrArg WS.opc f.of_pack

@[simp] theorem WJ.opc_pack (f : WJ) : f.pack.extractLsb' 58 6 = f.opc := congrArg WJ.opc f.of_pack

@[simp] theorem WMod.pack_zero : WMod.pack ⟨0#2, 0#2, 0#5, 0#1, 0#1, 0#5⟩ = 0#16 := rfl

@[simp] theorem WMod.of_zero : WMod.of 0#16 = ⟨0, 0, 0, 0, 0, 0⟩ := rfl

@[simp] theorem WMod.pack_eq_zero {m : WMod} : m.pack = 0#16 ↔ m = ⟨0, 0, 0, 0, 0, 0⟩ :=
  ⟨fun h => by rw [← m.of_pack, h, WMod.of_zero], fun h => h ▸ rfl⟩

/-- A field in two parts. -/
theorem exists_append (v w : Nat) (x : BitVec (v + w)) : ∃ (hi : BitVec v) (lo : BitVec w), x = hi ++ lo :=
  ⟨x.extractLsb' w v, x.extractLsb' 0 w, BitVec.extractLsb'_append_extractLsb'.symm⟩

@[simp] theorem append_eq_zero {v w : Nat} {x : BitVec v} {y : BitVec w} : x ++ y = 0#(v + w) ↔ x = 0#v ∧ y = 0#w := by
  constructor
  · intro h
    exact ⟨by simpa [BitVec.extractLsb'_append_eq_left] using congrArg (·.extractLsb' w v) h,
      by simpa [BitVec.extractLsb'_append_eq_right] using congrArg (·.extractLsb' 0 w) h⟩
  · rintro ⟨rfl, rfl⟩
    exact BitVec.zero_append_zero

@[simp] theorem when'_eq_some {α : Type} {ok : Bool} {x y : α} : when' ok x = some y ↔ ok = true ∧ x = y := by
  cases ok <;> simp [when']


/-! ### Shapes of operands: the word that a decoded shape was read from -/

theorem encode_of_decInt3 {f : WA} {k : Guard → ITy → Opd → Opd → Opd → Instr} {i : Instr} {opc : BitVec 6} {n : Nat} (ho : f.opc = opc)
    (he : ∀ g ty d a b, encode (k g ty d a b) = some (encInt3 opc (BitVec.ofNat 6 n) g ty d a b)) (hf : f.fn.toNat = n)
    (h : some (decInt3 f k) = some (some i)) : encode i = some f.pack := by
  obtain ⟨_, fn, sf, g, d, a, b, c, ty, mod⟩ := f
  obtain rfl := eq_ofNat_of_toNat hf
  simp [decInt3, Option.bind_eq_some_iff] at h
  obtain ⟨ty, rfl, d, rfl, a, rfl, b, rfl, ⟨⟨rfl, rfl⟩, rfl⟩, rfl⟩ := h
  simp [he, encInt3, wordA, ← ho]

theorem encode_of_decInt2 {f : WA} {k : Guard → ITy → Opd → Opd → Instr} {i : Instr} {opc : BitVec 6} {n : Nat} (ho : f.opc = opc)
    (he : ∀ g ty d a, encode (k g ty d a) = some (encInt2 opc (BitVec.ofNat 6 n) g ty d a)) (hf : f.fn.toNat = n)
    (h : some (decInt2 f k) = some (some i)) : encode i = some f.pack := by
  obtain ⟨_, fn, sf, g, d, a, b, c, ty, mod⟩ := f
  obtain rfl := eq_ofNat_of_toNat hf
  simp [decInt2, Option.bind_eq_some_iff] at h
  obtain ⟨ty, rfl, d, rfl, a, rfl, ⟨⟨⟨rfl, rfl⟩, rfl⟩, rfl⟩, rfl⟩ := h
  simp [he, encInt2, wordA, ← ho]

theorem encode_of_decInt4 {f : WA} {k : Guard → ITy → Opd → Opd → Opd → Opd → Instr} {i : Instr} {opc : BitVec 6} {n : Nat} (ho : f.opc = opc)
    (he : ∀ g ty d a b c, encode (k g ty d a b c) = some (encInt4 opc (BitVec.ofNat 6 n) g ty d a b c)) (hf : f.fn.toNat = n)
    (h : some (decInt4 f k) = some (some i)) : encode i = some f.pack := by
  obtain ⟨_, fn, sf, g, d, a, b, c, ty, mod⟩ := f
  obtain rfl := eq_ofNat_of_toNat hf
  simp [decInt4, Option.bind_eq_some_iff] at h
  obtain ⟨ty, rfl, d, rfl, a, rfl, b, rfl, c, rfl, ⟨rfl, rfl⟩, rfl⟩ := h
  simp [he, encInt4, wordA, ← ho]

theorem encode_of_decImm {f : WI} {k : Guard → Opd → Opd → BitVec 33 → Instr} {i : Instr} {opc : BitVec 6} {n : Nat} (ho : f.opc = opc)
    (he : ∀ g d a imm, encode (k g d a imm) = some (encImm opc (BitVec.ofNat 6 n) g d a imm)) (hf : f.fn.toNat = n)
    (h : some (decImm f k) = some (some i)) : encode i = some f.pack := by
  obtain ⟨_, fn, sf, g, d, a, imm⟩ := f
  obtain rfl := eq_ofNat_of_toNat hf
  simp [decImm, Option.bind_eq_some_iff] at h
  obtain ⟨d, rfl, a, rfl, rfl, rfl⟩ := h
  simp [he, encImm, wordI, ← ho]

theorem encode_of_decLdSt {f : WM} {k : Guard → LdSize → Reg → MemRef → Instr} {i : Instr} {opc : BitVec 6} {n : Nat} (ho : f.opc = opc)
    (he : ∀ g size data m, encode (k g size data m) = some (wordM opc (BitVec.ofNat 6 n) false g data m (sizeEnc size))) (hf : f.fn.toNat = n)
    (h : some (decLdSt f k) = some (some i)) : encode i = some f.pack := by
  obtain ⟨_, fn, sf, g, data, base, ofs, sc, ac, size, off⟩ := f
  obtain rfl := eq_ofNat_of_toNat hf
  simp [decLdSt, Option.bind_eq_some_iff] at h
  obtain ⟨size, rfl, data, rfl, m, ⟨rfl, rfl, rfl, rfl, rfl⟩, rfl, rfl⟩ := h
  simp [he, wordM, ← ho]

theorem encode_of_decPort {f : WS} {k : SCom → BitVec 3 → BitVec 4 → Instr} {i : Instr} {opc : BitVec 6} {n : Nat} (ho : f.opc = opc)
    (he : ∀ c port desc, encode (k c port desc) = some (wordS opc (BitVec.ofNat 6 n) c (0#1 ++ port) desc 0)) (hf : f.fn.toNat = n)
    (h : some (decPort f k) = some (some i)) : encode i = some f.pack := by
  obtain ⟨_, fn, sf, g, port, desc, wq, pq, wt, pt, ac, try', tq, low⟩ := f
  obtain ⟨up, port, rfl⟩ := exists_append 1 3 port
  obtain rfl := eq_ofNat_of_toNat hf
  unfold decPort at h
  simp (disch := decide) only [BitVec.extractLsb'_append_eq_of_le, BitVec.extractLsb'_append_eq_of_add_le] at h
  simp [Option.bind_eq_some_iff] at h
  obtain ⟨c, ⟨rfl, rfl, rfl, rfl, rfl, rfl, rfl, rfl, rfl⟩, ⟨rfl, rfl⟩, rfl⟩ := h
  simp [he, wordS, ← ho]

theorem encode_of_decDesc {f : WS} {k : SCom → BitVec 4 → Instr} {i : Instr} {opc : BitVec 6} {n : Nat} (ho : f.opc = opc)
    (he : ∀ c desc, encode (k c desc) = some (wordS opc (BitVec.ofNat 6 n) c 0 desc 0)) (hf : f.fn.toNat = n)
    (h : some (decDesc f k) = some (some i)) : encode i = some f.pack := by
  obtain ⟨_, fn, sf, g, port, desc, wq, pq, wt, pt, ac, try', tq, low⟩ := f
  obtain rfl := eq_ofNat_of_toNat hf
  simp [decDesc, Option.bind_eq_some_iff] at h
  obtain ⟨c, ⟨rfl, rfl, rfl, rfl, rfl, rfl, rfl, rfl, rfl⟩, ⟨rfl, rfl⟩, rfl⟩ := h
  simp [he, wordS, ← ho]

/-- The modifier that an FP32 form writes (R332): its rounding mode where it has one. -/
def fpModWord (m : WMod) (anyRm : Bool) : BitVec 16 := if anyRm then modRm (rmDec m.rm) else 0

theorem fpMod_eq_true {m : WMod} {anyRm : Bool} (h : fpMod m anyRm = true) : m.pack = fpModWord m anyRm := by
  unfold fpMod at h
  rw [beq_iff_eq] at h
  cases anyRm <;> (rw [h]; simp [fpModWord, modRm])

theorem encode_of_fp3 {f : WA} {k : Opd → Opd → Opd → Opd → Instr} {i : Instr} {n : Nat} (ho : f.opc = 0x10)
    (he : ∀ d a b c, encode (k d a b c) = some (encF3 (BitVec.ofNat 6 n) (guardDec f.g) (f.sf == 1) (fpModWord (WMod.of f.mod) true) d a b c))
    (hf : f.fn.toNat = n)
    (h : some (do
      let d ← opdDec f.d
      let a ← opdDec f.a
      let b ← opdDec f.b
      let c ← opdDec f.c
      when' (f.ty == 4 && fpMod (WMod.of f.mod) true) (k d a b c)) = some (some i)) : encode i = some f.pack := by
  obtain ⟨_, fn, sf, g, d, a, b, c, ty, mod⟩ := f
  obtain rfl := eq_ofNat_of_toNat hf
  simp [Option.bind_eq_some_iff] at h
  obtain ⟨d, rfl, a, rfl, b, rfl, c, rfl, ⟨rfl, hm⟩, rfl⟩ := h
  simp [he, encF3, wordA, ← ho, ← fpMod_eq_true hm, WMod.pack_of]

theorem encode_of_fp2 (anyRm flags : Bool) {f : WA} {k : Opd → Opd → Opd → Instr} {i : Instr} {n : Nat} (ho : f.opc = 0x10)
    (he : ∀ d a b, encode (k d a b) =
      some (encF2 (BitVec.ofNat 6 n) (guardDec f.g) (flags && f.sf == 1) (fpModWord (WMod.of f.mod) anyRm) d a b)) (hf : f.fn.toNat = n)
    (h : some (do
      let d ← opdDec f.d
      let a ← opdDec f.a
      let b ← opdDec f.b
      when' (f.ty == 4 && f.c == 0 && fpMod (WMod.of f.mod) anyRm && (flags || f.sf == 0)) (k d a b)) = some (some i)) :
    encode i = some f.pack := by
  obtain ⟨_, fn, sf, g, d, a, b, c, ty, mod⟩ := f
  obtain rfl := eq_ofNat_of_toNat hf
  simp [Option.bind_eq_some_iff] at h
  obtain ⟨d, rfl, a, rfl, b, rfl, ⟨⟨⟨rfl, rfl⟩, hm⟩, hs⟩, rfl⟩ := h
  cases flags <;> simp_all [encF2, wordA, ← fpMod_eq_true hm, WMod.pack_of]

theorem encode_of_fp1 (anyRm flags : Bool) {f : WA} {k : Opd → Opd → Instr} {i : Instr} {n : Nat} (ho : f.opc = 0x10)
    (he : ∀ d a, encode (k d a) =
      some (encF1 (BitVec.ofNat 6 n) (guardDec f.g) (flags && f.sf == 1) (fpModWord (WMod.of f.mod) anyRm) d a)) (hf : f.fn.toNat = n)
    (h : some (do
      let d ← opdDec f.d
      let a ← opdDec f.a
      when' (f.ty == 4 && f.b == 0 && f.c == 0 && fpMod (WMod.of f.mod) anyRm && (flags || f.sf == 0)) (k d a)) = some (some i)) :
    encode i = some f.pack := by
  obtain ⟨_, fn, sf, g, d, a, b, c, ty, mod⟩ := f
  obtain rfl := eq_ofNat_of_toNat hf
  simp [Option.bind_eq_some_iff] at h
  obtain ⟨d, rfl, a, rfl, ⟨⟨⟨⟨rfl, rfl⟩, rfl⟩, hm⟩, hs⟩, rfl⟩ := h
  cases flags <;> simp_all [encF1, wordA, ← fpMod_eq_true hm, WMod.pack_of]

/-! ### A word that decodes is the word of its instruction, opcode by opcode -/

/-- An instruction that a format A word gives in the table of its opcode has that word. -/
theorem encode_of_dec01 {f : WA} {i : Instr} (ho : f.opc = 0x01) (h : dec01 f = some (some i)) : encode i = some f.pack := by
  unfold dec01 at h
  split at h
  case h_1 hf | h_2 hf | h_3 hf | h_4 hf | h_6 hf | h_7 hf | h_8 hf | h_9 hf | h_12 hf | h_13 hf =>
    exact encode_of_decInt3 ho (fun _ _ _ _ _ => rfl) hf h
  case h_5 hf => exact encode_of_decInt4 ho (fun _ _ _ _ _ _ => rfl) hf h
  case h_10 hf | h_11 hf => exact encode_of_decInt2 ho (fun _ _ _ _ => rfl) hf h
  case h_14 hf =>
    obtain ⟨_, fn, sf, g, d, a, b, c, ty, mod⟩ := f
    obtain ⟨⟨rm, sat, b8d, m6, u, b8s⟩, rfl⟩ : ∃ m : WMod, mod = m.pack := ⟨_, (WMod.pack_of mod).symm⟩
    obtain rfl : _ = 0x01#6 := ho
    obtain rfl := eq_ofNat_of_toNat hf
    simp [Option.bind_eq_some_iff] at h
    obtain ⟨d, rfl, a, rfl, b, rfl, c, rfl, ⟨⟨rfl, rfl⟩, rfl, rfl, rfl, rfl, rfl⟩, rfl⟩ := h
    refine congrArg some ?_
    simp [wordA]
  case h_15 => cases h

theorem encode_of_dec02 {f : WA} {i : Instr} (ho : f.opc = 0x02) (h : dec02 f = some (some i)) : encode i = some f.pack := by
  unfold dec02 at h
  split at h
  case h_1 hf | h_2 hf | h_3 hf | h_5 hf | h_6 hf | h_7 hf | h_8 hf | h_9 hf | h_14 hf =>
    exact encode_of_decInt3 ho (fun _ _ _ _ _ => rfl) hf h
  case h_4 hf | h_10 hf | h_11 hf | h_12 hf | h_13 hf => exact encode_of_decInt2 ho (fun _ _ _ _ => rfl) hf h
  case h_15 hf => exact encode_of_decInt4 ho (fun _ _ _ _ _ _ => rfl) hf h
  case h_16 => cases h

theorem encode_of_dec03 {f : WI} {i : Instr} (ho : f.opc = 0x03) (h : dec03 f = some (some i)) : encode i = some f.pack := by
  unfold dec03 at h
  split at h
  case h_1 hf | h_2 hf | h_3 hf | h_4 hf | h_5 hf | h_6 hf | h_7 hf | h_8 hf | h_9 hf | h_10 hf =>
    exact encode_of_decImm ho (fun _ _ _ _ => rfl) hf h
  case h_11 hf =>
    obtain ⟨_, fn, sf, g, d, a, imm⟩ := f
    obtain rfl : _ = 0x03#6 := ho
    obtain rfl := eq_ofNat_of_toNat hf
    simp [Option.bind_eq_some_iff] at h
    obtain ⟨d, rfl, ⟨rfl, rfl⟩, rfl⟩ := h
    refine congrArg some ?_
    simp [wordI]
  case h_12 hf =>
    obtain ⟨_, fn, sf, g, d, a, imm⟩ := f
    obtain rfl : _ = 0x03#6 := ho
    obtain rfl := eq_ofNat_of_toNat hf
    simp [Option.bind_eq_some_iff] at h
    obtain ⟨d, rfl, a, rfl, rfl, rfl⟩ := h
    refine congrArg some ?_
    simp [wordI]
  case h_13 => cases h

theorem encode_of_dec04 {f : WA} {i : Instr} (ho : f.opc = 0x04) : dec04 f = some (some i) → encode i = some f.pack := by
  obtain ⟨opc, fn, sf, g, d, a, b, c, ty, mod⟩ := f
  obtain rfl : opc = 0x04 := ho
  unfold dec04
  split
  case h_5 => nofun
  case h_1 hf =>
    obtain rfl := eq_ofNat_of_toNat hf
    simp [Option.bind_eq_some_iff]
    rintro d rfl a rfl b rfl rfl hty rfl hmod rfl
    refine congrArg some ?_
    rcases hty with rfl | rfl <;> simp [wordA, ← hmod]
  all_goals
    rename_i hf
    obtain rfl := eq_ofNat_of_toNat hf
    simp [Option.bind_eq_some_iff]
    intros
    subst_vars
    refine congrArg some ?_
    simp [wordA]

theorem encode_of_dec05 {f : WA} {i : Instr} (ho : f.opc = 0x05) : dec05 f = some (some i) → encode i = some f.pack := by
  obtain ⟨opc, fn, sf, g, d, a, b, c, ty, mod⟩ := f
  obtain rfl : opc = 0x05 := ho
  obtain ⟨⟨rm, sat, b8d, m6, u, b8s⟩, rfl⟩ : ∃ m : WMod, mod = m.pack := ⟨_, (WMod.pack_of mod).symm⟩
  unfold dec05
  split
  case h_5 => nofun
  all_goals
    rename_i hf
    obtain rfl := eq_ofNat_of_toNat hf
    simp [Option.bind_eq_some_iff]
    intros
    subst_vars
    refine congrArg some ?_
    simp [modTy, wordA]

theorem encode_of_dec10 {f : WA} {i : Instr} (ho : f.opc = 0x10) (h : dec10 f = some (some i)) : encode i = some f.pack := by
  unfold dec10 at h
  split at h
  case h_1 hf | h_2 hf | h_3 hf | h_11 hf => exact encode_of_fp2 true true ho (fun _ _ _ => rfl) hf h
  case h_4 hf | h_5 hf | h_6 hf => exact encode_of_fp3 ho (fun _ _ _ _ => rfl) hf h
  case h_7 hf | h_8 hf => exact encode_of_fp2 false true ho (fun _ _ _ => rfl) hf h
  case h_17 hf => exact encode_of_fp2 false false ho (fun _ _ _ => rfl) hf h
  case h_9 hf | h_10 hf | h_18 hf => exact encode_of_fp1 false false ho (fun _ _ => rfl) hf h
  case h_12 hf | h_19 hf => exact encode_of_fp1 true true ho (fun _ _ => rfl) hf h
  case h_13 hf | h_14 hf | h_15 hf | h_16 hf => exact encode_of_fp1 false true ho (fun _ _ => rfl) hf h
  case h_20 => cases h

theorem encode_of_dec11 {f : WA} {i : Instr} (ho : f.opc = 0x11) : dec11 f = some (some i) → encode i = some f.pack := by
  obtain ⟨opc, fn, sf, g, d, a, b, c, ty, mod⟩ := f
  obtain rfl : opc = 0x11 := ho
  obtain ⟨⟨rm, sat, b8d, m6, u, b8s⟩, rfl⟩ : ∃ m : WMod, mod = m.pack := ⟨_, (WMod.pack_of mod).symm⟩
  unfold dec11
  split
  case h_11 => nofun
  all_goals
    rename_i hf
    obtain rfl := eq_ofNat_of_toNat hf
    simp [Option.bind_eq_some_iff]
    intros
    subst_vars
    refine congrArg some ?_
    simp [encP1, encP2, modP_eq, modRm, PTy.fBits, satEnc, PTy.code, wordA]

theorem encode_of_dec19 {f : WA} {i : Instr} (ho : f.opc = 0x19) : dec19 f = some (some i) → encode i = some f.pack := by
  obtain ⟨opc, fn, sf, g, d, a, b, c, ty, mod⟩ := f
  obtain rfl : opc = 0x19 := ho
  obtain ⟨⟨rm, sat, b8d, m6, u, b8s⟩, rfl⟩ : ∃ m : WMod, mod = m.pack := ⟨_, (WMod.pack_of mod).symm⟩
  unfold dec19
  split <;> rename_i hf
  case h_1 =>
    obtain rfl := eq_ofNat_of_toNat hf
    simp [Option.bind_eq_some_iff, fpMod]
    rintro t ht d rfl a rfl b rfl rfl rfl rfl rfl rfl rfl rfl
    refine congrArg some ?_
    split at ht <;> cases ht <;> obtain rfl := eq_ofNat_of_toNat ‹_› <;> simp [wordA, modRm, Pk2Ty.ty, Ty.code]
  case h_2 =>
    obtain rfl := eq_ofNat_of_toNat hf
    simp [Option.bind_eq_some_iff]
    rintro dty hdty src hsrc sat rfl d rfl a rfl b rfl c rfl rfl rfl rfl
    obtain rfl := quadEnc_of_quadDec hdty
    refine congrArg some ?_
    split at hsrc
    case h_1 hty =>
      cases hsrc
      obtain rfl := eq_ofNat_of_toNat hty
      simp [wordA, Pk4Src.ty, Ty.code, Pk4Src.hi]
    case h_2 hty =>
      obtain rfl := eq_ofNat_of_toNat hty
      split at hsrc
      · cases hsrc
        subst_vars
        simp [wordA, Pk4Src.ty, Ty.code, Pk4Src.hi]
      · cases hsrc
    case h_3 => cases hsrc
  case h_3 =>
    obtain rfl := eq_ofNat_of_toNat hf
    simp [Option.bind_eq_some_iff]
    rintro t ht d rfl a rfl rfl rfl rfl rfl rfl rfl rfl
    refine congrArg some ?_
    split at ht
    case h_4 => cases ht
    all_goals
      split at ht <;> cases ht
      obtain rfl := eq_ofNat_of_toNat ‹_›
      simp_all [wordA, UpkTy.ty, Ty.code, Ty.uBit, Ty.fBits]
  case h_4 | h_5 =>
    obtain rfl := eq_ofNat_of_toNat hf
    simp [Option.bind_eq_some_iff, fpMod]
    intros
    subst_vars
    refine congrArg some ?_
    simp [wordA, modRm]
  case h_6 => nofun

theorem encode_of_dec1E {f : WA} {i : Instr} (ho : f.opc = 0x1E) : dec1E f = some (some i) → encode i = some f.pack := by
  obtain ⟨opc, fn, sf, g, d, a, b, c, ty, mod⟩ := f
  obtain rfl : opc = 0x1E := ho
  unfold dec1E
  split
  case h_7 => nofun
  all_goals
    rename_i hf
    obtain rfl := eq_ofNat_of_toNat hf
    simp [Option.bind_eq_some_iff]
    intros
    subst_vars
    refine congrArg some ?_
    simp [wordA]

theorem encode_of_dec20 {f : WM} {i : Instr} (ho : f.opc = 0x20) (h : dec20 f = some (some i)) : encode i = some f.pack := by
  unfold dec20 at h
  split at h
  case h_1 hf | h_2 hf | h_3 hf | h_4 hf => exact encode_of_decLdSt ho (fun _ _ _ _ => rfl) hf h
  case h_5 => cases h

theorem encode_of_dec21 {f : WM} {i : Instr} (ho : f.opc = 0x21) (h : dec21 f = some (some i)) : encode i = some f.pack := by
  unfold dec21 at h
  split at h
  case h_1 hf | h_2 hf | h_3 hf | h_4 hf => exact encode_of_decLdSt ho (fun _ _ _ _ => rfl) hf h
  case h_5 => cases h

theorem encode_of_dec28 {f : WS} {i : Instr} (ho : f.opc = 0x28) (h : dec28 f = some (some i)) : encode i = some f.pack := by
  unfold dec28 at h
  split at h
  case h_1 hf | h_2 hf => exact encode_of_decPort ho (fun _ _ _ => rfl) hf h
  case h_3 hf =>
    obtain ⟨_, fn, sf, g, port, desc, wq, pq, wt, pt, ac, try', tq, low⟩ := f
    obtain rfl : _ = 0x28#6 := ho
    obtain rfl := eq_ofNat_of_toNat hf
    simp [Option.bind_eq_some_iff] at h
    obtain ⟨c, ⟨rfl, rfl, rfl, rfl, rfl, rfl, rfl, rfl, rfl⟩, ⟨⟨rfl, rfl⟩, rfl⟩, rfl⟩ := h
    exact congrArg some rfl
  case h_4 => cases h

theorem encode_of_dec29 {f : WS} {i : Instr} (ho : f.opc = 0x29) (h : dec29 f = some (some i)) : encode i = some f.pack := by
  unfold dec29 at h
  split at h
  case h_1 hf | h_2 hf | h_3 hf => exact encode_of_decDesc ho (fun _ _ => rfl) hf h
  case h_4 hf | h_5 hf | h_6 hf | h_7 hf => exact encode_of_decPort ho (fun _ _ _ => rfl) hf h
  case h_8 => cases h

theorem encode_of_dec2C {f : WA} {i : Instr} (ho : f.opc = 0x2C) : dec2C f = some (some i) → encode i = some f.pack := by
  obtain ⟨opc, fn, sf, g, d, a, b, c, ty, mod⟩ := f
  obtain rfl : opc = 0x2C := ho
  obtain ⟨mod, t, rfl⟩ := exists_append 13 3 mod
  obtain ⟨mod, rel, rfl⟩ := exists_append 12 1 mod
  obtain ⟨hi, any, rfl⟩ := exists_append 11 1 mod
  unfold dec2C
  simp (disch := decide) only [BitVec.extractLsb'_append_eq_of_le, BitVec.extractLsb'_append_eq_of_add_le]
  simp only [Nat.reduceSub, BitVec.extractLsb'_eq_self]
  split
  case h_6 => nofun
  all_goals
    rename_i hf
    obtain rfl := eq_ofNat_of_toNat hf
    simp [Option.bind_eq_some_iff]
    intros
    subst_vars
    refine congrArg some ?_
    simp [wordA, *]

theorem encode_of_dec2D {f : WA} {i : Instr} (ho : f.opc = 0x2D) : dec2D f = some (some i) → encode i = some f.pack := by
  obtain ⟨opc, fn, sf, g, d, a, b, c, ty, mod⟩ := f
  obtain rfl : opc = 0x2D := ho
  obtain ⟨⟨rm, sat, b8d, m6, u, b8s⟩, rfl⟩ : ∃ m : WMod, mod = m.pack := ⟨_, (WMod.pack_of mod).symm⟩
  unfold dec2D
  split <;> rename_i hf
  case h_1 | h_2 =>
    obtain rfl := eq_ofNat_of_toNat hf
    simp [Option.bind_eq_some_iff]
    intros
    subst_vars
    refine congrArg some ?_
    simp [wordA, modTy]
  case h_3 =>
    obtain rfl := eq_ofNat_of_toNat hf
    simp [Option.bind_eq_some_iff]
    rintro t rfl rfl rfl d rfl a rfl b rfl e he rfl rfl rfl rfl rfl rfl
    refine congrArg some ?_
    split at he
    · cases he
      subst_vars
      simp [wordA, modTy]
    · simp at he
      obtain ⟨n, rfl, rfl⟩ := he
      simp [wordA, modTy]
  case h_4 => nofun

theorem encode_of_dec30 {f : WJ} {i : Instr} (ho : f.opc = 0x30) : dec30 f = some (some i) → encode i = some f.pack := by
  obtain ⟨opc, fn, sf, g, tgt, tgt2, mode, cnt⟩ := f
  obtain rfl : opc = 0x30 := ho
  obtain ⟨hi, c, rfl⟩ := exists_append 12 7 cnt
  unfold dec30
  simp (disch := decide) only [BitVec.extractLsb'_append_eq_of_le, BitVec.extractLsb'_append_eq_of_add_le]
  simp only [Nat.reduceSub, BitVec.extractLsb'_eq_self]
  split
  case h_5 => nofun
  all_goals
    rename_i hf
    obtain rfl := eq_ofNat_of_toNat hf
    simp [Option.bind_eq_some_iff]
    intros
    subst_vars
    refine congrArg some ?_
    simp [wordJ, *]

theorem encode_of_dec35 {f : WA} {i : Instr} (ho : f.opc = 0x35) : dec35 f = some (some i) → encode i = some f.pack := by
  obtain ⟨opc, fn, sf, g, d, a, b, c, ty, mod⟩ := f
  obtain rfl : opc = 0x35 := ho
  obtain ⟨mod, n, rfl⟩ := exists_append 11 5 mod
  obtain ⟨hi, region, rfl⟩ := exists_append 10 1 mod
  unfold dec35
  simp (disch := decide) only [BitVec.extractLsb'_append_eq_of_le, BitVec.extractLsb'_append_eq_of_add_le]
  simp only [Nat.reduceSub, BitVec.extractLsb'_eq_self]
  split
  case h_4 => nofun
  all_goals
    rename_i hf
    obtain rfl := eq_ofNat_of_toNat hf
    simp [Option.bind_eq_some_iff]
    intros
    subst_vars
    refine congrArg some ?_
    simp [wordA, *]

theorem encode_of_dec38 {f : WA} {i : Instr} (ho : f.opc = 0x38) : dec38 f = some (some i) → encode i = some f.pack := by
  obtain ⟨opc, fn, sf, g, d, a, b, c, ty, mod⟩ := f
  obtain rfl : opc = 0x38 := ho
  unfold dec38
  split
  case h_3 => nofun
  all_goals
    rename_i hf
    obtain rfl := eq_ofNat_of_toNat hf
    simp [Option.bind_eq_some_iff]
    intros
    subst_vars
    refine congrArg some ?_
    simp [wordA]

theorem encode_of_dec3D {f : WA} {i : Instr} (ho : f.opc = 0x3D) : dec3D f = some (some i) → encode i = some f.pack := by
  obtain ⟨opc, fn, sf, g, d, a, b, c, ty, mod⟩ := f
  obtain rfl : opc = 0x3D := ho
  obtain ⟨hi, n, rfl⟩ := exists_append 10 6 mod
  unfold dec3D
  simp (disch := decide) only [BitVec.extractLsb'_append_eq_of_le, BitVec.extractLsb'_append_eq_of_add_le]
  simp only [Nat.reduceSub, BitVec.extractLsb'_eq_self]
  split
  case h_3 => nofun
  all_goals
    rename_i hf
    obtain rfl := eq_ofNat_of_toNat hf
    simp [Option.bind_eq_some_iff]
    intros
    subst_vars
    refine congrArg some ?_
    simp [wordA, *]

theorem encode_of_dec18 {f : WA} {i : Instr} (ho : f.opc = 0x18) : dec18 f = some (some i) → encode i = some f.pack := by
  obtain ⟨opc, fn, sf, g, d, a, b, c, ty, mod⟩ := f
  obtain rfl : opc = 0x18 := ho
  obtain ⟨⟨rm, sat, b8d, m6, u, b8s⟩, rfl⟩ : ∃ m : WMod, mod = m.pack := ⟨_, (WMod.pack_of mod).symm⟩
  obtain ⟨hi, t, rfl⟩ := exists_append 3 3 fn
  unfold dec18
  split
  · nofun
  · next hfn =>
    obtain rfl : hi = 0 := by
      have key : ∀ hi t : BitVec 3, ¬ 7 < (hi ++ t).toNat → hi = 0 := by decide
      exact key hi t hfn
    simp (disch := decide) only [BitVec.extractLsb'_append_eq_of_add_le, BitVec.extractLsb'_eq_self]
    simp [Option.bind_eq_some_iff]
    intros
    subst_vars
    refine congrArg some ?_
    simp [wordA]

theorem encode_of_dec1C {f : WA} {i : Instr} (ho : f.opc = 0x1C) : dec1C f = some (some i) → encode i = some f.pack := by
  obtain ⟨opc, fn, sf, g, d, a, b, c, ty, mod⟩ := f
  obtain rfl : opc = 0x1C := ho
  simp [dec1C, Option.bind_eq_some_iff]
  rintro cond rfl t rfl hu hf d rfl a rfl b rfl rfl rfl rfl
  refine congrArg some ?_
  simp [wordA]

theorem encode_of_dec1D {f : WI} {i : Instr} (ho : f.opc = 0x1D) : dec1D f = some (some i) → encode i = some f.pack := by
  obtain ⟨opc, fn, sf, g, d, a, imm⟩ := f
  obtain rfl : opc = 0x1D := ho
  simp [dec1D, decImm, Option.bind_eq_some_iff]
  rintro cond rfl d rfl a rfl rfl rfl
  refine congrArg some ?_
  simp [encImm, wordI]

theorem encode_of_dec23 {f : WA} {i : Instr} (ho : f.opc = 0x23) : dec23 f = some (some i) → encode i = some f.pack := by
  obtain ⟨opc, fn, sf, g, d, a, b, c, ty, mod⟩ := f
  obtain rfl : opc = 0x23 := ho
  simp [dec23]
  rintro scope rfl rfl rfl rfl rfl rfl rfl rfl
  refine congrArg some ?_
  simp [wordA]

theorem encode_of_dec24 {f : WA} {i : Instr} (ho : f.opc = 0x24) : dec24 f = some (some i) → encode i = some f.pack := by
  obtain ⟨opc, fn, sf, g, d, a, b, c, ty, mod⟩ := f
  obtain rfl : opc = 0x24 := ho
  obtain ⟨hi, n, rfl⟩ := exists_append 12 4 mod
  unfold dec24
  simp (disch := decide) only [BitVec.extractLsb'_append_eq_of_le, BitVec.extractLsb'_append_eq_of_add_le]
  simp
  rintro rfl rfl rfl rfl rfl rfl rfl rfl rfl
  refine congrArg some ?_
  simp [wordA]

theorem encode_of_dec22 {f : WM} {i : Instr} (ho : f.opc = 0x22) : dec22 f = some (some i) → encode i = some f.pack := by
  obtain ⟨opc, fn, sf, g, data, base, ofs, sc, ac, size, off⟩ := f
  obtain rfl : opc = 0x22 := ho
  simp only [dec22]
  split
  · next hn =>
    simp [Option.bind_eq_some_iff]
    rintro op hop t rfl data rfl m rfl rfl rfl rfl rfl rfl
    obtain rfl := atomOpEnc_of_dec hop
    refine congrArg some ?_
    simp [wordM]
  · split
    · next hlo hhi =>
      simp [Option.bind_eq_some_iff]
      rintro op hop t rfl data rfl m rfl rfl rfl rfl rfl rfl
      obtain rfl := atomOpEnc_of_dec_sub (Nat.le_of_not_lt hlo) hhi hop
      refine congrArg some ?_
      simp [wordM]
    · nofun

theorem encode_of_dec27 {f : WI} {i : Instr} (ho : f.opc = 0x27) : dec27 f = some (some i) → encode i = some f.pack := by
  obtain ⟨opc, fn, sf, g, d, a, imm⟩ := f
  obtain rfl : opc = 0x27 := ho
  obtain ⟨hi, n, rfl⟩ := exists_append 27 6 imm
  unfold dec27
  simp (disch := decide) only [BitVec.extractLsb'_append_eq_of_le, BitVec.extractLsb'_append_eq_of_add_le]
  split
  case h_3 => nofun
  all_goals
    rename_i hf
    obtain rfl := eq_ofNat_of_toNat hf
    simp [Option.bind_eq_some_iff]
    intros
    subst_vars
    refine congrArg some ?_
    simp [wordI]

theorem encode_of_dec2E {f : WA} {i : Instr} (ho : f.opc = 0x2E) : dec2E f = some (some i) → encode i = some f.pack := by
  obtain ⟨opc, fn, sf, g, d, a, b, c, ty, mod⟩ := f
  obtain rfl : opc = 0x2E := ho
  have hch := @lgenDec_eq_some 7 (.inl rfl)
  have hpc := @lgenDec_eq_some 8 (.inr rfl)
  simp at hch hpc
  simp [dec2E, Option.bind_eq_some_iff, hch, hpc]
  rintro rfl d rfl a rfl st rfl c rfl rfl rfl rfl rfl
  refine congrArg some ?_
  simp [wordA]
  rfl

theorem encode_of_dec31 {f : WJ} {i : Instr} (ho : f.opc = 0x31) : dec31 f = some (some i) → encode i = some f.pack := by
  obtain ⟨opc, fn, sf, g, tgt, tgt2, mode, cnt⟩ := f
  obtain rfl : opc = 0x31 := ho
  obtain ⟨hi, last, rfl⟩ := exists_append 6 6 tgt
  obtain ⟨up, n, rfl⟩ := exists_append 2 2 mode
  obtain ⟨top, c, rfl⟩ := exists_append 12 7 cnt
  unfold dec31
  simp (disch := decide) only [BitVec.extractLsb'_append_eq_of_le, BitVec.extractLsb'_append_eq_of_add_le]
  split
  case h_3 => nofun
  all_goals
    rename_i hf
    obtain rfl := eq_ofNat_of_toNat hf
    simp [Option.bind_eq_some_iff]
    intros
    subst_vars
    refine congrArg some ?_
    simp [wordJ, guardEnc]

/-- OPC 0x34 is format I for FN 0x00 and format A for the others. -/
theorem encode_of_dec34 {w : Double} {i : Instr} (ho : w.extractLsb' 58 6 = 0x34) : dec34 w = some (some i) → encode i = some w := by
  simp only [dec34]
  split <;> rename_i hf
  case h_1 =>
    change (WI.of w).fn.toNat = _ at hf
    obtain ⟨⟨opc, fn, sf, g, d, a, imm⟩, rfl⟩ : ∃ f : WI, w = f.pack := ⟨_, (WI.pack_of w).symm⟩
    rw [WI.of_pack] at *
    obtain rfl : opc = 0x34 := (WI.opc_pack _).symm.trans ho
    obtain rfl := eq_ofNat_of_toNat hf
    obtain ⟨hi, blk, rfl⟩ := exists_append 21 12 imm
    simp (disch := decide) only [BitVec.extractLsb'_append_eq_of_le, BitVec.extractLsb'_append_eq_of_add_le]
    simp [Option.bind_eq_some_iff]
    rintro d rfl a rfl rfl rfl rfl
    refine congrArg some ?_
    simp [wordI]
  case h_4 => nofun
  all_goals
    obtain ⟨⟨opc, fn, sf, g, d, a, b, c, ty, mod⟩, rfl⟩ : ∃ f : WA, w = f.pack := ⟨_, (WA.pack_of w).symm⟩
    rw [WA.of_pack] at *
    obtain rfl : opc = 0x34 := (WA.opc_pack _).symm.trans ho
    obtain rfl := eq_ofNat_of_toNat hf
    simp [Option.bind_eq_some_iff]
    rintro a rfl rfl rfl rfl rfl rfl rfl rfl
    refine congrArg some ?_
    simp [wordA]

/-- OPC 0x3C is format S for cfg.ld, preempt, restore and nmq.sub and format A for the others. -/
theorem encode_of_dec3C {w : Double} {i : Instr} (ho : w.extractLsb' 58 6 = 0x3C) : dec3C w = some (some i) → encode i = some w := by
  simp only [dec3C]
  split <;> rename_i hf
  case h_7 =>
    change (WS.of w).fn.toNat = _ at hf
    obtain ⟨⟨opc, fn, sf, g, port, desc, wq, pq, wt, pt, ac, try', tq, low⟩, rfl⟩ : ∃ f : WS, w = f.pack := ⟨_, (WS.pack_of w).symm⟩
    rw [WS.of_pack] at *
    obtain rfl : opc = 0x3C := (WS.opc_pack _).symm.trans ho
    obtain rfl := eq_ofNat_of_toNat hf
    obtain ⟨hi, s1, rfl⟩ := exists_append 3 1 port
    obtain ⟨hi, arm, rfl⟩ := exists_append 2 1 hi
    obtain ⟨hi, start, rfl⟩ := exists_append 1 1 hi
    simp (disch := decide) only [BitVec.extractLsb'_append_eq_of_le, BitVec.extractLsb'_append_eq_of_add_le]
    simp [Option.bind_eq_some_iff]
    rintro c rfl rfl rfl rfl rfl rfl rfl rfl rfl rfl rfl rfl
    refine congrArg some ?_
    simp [wordS]
  case h_9 | h_10 | h_11 =>
    intro h
    rw [← WS.pack_of w]
    exact encode_of_decDesc (f := WS.of w) ho (fun _ _ => rfl) hf h
  case h_14 => nofun
  case h_8 =>
    obtain ⟨⟨opc, fn, sf, g, d, a, b, c, ty, mod⟩, rfl⟩ : ∃ f : WA, w = f.pack := ⟨_, (WA.pack_of w).symm⟩
    rw [WA.of_pack] at *
    obtain rfl : opc = 0x3C := (WA.opc_pack _).symm.trans ho
    obtain rfl := eq_ofNat_of_toNat hf
    obtain ⟨hi, sel, rfl⟩ := exists_append 14 2 mod
    obtain ⟨hi, other, rfl⟩ := exists_append 13 1 hi
    simp (disch := decide) only [BitVec.extractLsb'_append_eq_of_le, BitVec.extractLsb'_append_eq_of_add_le]
    simp [Option.bind_eq_some_iff]
    rintro a rfl sel rfl rfl rfl rfl rfl rfl rfl rfl
    refine congrArg some ?_
    simp [wordA]
  all_goals
    obtain ⟨⟨opc, fn, sf, g, d, a, b, c, ty, mod⟩, rfl⟩ : ∃ f : WA, w = f.pack := ⟨_, (WA.pack_of w).symm⟩
    rw [WA.of_pack] at *
    obtain rfl : opc = 0x3C := (WA.opc_pack _).symm.trans ho
    obtain rfl := eq_ofNat_of_toNat hf
    simp [Option.bind_eq_some_iff]
    intros
    subst_vars
    refine congrArg some ?_
    simp [wordA]

theorem encode_of_dec36 {f : WS} {i : Instr} (ho : f.opc = 0x36) : dec36 f = some (some i) → encode i = some f.pack := by
  obtain ⟨opc, fn, sf, g, port, desc, wq, pq, wt, pt, ac, try', tq, low⟩ := f
  obtain rfl : opc = 0x36 := ho
  obtain ⟨hi, n, rfl⟩ := exists_append 17 4 low
  obtain ⟨hi, ch, rfl⟩ := exists_append 14 3 hi
  obtain ⟨hi, mark, rfl⟩ := exists_append 13 1 hi
  unfold dec36
  simp (disch := decide) only [BitVec.extractLsb'_append_eq_of_le, BitVec.extractLsb'_append_eq_of_add_le]
  simp only [Nat.reduceSub, BitVec.extractLsb'_eq_self]
  split <;> rename_i hf
  case h_2 =>
    obtain rfl := eq_ofNat_of_toNat hf
    simp [Option.bind_eq_some_iff]
    rintro c rfl rfl rfl rfl rfl rfl rfl rfl rfl o ho rfl rfl
    obtain ⟨hm, rfl⟩ : ch = o.getD 0 ∧ mark = BitVec.ofBool o.isSome := by
      have := @marked_eq_some _ mark ch o
      revert ho
      simp at *
      grind
    refine congrArg some ?_
    simp [wordS, hm]
  case h_4 => nofun
  all_goals
    obtain rfl := eq_ofNat_of_toNat hf
    simp [Option.bind_eq_some_iff]
    intros
    subst_vars
    refine congrArg some ?_
    simp [wordS, *]

theorem encode_of_dec37 {f : WS} {i : Instr} (ho : f.opc = 0x37) (h : dec37 f = some (some i)) : encode i = some f.pack := by
  unfold dec37 at h
  split at h
  case h_1 hf | h_2 hf | h_3 hf | h_4 hf => exact encode_of_decDesc ho (fun _ _ => rfl) hf h
  case h_7 => cases h
  all_goals
    rename_i hf
    obtain ⟨_, fn, sf, g, port, desc, wq, pq, wt, pt, ac, try', tq, low⟩ := f
    obtain rfl : _ = 0x37#6 := ho
    obtain ⟨hi, o, rfl⟩ := exists_append 18 3 low
    obtain ⟨hi, gate, rfl⟩ := exists_append 17 1 hi
    obtain ⟨up, port, rfl⟩ := exists_append 1 3 port
    obtain rfl := eq_ofNat_of_toNat hf
    revert h
    simp (disch := decide) only [BitVec.extractLsb'_append_eq_of_le, BitVec.extractLsb'_append_eq_of_add_le]
    simp [Option.bind_eq_some_iff]
    intros
    subst_vars
    refine congrArg some ?_
    simp [wordS, *]

theorem encode_of_dec3A {f : WS} {i : Instr} (ho : f.opc = 0x3A) : dec3A f = some (some i) → encode i = some f.pack := by
  obtain ⟨opc, fn, sf, g, port, desc, wq, pq, wt, pt, ac, try', tq, low⟩ := f
  obtain rfl : opc = 0x3A := ho
  obtain ⟨hi, arr, rfl⟩ := exists_append 16 5 low
  unfold dec3A
  split <;> rename_i hf
  case h_9 => nofun
  case h_1 =>
    obtain rfl := eq_ofNat_of_toNat hf
    obtain ⟨top, pmask, rfl⟩ := exists_append 8 8 hi
    simp (disch := decide) only [BitVec.extractLsb'_append_eq_of_le, BitVec.extractLsb'_append_eq_of_add_le]
    simp [Option.bind_eq_some_iff]
    rintro c rfl rfl rfl rfl rfl rfl rfl rfl rfl rfl rfl rfl rfl
    refine congrArg some ?_
    simp [wordS]
  all_goals
    obtain rfl := eq_ofNat_of_toNat hf
    obtain ⟨top, page, rfl⟩ := exists_append 13 3 hi
    simp (disch := decide) only [BitVec.extractLsb'_append_eq_of_le, BitVec.extractLsb'_append_eq_of_add_le]
    simp [Option.bind_eq_some_iff]
    intros
    subst_vars
    refine congrArg some ?_
    simp [wordS, *]

theorem port_field : ∀ n : BitVec 3, (0#1 ++ n).extractLsb' 3 1 = 0 ∧ (0#1 ++ n).extractLsb' 0 3 = n := by decide

/-- The function field stands at [57:52] in every format. -/
theorem fn_of_packI (f : WI) : (WA.of f.pack).fn = f.fn := congrArg WI.fn f.of_pack

theorem fn_of_packS (f : WS) : (WA.of f.pack).fn = f.fn := congrArg WS.fn f.of_pack

/-! ### The word of a well-formed instruction is read back -/

/-- The words of format S (R282), which are those of the queued commands. -/
theorem decMap_encode_of_queued {i : Instr} {w : Double} (hq : (Machine.queued? i).isSome = true) (h : encode i = some w) :
    decMap w = some (some i) := by
  cases i with
  | strmRd | strmWr =>
    cases h
    simp [decMap, wordS, dec28, decPort, port_field, when', scomDec_of_fields]
  | engBar =>
    cases h
    simp [decMap, wordS, dec28, when', scomDec_of_fields]
  | cpIn | cpOut | cpLocal =>
    cases h
    simp [decMap, wordS, dec29, decDesc, when', scomDec_of_fields]
  | cpPush | cpPushz | cpPop | cpPopd =>
    cases h
    simp [decMap, wordS, dec29, decPort, port_field, when', scomDec_of_fields]
  | slotClaim | slotRel =>
    cases h
    have hl : ∀ n : BitVec 4, (0#17 ++ n).extractLsb' 4 17 = 0 ∧ (0#17 ++ n).extractLsb' 0 4 = n := by decide
    simp [decMap, wordS, dec36, when', scomDec_of_fields, hl]
  | slotFill c first m ch =>
    cases h
    have hl : ∀ (b : BitVec 1) (n : BitVec 3) (m : BitVec 4), (0#13 ++ b ++ n ++ m).extractLsb' 8 13 = 0 ∧
      (0#13 ++ b ++ n ++ m).extractLsb' 7 1 = b ∧ (0#13 ++ b ++ n ++ m).extractLsb' 4 3 = n ∧
      (0#13 ++ b ++ n ++ m).extractLsb' 0 4 = m := by decide
    simp [decMap, wordS, dec36, when', scomDec_of_fields, hl]
    cases ch <;> simp
  | cubeMm | cubeGate | cubeSpread | cubeFold =>
    cases h
    simp [decMap, wordS, dec37, decDesc, when', scomDec_of_fields]
  | cubeBind =>
    cases h
    have hl : ∀ (b : BitVec 1) (n : BitVec 3), (0#17 ++ b ++ n).extractLsb' 4 17 = 0 ∧ (0#17 ++ b ++ n).extractLsb' 3 1 = b ∧
      (0#17 ++ b ++ n).extractLsb' 0 3 = n := by decide
    simp [decMap, wordS, dec37, port_field, when', scomDec_of_fields, hl]
  | cubeUnbind =>
    cases h
    simp [decMap, wordS, dec37, when', scomDec_of_fields]
  | cirConvert =>
    cases h
    have hl : ∀ (p : BitVec 8) (n : BitVec 5), (0#8 ++ p ++ n).extractLsb' 13 8 = 0 ∧ (0#8 ++ p ++ n).extractLsb' 5 8 = p ∧
        (0#8 ++ p ++ n).extractLsb' 0 5 = n := by
      intro p n
      simp (disch := decide) only [BitVec.extractLsb'_append_eq_of_le, BitVec.extractLsb'_append_eq_of_add_le]
      simp
    simp [decMap, wordS, dec3A, when', scomDec_of_fields, hl]
  | cirSched | cirRun | cirRunf | cirHalt | cirRevert =>
    cases h
    have hl : ∀ n : BitVec 5, (0#16 ++ n).extractLsb' 5 16 = 0 ∧ (0#16 ++ n).extractLsb' 0 5 = n := by decide
    simp [decMap, wordS, dec3A, when', scomDec_of_fields, hl]
  | cirPageout | cirPagein =>
    cases h
    have hl : ∀ (p : BitVec 3) (n : BitVec 5), (0#13 ++ p ++ n).extractLsb' 8 13 = 0 ∧ (0#13 ++ p ++ n).extractLsb' 5 3 = p ∧
      (0#13 ++ p ++ n).extractLsb' 0 5 = n := by decide
    simp [decMap, wordS, dec3A, when', scomDec_of_fields, hl]
  | cfgLd =>
    cases h
    have hp : ∀ a b c : BitVec 1, (0#1 ++ c ++ b ++ a).extractLsb' 3 1 = 0 ∧ (0#1 ++ c ++ b ++ a).extractLsb' 2 1 = c ∧
      (0#1 ++ c ++ b ++ a).extractLsb' 1 1 = b ∧ (0#1 ++ c ++ b ++ a).extractLsb' 0 1 = a := by decide
    simp [decMap, wordS, dec3C, fn_of_packS, when', scomDec_of_fields, hp]
  | preempt | restore | nmqSub =>
    cases h
    simp [decMap, wordS, dec3C, fn_of_packS, decDesc, when', scomDec_of_fields]
  | _ => cases hq

/-- The opcode map gives back the instruction from the word that the encoder wrote. Two kinds of words need the instruction to be well formed: a
compare of a type that R340 does not list, and a pk4 to a binary8 format with P = 0, which would be read as an integer quad (R338). -/
theorem decMap_encode {i : Instr} {w : Double} (hw : i.fieldsOk = true) (h : encode i = some w) : decMap w = some (some i) := by
  cases i with
  -- 0x01, 0x02
  | addInt | subInt | mulInt | mulhi | mad | divInt | remInt | minInt | maxInt | absInt | negInt | adds | subs | dot4Int =>
    cases h
    simp [decMap, encInt3, encInt4, encInt2, wordA, dec01, decInt3, decInt4, decInt2, when', guardDec_guardEnc]
  | andB | orB | xorB | notB | andn | shl | shr | sra | rotl | popc | clz | ctz | brev | bfe | bfi =>
    cases h
    simp [decMap, encInt3, encInt4, encInt2, wordA, dec02, decInt3, decInt4, decInt2, when', guardDec_guardEnc]
  -- 0x03
  | addImm | mulImm | andImm | orImm | xorImm | shlImm | shrImm | sraImm | minImm | maxImm | movImm | movhi =>
    cases h
    simp [decMap, encImm, wordI, dec03, decImm, when', guardDec_guardEnc]
  -- 0x04, 0x05
  | lea g uns sc =>
    cases h
    have hsc : ∀ sc : BitVec 2, (0#9 ++ sc ++ 0#5).extractLsb' 5 2 = sc := by decide
    cases uns <;> simp [decMap, wordA, dec04, when', guardDec_guardEnc, hsc]
  | extLo | extHi | pack64 =>
    cases h
    simp [decMap, wordA, dec04, when', guardDec_guardEnc]
  | nop | mov | sel | ffclr =>
    cases h
    simp [decMap, wordA, dec05, modTy, when', guardDec_guardEnc]
  -- 0x10, 0x11
  | addF32 | subF32 | mulF32 | fmaF32 | fmsF32 | fnmaF32 | minF32 | maxF32 | absF32 | negF32 | divF32 | sqrtF32 | rcpF32 | rsqrtF32
  | exp2F32 | log2F32 | copysignF32 | classF32 | rintF32 =>
    cases h
    simp [decMap, encF1, encF2, encF3, wordA, dec10, fpMod, modRm, when', guardDec_guardEnc]
  | addPacked | subPacked | mulPacked | fmaPacked | minPacked | maxPacked | absPacked | negPacked =>
    cases h
    simp [decMap, encP1, encP2, wordA, dec11, modP_eq, when', guardDec_guardEnc]
  | dot2 | dot4B8 =>
    cases h
    simp [decMap, wordA, dec11, modP, modRm, satEnc, when', guardDec_guardEnc]
  -- 0x18, 0x19
  | cvt g sf rm sat dty =>
    cases h
    have hfn : ∀ t : BitVec 3, ¬ 7 < (0#3 ++ t).toNat := by decide
    have ht : ∀ t : BitVec 3, (0#3 ++ t).extractLsb' 0 3 = t := by decide
    simp [decMap, wordA, dec18, hfn, ht, when', guardDec_guardEnc]
  | pk2 g sf rm sty =>
    cases h
    cases sty <;> simp [decMap, wordA, dec19, fpMod, modRm, Pk2Ty.ty, Ty.code, when', guardDec_guardEnc]
  | pk4 g sf rm sat dty src =>
    cases h
    have hq : quadDec (quadEnc dty) = some dty := quadDec_quadEnc (by rintro f rfl; simp_all [Instr.fieldsOk])
    cases src <;> simp [decMap, wordA, dec19, hq, Pk4Src.ty, Pk4Src.hi, Ty.code, when', guardDec_guardEnc]
  | upk g ty =>
    cases h
    cases ty <;> simp [decMap, wordA, dec19, UpkTy.ty, Ty.code, Ty.uBit, Ty.fBits, when', guardDec_guardEnc]
  | scl | bscale =>
    cases h
    simp [decMap, wordA, dec19, fpMod, modRm, when', guardDec_guardEnc]
  -- 0x1C to 0x1E
  | cmp g sf cond ty =>
    cases h
    have hty : tyDec ty.code 0 0 = some ty := by cases ty <;> simp_all [Instr.fieldsOk, Ty.uBit, Ty.fBits]
    simp only [BitVec.ofNat_eq_ofNat] at hty
    simp [decMap, wordA, dec1C, hty, when', guardDec_guardEnc]
  | cmpImm =>
    cases h
    simp [decMap, encImm, wordI, dec1D, decImm, when', guardDec_guardEnc]
  | pAnd | pOr | pXor | pNot | pAndn | pMov =>
    cases h
    simp [decMap, wordA, dec1E, when', guardDec_guardEnc]
  -- 0x20 to 0x22
  | ldDev | ldAcqDev | ldLoc | ldAcqLoc =>
    cases h
    simp [decMap, wordM, dec20, decLdSt, memDec_of_fields, when', guardDec_guardEnc]
  | stDev | stRelDev | stLoc | stRelLoc =>
    cases h
    simp [decMap, wordM, dec21, decLdSt, memDec_of_fields, when', guardDec_guardEnc]
  | atom g sf op =>
    cases h
    cases op <;> simp [decMap, wordM, dec22, atomOpEnc, atomOpDec, memDec_of_fields, guardDec_guardEnc]
  | red g sf op =>
    cases h
    cases op <;> simp_all [decMap, wordM, dec22, atomOpEnc, atomOpDec, memDec_of_fields, guardDec_guardEnc, Instr.fieldsOk]
  -- 0x23, 0x24, 0x27
  | fence =>
    cases h
    simp [decMap, wordA, dec23, when', guardDec_guardEnc]
  | eqWait g n =>
    cases h
    have hn : ∀ n : BitVec 4, (0#12 ++ n).extractLsb' 4 12 = 0 ∧ (0#12 ++ n).extractLsb' 0 4 = n := by decide
    simp [decMap, wordA, dec24, when', guardDec_guardEnc, hn]
  | spill | fill =>
    cases h
    have hn : ∀ n : BitVec 6, (0#27 ++ n).extractLsb' 6 27 = 0 ∧ (0#27 ++ n).extractLsb' 0 6 = n := by decide
    simp [decMap, wordI, dec27, when', guardDec_guardEnc, hn]
  -- 0x2C to 0x2E
  | chPush =>
    cases h
    have hm : ∀ (rel : BitVec 1) (t : BitVec 3), (0#12 ++ rel ++ t).extractLsb' 4 12 = 0 ∧ (0#12 ++ rel ++ t).extractLsb' 3 1 = rel ∧
      (0#12 ++ rel ++ t).extractLsb' 0 3 = t := by decide
    simp [decMap, wordA, dec2C, when', guardDec_guardEnc, hm]
  | chPop g tag | chPeek g tag =>
    cases h
    have hm : ∀ (any acq : BitVec 1) (t : BitVec 3), (0#11 ++ any ++ acq ++ t).extractLsb' 5 11 = 0 ∧
      (0#11 ++ any ++ acq ++ t).extractLsb' 3 1 = acq := by decide
    have ht : ∀ acq : BitVec 1, tagDec (0#11 ++ BitVec.ofBool tag.isNone ++ acq ++ tag.getD 0) = some tag :=
      fun acq => tagDec_eq_some.2 ⟨rfl, rfl⟩
    simp only [BitVec.ofNat_eq_ofNat] at ht
    simp [decMap, wordA, dec2C, when', guardDec_guardEnc, hm, ht]
  | chTag | chCtl =>
    cases h
    simp [decMap, wordA, dec2C, when', guardDec_guardEnc]
  | steer | merge =>
    cases h
    simp [decMap, wordA, dec2D, modTy, when', guardDec_guardEnc]
  | amerge g ty d a b c =>
    cases h
    have hne : ∀ n : BitVec 3, chEnc n ≠ 87#7 := by decide
    cases c <;> simp [decMap, wordA, dec2D, modTy, when', guardDec_guardEnc, hne]
  | lgen g d a st c =>
    cases h
    have hd : lgenDec 56 ((d.map chEnc).getD 55#7) = some d := (@lgenDec_eq_some 7 (.inl rfl) _ d).2 rfl
    have hc : lgenDec 64 ((c.map fun n => (8#4 ++ n : BitVec 7)).getD 55#7) = some c := (@lgenDec_eq_some 8 (.inr rfl) _ c).2 rfl
    simp [decMap, wordA, dec2E, hd, hc, when', guardDec_guardEnc]
  -- 0x30, 0x31
  | br | exit | exitAbandon =>
    cases h
    simp [decMap, wordJ, dec30, when', guardDec_guardEnc]
  | brC =>
    cases h
    have hc : ∀ c : BitVec 7, (0#12 ++ c).extractLsb' 7 12 = 0 ∧ (0#12 ++ c).extractLsb' 0 7 = c := by decide
    simp [decMap, wordJ, dec30, when', guardDec_guardEnc, hc]
  | loop | loopR =>
    cases h
    have hn : ∀ n : BitVec 2, (0#2 ++ n).extractLsb' 2 2 = 0 ∧ (0#2 ++ n).extractLsb' 0 2 = n := by decide
    have hl : ∀ n : BitVec 6, (0#6 ++ n).extractLsb' 6 6 = 0 ∧ (0#6 ++ n).extractLsb' 0 6 = n := by decide
    have hc : ∀ c : BitVec 7, (0#12 ++ c).extractLsb' 7 12 = 0 ∧ (0#12 ++ c).extractLsb' 0 7 = c := by decide
    simp [decMap, wordJ, dec31, guardEnc, when', hn, hl, hc]
  -- 0x34, 0x35
  | thrNew =>
    cases h
    have hb : ∀ n : BitVec 12, (0#21 ++ n).extractLsb' 12 21 = 0 ∧ (0#21 ++ n).extractLsb' 0 12 = n :=
      fun n => ⟨BitVec.extractLsb'_append_eq_left, BitVec.extractLsb'_append_eq_right⟩
    simp [decMap, wordI, dec34, fn_of_packI, when', guardDec_guardEnc, hb]
  | grpJoin | grpLeave =>
    cases h
    simp [decMap, wordA, dec34, when', guardDec_guardEnc]
  | barSet | barBind | barArrive =>
    cases h
    have hm : ∀ (r : BitVec 1) (n : BitVec 5), (0#10 ++ r ++ n).extractLsb' 6 10 = 0 ∧ (0#10 ++ r ++ n).extractLsb' 5 1 = r ∧
      (0#10 ++ r ++ n).extractLsb' 0 5 = n := by decide
    simp [decMap, wordA, dec35, when', guardDec_guardEnc, hm]
  -- 0x38
  | acsLd | acsSt =>
    cases h
    simp [decMap, wordA, dec38, when', guardDec_guardEnc]
  -- 0x3C, 0x3D
  | sregRd | sregWr | capRd | capWr | trapRd | trapAct | trapFwd | nmqPoll =>
    cases h
    simp [decMap, wordA, dec3C, when', guardDec_guardEnc]
  | cfgSel =>
    cases h
    have hm : ∀ (o : BitVec 1) (n : BitVec 2), (0#13 ++ o ++ n).extractLsb' 3 13 = 0 ∧ (0#13 ++ o ++ n).extractLsb' 2 1 = o ∧
      (0#13 ++ o ++ n).extractLsb' 0 2 = n := by decide
    simp [decMap, wordA, dec3C, when', guardDec_guardEnc, hm]
  | mark =>
    cases h
    simp [decMap, wordA, dec3D, when', guardDec_guardEnc]
  | perfRd =>
    cases h
    have hm : ∀ n : BitVec 6, (0#10 ++ n).extractLsb' 6 10 = 0 ∧ (0#10 ++ n).extractLsb' 0 6 = n := by decide
    simp [decMap, wordA, dec3D, when', guardDec_guardEnc, hm]
  -- format S
  | strmRd | strmWr | engBar | cpIn | cpOut | cpLocal | cpPush | cpPushz | cpPop | cpPopd | slotClaim
  | slotRel | slotFill | cubeMm | cubeGate | cubeSpread | cubeFold | cubeBind | cubeUnbind | cirConvert | cirSched | cirRun
  | cirRunf | cirHalt | cirRevert | cirPageout | cirPagein | cfgLd | preempt | restore | nmqSub => exact decMap_encode_of_queued rfl h
  -- events have no word
  | _ => cases h
/-- A word that the opcode map reads is the word of the instruction that it gives (R287). -/
theorem encode_of_decMap {w : Double} {i : Instr} (h : decMap w = some (some i)) : encode i = some w := by
  unfold decMap at h
  split at h
  case h_1 ho => exact (encode_of_dec01 (f := WA.of w) (eq_ofNat_of_toNat ho) h).trans (congrArg some (WA.pack_of w))
  case h_2 ho => exact (encode_of_dec02 (f := WA.of w) (eq_ofNat_of_toNat ho) h).trans (congrArg some (WA.pack_of w))
  case h_3 ho => exact (encode_of_dec03 (f := WI.of w) (eq_ofNat_of_toNat ho) h).trans (congrArg some (WI.pack_of w))
  case h_4 ho => exact (encode_of_dec04 (f := WA.of w) (eq_ofNat_of_toNat ho) h).trans (congrArg some (WA.pack_of w))
  case h_5 ho => exact (encode_of_dec05 (f := WA.of w) (eq_ofNat_of_toNat ho) h).trans (congrArg some (WA.pack_of w))
  case h_6 ho => exact (encode_of_dec10 (f := WA.of w) (eq_ofNat_of_toNat ho) h).trans (congrArg some (WA.pack_of w))
  case h_7 ho => exact (encode_of_dec11 (f := WA.of w) (eq_ofNat_of_toNat ho) h).trans (congrArg some (WA.pack_of w))
  case h_8 ho => exact (encode_of_dec18 (f := WA.of w) (eq_ofNat_of_toNat ho) h).trans (congrArg some (WA.pack_of w))
  case h_9 ho => exact (encode_of_dec19 (f := WA.of w) (eq_ofNat_of_toNat ho) h).trans (congrArg some (WA.pack_of w))
  case h_10 ho => exact (encode_of_dec1C (f := WA.of w) (eq_ofNat_of_toNat ho) h).trans (congrArg some (WA.pack_of w))
  case h_11 ho => exact (encode_of_dec1D (f := WI.of w) (eq_ofNat_of_toNat ho) h).trans (congrArg some (WI.pack_of w))
  case h_12 ho => exact (encode_of_dec1E (f := WA.of w) (eq_ofNat_of_toNat ho) h).trans (congrArg some (WA.pack_of w))
  case h_13 ho => exact (encode_of_dec20 (f := WM.of w) (eq_ofNat_of_toNat ho) h).trans (congrArg some (WM.pack_of w))
  case h_14 ho => exact (encode_of_dec21 (f := WM.of w) (eq_ofNat_of_toNat ho) h).trans (congrArg some (WM.pack_of w))
  case h_15 ho => exact (encode_of_dec22 (f := WM.of w) (eq_ofNat_of_toNat ho) h).trans (congrArg some (WM.pack_of w))
  case h_16 ho => exact (encode_of_dec23 (f := WA.of w) (eq_ofNat_of_toNat ho) h).trans (congrArg some (WA.pack_of w))
  case h_17 ho => exact (encode_of_dec24 (f := WA.of w) (eq_ofNat_of_toNat ho) h).trans (congrArg some (WA.pack_of w))
  case h_18 ho => exact (encode_of_dec27 (f := WI.of w) (eq_ofNat_of_toNat ho) h).trans (congrArg some (WI.pack_of w))
  case h_19 ho => exact (encode_of_dec28 (f := WS.of w) (eq_ofNat_of_toNat ho) h).trans (congrArg some (WS.pack_of w))
  case h_20 ho => exact (encode_of_dec29 (f := WS.of w) (eq_ofNat_of_toNat ho) h).trans (congrArg some (WS.pack_of w))
  case h_21 ho => exact (encode_of_dec2C (f := WA.of w) (eq_ofNat_of_toNat ho) h).trans (congrArg some (WA.pack_of w))
  case h_22 ho => exact (encode_of_dec2D (f := WA.of w) (eq_ofNat_of_toNat ho) h).trans (congrArg some (WA.pack_of w))
  case h_23 ho => exact (encode_of_dec2E (f := WA.of w) (eq_ofNat_of_toNat ho) h).trans (congrArg some (WA.pack_of w))
  case h_24 ho => exact (encode_of_dec30 (f := WJ.of w) (eq_ofNat_of_toNat ho) h).trans (congrArg some (WJ.pack_of w))
  case h_25 ho => exact (encode_of_dec31 (f := WJ.of w) (eq_ofNat_of_toNat ho) h).trans (congrArg some (WJ.pack_of w))
  case h_26 ho => exact encode_of_dec34 (eq_ofNat_of_toNat ho) h
  case h_27 ho => exact (encode_of_dec35 (f := WA.of w) (eq_ofNat_of_toNat ho) h).trans (congrArg some (WA.pack_of w))
  case h_28 ho => exact (encode_of_dec36 (f := WS.of w) (eq_ofNat_of_toNat ho) h).trans (congrArg some (WS.pack_of w))
  case h_29 ho => exact (encode_of_dec37 (f := WS.of w) (eq_ofNat_of_toNat ho) h).trans (congrArg some (WS.pack_of w))
  case h_30 ho => exact (encode_of_dec38 (f := WA.of w) (eq_ofNat_of_toNat ho) h).trans (congrArg some (WA.pack_of w))
  case h_31 ho => exact (encode_of_dec3A (f := WS.of w) (eq_ofNat_of_toNat ho) h).trans (congrArg some (WS.pack_of w))
  case h_32 ho => exact encode_of_dec3C (eq_ofNat_of_toNat ho) h
  case h_33 ho => exact (encode_of_dec3D (f := WA.of w) (eq_ofNat_of_toNat ho) h).trans (congrArg some (WA.pack_of w))
  case h_34 => cases h

theorem decodeWord_eq_ok {w : Double} {i : Instr} : decodeWord w = .ok i ↔ decMap w = some (some i) ∧ i.wf = true := by
  unfold decodeWord
  split
  · next h => simp [h]
  · next h => simp [h]
  · next j h =>
    rw [h]
    split
    · next hj =>
      simp only [Except.ok.injEq, Option.some.injEq]
      exact ⟨fun e => ⟨e, e ▸ hj⟩, And.left⟩
    · next hj =>
      simp only [Option.some.injEq, reduceCtorEq, false_iff, not_and]
      rintro rfl
      exact hj

/-- Settles O49: each field, each format and each entry of the opcode map is read back from what the encoder writes. -/
theorem decodeEncodeAgree : Obligations.DecodeEncodeAgree := by
  unfold Obligations.DecodeEncodeAgree
  intro i w hwf he
  have hfields : i.fieldsOk = true := by
    unfold Instr.wf at hwf
    exact (Bool.and_eq_true _ _ ▸ hwf).2
  exact decodeWord_eq_ok.2 ⟨decMap_encode hfields he, hwf⟩

/-- Settles O50: the decoder takes an instruction only from the fields that the encoder writes for it, the unused ones included. -/
theorem decodedWordsReencode : Obligations.DecodedWordsReencode := by
  unfold Obligations.DecodedWordsReencode
  intro w i h
  obtain ⟨hmap, hwf⟩ := decodeWord_eq_ok.1 h
  exact ⟨hwf, encode_of_decMap hmap⟩

end Sys2Proof
end

section
/-! SUPPORT. Lane arithmetic as a pass of one thread executes it (O1 to O7, O52): each entry's effect on the values of its ready operands. -/
namespace Sys2Proof.Machine

section
variable {s : State} {g : Guard} {c : Ctx} {v : SetState} {srcs : List Operand} {d : Operand} {flags sf : Bool}
  {f : List Double → Double × Exc} {vals : List Double} {r : Double × Exc}

/-- An immediate result, once its value is known. -/
theorem laneExec_now_eq (h : s.solo? g = some (c, v)) (hr : readyOperands c s v srcs (some d) = some vals) (hf : f vals = r) :
    laneExec g { srcs := srcs, dst := some d, late := false, flags := flags, sf := sf, f := f } s = .next (resultNow c s v srcs d sf r) :=
  hf ▸ laneExec_now h hr

/-- A late result, once its value is known. -/
theorem laneExec_late_eq (h : s.solo? g = some (c, v)) (hr : readyOperands c s v srcs (some d) = some vals) (hf : f vals = r) :
    laneExec g { srcs := srcs, dst := some d, late := true, flags := flags, sf := sf, f := f } s =
      .next (resultLate c s v srcs d sf flags r) :=
  hf ▸ laneExec_late h hr

end

/-! ### Values -/

theorem lo_le_hi (ty : ITy) : ty.lo ≤ ty.hi := by cases ty <;> decide

theorem clampInt_eq {lo hi : Int} (h : lo ≤ hi) (x : Int) : clampInt lo hi x = max lo (min hi x) := by
  unfold clampInt
  split
  · omega
  · split <;> omega

theorem remVal_eq (m n : Int) : remVal m n = if n = 0 then m else m - n * Int.tdiv m n := by
  unfold remVal
  split
  · rfl
  · exact Int.tmod_def m n

theorem ite_lt_eq_min (m n : Int) : (if n < m then n else m) = min m n := by split <;> omega

theorem ite_lt_eq_max (m n : Int) : (if m < n then n else m) = max m n := by split <;> omega

theorem ite_neg_eq_natAbs (m : Int) : (if m < 0 then -m else m) = (m.natAbs : Int) := by split <;> omega

theorem dot4Val_eq (uns : Bool) (a b e : Word) :
    dot4Val uns a b e = BitVec.ofInt 32 (e.toInt + ((List.range 4).map (fun k => quadElem uns a k * quadElem uns b k)).sum) := by
  have hr : List.range 4 = [0, 1, 2, 3] := rfl
  simp only [dot4Val, hr, List.map_cons, List.map_nil, List.sum_cons, List.sum_nil, Int.add_assoc, Int.add_zero]

/-- lea's sum modulo 2^64 is the exact sum taken modulo 2^64 (R329). -/
theorem leaVal_eq (uns : Bool) (sc : BitVec 2) (x y : Double) :
    leaVal uns sc x y =
      BitVec.ofInt 64 ((x.toNat : Int) + (if uns then ((loWord y).toNat : Int) else (loWord y).toInt) * 2 ^ sc.toNat) := by
  simp only [leaVal, BitVec.ofInt_add, BitVec.ofInt_natCast, BitVec.ofNat_toNat, BitVec.setWidth_eq, Nat.cast_pow, Nat.cast_ofNat]

/-! ### Integer arithmetic (R323 to R325) -/

/-- Settles O1: each entry's exact integer, clamped, divided or wrapped as its row says. -/
theorem integerArithmeticResults : Obligations.IntegerArithmeticResults := by
  unfold Obligations.IntegerArithmeticResults
  refine ⟨?_, ?_, ?_, ?_⟩
  · intro s c v g ty d a b x y h hr
    refine ⟨?add, ?sub, ?mul, ?mulhi, ?min, ?max, ?adds, ?subs, ?div, ?rem⟩
    case add | sub | mul => exact laneExec_now_eq h hr rfl
    case mulhi => exact laneExec_now_eq h hr (by simp [eff2])
    case min => exact laneExec_now_eq h hr (by simp only [eff2, ite_lt_eq_min])
    case max => exact laneExec_now_eq h hr (by simp only [eff2, ite_lt_eq_max])
    case adds | subs => exact laneExec_now_eq h hr (by simp only [eff2, clampInt_eq (lo_le_hi ty)])
    case div => exact laneExec_late_eq h hr rfl
    case rem => exact laneExec_late_eq h hr (by simp only [eff2, remVal_eq])
  · intro s c v g ty d a x h hr
    exact ⟨laneExec_now_eq h hr (by simp only [eff1, ite_neg_eq_natAbs]), laneExec_now_eq h hr rfl⟩
  · intro s c v g ty d a b e x y z h hr
    exact laneExec_now_eq h hr rfl
  · intro s c v g uns d a b e x y z quad h hr
    exact laneExec_now_eq h hr (by simp only [eff3, dot4Val_eq])

/-! ### The cases of division (R324) -/

theorem read_lo_hi (ty : ITy) (x : Double) : ty.lo ≤ ty.read x ∧ ty.read x ≤ ty.hi := by
  cases ty with
  | i32 => exact ⟨BitVec.le_toInt _, by have := @BitVec.toInt_lt 32 (x.extractLsb' 0 32); exact Int.le_sub_one_of_lt this⟩
  | i64 => exact ⟨BitVec.le_toInt _, by have := @BitVec.toInt_lt 64 x; exact Int.le_sub_one_of_lt this⟩
  | n32 => exact ⟨Int.natCast_nonneg _, Int.le_sub_one_of_lt (Int.ofNat_lt.2 (x.extractLsb' 0 32).isLt)⟩
  | n64 => exact ⟨Int.natCast_nonneg _, Int.le_sub_one_of_lt (Int.ofNat_lt.2 x.isLt)⟩

/-- A value in the range of its type is read back from its pattern. -/
theorem read_pat {ty : ITy} {q : Int} (hlo : ty.lo ≤ q) (hhi : q ≤ ty.hi) : ty.read (ty.pat q) = q := by
  have hword : ∀ w : Word, (w.setWidth 64).extractLsb' 0 32 = w := fun w => by
    ext i hi
    simp [hi, Nat.lt_trans hi]
  cases ty with
  | i32 =>
    have h : -2147483648 ≤ q ∧ q ≤ 2147483647 := ⟨hlo, hhi⟩
    simp only [ITy.read, ITy.pat, ITy.wide, Bool.false_eq_true, if_false, hword, BitVec.toInt_ofInt]
    exact Int.bmod_eq_of_le (by omega) (by omega)
  | i64 =>
    have h : -9223372036854775808 ≤ q ∧ q ≤ 9223372036854775807 := ⟨hlo, hhi⟩
    simp only [ITy.read, ITy.pat, ITy.wide, if_true, BitVec.toInt_ofInt]
    exact Int.bmod_eq_of_le (by omega) (by omega)
  | n32 =>
    have h : 0 ≤ q ∧ q ≤ 4294967295 := ⟨hlo, hhi⟩
    simp only [ITy.read, ITy.pat, ITy.wide, Bool.false_eq_true, if_false, hword, BitVec.toNat_ofInt]
    omega
  | n64 =>
    have h : 0 ≤ q ∧ q ≤ 18446744073709551615 := ⟨hlo, hhi⟩
    simp only [ITy.read, ITy.pat, ITy.wide, if_true, BitVec.toNat_ofInt]
    omega

/-- A quotient of magnitudes up to `k`, truncated to zero, stays below `k`, unless -k is divided by -1. -/
theorem tdiv_bounds {k m n : Int} (hk : 2 ≤ k) (hm : -k ≤ m ∧ m ≤ k - 1) (h0 : n ≠ 0) (hov : ¬ (m = -k ∧ n = -1)) :
    -k ≤ Int.tdiv m n ∧ Int.tdiv m n ≤ k - 1 := by
  have hq : (Int.tdiv m n).natAbs = m.natAbs / n.natAbs := Int.natAbs_tdiv m n
  by_cases h1 : n = 1
  · rw [h1, Int.tdiv_one]
    exact hm
  · by_cases h2 : n = -1
    · have hneg : Int.tdiv m n = -m := by rw [h2, Int.tdiv_neg, Int.tdiv_one]
      omega
    · have hle : m.natAbs / n.natAbs ≤ m.natAbs / 2 := Nat.div_le_div_left (by omega) (by omega)
      omega

/-- A quotient truncated to zero is in range, unless the most negative number is divided by -1. -/
theorem tdiv_lo_hi {ty : ITy} {m n : Int} (hm : ty.lo ≤ m ∧ m ≤ ty.hi) (hn : ty.lo ≤ n ∧ n ≤ ty.hi) (h0 : n ≠ 0)
    (hov : ¬ (ty.signed = true ∧ m = -2 ^ (ty.bits - 1) ∧ n = -1)) : ty.lo ≤ Int.tdiv m n ∧ Int.tdiv m n ≤ ty.hi := by
  cases ty with
  | i32 | i64 => exact tdiv_bounds (by decide) hm h0 fun h => hov ⟨rfl, h⟩
  | n32 | n64 =>
    have hn0 : 0 ≤ n := hn.1
    exact ⟨Int.tdiv_nonneg hm.1 hn0, Int.le_trans (Int.tdiv_le_self n hm.1) hm.2⟩

/-- A remainder is smaller than the divisor and has the sign of the dividend. -/
theorem tmod_sign (m : Int) {n : Int} (h0 : n ≠ 0) :
    (Int.tmod m n).natAbs < n.natAbs ∧ (0 ≤ m → 0 ≤ Int.tmod m n) ∧ (m ≤ 0 → Int.tmod m n ≤ 0) := by
  refine ⟨?_, Int.tmod_nonneg n, fun hm => ?_⟩
  · rw [Int.natAbs_tmod]
    exact Nat.mod_lt _ (by omega)
  · have hneg := Int.tmod_nonneg n (a := -m) (by omega)
    rw [Int.neg_tmod] at hneg
    omega

theorem pat_sub_pow (ty : ITy) : ty.pat (2 ^ (ty.bits - 1)) = ty.pat (-2 ^ (ty.bits - 1)) := by cases ty <;> decide

/-- Settles O52: `divVal` and `remVal` truncate to zero; only the most negative number divided by -1 leaves the range, and wraps. -/
theorem divisionCases : Obligations.DivisionCases := by
  unfold Obligations.DivisionCases
  intro s c v g ty d a b x y h hr m n gives ones
  have hdiv : gives (.divInt g ty d a b) (ty.pat (divVal m n)) := laneExec_late_eq h hr rfl
  have hrem : gives (.remInt g ty d a b) (ty.pat (remVal m n)) := laneExec_late_eq h hr rfl
  refine ⟨?zero, ?overflow, ?exact⟩
  case zero =>
    intro h0
    have hones : ty.pat (divVal m n) = ones := by rw [divVal, if_pos h0]; cases ty <;> decide
    have hm : remVal m n = m := if_pos h0
    exact ⟨hones ▸ hdiv, hm ▸ hrem⟩
  case overflow =>
    intro _ hm hn
    have hq : ty.pat (divVal m n) = ty.pat (-2 ^ (ty.bits - 1)) := by
      rw [divVal, if_neg (by omega), hm, hn, ← pat_sub_pow]
      simp
    have hz : ty.pat (remVal m n) = 0 := by
      rw [remVal, if_neg (by omega), hn, Int.tmod_neg, Int.tmod_one]
      cases ty <;> decide
    exact ⟨hq ▸ hdiv, hz ▸ hrem⟩
  case exact =>
    intro h0 hov
    have hq : divVal m n = Int.tdiv m n := if_neg h0
    have hrm : remVal m n = Int.tmod m n := if_neg h0
    obtain ⟨hlo, hhi⟩ := tdiv_lo_hi (read_lo_hi ty x) (read_lo_hi ty y) h0 hov
    have hsum : Int.tdiv m n * n + Int.tmod m n = m := Int.tdiv_mul_add_tmod m n
    obtain ⟨hlt, hpos, hneg⟩ := tmod_sign m h0
    exact ⟨Int.tdiv m n, Int.tmod m n, hsum.symm, by omega, by omega, read_pat hlo hhi, hq ▸ hdiv, hrm ▸ hrem⟩

/-! ### Bit operations (R326, R327) -/

/-- Settles O2: shift counts are `shiftCount`, the low 32 bits of B modulo the width. -/
theorem bitOperationResults : Obligations.BitOperationResults := by
  unfold Obligations.BitOperationResults
  refine ⟨?_, ?_, ?_, ?_⟩
  · intro s c v g ty d a b x y h hr
    refine ⟨?_, ?_, ?_, ?_, ?_, ?_, ?_, ?_⟩ <;> exact laneExec_now_eq h hr rfl
  · intro s c v g ty d a x h hr
    refine ⟨?_, ?_, ?_, ?_, ?_⟩ <;> exact laneExec_now_eq h hr rfl
  · intro s c v g ty d a b x y h hr
    exact laneExec_now_eq h hr rfl
  · intro s c v g ty d a b e x y z h hr
    exact laneExec_now_eq h hr rfl

/-! ### Immediate forms, moves and predicates (R328 to R331, R341, R342) -/

/-- Settles O3: the type of each form is `immTy`, which follows D. -/
theorem immediateResults : Obligations.ImmediateResults := by
  unfold Obligations.ImmediateResults
  refine ⟨?_, ?_, ?_, ?_⟩
  · intro s c v g d a imm x t h hr
    refine ⟨?_, ?_, ?_, ?_, ?_, ?_, ?_, ?_, ?min, ?max⟩
    case min => exact laneExec_now_eq h hr (by simp only [eff1, ite_lt_eq_min]; rfl)
    case max => exact laneExec_now_eq h hr (by simp only [eff1, ite_lt_eq_max]; rfl)
    all_goals exact laneExec_now_eq h hr rfl
  · intro s c v g d imm h hr
    exact laneExec_now_eq h hr rfl
  · intro s c v g d a imm x h hr
    exact laneExec_now_eq h hr rfl
  · intro s c v g cond d a imm x h hr
    exact laneExec_now_eq h hr rfl

/-- nop has no operands and raises nothing: its pass ends with the thread as it was (R330). -/
theorem exec_nop_solo {s : State} {g : Guard} {c : Ctx} {v : SetState} (h : s.solo? g = some (c, v)) :
    exec (.nop g) s = .next (passDone c (s.modThread c.tile c.set c.tid (fun th => th)) none []) := by
  obtain ⟨w, p, th, hf, ht, hdn, hth, hg, hsh, hgd, hctx, hs⟩ := State.solo?_spec h
  have hff : (fun th : Thread => th.setFlags false Exc.none) = fun th => th := by
    funext th
    simp [Thread.setFlags, Exc.none]
  rw [exec_nop, execNop, laneExec, withPass_solo h rfl]
  simp only [serveLane, hs, SetState.pendingOn_of_groupsOf hg hsh, popEnds, List.filterMap_nil, State.pops, List.any_nil, List.isEmpty_nil,
    Option.bind_none, Option.any_none, List.findSome?_nil, List.foldl_nil, Bool.not_true, Bool.false_eq_true, if_false, Bool.or_self, hff]
  rfl

theorem exec_ffclr_solo {s : State} {g : Guard} {c : Ctx} {v : SetState} (mask : BitVec 5) (h : s.solo? g = some (c, v)) :
    exec (.ffclr g mask) s =
      .next (passDone c (s.modThread c.tile c.set c.tid (fun th => { th with ff := th.ff &&& ~~~mask })) none []) := by
  obtain ⟨w, p, th, hf, ht, hdn, hth, hg, hsh, hgd, hctx, hs⟩ := State.solo?_spec h
  rw [exec_ffclr, execFfclr, withPass_solo h rfl]
  simp only [serveFfclr, hs, SetState.pendingOn_of_groupsOf hg hsh, List.isEmpty_nil, Bool.not_true, Bool.false_eq_true, if_false]
  rfl

/-- Settles O4: lea adds modulo 2^64, sel takes A when C is not 0, and nop and ffclr have no operands. -/
theorem moveAndPredicateResults : Obligations.MoveAndPredicateResults := by
  unfold Obligations.MoveAndPredicateResults
  refine ⟨?lea, ?ext, ?pack, ?mov, ?sel, ?plain, ?two, ?one⟩
  case lea =>
    intro s c v g uns sc d a b x y h hr
    exact laneExec_now_eq h hr (by simp only [eff2, leaVal_eq])
  case ext =>
    intro s c v g d a x h hr
    exact ⟨laneExec_now_eq h hr rfl, laneExec_now_eq h hr rfl⟩
  case pack | mov =>
    intros
    exact laneExec_now_eq ‹_› ‹_› rfl
  case sel =>
    intro s c v g ty d a b e x y z h hr
    exact laneExec_now_eq h hr (by by_cases hz : z = 0 <;> simp [eff3, hz])
  case plain =>
    intro s c v g mask h
    exact ⟨exec_nop_solo h, exec_ffclr_solo mask h⟩
  case two =>
    intro s c v g d a b x y h hr
    refine ⟨?_, ?_, ?_, ?_⟩ <;> exact laneExec_now_eq h hr rfl
  case one =>
    intro s c v g d a x h hr
    exact ⟨laneExec_now_eq h hr rfl, laneExec_now_eq h hr rfl⟩

/-! ### FP32, packed arithmetic and conversions (R332 to R340) -/

/-- Settles O5: each entry is the exact operation of its row, rounded once by `fres`; division, roots, reciprocals and the transcendentals return
late. -/
theorem fp32Results : Obligations.Fp32Results := by
  unfold Obligations.Fp32Results
  refine ⟨?_, ?_, ?_, ?_, ?_⟩
  · intro s c v g sf rm d a b x y h hr
    refine ⟨?_, ?_, ?_, ?_, ?_, ?_, ?div⟩
    case div => exact laneExec_late_eq h hr rfl
    all_goals exact laneExec_now_eq h hr rfl
  · intro s c v g sf rm d a b e x y z h hr
    exact ⟨laneExec_now_eq h hr rfl, laneExec_now_eq h hr rfl, laneExec_now_eq h hr rfl⟩
  · intro s c v g sf rm d a x h hr
    refine ⟨?abs, ?neg, ?rint, ?_, ?_, ?_, ?_, ?_⟩
    case abs | neg | rint => exact laneExec_now_eq h hr rfl
    all_goals exact laneExec_late_eq h hr rfl
  · intro s c v g d a x h hr
    exact laneExec_now_eq h hr rfl
  · intro s c v g sf cond ty d a b x y h hr
    exact laneExec_now_eq h hr rfl

/-- Settles O6: the elements are those of `packed2`, `packed3` and `packedPick`, whose flags are joined. -/
theorem packedResults : Obligations.PackedResults := by
  unfold Obligations.PackedResults
  refine ⟨?_, ?_, ?_, ?_, ?_⟩
  · intro s c v g sf rm sat ty d a b x y h hr
    refine ⟨?_, ?_, ?_, ?_, ?_⟩ <;> exact laneExec_now_eq h hr rfl
  · intro s c v g sf rm sat ty d a x h hr
    exact ⟨laneExec_now_eq h hr rfl, laneExec_now_eq h hr rfl⟩
  · intro s c v g sf rm sat ty d a b e x y z h hr
    exact laneExec_now_eq h hr rfl
  · intro s c v g sf rm d a b e x y z h hr
    exact laneExec_now_eq h hr rfl
  · intro s c v g sf rm f d a b e x y z h hr
    exact laneExec_now_eq h hr rfl

/-- Settles O7: the bf16 form of pk4 leaves its third operand unread. -/
theorem conversionResults : Obligations.ConversionResults := by
  unfold Obligations.ConversionResults
  refine ⟨?_, ?pk2, ?_, ?_, ?_, ?_, ?_⟩
  case pk2 =>
    intro s c v g sf rm sty d a b x y o h hr
    have hty : pk2Ty sty = sty.ty := by cases sty <;> rfl
    rw [exec_pk2, execPk2, hty]
    exact laneExec_now_eq h hr rfl
  · intro s c v g sf rm sat dty sty d a x h hr
    exact laneExec_now_eq h hr rfl
  · intro s c v g sf rm sat dty hi d a b e x y z h hr
    exact laneExec_now_eq h hr rfl
  · intro s c v g sf rm sat dty d a b e x y h hr
    exact laneExec_now_eq h hr rfl
  · intro s c v g ty e d a x h hr
    exact laneExec_now_eq h hr rfl
  · intro s c v g sf rm d a b x y h hr
    exact laneExec_now_eq h hr rfl
  · intro s c v g f d a x h hr
    exact laneExec_now_eq h hr rfl

end Sys2Proof.Machine
end

section
/-! SUPPORT. The state that reset leaves and the words that the spec writes out (O54, O48). -/
namespace Sys2Proof.Machine

/-- Settles O54: every component of the reset state is written out. -/
theorem resetState : Obligations.ResetState := by
  unfold Obligations.ResetState
  refine ⟨by decide, rfl, rfl, rfl, rfl, rfl, rfl, rfl, rfl, rfl, rfl, rfl, rfl, rfl, rfl, rfl, rfl, rfl, ?_, ?_⟩
  · intro t n
    rfl
  · intro a
    rfl

/-- Settles O48: each word is decoded. -/
theorem wordsOfTheSpecDecode : Obligations.WordsOfTheSpecDecode := by
  unfold Obligations.WordsOfTheSpecDecode
  exact ⟨rfl, rfl, rfl, rfl, rfl, rfl, rfl, rfl, rfl, rfl⟩
end Sys2Proof.Machine
end

section
/-! SUPPORT. The opcode map and the trap of a word that does not decode (O51). -/
namespace Sys2Proof
open Sys2Proof.Machine
/-! ### The opcode map lists what the decoder takes (R287, R288)

A function is listed for an opcode exactly when the decoder of the opcode takes it, whatever the other fields hold. -/

theorem isNone_condDec (n : Nat) : (condDec n).isNone = !decide (n ≤ 6) := by
  unfold condDec
  split <;> simp_all
  omega

theorem isNone_condImmDec (n : Nat) : (condImmDec n).isNone = !decide (n ≤ 9) := by
  unfold condImmDec
  split <;> simp_all
  omega

theorem isNone_scopeDec (n : Nat) : (scopeDec n).isNone = !decide (n ≤ 4) := by
  unfold scopeDec
  split <;> simp_all
  omega

theorem isNone_atomOpDec (n : Nat) : (atomOpDec n).isNone = !decide (n ≤ 7) := by
  unfold atomOpDec
  split <;> simp_all
  omega

theorem isNone_map {α β : Type} (k : α → β) (o : Option α) : (o.map k).isNone = o.isNone := by
  cases o <;> rfl

theorem isNone_dec01 (f : WA) : (dec01 f).isNone = !decide (f.fn.toNat ≤ 13) := by
  unfold dec01
  split <;> simp_all
  omega

theorem isNone_dec02 (f : WA) : (dec02 f).isNone = !decide (f.fn.toNat ≤ 14) := by
  unfold dec02
  split <;> simp_all
  omega

theorem isNone_dec03 (f : WI) : (dec03 f).isNone = !decide (f.fn.toNat ≤ 11) := by
  unfold dec03
  split <;> simp_all
  omega

theorem isNone_dec04 (f : WA) : (dec04 f).isNone = !decide (f.fn.toNat ≤ 3) := by
  unfold dec04
  split <;> simp_all
  omega

theorem isNone_dec05 (f : WA) : (dec05 f).isNone = !decide (f.fn.toNat ≤ 3) := by
  unfold dec05
  split <;> simp_all
  omega

theorem isNone_dec10 (f : WA) : (dec10 f).isNone = !decide (f.fn.toNat ≤ 18) := by
  unfold dec10
  split <;> simp_all
  omega

theorem isNone_dec11 (f : WA) : (dec11 f).isNone = !decide (f.fn.toNat ≤ 9) := by
  unfold dec11
  split <;> simp_all
  omega

theorem isNone_dec18 (f : WA) : (dec18 f).isNone = !decide (f.fn.toNat ≤ 7) := by
  unfold dec18
  split <;> simp_all

theorem isNone_dec19 (f : WA) : (dec19 f).isNone = !decide (f.fn.toNat ≤ 4) := by
  unfold dec19
  split <;> simp_all
  omega

theorem isNone_dec1C (f : WA) : (dec1C f).isNone = !decide (f.fn.toNat ≤ 6) :=
  (isNone_map _ _).trans (isNone_condDec _)

theorem isNone_dec1D (f : WI) : (dec1D f).isNone = !decide (f.fn.toNat ≤ 9) :=
  (isNone_map _ _).trans (isNone_condImmDec _)

theorem isNone_dec1E (f : WA) : (dec1E f).isNone = !decide (f.fn.toNat ≤ 5) := by
  unfold dec1E
  split <;> simp_all
  omega

theorem isNone_dec20 (f : WM) : (dec20 f).isNone = !decide (f.fn.toNat ≤ 3) := by
  unfold dec20
  split <;> simp_all
  omega

theorem isNone_dec21 (f : WM) : (dec21 f).isNone = !decide (f.fn.toNat ≤ 3) := by
  unfold dec21
  split <;> simp_all
  omega

theorem isNone_dec22 (f : WM) : (dec22 f).isNone = !decide (f.fn.toNat ≤ 13) := by
  unfold dec22
  dsimp only
  split
  · next h => simp [isNone_atomOpDec]; omega
  · next h =>
    split
    · next h14 => simp [isNone_atomOpDec]; omega
    · next h14 => simp; omega

theorem isNone_dec23 (f : WA) : (dec23 f).isNone = !decide (f.fn.toNat ≤ 4) :=
  (isNone_map _ _).trans (isNone_scopeDec _)

theorem isNone_dec24 (f : WA) : (dec24 f).isNone = !decide (f.fn.toNat ≤ 0) := by
  unfold dec24
  split <;> simp_all [← BitVec.toNat_inj]

theorem isNone_dec28 (f : WS) : (dec28 f).isNone = !decide (f.fn.toNat ≤ 2) := by
  unfold dec28
  split <;> simp_all
  omega

theorem isNone_dec29 (f : WS) : (dec29 f).isNone = !decide (f.fn.toNat ≤ 6) := by
  unfold dec29
  split <;> simp_all
  omega

theorem isNone_dec2C (f : WA) : (dec2C f).isNone = !decide (f.fn.toNat ≤ 4) := by
  unfold dec2C
  split <;> simp_all
  omega

theorem isNone_dec2D (f : WA) : (dec2D f).isNone = !decide (f.fn.toNat ≤ 2) := by
  unfold dec2D
  split <;> simp_all
  omega

theorem isNone_dec2E (f : WA) : (dec2E f).isNone = !decide (f.fn.toNat ≤ 0) := by
  unfold dec2E
  split <;> simp_all [← BitVec.toNat_inj]

theorem isNone_dec30 (f : WJ) : (dec30 f).isNone = !decide (f.fn.toNat ≤ 3) := by
  unfold dec30
  split <;> simp_all
  omega

theorem isNone_dec31 (f : WJ) : (dec31 f).isNone = !decide (f.fn.toNat ≤ 1) := by
  unfold dec31
  split <;> simp_all
  omega

theorem isNone_dec34 (w : Double) : (dec34 w).isNone = !decide ((WA.of w).fn.toNat ≤ 2) := by
  unfold dec34
  dsimp only
  split <;> simp_all
  omega

theorem isNone_dec35 (f : WA) : (dec35 f).isNone = !decide (f.fn.toNat ≤ 2) := by
  unfold dec35
  split <;> simp_all
  omega

theorem isNone_dec36 (f : WS) : (dec36 f).isNone = !decide (f.fn.toNat ≤ 2) := by
  unfold dec36
  split <;> simp_all
  omega

theorem isNone_dec37 (f : WS) : (dec37 f).isNone = !decide (f.fn.toNat ≤ 5) := by
  unfold dec37
  split <;> simp_all
  omega

theorem isNone_dec38 (f : WA) : (dec38 f).isNone = !decide (f.fn.toNat ≤ 1) := by
  unfold dec38
  split <;> simp_all
  omega

theorem isNone_dec3A (f : WS) : (dec3A f).isNone = !decide (f.fn.toNat ≤ 7) := by
  unfold dec3A
  split <;> simp_all
  omega

theorem isNone_dec3C (w : Double) : (dec3C w).isNone = !decide ((WA.of w).fn.toNat ≤ 12) := by
  unfold dec3C
  dsimp only
  split <;> simp_all
  omega

theorem isNone_dec3D (f : WA) : (dec3D f).isNone = !decide (f.fn.toNat ≤ 1) := by
  unfold dec3D
  split <;> simp_all
  omega

theorem isNone_dec27 (f : WI) : (dec27 f).isNone = !(f.fn.toNat == 0x38 || f.fn.toNat == 0x39) := by
  unfold dec27
  split <;> simp_all

/-- The map takes a word exactly when its opcode and function are assigned. -/
theorem isNone_decMap (w : Double) : (decMap w).isNone = !assigned (w.extractLsb' 58 6).toNat (w.extractLsb' 52 6).toNat := by
  unfold decMap
  split
  case h_34 =>
    unfold assigned
    split <;> simp_all
  all_goals
    next h =>
      simp only [h, isNone_dec01, isNone_dec02, isNone_dec03, isNone_dec04, isNone_dec05, isNone_dec10, isNone_dec11, isNone_dec18,
        isNone_dec19, isNone_dec1C, isNone_dec1D, isNone_dec1E, isNone_dec20, isNone_dec21, isNone_dec22, isNone_dec23,
        isNone_dec24, isNone_dec27, isNone_dec28, isNone_dec29, isNone_dec2C, isNone_dec2D, isNone_dec2E, isNone_dec30,
        isNone_dec31, isNone_dec34, isNone_dec35, isNone_dec36, isNone_dec37, isNone_dec38, isNone_dec3A, isNone_dec3C,
        isNone_dec3D]
      rfl

theorem decodeWord_eq_illegalOp (w : Double) : decodeWord w = .error .illegalOp ↔ decMap w = none := by
  unfold decodeWord
  split
  · next h => simp [h]
  · next h => simp [h]
  · next i h =>
    rw [h]
    split <;> simp

/-- A word that does not decode is not listed, or has a field that no instruction has. -/
theorem decodeWord_error {w : Double} {e : BadWord} (h : decodeWord w = .error e) : e = .illegalOp ∨ e = .reservedField := by
  unfold decodeWord at h
  split at h
  · exact .inl (Except.error.inj h).symm
  · exact .inr (Except.error.inj h).symm
  · split at h
    · cases h
    · exact .inr (Except.error.inj h).symm

end Sys2Proof

namespace Sys2Proof.Machine

section
variable {s : State} {t o : Nat} {v : SetState} {x : Sweep} {p : Pass} {b : Block} {e : BadWord}

/-- A set's sequencer traps at a word that does not decode, by the error. -/
theorem State.fetch_traps (hs : s.set? t o = some v) (hx : v.sweep = some x) (hp : x.passes[x.cur]? = some p) (hb : v.blocks[x.blk]? = some b)
    (hstop : v.stopped = false) (hheld : v.driftHeld = false) (hruns : s.runs t = true)
    (hsound : NSet.has (s.tile t).poolPoison (poolWord o b x.idx) = false)
    (he : decodeWord (SMap.get 0 (s.tile t).pool (poolWord o b x.idx)) = .error e) :
    let s1 := s.atIssue t o v (x.mode == .trap) x.idx p
    let c := focusCtx s1 v x p
    s.fetch t o = .trap ((p.tids.foldl (trapPass c (if e = .reservedField then Code.reservedField else Code.illegalOp))
      ⟨s1, [], [], [], 0, false⟩).close c []) := by
  simp only [State.fetch, hs, hx, hp, hb, hstop, hheld, hruns, hsound, he, Bool.not_true, Bool.or_self, Bool.false_and, Bool.false_eq_true, if_false]
  cases e <;> rfl

theorem issueStep_traps {s1 : State} (h : s.fetch t o = .trap s1) : issueStep s t o = .next (s1.issued t o) := by
  simp only [issueStep, h]

end

/-- What the trap of a failed check does to a thread that has no stores of its pass outstanding. -/
theorem trapPass_of_no_stores (c : Ctx) (code : BitVec 8) (s : State) (tid : Nat) (keep : List Nat) (h : s.storesOf { c with tid := tid } = []) :
    trapPass c code ⟨s, keep, [], [], 0, false⟩ tid =
      ⟨s.threadFault c.tile c.set tid c.blk c.idx c.loops (c.mode == .trap) { code := code },
        if c.mode == .trap then keep ++ [tid] else keep, [], [], 0, c.mode == .trap⟩ := by
  unfold trapPass
  simp [h]

/-- Settles O51: by the map for the first part, and by the trap that a fetch takes at what does not decode. -/
theorem unlistedEncodingsAreIllegal : Obligations.UnlistedEncodingsAreIllegal := by
  unfold Obligations.UnlistedEncodingsAreIllegal
  refine ⟨?_, fun w e h => decodeWord_error h, ?_, ?_⟩
  · intro w
    rw [decodeWord_eq_illegalOp, ← Option.isNone_iff_eq_none, isNone_decMap, Bool.not_eq_true']
  · intro s t o v x p b e hs hx hp hb hstop hheld hruns a code s1 c hsound he
    exact issueStep_traps (State.fetch_traps hs hx hp hb hstop hheld hruns hsound he)
  · intro c code s tid keep trapped h
    rw [trapPass_of_no_stores c code s tid keep h]
    constructor
    · intro hm
      simp [trapped, beq_eq_false_iff_ne.2 hm]
    · intro hm
      simp [trapped, hm]

end Sys2Proof.Machine
end

section
/-! SUPPORT. Every instruction of a word executes as a pass with the checks of its word; what such a pass does at a false guard and at a check that fails (O56). -/
namespace Sys2Proof.Machine

/-- An instruction that executes as a pass with the checks of its word (R278). -/
def Executes (i : Instr) (s : State) : Prop :=
  ∃ chk marks serve, (∀ v c, chk v c = wordCheck i v c) ∧ exec i s = withPass s i.guard chk marks serve

section
variable {i : Instr} {s : State} {v : SetState} {c : Ctx} {chk : SetState → Ctx → Option (BitVec 8)} {marks : List Mark} {serve : Ctx → State → Serve}

theorem chkType_all (v : SetState) (c : Ctx) : chkType allTypes allModes v c = none := by
  unfold chkType allTypes allModes
  cases v.ent.typ <;> cases c.mode <;> rfl

theorem chkAll_nil : chkAll [] v c = none := rfl

theorem chkAll_cons {f : SetState → Ctx → Option (BitVec 8)} {l : List (SetState → Ctx → Option (BitVec 8))} :
    chkAll (f :: l) v c = (f v c).or (chkAll l v c) := by
  unfold chkAll
  rw [List.findSome?_cons]
  cases f v c <;> rfl

theorem chkEnds_nil : chkEnds [] [] v c = none := rfl

theorem chkBlocks_nil : chkBlocks [] v c = none := rfl

theorem chkNone_eq : chkNone v c = none := rfl

/-- The checks of a word that names no block and that no privilege guards. -/
theorem wordCheck_plain (hb : wordBlocks i = []) (hp : privileged? i = none) :
    wordCheck i v c = (chkEnds (wordEnds i).1 (wordEnds i).2 v c).or (chkType (wordHome i).1 (wordHome i).2 v c) := by
  simp [wordCheck, chkAll_cons, chkAll_nil, hb, hp, chkBlocks_nil, chkNone_eq]

/-- An instruction that is at home everywhere is checked for its ends alone. -/
theorem executes_of_ends (hb : wordBlocks i = []) (hp : privileged? i = none) (hh : wordHome i = (allTypes, allModes))
    (hx : exec i s = withPass s i.guard (chkEnds (wordEnds i).1 (wordEnds i).2) marks serve) : Executes i s :=
  ⟨_, marks, serve, fun v c => by rw [wordCheck_plain hb hp, hh, chkType_all, Option.or_none], hx⟩


theorem chkType_everyMode (l : List SetType) : chkType l allModes v c = if l.contains v.ent.typ then none else some Code.typeViolation := by
  unfold chkType allModes
  cases c.mode <;> simp

theorem chkType_allTypes (l : List BlockMode) : chkType allTypes l v c = if l.contains c.mode then none else some Code.typeViolation := by
  unfold chkType allTypes
  cases v.ent.typ <;> simp

/-- A tile or device access: its set type, then the block mode of a load into an s register. -/
theorem chkType_sData (l : List SetType) (data : Reg) (load : Bool) :
    chkAll ([chkType l allModes] ++ (if load then [chkSData data] else [])) v c =
      chkType l (if load = true ∧ Reg.isS data = true then [.token, .trap] else allModes) v c := by
  cases load
  · simp [chkAll_cons, chkAll_nil]
  · cases hd : Reg.isS data
    · simp [chkAll_cons, chkAll_nil, chkSData, hd]
    · simp only [List.cons_append, List.nil_append, if_true, chkAll_cons, chkAll_nil, chkSData, hd, chkType_everyMode (v := v) (c := c) l, chkType_allTypes, and_self]
      unfold chkType
      cases l.contains v.ent.typ <;> cases [BlockMode.token, .trap].contains c.mode <;> simp

/-- An access is checked for its home alone. -/
theorem executes_of_home (he : wordEnds i = ([], [])) (hb : wordBlocks i = []) (hp : privileged? i = none)
    (hc : ∀ v c, chk v c = chkType (wordHome i).1 (wordHome i).2 v c) (hx : exec i s = withPass s i.guard chk marks serve) : Executes i s :=
  ⟨chk, marks, serve, fun v c => by rw [wordCheck_plain hb hp, he, chkEnds_nil, Option.none_or, hc], hx⟩

theorem executes_of_enter {m : SCom} {desc : Option (BitVec 4)} {waits : Bool} (he : wordEnds i = ([], [])) (hb : wordBlocks i = [])
    (hh : wordHome i = ([.ag], [.token])) (hx : exec i s = enterExec i m desc (privileged? i).isSome waits s) (hg : m.g = i.guard) :
    Executes i s := by
  rw [enterExec, hg] at hx
  refine ⟨_, _, _, ?_, hx⟩
  intro v c
  cases hp : (privileged? i).isSome <;>
    simp [wordCheck, chkAll_cons, chkAll_nil, he, hb, hh, hp, chkEnds_nil, chkBlocks_nil, chkNone_eq]

/-- An instruction whose word is checked in parts: the ends, the blocks, the privilege, the home. -/
theorem executes_of_parts (hx : exec i s = withPass s i.guard chk marks serve)
    (hc : ∀ v c, chk v c = (chkEnds (wordEnds i).1 (wordEnds i).2 v c).or ((chkBlocks (wordBlocks i) v c).or
      (((if (privileged? i).isSome then chkSup else chkNone) v c).or (chkType (wordHome i).1 (wordHome i).2 v c)))) : Executes i s :=
  ⟨chk, marks, serve, fun v c => by rw [hc]; simp [wordCheck, chkAll_cons, chkAll_nil], hx⟩

/-- Every instruction that a word holds executes as a pass with the checks of its word; a loop instruction, which acts on its sweep besides,
has a guard that always holds. -/
theorem executes_of_encode {w : Double} (h : encode i = some w) (hl : i.guard ≠ ⟨false, 7⟩) (s : State) : Executes i s := by
  cases i
  case addInt | subInt | mulInt | mulhi | mad | divInt | remInt | minInt | maxInt | absInt | negInt | adds | subs |
      dot4Int | andB | orB | xorB | notB | andn | shl | shr | sra | rotl | popc | clz | ctz | brev | bfe | bfi |
      addImm | mulImm | andImm | orImm | xorImm | shlImm | shrImm | sraImm | minImm | maxImm | movImm | movhi | lea |
      extLo | extHi | pack64 | nop | mov | sel | ffclr | addF32 | subF32 | mulF32 | fmaF32 | fmsF32 | fnmaF32 | minF32
      | maxF32 | absF32 | negF32 | divF32 | sqrtF32 | rcpF32 | rsqrtF32 | exp2F32 | log2F32 | copysignF32 | classF32 |
      rintF32 | dot2 |
      dot4B8 | cvt | pk2 | scl | bscale | cmp | cmpImm | pAnd | pOr | pXor | pNot | pAndn | pMov | fence | eqWait |
      spill | fill | chPush | chPop | chPeek | chTag | steer | merge | amerge | exit | exitAbandon | grpJoin |
      grpLeave | barSet | barBind | barArrive | sregRd | capRd | mark | perfRd =>
    exact executes_of_ends rfl rfl rfl rfl
  case addPacked ty _ _ _ | subPacked ty _ _ _ | mulPacked ty _ _ _ | minPacked ty _ _ _ | maxPacked ty _ _ _ | fmaPacked ty _ _ _ _ |
      absPacked ty _ _ | negPacked ty _ _ =>
    cases ty <;> exact executes_of_ends rfl rfl rfl rfl
  case upk g ty e d a => cases ty <;> exact executes_of_ends rfl rfl rfl rfl
  case pk4 g sf rm sat dty src d a b c => cases src <;> exact executes_of_ends rfl rfl rfl rfl
  case strmRd | strmWr | engBar | cpIn | cpOut | cpLocal | cpPush | cpPushz | cpPop | cpPopd | slotClaim | slotFill |
      slotRel | cubeMm | cubeGate | cubeSpread | cubeFold | cubeBind | cubeUnbind | cirConvert | cirSched | cirRun |
      cirRunf | cirHalt | cirRevert | cirPageout | cirPagein | cfgLd | preempt | restore | nmqSub =>
    exact executes_of_enter rfl rfl rfl rfl rfl
  case loop | loopR => exact absurd rfl hl
  case ldDev | ldAcqDev | ldLoc | ldAcqLoc =>
    refine executes_of_home rfl rfl rfl (fun v c => ?_) rfl
    rw [chkType_sData]
    simp only [true_and, wordHome]
  case stDev | stRelDev | stLoc | stRelLoc => exact executes_of_home rfl rfl rfl (fun v c => chkType_sData _ _ false) rfl
  case atom data _ =>
    refine executes_of_home rfl rfl rfl (fun v c => ?_) rfl
    exact (chkType_sData _ data true).trans (by simp only [true_and, wordHome])
  case red => exact executes_of_home rfl rfl rfl (fun v c => rfl) rfl
  case lgen | br | brC | thrNew | acsLd | acsSt | sregWr | capWr | nmqPoll | trapRd | trapAct | trapFwd =>
    refine executes_of_parts rfl (fun v c => ?_)
    simp [wordEnds, wordBlocks, privileged?, wordHome, queued?, chkAll_cons, chkAll_nil, chkEnds_nil, chkBlocks_nil, chkNone_eq, chkType_all, chkAcs]
  case chCtl sub _ _ =>
    refine executes_of_parts rfl (fun v c => ?_)
    cases sub <;> simp [wordEnds, wordBlocks, privileged?, wordHome, chkAll_cons, chkAll_nil, chkBlocks_nil, chkNone_eq]
  case cfgSel other _ =>
    refine executes_of_parts rfl (fun v c => ?_)
    cases other <;> simp [wordEnds, wordBlocks, privileged?, wordHome, chkAll_cons, chkAll_nil, chkEnds_nil, chkBlocks_nil, chkNone_eq]
  all_goals cases h

/-- No check of a word looks at which thread issues it. -/
theorem wordCheck_tid (i : Instr) (v : SetState) (c : Ctx) (tid : Nat) : wordCheck i v { c with tid := tid } = wordCheck i v c := by
  unfold wordCheck
  split <;> rfl

end

section
variable {s : State} {v : SetState} {x : Sweep} {p : Pass} {tid : Nat} {th : Thread} {g : Guard} {chk : SetState → Ctx → Option (BitVec 8)}
  {marks : List Mark} {serve : Ctx → State → Serve}

theorem State.set?_of_focus? (h : s.focus? = some (v, x, p)) : s.set? s.focusTile s.focusSet = some v := by
  unfold State.focus? at h
  split at h
  · cases h
  · next v' hv =>
    split at h
    · cases h
    · split at h
      · cases h
      · cases h
        exact hv

/-- A pass of one thread whose guard does not hold leaves the thread in the pass. -/
theorem withPass_skips (hf : s.focus? = some (v, x, p)) (hp : p.tids = [tid]) (hd : x.done = []) (hth : v.threads.look tid = some th)
    (hg : v.groupsOf tid = []) (hfalse : th.guard g = false) (hc : chk v (focusCtx s v x p) = none) :
    withPass s g chk marks serve = .next (PassSt.close ⟨s, [tid], [tid], [], 0, false⟩ (focusCtx s v x p) []) := by
  have hpend : (if g.q == 7 then [] else v.pendingOn tid [.opd (.q g.q)]) = [] := by
    rw [SetState.pendingOn_guard hg, ite_self]
  have hstep : passStep (focusCtx s v x p) g serve ⟨s, [], [], [], 0, false⟩ tid = ⟨s, [tid], [tid], [], 0, false⟩ := by
    have hs : s.set? (focusCtx s v x p).tile (focusCtx s v x p).set = some v := State.set?_of_focus? hf
    simp only [passStep, hs, hth, SetState.storePending_of_groupsOf hg, hpend, hfalse]
    rfl
  simp only [withPass, hf, hc, hp, hd, List.foldl_cons, List.foldl_nil, hstep]
  rfl

/-- Closing a pass does not look at which thread its context names. -/
theorem PassSt.close_tid (q : PassSt) (c : Ctx) (tid : Nat) : q.close { c with tid := tid } [] = q.close c [] := rfl

/-- A pass of one thread whose word fails a check takes the trap. -/
theorem withPass_checkFails {code : BitVec 8} (hf : s.focus? = some (v, x, p)) (hp : p.tids = [tid]) (hg : v.groupsOf tid = [])
    (hc : chk v (focusCtx s v x p) = some code) :
    let c := focusCtx s v x p
    withPass s g chk marks serve =
      .next (PassSt.close ⟨s.threadFault c.tile c.set tid c.blk c.idx c.loops (c.mode == .trap) { code := code },
        if c.mode == .trap then [tid] else [], [], [], 0, c.mode == .trap⟩ c []) := by
  have hstores : s.storesOf { focusCtx s v x p with tid := tid } = [] := by
    have hs : s.set? (focusCtx s v x p).tile (focusCtx s v x p).set = some v := State.set?_of_focus? hf
    simp only [State.storesOf, hs, Option.map_some, Option.getD_some, SetState.storePending_of_groupsOf hg]
  simp only [withPass, hf, hc, hp, List.foldl_cons, List.foldl_nil, trapPass_of_no_stores _ _ _ _ _ hstores, List.nil_append]

end

/-- Settles O56: an instruction is checked as its word is, so that a false guard is reached when the word passes, and the trap otherwise. -/
theorem falseGuardsSkip : Obligations.FalseGuardsSkip := by
  unfold Obligations.FalseGuardsSkip
  intro i w s v x p tid th he hf hp hd hth hg hfalse c
  have halways : i.guard ≠ ⟨false, 7⟩ := by
    intro h
    rw [h] at hfalse
    cases hfalse
  obtain ⟨chk, marks, serve, hchk, hx⟩ := executes_of_encode he halways s
  constructor
  · intro hw
    rw [hx, withPass_skips hf hp hd hth hg hfalse (((hchk _ _).trans (wordCheck_tid i v _ tid).symm).trans hw), ← PassSt.close_tid _ _ tid]
  · intro code hw
    rw [hx, withPass_checkFails hf hp hg (((hchk _ _).trans (wordCheck_tid i v _ tid).symm).trans hw), ← PassSt.close_tid _ _ tid]

end Sys2Proof.Machine
end

section
/-! SUPPORT. Branches, exits and loop levels (O16, O17), and the channel instructions (O13), as a pass of one thread executes them. -/
namespace Sys2Proof.Machine

section
variable {s : State} {g : Guard} {c : Ctx} {v : SetState} (h : s.solo? g = some (c, v))
include h

/-! ### Branches and exits (R346, R347) -/

/-- An instruction that takes no operand, at home in some block modes and in every set, whose service goes on. -/
theorem withPass_ok {chk : SetState → Ctx → Option (BitVec 8)} {marks : List Mark} {serve : Ctx → State → Serve} {s1 : State} {m : Option Member}
    (hc : chk v { c with tid := 0 } = none) (hk : serve c s = .ok s1 m) : withPass s g chk marks serve = .next (passDone c s1 m marks) := by
  rw [withPass_solo h hc, hk]

omit h in
/-- An instruction at home in every set is legal in its block modes. -/
theorem chkType_mode {modes : List BlockMode} {tid : Nat} (hm : c.mode ∈ modes) : chkType allTypes modes v { c with tid := tid } = none := by
  rw [chkType_allTypes]
  simp [hm]

omit h in
theorem chkType_thread (hm : c.mode = .thread) : chkType allTypes [.thread] v { c with tid := 0 } = none := chkType_mode (by simp [hm])

theorem execBr_branches {tgt : BitVec 12} (hm : c.mode = .thread) (hb : chkBlocks [tgt] v c = none) :
    exec (.br g tgt) s = .next (passDone c (s.setNext c tgt) none []) :=
  have hblocks : chkBlocks [tgt] v { c with tid := 0 } = none := hb
  withPass_ok h ((chkAll_next hblocks).trans (chkAll_next (chkType_thread hm))) rfl

theorem execBrC_branches {cond : Opd} {tgt other : BitVec 12} {x : Double} (hm : c.mode = .thread) (hb : chkBlocks [tgt, other] v c = none)
    (hr : readyOperands c s v [wOpd cond] none = some [x]) :
    exec (.brC g cond tgt other) s = .next (actDone c v [wOpd cond] (s.setNext c (if loWord x = 1 then tgt else other)) none []) := by
  have hblocks : chkBlocks [tgt, other] v { c with tid := 0 } = none := hb
  refine withPass_acts h ((chkAll_next hblocks).trans (chkAll_next (chkType_thread hm))) hr ?_
  exact congrArg (fun b : BitVec 12 => Serve.ok (s.setNext c b) none) (if_congr beq_iff_eq rfl rfl)

/-- A thread without return groups exits, or the anchor waits for its queue, or abandons it. -/
theorem serveExit_of_groupsOf (abandon : Bool) : serveExit abandon c s =
    if c.tid ≠ 0 then .gone (s.retire c.tile c.set c.tid)
    else if abandon then .gone ((s.putSet c.tile c.set { v.unqueue (fun x => x.at' != .queued) s.tick with
      abandoned := BitVec.ofNat 5 (v.queue.filter (fun x => x.at' == .queued)).length }).retire c.tile c.set 0)
    else if (v.queue.filter (fun x => x.at' == .queued)) ≠ [] then .park s .exitQueue
    else .gone (s.retire c.tile c.set 0) := by
  obtain ⟨w, p, th, -, -, -, -, hg, -, -, -, hs⟩ := State.solo?_spec h
  simp only [serveExit, hs, hg, List.isEmpty_nil, Bool.not_true, Bool.false_eq_true, if_false, bne_iff_ne, ne_eq, Bool.not_eq_true',
    List.isEmpty_eq_false_iff]

theorem execExit_exits : exec (.exit g) s = .next (if c.tid = 0 ∧ v.queue.filter (fun x => x.at' == .queued) ≠ [] then
    passLeft c (s.parkAt c c.idx c.loops .exitQueue) else passGone c (s.retire c.tile c.set c.tid)) := by
  refine (withPass_solo (chk := chkNone) h rfl).trans (congrArg Host.Outcome.next ?_)
  rw [serveExit_of_groupsOf h]
  by_cases ht : c.tid = 0
  · by_cases hq : v.queue.filter (fun x => x.at' == .queued) = []
    · simp [ht, hq]
      rfl
    · simp [ht, hq]
      rfl
  · simp [ht]
    rfl

theorem execExitAbandon_exits : exec (.exitAbandon g) s = .next (passGone c (if c.tid = 0 then
    (s.putSet c.tile c.set { v.unqueue (fun x => x.at' != .queued) s.tick with
      abandoned := BitVec.ofNat 5 (v.queue.filter (fun x => x.at' == .queued)).length }).retire c.tile c.set 0
    else s.retire c.tile c.set c.tid)) := by
  refine (withPass_solo (chk := chkNone) h rfl).trans (congrArg Host.Outcome.next ?_)
  rw [serveExit_of_groupsOf h]
  by_cases ht : c.tid = 0 <;> simp [ht] <;> rfl

end

/-- Settles O16: each by its service of the pass's one thread. -/
theorem branchAndExitResults : Obligations.BranchAndExitResults := by
  unfold Obligations.BranchAndExitResults
  refine ⟨?_, ?_, ?_⟩
  · intro s c v g tgt h hm hb
    exact execBr_branches h hm hb
  · intro s c v g cond tgt other x h hm hb hr
    exact execBrC_branches h hm hb hr
  · intro s c v g h queued stays
    exact ⟨execExit_exits h, execExitAbandon_exits h⟩

/-! ### Loops (R348, R349) -/

section
variable {l : Loops} {n i : Nat}

theorem Loops.level_quiet (h : (l.get n).c = 0 ∨ (l.get n).e ≠ i) : l.level n i = (l, none) := by
  simp [Loops.level, h]

theorem Loops.level_jumps (hc : 1 < (l.get n).c) (he : (l.get n).e = i) :
    l.level n i = (l.put n { l.get n with c := (l.get n).c - 1 }, some (l.get n).s) := by
  unfold Loops.level
  rw [if_neg (by omega), if_pos hc]

theorem Loops.level_ends (hc : (l.get n).c = 1) (he : (l.get n).e = i) : l.level n i = (l.put n { l.get n with c := 0 }, none) := by
  unfold Loops.level
  rw [if_neg (by omega), if_neg (by omega)]

theorem Loops.get_put_same (hn : n < 4) (r : LoopReg) : (l.put n r).get n = r := by
  match n, hn with
  | 0, _ | 1, _ | 2, _ | 3, _ => rfl

theorem Loops.get_put_other {m : Nat} (hn : n < 4) (hm : m < 4) (hne : m ≠ n) (r : LoopReg) : (l.put n r).get m = l.get m := by
  match n, hn, m, hm with
  | 0, _, 0, _ | 1, _, 1, _ | 2, _, 2, _ | 3, _, 3, _ => exact absurd rfl hne
  | 0, _, 1, _ | 0, _, 2, _ | 0, _, 3, _ | 1, _, 0, _ | 1, _, 2, _ | 1, _, 3, _ | 2, _, 0, _ | 2, _, 1, _ | 2, _, 3, _ | 3, _, 0, _ | 3, _, 1, _ |
    3, _, 2, _ => rfl

/-- Levels `k - 1` down to 0 in turn, until one jumps. -/
def Loops.down (l : Loops) (i : Nat) : Nat → Loops × Nat
  | 0 => (l, i + 1)
  | k + 1 => match l.level k i with
    | (l, some j) => (l, j)
    | (l, none) => l.down i k

theorem Loops.after_eq_down (l : Loops) (i : Nat) : l.after i = l.down i 4 := rfl

theorem Loops.down_quiet {k : Nat} (h : (l.get k).c = 0 ∨ (l.get k).e ≠ i) : l.down i (k + 1) = l.down i k := by
  rw [Loops.down, Loops.level_quiet h]

/-- Levels that are not at their end pass on to the ones below. -/
theorem Loops.down_skips {k : Nat} (hnk : n ≤ k) (h : ∀ m, n ≤ m → m < k → (l.get m).c = 0 ∨ (l.get m).e ≠ i) : l.down i k = l.down i n := by
  induction k, hnk using Nat.le_induction with
  | base => rfl
  | succ k hk ih => rw [Loops.down_quiet (h k hk (by omega)), ih (fun m h1 h2 => h m h1 (by omega))]

theorem Loops.after_jumps (hn : n < 4) (hq : ∀ m, n < m → m < 4 → (l.get m).c = 0 ∨ (l.get m).e ≠ i) (hc : 1 < (l.get n).c) (he : (l.get n).e = i) :
    l.after i = (l.put n { l.get n with c := (l.get n).c - 1 }, (l.get n).s) := by
  rw [Loops.after_eq_down, Loops.down_skips hn hq, Loops.down, Loops.level_jumps hc he]

theorem Loops.after_ends (hn : n < 4) (hq : ∀ m, n < m → m < 4 → (l.get m).c = 0 ∨ (l.get m).e ≠ i) (hc : (l.get n).c = 1) (he : (l.get n).e = i) :
    l.after i = (l.put n { l.get n with c := 0 }).after i := by
  have hbelow : ∀ m, n ≤ m → m < 4 → ((l.put n { l.get n with c := 0 }).get m).c = 0 ∨ ((l.put n { l.get n with c := 0 }).get m).e ≠ i := by
    intro m hnm hm
    rcases hnm.eq_or_lt with rfl | hlt
    · exact .inl (congrArg LoopReg.c (Loops.get_put_same hm _))
    · rw [Loops.get_put_other hn hm (by omega)]
      exact hq m hlt hm
  rw [Loops.after_eq_down, Loops.after_eq_down, Loops.down_skips hn hq, Loops.down, Loops.level_ends hc he, Loops.down_skips hn.le hbelow]

theorem Loops.after_quiet (hq : ∀ m, m < 4 → (l.get m).c = 0 ∨ (l.get m).e ≠ i) : l.after i = (l, i + 1) := by
  rw [Loops.after_eq_down, Loops.down_skips (Nat.zero_le 4) (fun m _ hm => hq m hm), Loops.down]

end

section
variable {s : State} {c : Ctx} {v : SetState} {w : Sweep} {n : BitVec 2} {last : BitVec 6} (h : s.solo? ⟨false, 7⟩ = some (c, v))
  (hw : v.sweep = some w) (hc : chkLoop last v c = none) (hp : (w.passes.take w.cur).all (fun p => p.tids.isEmpty) = true)
include h hw hc hp

/-- A loop instruction that issues to the first remaining pass sets its level once its service is done. -/
theorem loopExec_sets {count : Ctx → Nat} {serve : Ctx → State → Serve} (hk : serve c s = .ok s none) (hcount : count { c with tid := 0 } = count c) :
    loopExec n last count serve s = .next ((passDone c s none []).modSet c.tile c.set (fun v =>
      { v with sweep := v.sweep.map (fun x => x.startLoop n (count c) last.toNat) })) := by
  obtain ⟨w', p, th, hf, -, -, -, -, -, -, hctx, -⟩ := State.solo?_spec h
  have hw' : w' = w := by
    unfold State.focus? at hf
    split at hf
    · cases hf
    · split at hf
      · cases hf
      · split at hf
        · cases hf
        · cases hf
          simp_all
  subst hw'
  have hpass : withPass s ⟨false, 7⟩ (chkLoop last) [] serve = .next (passDone c s none []) := withPass_ok h hc hk
  have hchk : chkLoop last v { c with tid := 0 } = none := hc
  have ht : s.focusTile = c.tile := (congrArg Ctx.tile hctx).symm
  have ho : s.focusSet = c.set := (congrArg Ctx.set hctx).symm
  simp only [loopExec, hf, hpass, hp, ← hctx, hchk, hcount, ht, ho, Option.isNone_none, Bool.and_self, if_true]

/-- What a loop instruction leaves in its sweep. -/
def State.startLoop (s : State) (c : Ctx) (n : BitVec 2) (count last : Nat) : State :=
  s.modSet c.tile c.set (fun v => { v with sweep := v.sweep.map (fun x => x.startLoop n count last) })

theorem execLoop_sets (count : BitVec 19) :
    exec (.loop n count last) s = .next ((passDone c s none []).startLoop c n count.toNat last.toNat) :=
  loopExec_sets (count := fun _ => count.toNat) (serve := fun _ s => .ok s none) h hw hc hp rfl rfl

/-- loop.r has its register ready: no group marks it, and no poison is in it. -/
theorem execLoopR_sets (st : BitVec 4) : exec (.loopR n st last) s =
    .next ((passDone c s none []).startLoop c n ((c.s st.toNat).extractLsb' 0 32).toNat last.toNat) := by
  have hready : readyOperands c s v [wOpd (.s st)] none = some [readOpd c s false (.s st)] := rfl
  have hserve : acts1 c s (.s st) (fun s _ => .ok s none) = .ok s none := serveActs_ready h hready rfl
  exact loopExec_sets (count := fun c => ((c.s st.toNat).extractLsb' 0 32).toNat) (serve := fun c s => acts1 c s (.s st) (fun s _ => .ok s none))
    h hw hc hp hserve rfl

end

/-- Settles O17: the level that a loop instruction sets, and the levels that an instruction passes, from 3 down. -/
theorem loopResults : Obligations.LoopResults := by
  unfold Obligations.LoopResults
  refine ⟨?_, ?_, ?_, ?_⟩
  · intro s c v w n last h hw hc hp set
    exact ⟨execLoop_sets h hw hc hp, execLoopR_sets h hw hc hp⟩
  · intro l n i hn hq hcount he
    exact Loops.after_jumps hn hq hcount he
  · intro l n i hn hq hcount he
    exact Loops.after_ends hn hq hcount he
  · intro l i hq
    exact Loops.after_quiet hq

end Sys2Proof.Machine

namespace Sys2Proof.Machine

section
variable {s : State} {g : Guard} {c : Ctx} {v : SetState} (h : s.solo? g = some (c, v))
include h

/-! ### ch.push (R352) -/

theorem execChPush_pushes {tag : BitVec 3} {rel : Bool} {n : BitVec 3} {a : Opd} {x : Double}
    (hr : readyOperands c s v [wOpd a] (some (wOpd (.ch n))) = some [x]) :
    exec (.chPush g tag rel n a) s = .next (actDone c v [wOpd a] (s.pushFrom (s.firingOf c.tile c.set c.blk) c.tile (v.ent.chOut n)
      ⟨tag, x.extractLsb' 0 32, if rel = true ∧ s.linkEnd c.tile (v.ent.chOut n) = false then
        s.known c.tile c.set c.tid 0xFFFF (s.pairLevel c.tile (v.ent.chOut n)) else []⟩) none []) := by
  obtain ⟨w, p, th, -, -, -, -, -, -, -, -, hs⟩ := State.solo?_spec h
  have hends : chkEnds [a] [.ch n] v { c with tid := 0 } = none := chkEnds_of_ready hr (fun _ ho => ho) (fun _ ho => ho)
  refine withPass_acts (k := fun c s vs => match s.set? c.tile c.set with
    | none => .gone s
    | some v => _) h hends hr ?_
  simp only [hs, Bool.and_eq_true, Bool.not_eq_true', List.headD_cons]

/-! ### ch.pop, ch.peek, ch.tag (R352, R353) -/

section
variable {d : Opd} {n : BitVec 3} {k : Token} (hr : readyOperands c s v [] (some (wOpd d)) = some []) (he : v.ent.chIn n ≠ 255)
  (hk : s.headAt c.tile (v.ent.chIn n) = some k) (hbad : k.badCtl = false)
include hr he hk hbad

omit h hk hbad in
theorem chkEnds_head : chkEnds [.ch n] [d] v { c with tid := 0 } = none := by
  have hd : chkEnds [] [d] v { c with tid := 0 } = none := chkEnds_of_ready hr (fun _ ho => ho) (fun _ ho => ho)
  unfold chkEnds at hd ⊢
  simp_all [Opd.inEnd]

omit he in
/-- A read of a head that is not refused gives its value, and pops and acquires as it says. -/
theorem serveHead_reads {r : HeadRead} (hbound : r.pops = true → s.boundByCube c.tile c.set v.ent true (v.ent.chIn n) = false)
    (hself : r.pops = true → k.isCtl = true → v.selfHandled (v.ent.chIn n) = true) (htag : r.tag = none ∨ r.tag = some k.tag) :
    let s1 := if r.pops then s.popAt c.tile (v.ent.chIn n) else s
    serveHead r d n c s = .ok (writeOpd c (if r.pops && k.isDrn then s1.acquireSet c.tile c.set k.rel
      else if r.acq then s1.acquire c.tile c.set c.tid k.rel else s1) false 0 d ((r.val k).setWidth 64)) none := by
  intro s1
  obtain ⟨w, p, th, -, -, -, -, -, -, -, -, hs⟩ := State.solo?_spec h
  have hfree : (r.pops && s.boundByCube c.tile c.set v.ent true (v.ent.chIn n)) = false := by
    cases hp : r.pops
    · rfl
    · exact hbound hp
  have htaken : (k.badCtl || (k.isCtl && r.pops && !v.selfHandled (v.ent.chIn n)) || r.tag.any (fun g => g != k.tag)) = false := by
    have h1 : (k.isCtl && r.pops && !v.selfHandled (v.ent.chIn n)) = false := by
      cases hp : r.pops <;> cases hc : k.isCtl <;> simp_all
    have h2 : r.tag.any (fun g => g != k.tag) = false := by
      rcases htag with ht | ht <;> simp [ht]
    rw [hbad, h1, h2]
    rfl
  simp only [serveHead, hs, hfree, Bool.false_eq_true, if_false]
  refine (serveActs_ready h hr ?_).trans (congrArg (fun t => Serve.ok t none) (State.takeOperands_nil rfl))
  simp only [hk, htaken, Bool.false_eq_true, if_false]
  rfl

theorem execChTag_reads : exec (.chTag g d n) s = .next (passDone c (writeOpd c s false 0 d ((k.tag.setWidth 32 : Word).setWidth 64)) none []) :=
  withPass_ok h (chkEnds_head hr he)
    (serveHead_reads (r := { tag := none, pops := false, val := fun k => k.tag.setWidth 32 }) h hr hk hbad
      (fun hp => nomatch hp) (fun hp => nomatch hp) (.inl rfl))

theorem execChPeek_reads {want : Option (BitVec 3)} (hw : want = none ∨ want = some k.tag) :
    exec (.chPeek g want d n) s = .next (passDone c (writeOpd c s false 0 d (k.val.setWidth 64)) none []) :=
  withPass_ok h (chkEnds_head hr he)
    (serveHead_reads (r := { tag := want, pops := false, val := Token.val }) h hr hk hbad (fun hp => nomatch hp) (fun hp => nomatch hp) hw)

theorem execChPop_pops {want : Option (BitVec 3)} {acq : Bool} (hw : want = none ∨ want = some k.tag)
    (hb : s.boundByCube c.tile c.set v.ent true (v.ent.chIn n) = false) (hself : k.isCtl = true → v.selfHandled (v.ent.chIn n) = true) :
    let s1 := s.popAt c.tile (v.ent.chIn n)
    exec (.chPop g want acq d n) s = .next (passDone c (writeOpd c (if k.isDrn then s1.acquireSet c.tile c.set k.rel
      else if acq then s1.acquire c.tile c.set c.tid k.rel else s1) false 0 d (k.val.setWidth 64)) none []) :=
  withPass_ok h (chkEnds_head hr he)
    (serveHead_reads (r := ⟨want, true, Token.val, acq⟩) h hr hk hbad (fun _ => hb) (fun _ => hself) hw)

end

/-! ### ch.ctl (R354) -/

/-- The sources of a control token: its argument, where its subtype carries one. -/
def ctlSrcs (sub : CtlSub) (a : Opd) : List Operand := if sub = .eos ∨ sub = .drn then [] else [wOpd a]

section
variable {sub : CtlSub} {dst : ChName} {a : Opd} {vals : List Double} (hm : c.mode = .token)
  (hr : readyOperands c s v (ctlSrcs sub a) (some (wOpd (chNameOpd dst))) = some vals)
include hm hr

omit h in
theorem chkAll_ctl : chkAll [chkEnds ((ctlSrcs sub a).map Operand.o) [chNameOpd dst], chkType allTypes [.token]] v { c with tid := 0 } = none :=
  (chkAll_next (chkEnds_of_ready hr (fun _ ho => ho) (fun _ ho => ho))).trans (chkAll_next (chkType_mode (by simp [hm])))

omit h hm hr in
theorem execChCtl_eq : exec (.chCtl g sub dst a) s = withPass s g (chkAll [chkEnds ((ctlSrcs sub a).map Operand.o) [chNameOpd dst],
    chkType allTypes [.token]]) [] (serveCtl sub dst a) := by
  cases sub <;> rfl

/-- The argument of a control token: none on a predicate channel. -/
def ctlArg (dst : ChName) (vals : List Double) : BitVec 24 :=
  match dst with
  | .pc _ => 0
  | .ch _ => (vals.headD 0).extractLsb' 0 24

/-- A subtype that its end has carried is not pushed again. -/
theorem execChCtl_carried (hc : v.carried sub (((chNameOpd dst).outEnd v.ent).getD 255) = true) :
    exec (.chCtl g sub dst a) s = .next (passDone c s none []) := by
  obtain ⟨w, p, th, -, -, -, -, -, -, -, -, hs⟩ := State.solo?_spec h
  have hserve : serveCtl sub dst a c s = .ok s none := by
    simp only [serveCtl, hs, hc, if_true]
  rw [execChCtl_eq]
  exact withPass_ok h (chkAll_ctl hm hr) hserve

theorem execChCtl_pushes (hc : v.carried sub (((chNameOpd dst).outEnd v.ent).getD 255) = false) :
    exec (.chCtl g sub dst a) s = .next (actDone c v (ctlSrcs sub a) ((s.pushFrom (s.firingOf c.tile c.set c.blk) c.tile
      (((chNameOpd dst).outEnd v.ent).getD 255) (ctlToken (ctlCode sub) (ctlArg dst vals))).modSet c.tile c.set
        (fun w => w.noteCtl sub (((chNameOpd dst).outEnd v.ent).getD 255))) none []) := by
  obtain ⟨w, p, th, -, -, -, -, -, -, -, -, hs⟩ := State.solo?_spec h
  have hserve : serveCtl sub dst a c s = .ok (((s.pushFrom (s.firingOf c.tile c.set c.blk) c.tile
      (((chNameOpd dst).outEnd v.ent).getD 255) (ctlToken (ctlCode sub) (ctlArg dst vals))).modSet c.tile c.set
        (fun w => w.noteCtl sub (((chNameOpd dst).outEnd v.ent).getD 255))).takeOperands c v (ctlSrcs sub a)) none := by
    have hact := serveActs_ready (k := fun s vs => .ok ((s.pushFrom (s.firingOf c.tile c.set c.blk) c.tile
      (((chNameOpd dst).outEnd v.ent).getD 255) (ctlToken (ctlCode sub) (ctlArg dst vs))).modSet c.tile c.set
        (fun w => w.noteCtl sub (((chNameOpd dst).outEnd v.ent).getD 255))) none) h hr rfl
    simp only [serveCtl, hs, hc, Bool.false_eq_true, if_false]
    refine Eq.trans ?_ hact
    cases sub <;> rfl
  rw [execChCtl_eq]
  exact withPass_ok h (chkAll_ctl hm hr) hserve

end
end

/-- Settles O13: each by its service of the pass's one thread, with its operands ready. -/
theorem channelInstructionResults : Obligations.ChannelInstructionResults := by
  unfold Obligations.ChannelInstructionResults
  refine ⟨?_, ?_, ?_⟩
  · intro s c v g tag rel n a x h hr
    exact execChPush_pushes h hr
  · intro s c v g want acq d n k e h hr he hk hbad got
    refine ⟨execChTag_reads h hr he hk hbad, fun hw => ⟨execChPeek_reads h hr he hk hbad hw, fun hb hself => ?_⟩⟩
    exact execChPop_pops h hr he hk hbad hw hb hself
  · intro s c v g sub dst a vals d e srcs h hm hr
    cases hc : v.carried sub e
    · exact execChCtl_pushes h hm hr hc
    · exact execChCtl_carried h hm hr hc

end Sys2Proof.Machine
end

section
/-! SUPPORT. Routes and loop generators (O14, O15), moves of the accumulator store (O19), register accesses (O20), trap blocks (O21), cfg.sel, mark and perf.rd (O22), as a pass of one thread executes them. -/
namespace Sys2Proof.Machine

/-! ### What a change of a set leaves of its tile's channels, cube and region -/

/-- A listed value that is replaced keeps its place. -/
theorem SMap.map_insert_listed {α β : Type} {m : SMap α} {n : Nat} {w : α} (h : m.look n = some w) {v : α} (g : α → β) (hg : g v = g w) :
    (m.insert n v).map (fun p => g p.2) = m.map (fun p => g p.2) := by
  induction m with
  | nil => cases h
  | cons x m ih =>
    obtain ⟨a, b⟩ := x
    simp only [SMap.look] at h
    split at h
    · next e =>
      cases h
      simp [SMap.insert, e, hg]
    · split at h
      · cases h
      · next h1 h2 => simp [SMap.insert, h1, h2, ih h]

section
variable (s : State) (t o : Nat) (f : SetState → SetState)

theorem State.inChan_modSet (u e : Nat) : (s.modSet t o f).inChan u e = s.inChan u e := by
  by_cases hu : u = t
  · subst hu
    cases hs : s.set? u o with
    | none => rw [State.modSet_absent hs]
    | some v =>
      obtain ⟨p, hp, -, he⟩ := State.modSet_eq hs f
      simp only [State.inChan, he, State.tile_insert_same, hp, Plane.putSet]
  · simp only [State.inChan, State.tile_modSet_other hu, State.modSet_chans]

theorem State.outChan_modSet (u e : Nat) : (s.modSet t o f).outChan u e = s.outChan u e := by
  by_cases hu : u = t
  · subst hu
    cases hs : s.set? u o with
    | none => rw [State.modSet_absent hs]
    | some v =>
      obtain ⟨p, hp, -, he⟩ := State.modSet_eq hs f
      simp only [State.outChan, he, State.tile_insert_same, hp, Plane.putSet]
  · simp only [State.outChan, State.tile_modSet_other hu, State.modSet_chans]

theorem State.cube_modSet (u : Nat) : ((s.modSet t o f).tile u).cube = (s.tile u).cube := by
  by_cases hu : u = t
  · subst hu
    obtain ⟨p, hp⟩ := s.tile_modSet_same u o f
    rw [hp]
  · rw [State.tile_modSet_other hu]

theorem State.anyBound_modSet (c : Ctx) (v : SetState) (srcs dsts : List Opd) : (s.modSet t o f).anyBound c v srcs dsts = s.anyBound c v srcs dsts := by
  have hb : (s.modSet t o f).boundByCube = s.boundByCube := by
    funext u k e isIn n
    simp only [State.boundByCube, State.cube_modSet]
  simp only [State.anyBound, hb]

/-- A change of a set that leaves its registers alone. -/
theorem State.setsOf_regs_modSet (hf : ∀ v, (f v).regs = v.regs) (u : Nat) :
    ((s.modSet t o f).setsOf u).map (fun p => p.2.regs) = (s.setsOf u).map (fun p => p.2.regs) := by
  by_cases hu : u = t
  · subst hu
    cases hs : s.set? u o with
    | none => rw [State.modSet_absent hs]
    | some v =>
      obtain ⟨p, hp, hv, he⟩ := State.modSet_eq hs f
      simp only [State.setsOf, he, State.tile_insert_same, hp, Plane.putSet]
      exact SMap.map_insert_listed hv SetState.regs (hf v)
  · simp only [State.setsOf, State.tile_modSet_other hu]

theorem State.regionRegs_eq : s.regionRegs t = (s.regionOf t).bind (fun r => ((s.regionSets r).map (fun x => x.2.2.regs)).head?) := by
  unfold State.regionRegs
  cases s.regionOf t with
  | none => rfl
  | some r =>
    simp only [Option.bind_some]
    cases s.regionSets r with
    | nil => rfl
    | cons x l => rfl

theorem State.rplMode_modSet (hf : ∀ v, (f v).regs = v.regs) (u : Nat) : (s.modSet t o f).rplMode u = s.rplMode u := by
  have hof : (s.modSet t o f).regionOf u = s.regionOf u := by simp only [State.regionOf, State.modSet_regions]
  have hreg : (s.modSet t o f).region? = s.region? := by
    funext r
    simp only [State.region?, State.modSet_regions]
  have hsets (r : Nat) : ((s.modSet t o f).regionSets r).map (fun x => x.2.2.regs) = (s.regionSets r).map (fun x => x.2.2.regs) := by
    simp only [State.regionSets, hreg]
    cases s.region? r with
    | none => rfl
    | some x =>
      simp only [List.map_flatMap, List.map_map, Function.comp_def]
      exact List.flatMap_congr (fun k _ => s.setsOf_regs_modSet t o f hf k)
  have hregs : (s.modSet t o f).regionRegs u = s.regionRegs u := by
    simp only [State.regionRegs_eq, hof, hsets]
  have hobserve : (s.modSet t o f).dbgObserve = s.dbgObserve := by simp only [State.dbgObserve, State.modSet_cfg]
  have hcontrol : (s.modSet t o f).dbgControl = s.dbgControl := by simp only [State.dbgControl, State.modSet_cfg]
  unfold State.rplMode
  rw [hregs, hof, hreg, hobserve, hcontrol]

/-- A route from a channel looks at no set's state but that of the ends. -/
theorem routeReady_modSet (c : Ctx) (v : SetState) (ty : Ty) (used : List Nat) (n : BitVec 3) (dst : Opd) :
    routeReady c (s.modSet t o f) v ty used (.ch n) dst = routeReady c s v ty used (.ch n) dst := by
  have hin : (s.modSet t o f).inChan c.tile = s.inChan c.tile := funext (s.inChan_modSet t o f c.tile)
  have hout : (s.modSet t o f).outChan c.tile = s.outChan c.tile := funext (s.outChan_modSet t o f c.tile)
  have hroom : (s.modSet t o f).roomAt c.tile = s.roomAt c.tile := by
    funext e
    simp only [State.roomAt, hout]
  have hfmtOut : (s.modSet t o f).fmtOut c.tile = s.fmtOut c.tile := by
    funext e
    simp only [State.fmtOut, hout]
  have hfmtIn : (s.modSet t o f).fmtIn c.tile = s.fmtIn c.tile := by
    funext e
    simp only [State.fmtIn, hin]
  have hpop : (s.modSet t o f).popToken c.tile = s.popToken c.tile := by
    funext used e
    simp only [State.popToken, State.tokenAt, hin]
  simp only [routeReady, hroom, hfmtOut, hfmtIn, hpop, Opd.inEnd]
  rfl

end

/-! ### Routes (R356, R357) -/

section
variable {s : State} {c : Ctx} {v : SetState} {ty : Ty} {used : List Nat} {src dst : Opd} {x : Double}

/-- A route that is ready is made. -/
theorem routeValue_ready (hb : s.anyBound c v [src] [dst] = false) (hr : routeReady c s v ty used src dst = some x) :
    routeValue c s v ty used src dst =
      .ok (writeOpd c ((used ++ (src.inEnd v.ent).toList).foldl (fun s e => s.popAt c.tile e) s) false ty.tag dst x) none := by
  unfold routeReady at hr
  obtain ⟨hn, hr⟩ := Option.ite_none_left_eq_some.1 hr
  simp only [Bool.or_eq_true, Bool.not_eq_true', not_or, Bool.not_eq_false, Bool.not_eq_true, Option.isSome_eq_false_iff,
    Option.isNone_iff_eq_none] at hn
  obtain ⟨hroom, hpoison⟩ := hn
  have hfull : (dst.outEnd v.ent).any (fun e => s.roomAt c.tile e == 0) = false ∧
      (dst.outEnd v.ent).any (fun e => ty.tag == 3 && ty.fmt.isSome && s.fmtOut c.tile e != ty.fmt) = false := by
    cases hd : dst.outEnd v.ent with
    | none => exact ⟨rfl, rfl⟩
    | some e =>
      rw [hd, Option.all_some, Bool.and_eq_true, bne_iff_ne, Bool.not_eq_true'] at hroom
      exact ⟨beq_eq_false_iff_ne.2 hroom.1, hroom.2⟩
  obtain ⟨hfull, hfmt⟩ := hfull
  cases hi : src.inEnd v.ent with
  | none =>
    have hval : readOpd c s false src = x := by simpa only [hi, Option.some.injEq] using hr
    simp only [routeValue, hb, hi, hfull, hfmt, hpoison, hval, Option.isSome_none, Option.bind_none, Option.any_none, Bool.false_and, Bool.or_self,
      Bool.false_eq_true, if_false]
  | some e =>
    simp only [hi] at hr
    cases hk : s.popToken c.tile used e with
    | none =>
      rw [hk] at hr
      cases hr
    | some k =>
      rw [hk] at hr
      obtain ⟨hok, hval⟩ := Option.ite_none_left_eq_some.1 hr
      simp only [Bool.or_eq_true, not_or, Bool.not_eq_true] at hok
      obtain ⟨hctl, hother⟩ := hok
      have hval : k.val.setWidth 64 = x := Option.some.inj hval
      simp only [routeValue, hb, hi, hfull, hfmt, hpoison, Option.bind_some, hk, Option.any_some, hctl, hval, Bool.not_false,
        Bool.not_true, Bool.and_false, Bool.or_false, Bool.false_eq_true, if_false]
      exact if_neg (Bool.eq_false_iff.1 hother)

end

section
variable {s : State} {g : Guard} {c : Ctx} {v : SetState} {ty : Ty} (h : s.solo? g = some (c, v))
include h

/-- A steer or merge whose predicate is there makes the route that it picks. -/
theorem serveRoute_picks {inv b : Bool} {p : Opd} {srcs dsts : List Opd} {pick : Bool → Opd × Opd} {used : List Nat}
    (hp : predBit c s v p = some (b, used)) :
    serveRoute inv ty p srcs dsts pick c s = routeValue c s v ty used (pick (b != inv)).1 (pick (b != inv)).2 := by
  obtain ⟨w, q, th, -, -, -, -, hg, hsh, -, -, hs⟩ := State.solo?_spec h
  unfold predBit at hp
  cases hi : p.inEnd v.ent with
  | none =>
    simp only [hi, Option.some.injEq, Prod.mk.injEq] at hp
    obtain ⟨rfl, rfl⟩ := hp
    simp only [serveRoute, hs, SetState.pendingOn_of_groupsOf hg hsh, hi, List.isEmpty_nil, Bool.not_true, Bool.false_eq_true, if_false]
  | some e =>
    simp only [hi] at hp
    cases hk : s.headAt c.tile e with
    | none =>
      rw [hk] at hp
      cases hp
    | some k =>
      rw [hk] at hp
      obtain ⟨hctl, hp⟩ := Option.ite_none_left_eq_some.1 hp
      simp only [Option.some.injEq, Prod.mk.injEq] at hp
      obtain ⟨rfl, rfl⟩ := hp
      simp only [serveRoute, hs, SetState.pendingOn_of_groupsOf hg hsh, hi, hk, hctl, List.isEmpty_nil, Bool.not_true, Bool.false_eq_true,
        if_false]

/-- A service that comes down to a route that is ready. -/
theorem withPass_routes {chk : SetState → Ctx → Option (BitVec 8)} {serve : Ctx → State → Serve} {used : List Nat} {src dst : Opd} {x : Double}
    (hc : chk v { c with tid := 0 } = none) (hserve : serve c s = routeValue c s v ty used src dst) (hb : s.anyBound c v [src] [dst] = false)
    (hr : routeReady c s v ty used src dst = some x) : withPass s g chk [] serve = .next (routeDone c s v ty used src dst x) :=
  withPass_ok h hc (hserve.trans (routeValue_ready hb hr))

theorem execSteer_routes {inv b : Bool} {d a p f : Opd} {used : List Nat} {x : Double} (hc : chkEnds [a, p] [d, f] v c = none)
    (hb : s.anyBound c v [a] [if b != inv then d else f] = false) (hp : predBit c s v p = some (b, used))
    (hr : routeReady c s v ty used a (if b != inv then d else f) = some x) :
    exec (.steer g inv ty d a p f) s = .next (routeDone c s v ty used a (if b != inv then d else f) x) :=
  withPass_routes (chk := chkEnds [a, p] [d, f]) h hc (serveRoute_picks h hp) hb hr

theorem execMerge_routes {inv q : Bool} {d a b p : Opd} {used : List Nat} {x : Double} (hc : chkEnds [a, b, p] [d] v c = none)
    (hb : s.anyBound c v [if q != inv then a else b] [d] = false) (hp : predBit c s v p = some (q, used))
    (hr : routeReady c s v ty used (if q != inv then a else b) d = some x) :
    exec (.merge g inv ty d a b p) s = .next (routeDone c s v ty used (if q != inv then a else b) d x) :=
  withPass_routes (chk := chkEnds [a, b, p] [d]) h hc (serveRoute_picks h hp) hb hr

/-! ### Any-merge (R359) -/

/-- The set notes the input that its any-merge took last. -/
def State.tookInput (s : State) (c : Ctx) (k : Nat) : State :=
  s.modSet c.tile c.set (fun v => { v with amLast := v.amLast.insert (c.blk * 64 + c.idx) k })

/-- Without a replay mode, an any-merge takes the first input with data in the cyclic order after the one taken last. -/
theorem serveAmerge_takes {d : Opd} {ins : List (BitVec 3)} {k : Nat} {x : Double} (hb : s.anyBound c v [.ch (ins.getD k 0)] [d] = false)
    (hoff : s.rplMode c.tile = .off)
    (hk : (cyclicAfter ins.length (v.amLast.look (c.blk * 64 + c.idx))).find? (fun i =>
      s.needMet c.tile (.data ((ins.map v.ent.chIn).getD i 255))) = some k)
    (hr : routeReady c s v ty [] (.ch (ins.getD k 0)) d = some x) :
    serveAmerge ty d ins c s = routeValue c (s.tookInput c k) v ty [] (.ch (ins.getD k 0)) d := by
  obtain ⟨w, q, th, -, -, -, -, hg, hsh, -, -, hs⟩ := State.solo?_spec h
  have hout : s.anyBound c v [] [d] = false := by
    simp only [State.anyBound, Bool.or_eq_false_iff] at hb ⊢
    exact ⟨rfl, hb.2⟩
  have hmode : (s.tookInput c k).rplMode c.tile = .off := (s.rplMode_modSet c.tile c.set
    (fun v => { v with amLast := v.amLast.insert (c.blk * 64 + c.idx) k }) (fun _ => rfl) c.tile).trans hoff
  have hchoice := State.chooseAs_off hmode 1 (c.set * 4096 + c.blk) (BitVec.ofNat 64 k)
  unfold State.tookInput at hchoice ⊢
  simp only [serveAmerge, hs, SetState.pendingOn_of_groupsOf hg hsh, hout, hoff, hk, routeValue_ready hb hr, hchoice, List.isEmpty_nil,
    Bool.not_true, Bool.false_eq_true, if_false]

theorem execAmerge_routes {d : Opd} {a b : BitVec 3} {e : Option (BitVec 3)} {k : Nat} {x : Double}
    (hc : chkEnds (([a, b] ++ e.toList).map Opd.ch) [d] v c = none) (hb : s.anyBound c v [.ch (([a, b] ++ e.toList).getD k 0)] [d] = false)
    (hoff : s.rplMode c.tile = .off)
    (hk : (cyclicAfter ([a, b] ++ e.toList).length (v.amLast.look (c.blk * 64 + c.idx))).find? (fun i =>
      s.needMet c.tile (.data ((([a, b] ++ e.toList).map v.ent.chIn).getD i 255))) = some k)
    (hr : routeReady c s v ty [] (.ch (([a, b] ++ e.toList).getD k 0)) d = some x) :
    exec (.amerge g ty d a b e) s = .next (routeDone c (s.tookInput c k) v ty [] (.ch (([a, b] ++ e.toList).getD k 0)) d x) := by
  have hb' : (s.tookInput c k).anyBound c v [.ch (([a, b] ++ e.toList).getD k 0)] [d] = false := (s.anyBound_modSet ..).trans hb
  have hr' : routeReady c (s.tookInput c k) v ty [] (.ch (([a, b] ++ e.toList).getD k 0)) d = some x := (routeReady_modSet ..).trans hr
  exact withPass_ok (chk := chkEnds (([a, b] ++ e.toList).map Opd.ch) [d]) h hc
    ((serveAmerge_takes h hb hoff hk hr).trans (routeValue_ready hb' hr'))

end

/-- Settles O14: each comes down to one route that is ready, and which it is. -/
theorem routingResults : Obligations.RoutingResults := by
  unfold Obligations.RoutingResults
  refine ⟨?_, ?_, ?_⟩
  · intro s c v g inv ty d a p f b used x dst h hc hb hp hr
    exact execSteer_routes h hc hb hp hr
  · intro s c v g inv ty d a b p q used x src h hc hb hp hr
    exact execMerge_routes h hc hb hp hr
  · intro s c v g ty d a b e k x ins me src made h hc hb hoff hk hr
    exact execAmerge_routes h hc hb hoff hk hr


/-! ### The state word of a loop generator (R360) -/

section
variable (active : Bool) (rem : BitVec 31) (next bound : Word) {st : Double}

theorem lgenWord_active : (lgenWord active rem next).getLsbD 63 = active := by
  unfold lgenWord
  rw [BitVec.getLsbD_append, if_neg (by decide), BitVec.getLsbD_append, if_neg (by decide)]
  cases active <;> rfl

theorem lgenWord_rem : (lgenWord active rem next).extractLsb' 32 31 = rem := by
  unfold lgenWord
  simp (disch := decide) only [BitVec.extractLsb'_append_eq_of_le, BitVec.extractLsb'_append_eq_of_add_le]
  simp

theorem lgenWord_next : (lgenWord active rem next).extractLsb' 0 32 = next := by
  unfold lgenWord
  simp (disch := decide) only [BitVec.extractLsb'_append_eq_of_add_le]
  simp

/-- A generator that is active does not look at the bound. -/
theorem lgenFire_of_active (h : st.getLsbD 63 = true) (b : Word) : lgenFire st bound = lgenFire st b := by
  simp only [lgenFire, h, if_true]

theorem lgenFire_takes : (lgenFire st bound).takes = !st.getLsbD 63 := by
  simp only [lgenFire, apply_ite LgenFire.takes, ite_self]

theorem lgenFire_counts (h : rem ≠ 0) :
    lgenFire (lgenWord true rem next) bound = ⟨false, some next, true, lgenWord true (rem - 1) (next + 1)⟩ := by
  simp only [lgenFire, lgenWord_active, lgenWord_rem, lgenWord_next, if_true, h, if_false, Bool.not_true]

theorem lgenFire_ends : lgenFire (lgenWord true 0 next) bound = ⟨false, none, false, lgenWord false 0 next⟩ := by
  simp only [lgenFire, lgenWord_active, lgenWord_rem, lgenWord_next, if_true, Bool.not_true]

/-- The count that a bound gives. -/
theorem bound_count_of_nonpos (h : bound.toInt ≤ 0) : (if bound.toInt < 0 then 0 else bound.toNat) = 0 := by
  split
  · rfl
  · next hn =>
    have := BitVec.toInt_eq_toNat_cond bound
    split at this <;> omega

theorem bound_count_of_pos (h : 0 < bound.toInt) : BitVec.ofNat 31 (if bound.toInt < 0 then 0 else bound.toNat) = bound.extractLsb' 0 31 := by
  rw [if_neg (by omega)]
  apply BitVec.eq_of_toNat_eq
  simp

theorem extractLsb'_ne_zero_of_pos (h : 0 < bound.toInt) : bound.extractLsb' 0 31 ≠ 0 := by
  intro he
  have hz : bound.toNat % 2 ^ 31 = 0 := by simpa using congrArg BitVec.toNat he
  have := BitVec.toInt_eq_toNat_cond bound
  have hlt := bound.isLt
  split at this <;> omega

theorem lgenFire_refuses (h : bound.toInt ≤ 0) : lgenFire (lgenWord false rem next) bound = ⟨true, none, false, lgenWord false 0 0⟩ := by
  simp only [lgenFire, lgenWord_active, bound_count_of_nonpos bound h, Bool.false_eq_true, if_false, Bool.not_false]
  rfl

theorem lgenFire_starts (h : 0 < bound.toInt) :
    lgenFire (lgenWord false rem next) bound = ⟨true, some 0, true, lgenWord true (bound.extractLsb' 0 31 - 1) 1⟩ := by
  simp only [lgenFire, lgenWord_active, bound_count_of_pos bound h, extractLsb'_ne_zero_of_pos bound h, Bool.false_eq_true, if_false,
    Bool.not_false]
  rfl

end

/-- What a firing pushes: its index, where it has one and a channel takes it, then its predicate. -/
def State.pushFire (s : State) (c : Ctx) (v : SetState) (src : Option (Nat × Nat)) (d p : Option (BitVec 3)) (f : LgenFire) : State :=
  let s1 := match f.index, d with
    | some i, some n => s.pushFrom src c.tile (v.ent.chOut n) ⟨0, i, []⟩
    | _, _ => s
  match p with
  | some n => s1.pushFrom src c.tile (v.ent.pcOut n) ⟨0, if f.pred then 1 else 0, []⟩
  | none => s1

section
variable {s : State} {g : Guard} {c : Ctx} {v : SetState} {d : Option (BitVec 3)} {a : BitVec 3} {st : BitVec 4} {p : Option (BitVec 3)}
  {bound : Word} (h : s.solo? g = some (c, v))
include h

/-- One firing whose bound, if it takes one, is there, and whose pushes have room. -/
theorem serveLgen_fires
    (hb : s.anyBound c v (if (c.s st.toNat).getLsbD 63 then [] else [.ch a])
      (if (lgenFire (c.s st.toNat) bound).index.isSome then d.toList.map Opd.ch else []) = false)
    (hhead : (c.s st.toNat).getLsbD 63 = false → (s.headAt c.tile (v.ent.chIn a)).map (fun k => (k.tag, k.val)) = some (0, bound))
    (hroom : (((lgenFire (c.s st.toNat) bound).index.isNone || d.toList.all (fun n => s.roomAt c.tile (v.ent.chOut n) != 0)) &&
      p.toList.all (fun n => s.roomAt c.tile (v.ent.pcOut n) != 0)) = true) :
    serveLgen d a st p c s = .ok (((if (c.s st.toNat).getLsbD 63 then s else s.popAt c.tile (v.ent.chIn a)).pushFire c v
      (s.firingOf c.tile c.set c.blk) d p (lgenFire (c.s st.toNat) bound)).modSet c.tile c.set
        (fun v => v.putS st.toNat (lgenFire (c.s st.toNat) bound).after)) none := by
  obtain ⟨w, q, th, -, -, -, -, hg, hsh, -, -, hs⟩ := State.solo?_spec h
  obtain ⟨hin, hout⟩ := Bool.or_eq_false_iff.1 hb
  have hin : s.anyBound c v (if (!(c.s st.toNat).getLsbD 63) = true then [.ch a] else []) [] = false := by
    cases hact : (c.s st.toNat).getLsbD 63 <;> rw [hact] at hin
    · exact Bool.or_eq_false_iff.2 ⟨hin, rfl⟩
    · rfl
  have hout : s.anyBound c v [] (if (lgenFire (c.s st.toNat) bound).index.isSome then d.toList.map Opd.ch else []) = false := Bool.or_eq_false_iff.2 ⟨rfl, hout⟩
  have hdata : (!(c.s st.toNat).getLsbD 63 && !(s.headAt c.tile (v.ent.chIn a)).any (fun k => !k.isCtl)) = false := by
    cases hact : (c.s st.toNat).getLsbD 63
    · obtain ⟨k, hk, hkv⟩ := Option.map_eq_some_iff.1 (hhead hact)
      have ht : k.tag = 0 := (Prod.mk.inj hkv).1
      simp [hk, Token.isCtl, ht]
    · rfl
  have htag : (!(c.s st.toNat).getLsbD 63 && (s.headAt c.tile (v.ent.chIn a)).any (fun k => k.tag != 0)) = false := by
    cases hact : (c.s st.toNat).getLsbD 63
    · obtain ⟨k, hk, hkv⟩ := Option.map_eq_some_iff.1 (hhead hact)
      have ht : k.tag = 0 := (Prod.mk.inj hkv).1
      simp [hk, ht]
    · rfl
  have hfire : lgenFire (c.s st.toNat) (((s.headAt c.tile (v.ent.chIn a)).map Token.val).getD 0) = lgenFire (c.s st.toNat) bound := by
    cases hact : (c.s st.toNat).getLsbD 63
    · obtain ⟨k, hk, hkv⟩ := Option.map_eq_some_iff.1 (hhead hact)
      have hv : k.val = bound := (Prod.mk.inj hkv).2
      rw [hk, Option.map_some, Option.getD_some, hv]
    · exact lgenFire_of_active _ hact _
  have houts : ((if (lgenFire (c.s st.toNat) bound).index.isSome then (d.map v.ent.chOut).toList else []) ++ (p.map v.ent.pcOut).toList).any
      (fun e => s.roomAt c.tile e == 0) = false := by
    rw [Bool.and_eq_true, Bool.or_eq_true] at hroom
    obtain ⟨hroom, hpred⟩ := hroom
    have hindex : ((if (lgenFire (c.s st.toNat) bound).index.isSome then (d.map v.ent.chOut).toList else []).any (fun e => s.roomAt c.tile e == 0)) = false := by
      rcases hroom with hnone | hall
      · simp [Option.isNone_iff_eq_none.1 hnone]
      · split
        · cases d <;> simp_all
        · rfl
    have hflag : (p.map v.ent.pcOut).toList.any (fun e => s.roomAt c.tile e == 0) = false := by
      cases p <;> simp_all
    rw [List.any_append, hindex, hflag]
    rfl
  simp only [serveLgen, hs, SetState.pendingOn_of_groupsOf hg hsh, hin, hout, hdata, htag, hfire, houts, List.isEmpty_nil, Bool.not_true,
    Bool.false_eq_true, if_false, lgenFire_takes]
  have hbit : (BitVec.ofBool (lgenFire (c.s st.toNat) bound).pred).setWidth 32 = if (lgenFire (c.s st.toNat) bound).pred then (1 : Word) else 0 := by
    cases (lgenFire (c.s st.toNat) bound).pred <;> rfl
  rw [hbit]
  cases hact : (c.s st.toNat).getLsbD 63 <;> rfl

end

/-- Settles O15: one firing by its service, and its four cases by the fields of the state word. -/
theorem loopGeneratorResults : Obligations.LoopGeneratorResults := by
  unfold Obligations.LoopGeneratorResults
  refine ⟨?_, lgenFire_counts, lgenFire_ends, lgenFire_refuses, lgenFire_starts⟩
  intro s c v g d a st p bound reg e f h hm hc hb hhead hroom src s1 s2 s3
  have hchk : chkAll [chkEnds [.ch a] (d.toList.map Opd.ch ++ p.toList.map Opd.pc), chkType allTypes [.token]] v { c with tid := 0 } = none :=
    (chkAll_next (show chkEnds _ _ v { c with tid := 0 } = none from hc)).trans (chkAll_next (chkType_mode (by simp [hm])))
  exact withPass_ok h hchk (serveLgen_fires h hb hhead hroom)


section
variable {s : State} {g : Guard} {c : Ctx} {v : SetState} (h : s.solo? g = some (c, v))

/-! ### Accumulator store (R379, R380) -/

theorem State.acsIndex_ok {x : Double} {off : BitVec 16} {kind : BitVec 3} (hi : (loWord x).toNat + off.toNat < 131072)
    (hheld : (s.tile c.tile).heldFor = none) (hlent : s.lentCol c.tile (((loWord x).toNat + off.toNat) % 256) = false) :
    s.acsIndex c x off kind = .ok ((loWord x).toNat + off.toNat) := by
  unfold loWord at hi hlent ⊢
  simp only [State.acsIndex, hheld, hlent, Option.isSome_none, Bool.or_self, Bool.false_eq_true, if_false]
  exact if_neg (by omega)

/-- The slot that a destination's datum will take, when it is an end. -/
def State.reserveOut (s : State) (c : Ctx) (v : SetState) (d : Opd) : State :=
  match d.outEnd v.ent with
  | some e => s.reserve c.tile e
  | none => s

include h

theorem execAcsLd_issues {d a : Opd} {off : BitVec 16} {x : Double} {idx : Nat} (hc : chkAcs v c = none)
    (hr : readyOperands c s v [wOpd a] (some (fOpd d)) = some [x]) (hi : s.acsIndex c x off 0 = .ok idx)
    (hsound : NSet.has (s.tile c.tile).acsPoison idx = false) :
    exec (.acsLd g d a off) s = .next (actDone c v [wOpd a]
      ((s.issueAcc (acsAccess c .load idx 0 (s.orderNeeds c.tile c.set c.tid 0xFFFF false none))).1.reserveOut c v d)
      (some ⟨c.tid, some d, false, 1, 0, .acs idx s.nextId, false⟩) ((d.cover false).map Mark.opd)) := by
  obtain ⟨w, p, th, -, -, -, -, -, -, -, -, hs⟩ := State.solo?_spec h
  have hchk : chkAll [chkEnds [] [d], chkAcs] v { c with tid := 0 } = none :=
    (chkAll_next (chkEnds_of_ready hr (List.forall_mem_nil _) (fun _ ho => ho))).trans
      (chkAll_next (show chkAcs v { c with tid := 0 } = none from hc))
  refine withPass_ok h hchk (serveActs_ready (srcs := [wOpd a]) (dst := some (fOpd d)) h hr ?_)
  simp only [List.headD_cons, hi, hsound, Bool.false_and, Bool.false_eq_true, if_false, hs, Option.bind_some]
  rfl

theorem execAcsSt_issues {a b : Opd} {off : BitVec 16} {x y : Double} {idx : Nat} (hc : chkAcs v c = none)
    (hr : readyOperands c s v [wOpd a, fOpd b] none = some [x, y]) (hi : s.acsIndex c x off 1 = .ok idx) :
    exec (.acsSt g a b off) s = .next (actDone c v [wOpd a, fOpd b] (s.issueAcc (acsAccess c .store idx y
      (s.orderNeeds c.tile c.set c.tid 0xFFFF true none ++ s.passStores c.tile c.set c.base s.nextId (.acs idx) 4).eraseDups)).1 none []) := by
  have hchk : chkAll [chkEnds [b] [], chkAcs] v { c with tid := 0 } = none :=
    (chkAll_next (chkEnds_of_ready hr (fun _ ho => List.mem_cons_of_mem a ho) (fun _ ho => ho))).trans
      (chkAll_next (show chkAcs v { c with tid := 0 } = none from hc))
  refine withPass_ok h hchk (serveActs_ready (srcs := [wOpd a, fOpd b]) (dst := none) h hr ?_)
  simp only [List.headD_cons, hi]
  rfl

end

/-- Settles O19: each by its service, with its operands ready and its word named. -/
theorem accumulatorStoreMoves : Obligations.AccumulatorStoreMoves := by
  unfold Obligations.AccumulatorStoreMoves
  refine ⟨?_, ?_, ?_⟩
  · intro s c v g d a off x idx h hc hr hi hsound s1
    exact execAcsLd_issues h hc hr hi hsound
  · intro s c v g a b off x y idx h hc hr hi
    exact execAcsSt_issues h hc hr hi
  · intro s c x off kind hi hheld hlent
    exact State.acsIndex_ok hi hheld hlent


section
variable {s : State} {g : Guard} {c : Ctx} {v : SetState}

/-! ### Registers and configuration space (R389 to R392) -/

theorem isSnapshot_iff {r : SReg} : isSnapshot r = true ↔ r = .eqcnt0 ∨ r = .eqcnt1 := by
  cases r <;> simp [isSnapshot]

theorem chkSup_passes {tid : Nat} (hsup : v.ent.sup = true) : chkSup v { c with tid := tid } = none := if_pos hsup

theorem capCheck_none {o : Nat} (ho : o < 65536) (ha : o % 8 = 0) : capCheck o = none := by
  unfold capCheck
  rw [if_neg (by omega), if_neg (by omega)]

variable (h : s.solo? g = some (c, v))
include h

theorem execSregRd_issues {d : Reg} {a : Opd} {r : SReg} {x : Double} {t : Target}
    (hr : readyOperands c s v [wOpd a] (some (dOpd d.opd)) = some [x]) (hsup : (loWord x).getLsbD 31 = true → v.ent.sup = true)
    (ht : s.resolve c.tile c.set (loWord x) r = some t) :
    exec (.sregRd g d a r) s = .next (if r = .eqcnt0 ∨ r = .eqcnt1 then
        actDone c v [wOpd a] s (some ⟨c.tid, some d.opd, true, 0, 0, .sregRd (loWord x) r none, false⟩) ((d.opd.cover true).map Mark.opd)
      else actDone c v [wOpd a] (s.regAccess c false (s.whichReg t r) 0).1
        (some ⟨c.tid, some d.opd, true, 0, 0, .sregRd (loWord x) r (some s.nextId), false⟩) ((d.opd.cover true).map Mark.opd)) := by
  obtain ⟨w, p, th, -, -, -, -, -, -, -, -, hs⟩ := State.solo?_spec h
  have hpriv : ((loWord x).getLsbD 31 && !((s.set? c.tile c.set).map SetState.supervisor).getD false) = false := by
    rw [hs]
    cases hb : (loWord x).getLsbD 31
    · rfl
    · simp [SetState.supervisor, hsup hb]
  unfold loWord at hpriv ht
  by_cases hsnap : r = .eqcnt0 ∨ r = .eqcnt1
  · rw [if_pos hsnap]
    refine withPass_ok h (chkNone_none v _) (serveActs_ready (srcs := [wOpd a]) (dst := some (dOpd d.opd)) h hr ?_)
    simp only [List.headD_cons, hpriv, ht, isSnapshot_iff.2 hsnap, Bool.false_eq_true, if_false, if_true]
    rfl
  · rw [if_neg hsnap]
    refine withPass_ok h (chkNone_none v _) (serveActs_ready (srcs := [wOpd a]) (dst := some (dOpd d.opd)) h hr ?_)
    simp only [List.headD_cons, hpriv, ht, isSnapshot_iff, hsnap, Bool.false_eq_true, if_false]
    rfl

section
variable {d a b : Opd} {x y : Double} (hsup : v.ent.sup = true) (hr : readyOperands c s v [wOpd a, dOpd b] (some (wOpd d)) = some [x, y])
include hsup hr

theorem execSregWr_issues {r : SReg} {t : Target} (ht : s.resolve c.tile c.set (loWord x) r = some t) :
    exec (.sregWr g d a b r) s = .next (actDone c v [wOpd a, dOpd b] (s.regAccess c true (s.whichReg t r) y).1
      (some ⟨c.tid, some d, false, 0, 0, .sregWr (loWord x) r y s.nextId, false⟩) ((d.cover false).map Mark.opd)) := by
  unfold loWord at ht
  refine withPass_ok h (chkSup_passes hsup) (serveActs_ready (srcs := [wOpd a, dOpd b]) (dst := some (wOpd d)) h hr ?_)
  simp only [List.headD_cons, ht]
  rfl

theorem execCapWr_issues {off : BitVec 16} (ho : (loWord x).toNat + off.toNat < 65536) (ha : ((loWord x).toNat + off.toNat) % 8 = 0) :
    exec (.capWr g d a b off) s = .next (actDone c v [wOpd a, dOpd b]
      (s.regAccess c true (BitVec.ofNat 64 (cfgBase + ((loWord x).toNat + off.toNat))) y).1
      (some ⟨c.tid, some d, false, 0, 0, .capWr ((loWord x).toNat + off.toNat) y s.nextId, false⟩) ((d.cover false).map Mark.opd)) := by
  unfold loWord at ho ha
  refine withPass_ok h (chkSup_passes hsup) (serveActs_ready (srcs := [wOpd a, dOpd b]) (dst := some (wOpd d)) h hr ?_)
  simp only [List.headD_cons, capCheck_none ho ha]
  rfl

end

theorem execCapRd_issues {d : Reg} {a : Opd} {off : BitVec 16} {x : Double} (hr : readyOperands c s v [wOpd a] (some (dOpd d.opd)) = some [x])
    (ho : (loWord x).toNat + off.toNat < 65536) (ha : ((loWord x).toNat + off.toNat) % 8 = 0) :
    exec (.capRd g d a off) s = .next (actDone c v [wOpd a] s
      (some ⟨c.tid, some d.opd, true, 0, 0, .capRd ((loWord x).toNat + off.toNat), false⟩) ((d.opd.cover true).map Mark.opd)) := by
  unfold loWord at ho ha
  refine withPass_ok h (chkNone_none v _) (serveActs_ready (srcs := [wOpd a]) (dst := some (dOpd d.opd)) h hr ?_)
  simp only [List.headD_cons, capCheck_none ho ha]
  rfl

/-- nmq.poll of a slot that memory gives (R405). -/
theorem execNmqPoll_issues {d a : Opd} {x : Double} (hsup : v.ent.sup = true) (htyp : v.ent.typ = .ag)
    (hr : readyOperands c s v [wOpd a] (some (wOpd d)) = some [x]) (hmem : s.memFaults (s.cfg.slotAddr (x.extractLsb' 0 6).toNat) 8 false = false) :
    exec (.nmqPoll g d a) s = .next (actDone c v [wOpd a] (s.reserveOut c v d)
      (some ⟨c.tid, some d, false, 0, 0, .nmq (x.extractLsb' 0 6).toNat, false⟩) ((d.cover false).map Mark.opd)) := by
  obtain ⟨w, p, th, -, -, -, -, -, -, -, -, hs⟩ := State.solo?_spec h
  have hchk : chkAll [chkEnds [a] [d], chkSup, chkType [.ag] allModes] v { c with tid := 0 } = none :=
    (chkAll_next (chkEnds_of_ready hr (fun _ ho => ho) (fun _ ho => ho))).trans
      ((chkAll_next (chkSup_passes hsup)).trans (chkAll_next (chkType_allModes (by simp [htyp]))))
  refine withPass_ok h hchk (serveActs_ready (srcs := [wOpd a]) (dst := some (wOpd d)) h hr ?_)
  simp only [List.headD_cons, hmem, hs, Option.bind_some, Bool.false_eq_true, if_false]
  rfl

end

/-- Settles O20: each by its service, with its operands ready and its target named. -/
theorem registerAccessesIssue : Obligations.RegisterAccessesIssue := by
  unfold Obligations.RegisterAccessesIssue
  refine ⟨?_, ?_, ?_, ?_, ?_⟩
  · intro s c v g d a r x t h hr hsup ht
    exact execSregRd_issues h hr hsup ht
  · intro s c v g d a b r x y t h hsup hr ht
    exact execSregWr_issues h hsup hr ht
  · intro s c v g d a off x h hr o ho ha
    exact execCapRd_issues h hr ho ha
  · intro s c v g d a b off x y h hsup hr o ho ha
    exact execCapWr_issues h hsup hr ho ha
  · intro s c v g d a x h hsup htyp hr slot hmem
    exact execNmqPoll_issues h hsup htyp hr hmem

/-! ### Trap blocks (R394 to R396) -/

section
variable {s : State} {g : Guard} {c : Ctx} {v : SetState}

/-- The registers that trap.rd gives: the record's four words, or zeros without one. -/
def trapWords (v : SetState) : Double × Double × Double × Double :=
  match v.oldest with
  | some e => (e.w0, e.w1, e.w2, e.w3)
  | none => (0, 0, 0, 0)

def SetState.putTrap (v : SetState) (n : Nat) : SetState :=
  (((v.putS n (trapWords v).1).putS (n + 1) (trapWords v).2.1).putS (n + 2) (trapWords v).2.2.1).putS (n + 3) (trapWords v).2.2.2

theorem chkType_trap (hm : c.mode = .trap) : chkType allTypes [.trap] v { c with tid := 0 } = none := chkType_mode (by simp [hm])

variable (h : s.solo? g = some (c, v)) (hm : c.mode = .trap)
include h hm

theorem execTrapRd_reads (n : BitVec 4) :
    exec (.trapRd g n) s = .next (passDone c (s.putSet c.tile c.set (v.putTrap n.toNat)) none []) := by
  obtain ⟨w, p, th, -, -, -, -, hg, hsh, -, -, hs⟩ := State.solo?_spec h
  refine withPass_ok h (chkType_trap hm) ?_
  simp only [hs, SetState.pendingOn_of_groupsOf hg hsh, List.isEmpty_nil, Bool.not_true, Bool.false_eq_true, if_false]
  rfl

theorem execTrapFwd_forwards {d : Opd} (hr : readyOperands c s v [] (some (wOpd d)) = some []) :
    exec (.trapFwd g d) s = .next (match s.forward c.tile c.set with
      | none => passDone c (writeOpd c s false 0 d 1) none []
      | some s1 => passDone c (writeOpd c s1 false 0 d 0) none []) := by
  cases hf : s.forward c.tile c.set with
  | none =>
    refine withPass_ok h (chkType_trap hm) ((serveActs_ready (s1 := writeOpd c s false 0 d 1) (m := none) h hr ?_).trans ?_)
    · simp only [hf]
    · rw [State.takeOperands_nil rfl]
  | some s1 =>
    refine withPass_ok h (chkType_trap hm) ((serveActs_ready (s1 := writeOpd c s1 false 0 d 0) (m := none) h hr ?_).trans ?_)
    · simp only [hf]
    · rw [State.takeOperands_nil rfl]

section
variable {op : TrapOp} {d a : Opd} {x : Double} (hr : readyOperands c s v [wOpd a] (some (wOpd d)) = some [x])
include hr

omit h in
theorem chkAll_trapAct : chkAll [chkEnds [a] [], chkType allTypes [.trap]] v { c with tid := 0 } = none :=
  (chkAll_next (chkEnds_of_ready hr (fun _ ho => ho) (List.forall_mem_nil _))).trans (chkAll_next (chkType_trap hm))

omit h hm hr in
theorem loWord_id (x : Double) : (loWord x).extractLsb' 0 12 = x.extractLsb' 0 12 := BitVec.extractLsb'_extractLsb'_of_le (by decide)

omit h hm hr in
theorem loWord_high (x : Double) : (loWord x).extractLsb' 12 20 = x.extractLsb' 12 20 := BitVec.extractLsb'_extractLsb'_of_le (by decide)

/-- An id out of range, or an action that is refused. -/
theorem execTrapAct_refuses (hno : x.extractLsb' 12 20 ≠ 0 ∨ s.fltAct c.tile c.set (trapCode op) (x.extractLsb' 0 12).toNat true = none) :
    exec (.trapAct g op d a) s = .next (actDone c v [wOpd a] (writeOpd c s false 0 d 1) none []) := by
  refine withPass_ok h (chkAll_trapAct hm hr) (serveActs_ready (srcs := [wOpd a]) (dst := some (wOpd d)) h hr ?_)
  rw [← loWord_high, ← loWord_id] at hno
  unfold loWord at hno
  rcases hno with hx | hn
  · simp only [List.headD_cons, bne_iff_ne.2 hx, if_true]
  · simp only [List.headD_cons, hn, ite_self]

theorem execTrapAct_acts {s1 : State} (hx : x.extractLsb' 12 20 = 0)
    (ha : s.fltAct c.tile c.set (trapCode op) (x.extractLsb' 0 12).toNat true = some s1) :
    exec (.trapAct g op d a) s = .next (actDone c v [wOpd a] (writeOpd c (if op = .resume ∨ op = .skip then
      s1.acquire c.tile c.set (x.extractLsb' 0 12).toNat (s1.trapAccs c.tile c.set) else s1) false 0 d 0) none []) := by
  refine withPass_ok h (chkAll_trapAct hm hr) (serveActs_ready (srcs := [wOpd a]) (dst := some (wOpd d)) h hr ?_)
  rw [← loWord_high] at hx
  rw [← loWord_id] at ha ⊢
  unfold loWord at hx ha ⊢
  simp only [List.headD_cons, hx, ha, bne_self_eq_false, Bool.false_eq_true, if_false, Bool.or_eq_true, beq_iff_eq]

end
end

/-- Settles O21: each by its service in a trap block. -/
theorem trapInstructionResults : Obligations.TrapInstructionResults := by
  unfold Obligations.TrapInstructionResults
  refine ⟨?_, ?_, ?_⟩
  · intro s c v g n h hm w
    exact execTrapRd_reads h hm n
  · intro s c v g op d a x h hm hr id act
    exact ⟨execTrapAct_refuses h hm hr, fun s1 hx ha => execTrapAct_acts h hm hr hx ha⟩
  · intro s c v g d h hm hr
    exact execTrapFwd_forwards h hm hr


section
variable {s : State} {g : Guard} {c : Ctx} {v : SetState} (h : s.solo? g = some (c, v))
include h

/-! ### cfg.sel (R397) -/

theorem execCfgSel_latches {sel : PlaneSel} {a : Opd} (hm : c.mode = .token) :
    exec (.cfgSel g sel false a) s = .next (passDone c (s.select? c.tile sel) none []) :=
  withPass_ok (chk := chkAll [chkType allTypes [.token]]) h (chkAll_next (chkType_mode (by simp [hm]))) rfl

theorem execCfgSel_latchesAt {sel : PlaneSel} {a : Opd} {x : Double} (hm : c.mode = .token) (hsup : v.ent.sup = true)
    (hr : readyOperands c s v [wOpd a] none = some [x]) (hx : (loWord x).toNat < 768) :
    exec (.cfgSel g sel true a) s = .next (actDone c v [wOpd a] (s.select? (loWord x).toNat sel) none []) := by
  have hchk : chkAll [chkEnds [a] [], chkSup, chkType allTypes [.token]] v { c with tid := 0 } = none :=
    (chkAll_next (chkEnds_of_ready hr (fun _ ho => ho) (fun _ ho => ho))).trans
      ((chkAll_next (chkSup_passes hsup)).trans (chkAll_next (chkType_mode (by simp [hm]))))
  refine withPass_ok (chk := chkAll [chkEnds [a] [], chkSup, chkType allTypes [.token]]) h hchk
    ((if_pos rfl).trans (serveActs_ready (srcs := [wOpd a]) (dst := none) h hr ?_))
  unfold loWord at hx ⊢
  simp only [List.headD_cons]
  exact if_neg (by omega)

/-! ### mark (R407) -/

/-- A service on operands that are ready, which a full Drift stalls: nothing is popped. -/
theorem serveActs_stalls {srcs : List Operand} {dst : Option Operand} {vals : List Double} {k : State → List Double → Serve} {s1 : State}
    (hr : readyOperands c s v srcs dst = some vals) (hk : k s vals = .stall s1) : serveActs c s srcs dst k = .stall s1 := by
  obtain ⟨w, p, th, -, -, -, -, hg, hsh, -, -, hs⟩ := State.solo?_spec h
  obtain ⟨h1, h2, h3, h4, h5, h6, ks, hks, rfl⟩ := readyOperands_spec hr
  unfold outOf at h3 h4
  simp only [serveActs, hs, SetState.pendingOn_of_groupsOf hg hsh, h2, h3, h4, h6, hks, List.isEmpty_nil, Bool.not_true, Bool.false_eq_true,
    if_false, Bool.or_self, hk]

/-- A pass of one thread whose service a full Drift stalls keeps the thread and goes no further. -/
theorem withPass_stalls {chk : SetState → Ctx → Option (BitVec 8)} {marks : List Mark} {serve : Ctx → State → Serve} {s1 : State}
    (hc : chk v { c with tid := 0 } = none) (hk : serve c s = .stall s1) :
    withPass s g chk marks serve = .next (PassSt.close ⟨s1, [c.tid], [], [], 0, true⟩ c marks) := by
  rw [withPass_solo h hc, hk]

section
variable {w : Sweep} {a : Opd} {x : Double} (hw : v.sweep = some w) (hr : readyOperands c s v [wOpd a] none = some [x])
include hw hr

theorem execMark_observes (hroom : s.traceStalls (s.markEvent c.tile c.set v w (loWord x)) = false) :
    exec (.mark g a) s = .next (actDone c v [wOpd a] (s.observe (s.markEvent c.tile c.set v w (loWord x))) none []) := by
  obtain ⟨_, p, th, -, -, -, -, -, -, -, -, hs⟩ := State.solo?_spec h
  refine withPass_ok (chk := chkEnds [a] []) h (chkEnds_of_ready hr (fun _ ho => ho) (fun _ ho => ho))
    (serveActs_ready (srcs := [wOpd a]) (dst := none) h hr ?_)
  unfold loWord at hroom ⊢
  simp only [hs, hw, List.headD_cons, hroom, Bool.false_eq_true, if_false]

theorem execMark_stalls (hfull : s.traceStalls (s.markEvent c.tile c.set v w (loWord x)) = true) :
    exec (.mark g a) s = .next (PassSt.close ⟨s.driftStall c.tile c.set, [c.tid], [], [], 0, true⟩ c []) := by
  obtain ⟨_, p, th, -, -, -, -, -, -, -, -, hs⟩ := State.solo?_spec h
  refine withPass_stalls (chk := chkEnds [a] []) h (chkEnds_of_ready hr (fun _ ho => ho) (fun _ ho => ho))
    (serveActs_stalls (srcs := [wOpd a]) (dst := none) h hr ?_)
  unfold loWord at hfull
  simp only [hs, hw, List.headD_cons, hfull, if_true]

end

/-! ### perf.rd (R409) -/

/-- The value of a counter: free for one that counts cycles, else the set's or the tile's. -/
def State.counter (s : State) (t : Nat) (v : SetState) (k : Nat) : Double :=
  if timed k then ((s.free (64 + k)).extractLsb' 0 48).setWidth 64
  else if k < 16 then BitVec.ofNat 64 (SMap.get 0 v.perf k) else BitVec.ofNat 64 (SMap.get 0 (s.tile t).perf k)

theorem execPerfRd_reads {d : Reg} {n : BitVec 6} (hr : readyOperands c s v [] (some (dOpd d.opd)) = some []) :
    exec (.perfRd g d n) s = .next (passDone c (writeOpd c s true 0 d.opd (s.counter c.tile v n.toNat)) none []) := by
  obtain ⟨w, p, th, -, -, -, -, -, -, -, -, hs⟩ := State.solo?_spec h
  refine withPass_ok h (chkNone_none v _) ((serveActs_ready (s1 := writeOpd c s true 0 d.opd (s.counter c.tile v n.toNat)) (m := none) h hr ?_).trans ?_)
  · simp only [hs]
    rfl
  · rw [State.takeOperands_nil rfl]

end

/-- Settles O22: each by its service, with its operands ready. -/
theorem selectMarkCounterResults : Obligations.SelectMarkCounterResults := by
  unfold Obligations.SelectMarkCounterResults
  refine ⟨?_, ?_, ?_⟩
  · intro s c v g sel a h hm latch
    exact ⟨execCfgSel_latches h hm, fun x hsup hr hx => execCfgSel_latchesAt h hm hsup hr hx⟩
  · intro s c v w g a x h hw hr ev
    exact ⟨execMark_observes h hw hr, execMark_stalls h hw hr⟩
  · intro s c v g d n h hr k
    exact execPerfRd_reads h hr

end Sys2Proof.Machine
end

section
/-! SUPPORT. Accesses of another node (O39), mailboxes and doorbells (O40). -/
namespace Sys2Proof.Machine

/-! ### Accesses of another node (R262) -/

section
variable {s : State} {node pa n : Nat} {w : Double}

/-- What is accepted from another node: an access of its own, after the same node's earlier writes to the line. -/
theorem State.inboundWrite_accepts (loc : Place2) : ∃ a : Access, s.inboundWrite node pa n loc w =
    { s with nextId := s.nextId + 1, accs := s.accs.insert s.nextId a } ∧ a.kind = .store ∧ a.loc = loc ∧ a.bytes = n ∧ a.data = w ∧
      ∀ i b, (i, b) ∈ s.toCome → b.tile = 1024 + node → b.va.toNat / 64 = pa / 64 → (⟨i, 4, false⟩ : Need) ∈ a.after := by
  refine ⟨_, rfl, rfl, rfl, rfl, rfl, ?_⟩
  intro i b hb ht hl
  simp only [List.mem_map, List.mem_filter]
  exact ⟨(i, b), ⟨hb, by simp [ht, hl]⟩, rfl⟩

/-- The Active and Idle states are not Off. -/
theorem Regs.pwr_ne_off {c : Regs} (hp : c.pwr.toNat < 2) : (c.pwr == 3) = false := by
  refine beq_eq_false_iff_ne.2 (fun e => ?_)
  rw [e] at hp
  exact absurd hp (by decide)

/-- In Retain and Off only configuration space is reached, and in Off not even that. -/
theorem execInboundAccess_config (hplace : s.cfg.place pa = .config) (ha : pa % 8 = 0) : exec (.inboundAccess node (.write pa 8 w)) s =
    .next (if s.cfg.pwr = 3 then s else (s.cfgWrite (pa - cfgBase) w (s.cfg.svFrom node) node).1) := by
  rw [exec_inboundAccess]
  simp only [execInboundAccess, hplace, ha]
  by_cases hp : s.cfg.pwr = 3
  · simp [hp]
  · have hb : (s.cfg.pwr == 3) = false := beq_eq_false_iff_ne.2 hp
    rw [hb, if_neg hp]
    simp

theorem execInboundAccess_write (hplace : s.cfg.place pa ≠ .config) (h0 : 0 < n) (h8 : n ≤ 8) (ha : pa % n = 0) :
    exec (.inboundAccess node (.write pa n w)) s =
      .next (if s.cfg.pwr.toNat < 2 ∧ s.inboundOk pa n false = true then s.inboundWrite node pa n (.dev pa 0) w else s) := by
  have hshape : (n = 0 || 8 < n || pa % n ≠ 0) = false := by
    rw [decide_eq_false (by omega), decide_eq_false (by omega), decide_eq_false (by omega)]
    rfl
  have hmem : (s.cfg.place pa == .config) = false := beq_eq_false_iff_ne.2 hplace
  rw [exec_inboundAccess]
  simp only [execInboundAccess, hshape, hmem, Bool.not_false, Bool.and_true, Bool.false_eq_true, if_false]
  by_cases hp : s.cfg.pwr.toNat < 2
  · rw [Regs.pwr_ne_off hp]
    simp [Nat.not_le.2 hp, hp]
  · simp [Nat.not_lt.1 hp, hp]

theorem execInboundAccess_writeLine {line : Nat} {x : BitVec 512} : exec (.inboundAccess node (.writeLine line x)) s =
    .next (if s.cfg.pwr.toNat < 2 ∧ s.inboundOk (line * 64) 64 true = true then s.inboundWrite node (line * 64) 64 (.line line x) 0 else s) := by
  rw [exec_inboundAccess]
  simp only [execInboundAccess, Bool.not_false, Bool.and_true, decide_eq_true_eq]
  by_cases hp : s.cfg.pwr.toNat < 2
  · rw [Regs.pwr_ne_off hp]
    simp [Nat.not_le.2 hp, hp]
  · simp [Nat.not_lt.1 hp, hp]

theorem execInboundAccess_read : exec (.inboundAccess node (.read pa n)) s = .next s := by
  rw [exec_inboundAccess]
  simp only [execInboundAccess, ite_self]

end

/-- Settles O39: by what each kind of access does, and by what an accepted write issues. -/
theorem inboundAccesses : Obligations.InboundAccesses := by
  unfold Obligations.InboundAccesses
  intro s node accepted
  have haccept {pa n : Nat} {w : Double} (loc : Place2) : accepted pa n loc w (.next (s.inboundWrite node pa n loc w)) := by
    obtain ⟨a, he, hkind, hloc, hbytes, hdata, hafter⟩ := State.inboundWrite_accepts (s := s) (node := node) (pa := pa) (n := n) (w := w) loc
    exact ⟨_, a, rfl, by rw [he], by rw [he], by rw [he], hkind, hloc, hbytes, hdata, hafter⟩
  refine ⟨fun pa n => execInboundAccess_read, ?_, ?_, ?_, ?_⟩
  · intro pa n w h0 h8 ha hplace
    rw [execInboundAccess_write hplace h0 h8 ha]
    refine ⟨fun hp hok => ?_, fun hno => ?_⟩
    · rw [if_pos ⟨hp, hok⟩]
      exact haccept _
    · rw [if_neg]
      rintro ⟨hp, hok⟩
      rcases hno with hno | hno
      · omega
      · exact Bool.false_ne_true (hno.symm.trans hok)
  · intro line w hp hok
    rw [execInboundAccess_writeLine, if_pos ⟨hp, hok⟩]
    exact haccept _
  · intro line w hno
    rw [execInboundAccess_writeLine, if_neg]
    rintro ⟨hp, hok⟩
    rcases hno with hno | hno
    · omega
    · exact Bool.false_ne_true (hno.symm.trans hok)
  · intro pa w ha hplace
    rw [execInboundAccess_config hplace ha]
    exact ⟨fun hp => by rw [if_neg hp], fun hp => by rw [if_pos hp]⟩

/-! ### Mailboxes and doorbells (R231, R264) -/

section
variable {s : State} {t e i : Nat} {c : Chan}

/-- A token fed at an input end, in flight on its channel. -/
def Chan.fed (c : Chan) (k : Token) : Chan := { c.note none with free := c.free - 1, fly := c.fly ++ [k] }

/-- At an end of a region that runs, under no replay mode, a host token is delivered when a slot is free and what it releases is performed. -/
theorem State.deliver_eq {tag : BitVec 3} {val : Word} {rel : List Need} (hc : s.inChan t e = some (i, c)) (hrun : s.inflowHeld t = false)
    (hoff : s.rplMode t = .off) : s.deliver t e tag val rel =
      if 0 < c.free ∧ rel.all s.met = true then .done (s.putChan i (c.fed ⟨tag, val, rel⟩)) else .wait := by
  simp only [State.deliver, State.feedRoom, State.feed, hc, hrun, hoff, Chan.fed]
  by_cases hf : 0 < c.free <;> cases hm : rel.all s.met <;> simp [hf]

theorem State.wake_active (hp : s.cfg.pwr = 0) : s.wake = s := by
  unfold State.wake
  rw [hp]
  rfl

end

section
variable {s : State} {node : Nat} {n : BitVec 2} {w : Double}

/-- The write of a mailbox, held. -/
def State.holdMbox (s : State) (node : Nat) (n : BitVec 2) (w : Double) : State :=
  { s with mboxHeld := s.mboxHeld ++ [⟨n, node, w.extractLsb' 32 3, w.extractLsb' 0 32, s.inboundIds node⟩] }

theorem State.mailbox_drops (hp : s.cfg.pwr = 0) (h : n = 3 ∨ s.cfg.booted = false ∨ w.extractLsb' 35 29 ≠ 0 ∨
    (s.mboxEnd n.toNat = none ∧ s.mboxSaved n.toNat = false)) : (s.mailbox node n.toNat w).1 = s := by
  by_cases hbad : (n.toNat == 3 || !s.cfg.booted || w.extractLsb' 35 29 != 0) = true
  · simp only [State.mailbox, State.wake_active hp, hbad, if_true]
  · have hbad' := hbad
    simp only [Bool.or_eq_true, not_or, Bool.not_eq_true', beq_iff_eq, bne_iff_ne, not_not, Bool.not_eq_false] at hbad
    obtain ⟨⟨h3, hb⟩, hw⟩ := hbad
    rcases h with rfl | h | h | ⟨he, hs⟩
    · exact absurd rfl h3
    · simp [h] at hb
    · exact absurd hw h
    · simp only [State.mailbox, State.wake_active hp, hbad', he, hs, Bool.false_eq_true, if_false]

section
variable (hp : s.cfg.pwr = 0) (hb : s.cfg.booted = true) (h3 : n ≠ 3) (hw : w.extractLsb' 35 29 = 0)
  {t e i : Nat} {c : Chan} (he : s.mboxEnd n.toNat = some (t, e)) (hc : s.inChan t e = some (i, c)) (hrun : s.inflowHeld t = false)
  (hoff : s.rplMode t = .off)
include hp hb h3 hw he hc hrun hoff

theorem State.mailbox_eq : (s.mailbox node n.toNat w).1 =
    if s.mboxHeld.any (fun h => h.n.toNat == n.toNat) = false ∧ 0 < c.free ∧ (s.inboundIds node).all s.met = true then
      s.putChan i (c.fed ⟨w.extractLsb' 32 3, w.extractLsb' 0 32, s.inboundIds node⟩)
    else s.holdMbox node n w := by
  have hgood : (n.toNat == 3 || !s.cfg.booted || w.extractLsb' 35 29 != 0) = false := by
    have hn : (n.toNat == 3) = false := beq_eq_false_iff_ne.2 (fun e => h3 (BitVec.eq_of_toNat_eq e))
    rw [hn, hb, hw]
    rfl
  have hnum : BitVec.ofNat 2 n.toNat = n := by simp
  simp only [State.mailbox, State.wake_active hp, hgood, he, State.deliver_eq hc hrun hoff, Bool.false_eq_true, if_false, hnum]
  by_cases hheld : s.mboxHeld.any (fun h => h.n.toNat == n.toNat) = true
  · simp only [hheld, if_true, Bool.true_eq_false, false_and, if_false]
    rfl
  · rw [Bool.not_eq_true] at hheld
    by_cases hd : 0 < c.free ∧ (s.inboundIds node).all s.met = true
    · simp only [hheld, hd, Bool.false_eq_true, if_false, and_self, if_true]
    · simp only [hheld, hd, Bool.false_eq_true, if_false, true_and]
      rfl

end

section
variable {t e i : Nat} {c : Chan} (he : s.mboxEnd n.toNat = some (t, e)) (hc : s.inChan t e = some (i, c)) (hrun : s.inflowHeld t = false)
  (hoff : s.rplMode t = .off)
include he hc hrun hoff

/-- The oldest write held for a mailbox is delivered once it may be. -/
theorem State.mailboxNext_eq {h : MboxHeld} (hh : s.mboxHeld.find? (fun h => h.n.toNat == n.toNat) = some h) : s.mailboxNext n.toNat =
    if 0 < c.free ∧ h.rel.all s.met = true then
      { s with mboxHeld := dropHeld n.toNat s.mboxHeld }.putChan i (c.fed ⟨h.tag, h.val, h.rel⟩)
    else s := by
  have hd := State.deliver_eq (s := { s with mboxHeld := dropHeld n.toNat s.mboxHeld }) (tag := h.tag) (val := h.val) (rel := h.rel) hc hrun hoff
  have hmet : ({ s with mboxHeld := dropHeld n.toNat s.mboxHeld } : State).met = s.met := State.met_of_accs rfl
  rw [hmet] at hd
  simp only [State.mailboxNext, hh, he, hd]
  by_cases hgo : 0 < c.free ∧ h.rel.all s.met = true
  · rw [if_pos hgo, if_pos hgo]
  · rw [if_neg hgo, if_neg hgo]

end

/-- The oldest doorbell is pushed on mailbox 3 when a slot is free. -/
theorem State.bellNext_eq {a : Nat} {rest : List Nat} {t e i : Nat} {c : Chan} (hb : s.bells = a :: rest) (he : s.mboxEnd 3 = some (t, e))
    (hc : s.inChan t e = some (i, c)) (hrun : s.inflowHeld t = false) (hoff : s.rplMode t = .off) :
    s.bellNext = if 0 < c.free then { s.putChan i (c.fed ⟨0, BitVec.ofNat 32 (a / 4096), []⟩) with bells := rest } else s := by
  simp only [State.bellNext, hb, he, State.deliver_eq hc hrun hoff, List.all_nil, and_true]
  by_cases hf : 0 < c.free
  · rw [if_pos hf, if_pos hf]
  · rw [if_neg hf, if_neg hf]

end

/-- Settles O40: a write, a held write and a doorbell, each by the one delivery of a host token. -/
theorem mailboxesAndDoorbells : Obligations.MailboxesAndDoorbells := by
  unfold Obligations.MailboxesAndDoorbells
  refine ⟨?_, ?_, ?_⟩
  · intro s node n w t e i c hp hb h3 hw he hc hrun hoff k
    have hwrite : exec (.mailboxWrite node n w) s = .next (s.mailbox node n.toNat w).1 := rfl
    rw [hwrite, State.mailbox_eq hp hb h3 hw he hc hrun hoff]
    refine ⟨fun hheld hf hm => ?_, fun hno => ?_, fun h hh => ?_⟩
    · rw [if_pos ⟨hheld, hf, hm⟩]
      rfl
    · rw [if_neg]
      · rfl
      · rintro ⟨hheld, hf, hm⟩
        rcases hno with hno | hno | hno
        · exact Bool.false_ne_true (hheld.symm.trans hno)
        · omega
        · exact Bool.false_ne_true (hno.symm.trans hm)
    · have hnext : exec (.mailboxDelivery n) s = .next (s.mailboxNext n.toNat) := by
        rw [exec_mailboxDelivery]
        simp only [execMailboxDelivery, beq_eq_false_iff_ne.2 h3, Bool.false_eq_true, if_false]
      rw [hnext, State.mailboxNext_eq he hc hrun hoff hh]
      refine ⟨fun hf hm => ?_, fun hno => ?_⟩
      · rw [if_pos ⟨hf, hm⟩]
        rfl
      · rw [if_neg]
        rintro ⟨hf, hm⟩
        rcases hno with hno | hno
        · omega
        · exact Bool.false_ne_true (hno.symm.trans hm)
  · intro s node n w hp h
    exact congrArg Host.Outcome.next (State.mailbox_drops hp h)
  · intro s a rest t e i c hb he hc hrun hoff
    have hbell : exec .faultDoorbell s = .next s.bellNext := rfl
    rw [hbell, State.bellNext_eq hb he hc hrun hoff]
    refine ⟨fun hf => ?_, fun hf => ?_, ?_⟩
    · rw [if_pos hf]
      rfl
    · rw [if_neg (by omega)]
    · rw [← State.bellNext_eq hb he hc hrun hoff]
      rfl

end Sys2Proof.Machine
end

section
/-! SUPPORT. Security commands, power, recovery and the management controller (O42). -/
namespace Sys2Proof.Machine

/-! ### The word of a security command (R269) -/

/-- A level or a power state as ARG: the upper bits are zero. -/
theorem arg_high (x : BitVec 2) : (x.setWidth 4).extractLsb' 2 2 = 0 := by decide +revert

theorem arg_low (x : BitVec 2) : (x.setWidth 4).extractLsb' 0 2 = x := by decide +revert

section
variable (s : State) (op arg : BitVec 4)

theorem secWord_op : (secWord s op arg).extractLsb' 52 4 = op := by
  unfold secWord
  simp (disch := decide) only [BitVec.extractLsb'_append_eq_of_le, BitVec.extractLsb'_append_eq_of_add_le]
  simp

theorem secWord_arg : (secWord s op arg).extractLsb' 48 4 = arg := by
  unfold secWord
  simp (disch := decide) only [BitVec.extractLsb'_append_eq_of_le, BitVec.extractLsb'_append_eq_of_add_le]
  simp

theorem secWord_buf : (secWord s op arg).extractLsb' 6 42 = s.cfg.secBuf := by
  unfold secWord
  simp (disch := decide) only [BitVec.extractLsb'_append_eq_of_le, BitVec.extractLsb'_append_eq_of_add_le]
  simp

/-- Bit 62, which clears ERR, lies in the zero bits above OP. -/
theorem secWord_err : (secWord s op arg).getLsbD 62 = false := by
  simp only [secWord, BitVec.getLsbD_append]
  rfl

end

section
variable {s : State} {op arg : BitVec 4} {node : Nat}

/-- A command refused with its code, nothing else changed. -/
def State.secRefused (s : State) (code : BitVec 6) : State := s.modCfg (fun c => { c with secErr := true, secEcode := code })

/-- What SECCMD holds once a command has acted: its ARG, its buffer, and BUSY for a time. -/
def State.secDone (s : State) (t : State) (arg : BitVec 4) : State :=
  t.modCfg (fun c => { c with secArg := arg, secBuf := s.cfg.secBuf, secBusy := Config.freeBit s.tick 21 })

theorem State.secDone_mem (t : State) : (s.secDone t arg).mem = t.mem := rfl

theorem State.writeSeccmd_off (hp : s.cfg.pwr = 3) (w : Double) : (s.writeSeccmd w node).1 = s := by
  simp [State.writeSeccmd, hp]

/-- A command that SECCMD is written with, while the power is on. -/
theorem State.writeSeccmd_command (hp : s.cfg.pwr ≠ 3) (ho : op ≠ 0) : (s.writeSeccmd (secWord s op arg) node).1 =
    if s.cfg.secBusy then s.secRefused 4 else
      match s.secCommand op arg s.cfg.secBuf node with
      | .ok t => if t.cfg.pwr == 3 then t else s.secDone t arg
      | .err e => s.secRefused e := by
  have hs : s.modCfg (fun c => { c with secErr := c.secErr && !(secWord s op arg).getLsbD 62 }) = s :=
    State.modCfg_fixed (by rw [secWord_err, Bool.not_false, Bool.and_true])
  simp only [State.writeSeccmd, State.pwr_beq_off hp, hs, secWord_op, secWord_arg, secWord_buf, beq_false_of_ne ho, Bool.false_eq_true, if_false]
  cases s.cfg.secBusy with
  | true => rfl
  | false =>
    simp only [Bool.false_eq_true, if_false]
    cases s.secCommand op arg s.cfg.secBuf node with
    | ok t =>
      dsimp only
      split <;> rfl
    | err e => rfl

section
variable (hp : s.cfg.pwr ≠ 3) (hb : s.cfg.secBusy = false) (ho : op ≠ 0)
include hp ho

theorem State.writeSeccmd_busy (h : s.cfg.secBusy = true) : (s.writeSeccmd (secWord s op arg) node).1 = s.secRefused 4 := by
  rw [State.writeSeccmd_command hp ho, if_pos h]

include hb

theorem State.writeSeccmd_err {e : BitVec 6} (h : s.secCommand op arg s.cfg.secBuf node = .err e) :
    (s.writeSeccmd (secWord s op arg) node).1 = s.secRefused e := by
  rw [State.writeSeccmd_command hp ho, hb, h]
  rfl

theorem State.writeSeccmd_ok {t : State} (h : s.secCommand op arg s.cfg.secBuf node = .ok t) (ht : t.cfg.pwr = s.cfg.pwr) :
    (s.writeSeccmd (secWord s op arg) node).1 = s.secDone t arg := by
  have hon : (t.cfg.pwr == 3) = false := State.pwr_beq_off (ht ▸ hp)
  rw [State.writeSeccmd_command hp ho, hb, h]
  simp only [Bool.false_eq_true, if_false, hon]

end

/-! ### Enrolment (R270, R272) -/

section
variable {a : Nat} {k : List Byte}

theorem State.secEnrol_refuses (h : s.cfg.sec ≠ 0 ∨ s.cfg.dbg ≠ 0) : s.secEnrol node a = .err 1 := by
  refine if_pos ?_
  rw [Bool.or_eq_true, bne_iff_ne, bne_iff_ne]
  exact h

theorem State.secEnrol_open (hs : s.cfg.sec = 0) (hd : s.cfg.dbg = 0) : s.secEnrol node a = if s.bufOk a 96 then
    .ok (s.modCfg (fun c => { c with sec := 1, sealKey := some (Memory.bytes s.mem a 96), enrolledHost := some node })) else .err 5 := by
  unfold State.secEnrol
  rw [hs, hd]
  cases s.bufOk a 96 <;> rfl

end

/-! ### Debug level (R270, R272) -/

/-- A nonce that differs from the one before. -/
theorem State.newNonce_spec (s : State) : ∃ n, n ≠ s.cfg.nonce ∧ s.newNonce = s.modCfg (fun c => { c with nonce := n }) := by
  by_cases h : s.free 13 = s.cfg.nonce
  · refine ⟨s.cfg.nonce + 1, ?_, ?_⟩
    · simp
    · simp [State.newNonce, State.modCfg, h]
  · refine ⟨s.free 13, h, ?_⟩
    simp [State.newNonce, State.modCfg, h]

theorem secCommand_setDebug (lvl : BitVec 2) (buf : BitVec 42) :
    s.secCommand 3 (lvl.setWidth 4) buf node = s.secDebug lvl (buf.toNat * 64) := by
  have hop : (3 : BitVec 4).toNat = 3 := rfl
  simp only [State.secCommand, hop, arg_high, arg_low]
  rfl

/-- The level is set, with another nonce. -/
def State.atLevel (s : State) (lvl : BitVec 2) : State := (s.modCfg (fun c => { c with dbg := lvl })).newNonce

section
variable {lvl : BitVec 2}

theorem execSetDebug_refused (hp : s.cfg.pwr ≠ 3) (hb : s.cfg.secBusy = false) {e : BitVec 6}
    (h : s.secDebug lvl (s.cfg.secBuf.toNat * 64) = .err e) : exec (.setDebug lvl) s = .next (s.secRefused e) := by
  rw [exec_setDebug, execSetDebug, State.writeSeccmd_err hp hb (by decide) ((secCommand_setDebug lvl s.cfg.secBuf).trans h)]

theorem execSetDebug_allowed (hp : s.cfg.pwr ≠ 3) (hb : s.cfg.secBusy = false)
    (h : s.secDebug lvl (s.cfg.secBuf.toNat * 64) = .ok (s.atLevel lvl)) : ∃ n busy, n ≠ s.cfg.nonce ∧ exec (.setDebug lvl) s =
      .next (s.modCfg (fun c => { c with secArg := lvl.setWidth 4, secBusy := busy, dbg := lvl, nonce := n })) := by
  obtain ⟨n, hn, he⟩ := (s.modCfg (fun c => { c with dbg := lvl })).newNonce_spec
  refine ⟨n, Config.freeBit s.tick 21, hn, ?_⟩
  have ht : (s.atLevel lvl).cfg.pwr = s.cfg.pwr := by rw [State.atLevel, he]; rfl
  rw [exec_setDebug, execSetDebug, State.writeSeccmd_ok hp hb (by decide) ((secCommand_setDebug lvl s.cfg.secBuf).trans h) ht, State.atLevel, he]
  rfl

variable {a : Nat} (hl : lvl ≠ 3)
include hl

theorem State.secDebug_free (h : held s.cfg.sec lvl s.cfg.pwr = .free) : s.secDebug lvl a = .ok (s.atLevel lvl) := by
  simp only [State.secDebug, beq_false_of_ne hl, h, Bool.false_eq_true, if_false]
  rfl

theorem State.secDebug_refused (h : held s.cfg.sec lvl s.cfg.pwr = .refused) : s.secDebug lvl a = .err 1 := by
  simp only [State.secDebug, beq_false_of_ne hl, h, Bool.false_eq_true, if_false]

section
variable (h : held s.cfg.sec lvl s.cfg.pwr = .token)
include h

theorem State.secDebug_lower (hd : lvl < s.cfg.dbg) : s.secDebug lvl a = .ok (s.atLevel lvl) := by
  simp only [State.secDebug, beq_false_of_ne hl, h, hd, Bool.false_eq_true, if_false, if_true]
  rfl

variable (hd : ¬ lvl < s.cfg.dbg)
include hd

theorem State.secDebug_malformed (hbad : s.bufOk a 128 = false ∨ tokenShape (Memory.bytes s.mem a 32) lvl = false) :
    s.secDebug lvl a = .err 5 := by
  simp only [State.secDebug, beq_false_of_ne hl, h, hd, Bool.false_eq_true, if_false]
  rcases hbad with hbad | hbad
  · rw [hbad]
    rfl
  · cases s.bufOk a 128
    · rfl
    · rw [hbad]
      rfl

variable (hok : s.bufOk a 128 = true) (hshape : tokenShape (Memory.bytes s.mem a 32) lvl = true)
include hok hshape

theorem State.secDebug_unsealed (hs : s.sealed (Memory.bytes s.mem a 32) (Memory.bytes s.mem (a + 32) 96) = false) :
    s.secDebug lvl a = .err 2 := by
  simp only [State.secDebug, beq_false_of_ne hl, h, hd, hok, hshape, hs, Bool.not_true, Bool.not_false, Bool.false_eq_true, if_false, if_true]

theorem State.secDebug_sealed (hs : s.sealed (Memory.bytes s.mem a 32) (Memory.bytes s.mem (a + 32) 96) = true) :
    s.secDebug lvl a = if BitVec.ofNat 64 (bytesNat ((Memory.bytes s.mem a 32).take 8)) ≠ s.cfg.nonce then .err 3 else .ok (s.atLevel lvl) := by
  simp only [State.secDebug, beq_false_of_ne hl, h, hd, hok, hshape, hs, Bool.not_true, Bool.false_eq_true, if_false, bne_iff_ne]
  rfl

end
end

/-! ### Release (R270) -/

theorem State.dropKey_frame (s : State) (k : BitVec 12) : (s.dropKey k).mem = s.mem ∧ (s.dropKey k).tiles = s.tiles ∧ (s.dropKey k).cfg = s.cfg := by
  unfold State.dropKey
  split <;> exact ⟨rfl, rfl, rfl⟩

/-- Every key id of a list is made invalid. -/
def State.dropKeys (s : State) (l : SMap (BitVec 512)) : State := l.foldl (fun s k => s.dropKey (BitVec.ofNat 12 k.1)) s

theorem State.dropKeys_frame (l : SMap (BitVec 512)) : ∀ s : State,
    (s.dropKeys l).mem = s.mem ∧ (s.dropKeys l).tiles = s.tiles ∧ (s.dropKeys l).cfg = s.cfg := by
  induction l with
  | nil => exact fun s => ⟨rfl, rfl, rfl⟩
  | cons k l ih =>
    intro s
    obtain ⟨hmem, htiles, hcfg⟩ := ih (s.dropKey (BitVec.ofNat 12 k.1))
    obtain ⟨hmem', htiles', hcfg'⟩ := s.dropKey_frame (BitVec.ofNat 12 k.1)
    exact ⟨hmem.trans hmem', htiles.trans htiles', hcfg.trans hcfg'⟩

/-- A list whose first key is no key id lists none that a lookup finds. -/
theorem State.dropKeys_stuck {n : Nat} {p : BitVec 512} {m : SMap (BitVec 512)} (hn : 4096 ≤ n) (hk : s.keys = (n, p) :: m)
    (l : SMap (BitVec 512)) : s.dropKeys l = s := by
  induction l with
  | nil => rfl
  | cons k l ih =>
    have hlook : SMap.look s.keys (BitVec.ofNat 12 k.1).toNat = none := by
      have hlt := (BitVec.ofNat 12 k.1).isLt
      simp only [hk, SMap.look]
      rw [if_neg (by omega), if_pos (by omega)]
    have hdrop : s.dropKey (BitVec.ofNat 12 k.1) = s := by simp only [State.dropKey, hlook]
    exact (congrArg (fun t => State.dropKeys t l) hdrop).trans ih

/-- When every listed key has been dropped, no key id has a pair: the first of the list is always the next to go. -/
theorem State.look_dropKeys_self {l : SMap (BitVec 512)} (hk : s.keys = l) {k : Nat} (hlt : k < 4096) :
    SMap.look (s.dropKeys l).keys k = none := by
  induction l generalizing s with
  | nil => simp [State.dropKeys, hk, SMap.look]
  | cons x l ih =>
    obtain ⟨n, p⟩ := x
    by_cases hn : n < 4096
    · have hnum : (BitVec.ofNat 12 n).toNat = n := by simpa using hn
      refine ih (s := s.dropKey (BitVec.ofNat 12 n)) ?_
      simp [State.dropKey, hk, hnum, SMap.look, SMap.erase]
    · rw [State.dropKeys_stuck (by omega) hk, hk, SMap.look, if_neg (by omega), if_pos (by omega)]

theorem execRelease_releases (hp : s.cfg.pwr ≠ 3) (hb : s.cfg.secBusy = false) : ∃ n, n ≠ s.cfg.nonce ∧ exec .release s =
    .next (s.secDone ((s.dropKeys s.keys).modCfg (fun c => { c with
      sec := 0, dbg := 0, keyPend := none, sealKey := none, enrolledHost := none, nonce := n })) 0) := by
  obtain ⟨-, -, hcfg⟩ := State.dropKeys_frame s.keys s
  obtain ⟨n, hn, he⟩ := ((s.dropKeys s.keys).modCfg (fun c =>
    { c with sec := 0, dbg := 0, keyPend := none, sealKey := none, enrolledHost := none })).newNonce_spec
  have hnonce : (s.dropKeys s.keys).cfg.nonce = s.cfg.nonce := congrArg Regs.nonce hcfg
  have hpwr : (s.dropKeys s.keys).cfg.pwr = s.cfg.pwr := congrArg Regs.pwr hcfg
  refine ⟨n, fun h => hn (h.trans hnonce.symm), ?_⟩
  have ht : s.secRelease.cfg.pwr = s.cfg.pwr := (congrArg (fun t : State => t.cfg.pwr) he).trans hpwr
  rw [exec_release, execRelease, State.writeSeccmd_ok (t := s.secRelease) hp hb (by decide) rfl ht]
  exact congrArg (fun t => Host.Outcome.next (s.secDone t 0)) he

/-! ### Attestation (R271) -/

section
variable {a : Nat}

theorem Memory.bytes_writeBytes {m : Memory} (hm : Memory.wf m = true) (a : Nat) (bs : List Byte) :
    Memory.bytes (Memory.writeBytes m a bs) a bs.length = bs := by
  induction bs generalizing m a with
  | nil => rfl
  | cons b bs ih =>
    have hw := Memory.wf_write hm a b
    rw [List.length_cons, Memory.bytes, Memory.writeBytes, ih hw, Memory.read_writeBytes_outside hw bs (by omega), Memory.read_write_same hm]

theorem Memory.bytes_writeBytes_of_length {m : Memory} (hm : Memory.wf m = true) {bs : List Byte} {n : Nat} (hn : bs.length = n) (a : Nat) :
    Memory.bytes (Memory.writeBytes m a bs) a n = bs := hn ▸ Memory.bytes_writeBytes hm a bs

@[simp] theorem Memory.length_bytes (m : Memory) (a n : Nat) : (Memory.bytes m a n).length = n := by
  induction n generalizing a with
  | zero => rfl
  | succ n ih => simp [Memory.bytes, ih]

@[simp] theorem length_bigBytes (n v : Nat) : (bigBytes n v).length = n := by simp [bigBytes]

theorem length_identitySign (tick : Nat) (msg : List Byte) : (identitySign tick msg).length = 96 := by
  unfold identitySign
  split
  · next g hg =>
    obtain ⟨i, -, hi⟩ := List.exists_of_findSome?_eq_some hg
    unfold ecdsaWith at hi
    split at hi
    · cases hi
    · dsimp only at hi
      obtain ⟨-, hi⟩ := Option.ite_none_left_eq_some.1 hi
      rw [← Option.some.inj hi]
      simp
  · simp

/-- The hash of the firmware that runs, as a report gives it. -/
def State.fwReport (s : State) : Nat :=
  match s.cfg.fwHash with
  | some h => h.toNat
  | none => sha384 (fwBytes (Config.flashImage 0))

/-- SECST depends on the boot's state and version and on the three levels alone. -/
theorem Regs.secst_congr {c d : Regs} (hboot : c.bootst = d.bootst) (hsvn : c.svn = d.svn) (hsec : c.sec = d.sec) (hdbg : c.dbg = d.dbg)
    (hpwr : c.pwr = d.pwr) : c.secst = d.secst := by
  simp only [Regs.secst, hboot, hsvn, hsec, hdbg, hpwr]

/-- What a report says before its signature: the part, its state once attested, its firmware, the sealing key, and the buffer's challenge. -/
def State.report (s : State) (a : Nat) : List Byte :=
  natBytes 8 s.ident.toNat ++ natBytes 8 ({ s.cfg with sec := 2 } : Regs).secst.toNat ++ bigBytes 48 s.fwReport ++
    bigBytes 48 (sha384 (s.cfg.sealKey.getD [])) ++ Memory.bytes s.mem a 48

theorem State.length_report : (s.report a).length = 160 := by simp [State.report]

/-- The part attested: its state, and the signed report in the buffer. -/
def State.attested (s : State) (a : Nat) : State :=
  { s.modCfg (fun c => { c with sec := 2 }) with
    mem := Memory.writeBytes s.mem (a + 0x40) (s.report a ++ identitySign s.tick (s.report a)) }

theorem State.secAttest_refused (h : s.cfg.sec = 0 ∨ s.cfg.dbg = 2 ∨ (s.cfg.sec = 1 ∧ s.cfg.dbg ≠ 0)) : s.secAttest a = .err 1 := by
  refine if_pos ?_
  rw [Bool.or_eq_true, Bool.or_eq_true, Bool.and_eq_true, beq_iff_eq, beq_iff_eq, beq_iff_eq, bne_iff_ne, or_assoc]
  exact h

theorem State.secAttest_signs (h : ¬ (s.cfg.sec = 0 ∨ s.cfg.dbg = 2 ∨ (s.cfg.sec = 1 ∧ s.cfg.dbg ≠ 0))) :
    s.secAttest a = if s.bufOk a 0x140 then .ok (s.attested a).newNonce else .err 5 := by
  have hgo : (s.cfg.sec == 0 || s.cfg.dbg == 2 || (s.cfg.sec == 1 && s.cfg.dbg != 0)) = false := by
    rw [Bool.eq_false_iff, ne_eq, Bool.or_eq_true, Bool.or_eq_true, Bool.and_eq_true, beq_iff_eq, beq_iff_eq, beq_iff_eq, bne_iff_ne, or_assoc]
    exact h
  unfold State.secAttest
  rw [hgo]
  cases s.bufOk a 0x140 <;> rfl

theorem execAttest_signs (hp : s.cfg.pwr ≠ 3) (hb : s.cfg.secBusy = false)
    (h : ¬ (s.cfg.sec = 0 ∨ s.cfg.dbg = 2 ∨ (s.cfg.sec = 1 ∧ s.cfg.dbg ≠ 0))) (hok : s.bufOk (s.cfg.secBuf.toNat * 64) 0x140 = true) :
    ∃ n, n ≠ s.cfg.nonce ∧ exec .attest s =
      .next (s.secDone ((s.attested (s.cfg.secBuf.toNat * 64)).modCfg (fun c => { c with nonce := n })) 0) := by
  obtain ⟨n, hn, he⟩ := (s.attested (s.cfg.secBuf.toNat * 64)).newNonce_spec
  refine ⟨n, hn, ?_⟩
  have hcmd : s.secCommand 2 0 s.cfg.secBuf s.cfg.devid.toNat = .ok ((s.attested (s.cfg.secBuf.toNat * 64)).modCfg (fun c => { c with nonce := n })) := by
    rw [← he]
    exact (State.secAttest_signs h).trans (if_pos hok)
  rw [exec_attest, execAttest, State.writeSeccmd_ok hp hb (by decide) hcmd rfl]

/-- The report as memory holds it, and every other byte. -/
theorem State.attested_mem (hc : s.canon = true) :
    Memory.bytes (s.attested a).mem (a + 0x40) 0x100 = s.report a ++ identitySign s.tick (s.report a) ∧
    ∀ b, b < a + 0x40 ∨ a + 0x140 ≤ b → Memory.read (s.attested a).mem b = Memory.read s.mem b := by
  have hlen : (s.report a ++ identitySign s.tick (s.report a)).length = 0x100 := by
    rw [List.length_append, State.length_report, length_identitySign]
  unfold State.attested
  generalize s.report a ++ identitySign s.tick (s.report a) = bs at hlen ⊢
  exact ⟨Memory.bytes_writeBytes_of_length (State.canon_mem hc) hlen _,
    fun b hb => Memory.read_writeBytes_outside (State.canon_mem hc) bs (by omega)⟩

end

/-! ### Power (R273 to R275) -/

section
variable (p : BitVec 2)

theorem secCommand_power (buf : BitVec 42) : s.secCommand 5 (p.setWidth 4) buf node = s.secPower p := by
  have hop : (5 : BitVec 4).toNat = 5 := rfl
  simp only [State.secCommand, hop, arg_high, arg_low]
  rfl

variable {p} (hp : s.cfg.pwr ≠ 3) (hb : s.cfg.secBusy = false)
include hp hb

theorem execPowerRequest_refused {e : BitVec 6} (h : s.secPower p = .err e) : exec (.powerRequest p) s = .next (s.secRefused e) := by
  rw [exec_powerRequest, execPowerRequest, State.writeSeccmd_err hp hb (by decide) ((secCommand_power p s.cfg.secBuf).trans h)]

theorem execPowerRequest_off : exec (.powerRequest 3) s = .next s.powerOff := by
  have hoff : s.secPower 3 = .ok s.powerOff := by
    have hne := BitVec.toNat_ne_iff_ne.2 hp
    unfold State.secPower
    split
    · contradiction
    · rfl
    all_goals contradiction
  rw [exec_powerRequest, execPowerRequest, State.writeSeccmd_command hp (by decide), hb, secCommand_power, hoff]
  rfl

theorem execPowerRequest_enters {x : BitVec 2} (h : s.secPower p = .ok (s.modCfg (fun c => { c with pwr := x }))) (hx : x ≠ 3) : ∃ busy,
    exec (.powerRequest p) s = .next (s.modCfg (fun c => { c with secArg := p.setWidth 4, secBusy := busy, pwr := x })) := by
  refine ⟨Config.freeBit s.tick 21, ?_⟩
  have hon : ((s.modCfg (fun c => { c with pwr := x })).cfg.pwr == 3) = false := beq_false_of_ne hx
  rw [exec_powerRequest, execPowerRequest, State.writeSeccmd_command hp (by decide), hb, secCommand_power, h]
  simp only [Bool.false_eq_true, if_false, hon]
  rfl

end

section
variable {x : BitVec 2}

/-- Only a doorbell or an I3C request leaves Retain. -/
theorem State.secPower_retained (h : s.cfg.pwr = 2) (hx : x ≠ 3) : s.secPower x = .err 1 := by
  have hne := BitVec.toNat_ne_iff_ne.2 hx
  unfold State.secPower
  rw [h]
  split <;> trivial

variable (hp : s.cfg.pwr ≠ 3)
include hp

theorem State.secPower_active : s.secPower 0 = .err 1 := by
  have hne := BitVec.toNat_ne_iff_ne.2 hp
  unfold State.secPower
  split <;> trivial

theorem State.secPower_idle (h : s.cfg.pwr ≠ 2) :
    s.secPower 1 = if s.noRegion then .ok (s.modCfg (fun c => { c with pwr := 1 })) else .err 1 := by
  have h3 := BitVec.toNat_ne_iff_ne.2 hp
  have h2 := BitVec.toNat_ne_iff_ne.2 h
  unfold State.secPower
  split <;> trivial

theorem State.secPower_retain (h : s.cfg.pwr ≠ 2) : s.secPower 2 =
    if s.noRegion && !s.cfg.ckptBusy && s.cfg.dbg != 2 then .ok (s.modCfg (fun c => { c with pwr := 2 })) else .err 1 := by
  have h3 := BitVec.toNat_ne_iff_ne.2 hp
  have h2 := BitVec.toNat_ne_iff_ne.2 h
  unfold State.secPower
  split <;> trivial

/-- What keeps the part out of Retain, from any state with the power on. -/
theorem State.secPower_retain_refused (h : s.noRegion = false ∨ s.cfg.ckptBusy = true ∨ s.cfg.dbg = 2) : s.secPower 2 = .err 1 := by
  by_cases hr : s.cfg.pwr = 2
  · exact State.secPower_retained hr (by decide)
  · rw [State.secPower_retain hp hr]
    rcases h with h | h | h <;> simp [h]

end

/-- Power-off, as R274 gives it: memory is the persistent memory of the tier alone. -/
theorem State.mem_powerOff {m : Nat × Byte} : m ∈ s.powerOff.mem → ∃ p, s.cfg.place m.1 = .tier p ∧ s.cfg.tierPersist.getLsbD p = true := by
  intro h
  have hk : s.cfg.persists m.1 = true := (List.mem_filter.1 h).2
  unfold Regs.persists at hk
  split at hk
  · next p hplace => exact ⟨p, hplace, hk⟩
  · contradiction

/-- Where every write is durable, persistent memory is as it was. -/
theorem State.mem_powerOff_of_persistent (hf : s.fresh = []) {m : Nat × Byte} {p : Nat} (hm : m ∈ s.mem) (hplace : s.cfg.place m.1 = .tier p)
    (hk : s.cfg.tierPersist.getLsbD p = true) : m ∈ s.powerOff.mem := by
  have hpers : s.cfg.persists m.1 = true := by rw [Regs.persists, hplace]; exact hk
  have hmem : s.powerOff.mem = s.mem.filter (fun c => s.cfg.persists c.1) := by
    show s.persistent = _
    rw [State.persistent, hf]
    rfl
  exact hmem ▸ List.mem_filter.2 ⟨hm, hpers⟩

/-- What the ROM finds in flash decides where the boot goes. -/
theorem State.powerOn_boots : ∃ boot n h up, s.powerOn = s.unpowered { s.cfg.rebooted with
      bootst := boot, nonce := n, fwHash := h, tierUp := s.cfg.tierPop &&& up } ∧
    (boot = 0 ∧ h.isSome = true ∨ boot = 1 ∧ h = none) := by
  refine ⟨_, _, _, _, rfl, ?_⟩
  cases fwOk s.cfg.svn (Config.flashImage s.tick)
  · exact .inr ⟨rfl, rfl⟩
  · exact .inl ⟨rfl, rfl⟩

/-! ### Recovery (R267) -/

theorem fwOk_short {svn : BitVec 8} {bs : List Byte} (h : bs.length < 112) : fwOk svn bs = false := by
  rw [Bool.eq_false_iff]
  intro hok
  simp only [fwOk, Bool.and_eq_true, decide_eq_true_eq] at hok
  omega

section
variable {a : BitVec 58}

theorem State.recover_ignored (h : ¬ (a ≠ 0 ∧ (s.cfg.bootst = 1 ∨ s.cfg.bootst = 2))) :
    s.recover a = s.modCfg (fun c => { c with recovAddr := a }) := by
  refine if_pos ?_
  rw [Bool.or_eq_true, Bool.and_eq_true, beq_iff_eq, bne_iff_ne, bne_iff_ne]
  tauto

/-- The image that RECOVADDR names is taken, or the ROM waits on. -/
def State.recovered (s : State) (a : BitVec 58) (h : Option (BitVec 384)) : State :=
  s.modCfg (fun c => match h with
    | some h => { c with recovAddr := a, bootst := 3, fwHash := some h }
    | none => { c with recovAddr := a, bootst := 2 })

variable (hw : a ≠ 0 ∧ (s.cfg.bootst = 1 ∨ s.cfg.bootst = 2))
include hw

theorem State.recover_waits : (a == 0 || (s.cfg.bootst != 1 && s.cfg.bootst != 2)) = false := by
  rw [Bool.eq_false_iff, ne_eq, Bool.or_eq_true, Bool.and_eq_true, beq_iff_eq, bne_iff_ne, bne_iff_ne]
  tauto

theorem State.recover_own (hd : a.extractLsb' 48 10 = s.cfg.devid) : let pa := (a.extractLsb' 0 48).toNat
    let len := Memory.readLE s.mem (pa + 8) 8 % 2 ^ 32
    let img := Memory.bytes s.mem pa len
    s.recover a = s.recovered a
      (if !s.memFaults pa (max len 16) false && fwOk s.cfg.svn img then some (BitVec.ofNat 384 (sha384 img)) else none) := by
  simp only [State.recover, State.recover_waits hw, hd, beq_self_eq_true, if_true, Bool.false_eq_true, if_false]
  split <;> rfl

/-- What another node's memory holds is free. -/
theorem State.recover_other (hd : a.extractLsb' 48 10 ≠ s.cfg.devid) : ∃ h, s.recover a = s.recovered a h := by
  simp only [State.recover, State.recover_waits hw, beq_false_of_ne hd, Bool.false_eq_true, if_false]
  cases Config.freeBit s.tick 14
  · exact ⟨none, rfl⟩
  · exact ⟨some _, rfl⟩

end

/-! ### The management controller (R273, R275) -/

theorem State.i3cWake_retained (h : s.cfg.pwr = 2) : s.i3cWake = s.modCfg (fun c => { c with pwr := 1 }) := by
  rw [State.i3cWake, h]
  rfl

theorem State.i3cWake_awake (h : s.cfg.pwr ≠ 2) : s.i3cWake = s := by
  rw [State.i3cWake, beq_false_of_ne h]
  rfl

theorem execI3cCapWrite_writes (hp : s.cfg.pwr ≠ 3) (cap : BitVec 16) : exec (.i3cCapWrite cap) s = .next (s.modCfg (fun c => { c with
    pwr := if c.pwr = 2 then 1 else c.pwr, powerCap := BitVec.ofNat 16 (max 800 (min 3200 cap.toNat)) })) := by
  rw [exec_i3cCapWrite, execI3cCapWrite, State.pwr_beq_off hp, ← clampCap_eq]
  by_cases h : s.cfg.pwr = 2
  · simp only [State.i3cWake_retained h, State.modCfg, h, if_true, Bool.false_eq_true, if_false]
  · simp only [State.i3cWake_awake h, State.modCfg, h, Bool.false_eq_true, if_false]


/-! ### The obligation (O42) -/

theorem secCommand_enrol (buf : BitVec 42) : s.secCommand 1 0 buf node = s.secEnrol node (buf.toNat * 64) := rfl

theorem secCommand_attest (buf : BitVec 42) : s.secCommand 2 0 buf node = s.secAttest (buf.toNat * 64) := rfl

theorem execEnrol_refused (hp : s.cfg.pwr ≠ 3) (hb : s.cfg.secBusy = false) {e : BitVec 6}
    (h : s.secEnrol node (s.cfg.secBuf.toNat * 64) = .err e) : exec (.enrol node) s = .next (s.secRefused e) := by
  rw [exec_enrol, execEnrol, State.writeSeccmd_err hp hb (by decide) ((secCommand_enrol s.cfg.secBuf).trans h)]

theorem execEnrol_enrols (hp : s.cfg.pwr ≠ 3) (hb : s.cfg.secBusy = false) (hs : s.cfg.sec = 0) (hd : s.cfg.dbg = 0)
    (hok : s.bufOk (s.cfg.secBuf.toNat * 64) 96 = true) : ∃ busy, exec (.enrol node) s = .next (s.modCfg (fun c => { c with
      secArg := 0, secBusy := busy, sec := 1, sealKey := some (Memory.bytes s.mem (s.cfg.secBuf.toNat * 64) 96), enrolledHost := some node })) := by
  refine ⟨Config.freeBit s.tick 21, ?_⟩
  have hcmd := (secCommand_enrol (node := node) s.cfg.secBuf).trans ((State.secEnrol_open hs hd).trans (if_pos hok))
  rw [exec_enrol, execEnrol, State.writeSeccmd_ok hp hb (by decide) hcmd rfl]
  rfl

theorem execAttest_refused (hp : s.cfg.pwr ≠ 3) (hb : s.cfg.secBusy = false) {e : BitVec 6}
    (h : s.secAttest (s.cfg.secBuf.toNat * 64) = .err e) : exec .attest s = .next (s.secRefused e) := by
  rw [exec_attest, execAttest, State.writeSeccmd_err hp hb (by decide) ((secCommand_attest s.cfg.secBuf).trans h)]

/-- Every security command, with the power off. -/
theorem securityCommands_off (hp : s.cfg.pwr = 3) : (∀ node, exec (.enrol node) s = .next s) ∧ exec .attest s = .next s ∧
    (∀ l, exec (.setDebug l) s = .next s) ∧ exec .release s = .next s ∧ (∀ p, exec (.powerRequest p) s = .next s) := by
  simp only [exec_enrol, execEnrol, exec_attest, execAttest, exec_setDebug, execSetDebug, exec_release, execRelease, exec_powerRequest,
    execPowerRequest, State.writeSeccmd_off hp, implies_true, and_self]

/-- Every security command while another runs: code 4 (R269). -/
theorem securityCommands_busy (hp : s.cfg.pwr ≠ 3) (hb : s.cfg.secBusy = true) : (∀ node, exec (.enrol node) s = .next (s.secRefused 4)) ∧
    exec .attest s = .next (s.secRefused 4) ∧ (∀ l, exec (.setDebug l) s = .next (s.secRefused 4)) ∧
    exec .release s = .next (s.secRefused 4) ∧ (∀ p, exec (.powerRequest p) s = .next (s.secRefused 4)) := by
  have hrefused (op arg : BitVec 4) (node : Nat) (ho : op ≠ 0) : (s.writeSeccmd (secWord s op arg) node).1 = s.secRefused 4 :=
    State.writeSeccmd_busy hp ho hb
  simp (disch := decide) only [exec_enrol, execEnrol, exec_attest, execAttest, exec_setDebug, execSetDebug, exec_release, execRelease, exec_powerRequest,
    execPowerRequest, hrefused, implies_true, and_self]


section
variable (hp : s.cfg.pwr ≠ 3) (hb : s.cfg.secBusy = false)
include hp hb

theorem execSetDebug_3 : exec (.setDebug 3) s = .next (s.secRefused 5) := execSetDebug_refused hp hb rfl

/-- A signed report (R271): the state it leaves, its bytes in the buffer, and what it does not touch. -/
theorem execAttest_reports (h : ¬ (s.cfg.sec = 0 ∨ s.cfg.dbg = 2 ∨ (s.cfg.sec = 1 ∧ s.cfg.dbg ≠ 0)))
    (hok : s.bufOk (s.cfg.secBuf.toNat * 64) 0x140 = true) : let c := s.cfg
    let a := c.secBuf.toNat * 64
    ∃ t sig, exec .attest s = .next t ∧ t.cfg.sec = 2 ∧ t.cfg.dbg = c.dbg ∧ t.cfg.nonce ≠ c.nonce ∧
      t.tiles = s.tiles ∧ t.keys = s.keys ∧ t.regions = s.regions ∧ t.chans = s.chans ∧
      (∀ h, s.canon = true → c.fwHash = some h → sig.length = 96 ∧ Memory.bytes t.mem (a + 0x40) 0x100 = natBytes 8 s.ident.toNat ++
        natBytes 8 t.cfg.secst.toNat ++ bigBytes 48 h.toNat ++ bigBytes 48 (sha384 (c.sealKey.getD [])) ++ Memory.bytes s.mem a 48 ++ sig) ∧
      (s.canon = true → ∀ b, b < a + 0x40 ∨ a + 0x140 ≤ b → Memory.read t.mem b = Memory.read s.mem b) := by
  dsimp only
  obtain ⟨n, hn, he⟩ := execAttest_signs hp hb h hok
  generalize s.cfg.secBuf.toNat * 64 = a at he ⊢
  refine ⟨_, identitySign s.tick (s.report a), he, rfl, rfl, hn, rfl, rfl, rfl, rfl, fun fw hc hfw => ?_, fun hc => ?_⟩
  · obtain ⟨hbytes, -⟩ := State.attested_mem (a := a) hc
    have hlen := length_identitySign s.tick (s.report a)
    generalize identitySign s.tick (s.report a) = sig at hbytes hlen ⊢
    have hfw' : s.fwReport = fw.toNat := by rw [State.fwReport, hfw]
    have hst : (s.secDone ((s.attested a).modCfg (fun c => { c with nonce := n })) 0).cfg.secst = ({ s.cfg with sec := 2 } : Regs).secst :=
      Regs.secst_congr rfl rfl rfl rfl rfl
    rw [State.secDone_mem, State.modCfg_mem, hst, hbytes, State.report, hfw']
    exact ⟨hlen, rfl⟩
  · obtain ⟨-, hout⟩ := State.attested_mem (a := a) hc
    rw [State.secDone_mem, State.modCfg_mem]
    exact hout

/-- A release: no key, no seal and no host are left, and memory and tiles are untouched. -/
theorem execRelease_clears : ∃ t, exec .release s = .next t ∧ t.cfg.sec = 0 ∧ t.cfg.dbg = 0 ∧ t.cfg.sealKey = none ∧
    t.cfg.enrolledHost = none ∧ t.cfg.keyPend = none ∧ t.cfg.nonce ≠ s.cfg.nonce ∧ t.mem = s.mem ∧ t.tiles = s.tiles ∧
    (s.canon = true → ∀ k : BitVec 12, SMap.look t.keys k.toNat = none) := by
  obtain ⟨hmem, htiles, -⟩ := State.dropKeys_frame s.keys s
  obtain ⟨n, hn, he⟩ := execRelease_releases hp hb
  exact ⟨_, he, rfl, rfl, rfl, rfl, rfl, hn, hmem, htiles, fun _ k => State.look_dropKeys_self rfl k.isLt⟩

/-- Every power request but the one to Off. -/
theorem execPowerRequest_cases : exec (.powerRequest 0) s = .next (s.secRefused 1) ∧
    (s.cfg.pwr = 2 → exec (.powerRequest 1) s = .next (s.secRefused 1) ∧ exec (.powerRequest 2) s = .next (s.secRefused 1)) ∧
    (s.cfg.pwr ≠ 2 → s.noRegion = true → ∃ busy, exec (.powerRequest 1) s =
      .next (s.modCfg (fun c => { c with secArg := 1, secBusy := busy, pwr := 1 }))) ∧
    (s.cfg.pwr ≠ 2 → s.noRegion = false → exec (.powerRequest 1) s = .next (s.secRefused 1)) ∧
    (s.cfg.pwr ≠ 2 → s.noRegion = true → s.cfg.ckptBusy = false → s.cfg.dbg ≠ 2 → ∃ busy, exec (.powerRequest 2) s =
      .next (s.modCfg (fun c => { c with secArg := 2, secBusy := busy, pwr := 2 }))) ∧
    (s.noRegion = false ∨ s.cfg.ckptBusy = true ∨ s.cfg.dbg = 2 → exec (.powerRequest 2) s = .next (s.secRefused 1)) := by
  have hrefused {p : BitVec 2} (h : s.secPower p = .err 1) := execPowerRequest_refused hp hb h
  refine ⟨hrefused (State.secPower_active hp),
    fun h => ⟨hrefused (State.secPower_retained h (by decide)), hrefused (State.secPower_retained h (by decide))⟩,
    fun h hr => execPowerRequest_enters hp hb ((State.secPower_idle hp h).trans (if_pos hr)) (by decide),
    fun h hr => hrefused ?_, fun h hr hk hd => execPowerRequest_enters hp hb ?_ (by decide),
    fun h => hrefused (State.secPower_retain_refused hp h)⟩
  · rw [State.secPower_idle hp h, hr]
    rfl
  · rw [State.secPower_retain hp h, hr, hk, bne_iff_ne.2 hd]
    rfl

end

/-- What recovery does with the image of RECOVADDR. -/
theorem execRecoveryLoad_cases (a : BitVec 58) : let waits := a ≠ 0 ∧ (s.cfg.bootst = 1 ∨ s.cfg.bootst = 2)
    let ok (h : BitVec 384) : Host.Outcome State Fault Refusal := .next (s.recovered a (some h))
    let bad : Host.Outcome State Fault Refusal := .next (s.recovered a none)
    (¬ waits → exec (.recoveryLoad a) s = .next (s.modCfg (fun c => { c with recovAddr := a }))) ∧
    (waits → a.extractLsb' 48 10 = s.cfg.devid → let pa := (a.extractLsb' 0 48).toNat
      let len := Memory.readLE s.mem (pa + 8) 8 % 2 ^ 32
      let img := Memory.bytes s.mem pa len
      (s.memFaults pa (max len 16) false = false → fwOk s.cfg.svn img = true →
        exec (.recoveryLoad a) s = ok (BitVec.ofNat 384 (sha384 img))) ∧
      (len < 112 ∨ s.memFaults pa (max len 16) false = true ∨ fwOk s.cfg.svn img = false → exec (.recoveryLoad a) s = bad)) ∧
    (waits → a.extractLsb' 48 10 ≠ s.cfg.devid → exec (.recoveryLoad a) s = bad ∨ ∃ h, exec (.recoveryLoad a) s = ok h) := by
  simp only [exec_recoveryLoad, execRecoveryLoad]
  refine ⟨fun hw => by rw [State.recover_ignored hw], fun hw hd => ?_, fun hw hd => ?_⟩
  · rw [State.recover_own hw hd]
    refine ⟨fun hm hok => by simp only [hm, hok, Bool.not_false, Bool.and_self, if_true], fun hno => ?_⟩
    rcases hno with hshort | hm | hbad
    · have hlen := fwOk_short (svn := s.cfg.svn) (bs := Memory.bytes s.mem (a.extractLsb' 0 48).toNat
        (Memory.readLE s.mem ((a.extractLsb' 0 48).toNat + 8) 8 % 2 ^ 32)) (by rwa [Memory.length_bytes])
      simp only [hlen, Bool.and_false, Bool.false_eq_true, if_false]
    · simp only [hm, Bool.not_true, Bool.false_and, Bool.false_eq_true, if_false]
    · simp only [hbad, Bool.and_false, Bool.false_eq_true, if_false]
  · obtain ⟨h, he⟩ := State.recover_other hw hd
    rw [he]
    cases h with
    | none => exact .inl rfl
    | some h => exact .inr ⟨h, rfl⟩

/-- Settles O42: each command of SECCMD refused or done by the rule of its operation; power, recovery and the management controller by their own. -/
theorem securityAndPowerEvents : Obligations.SecurityAndPowerEvents := by
  unfold Obligations.SecurityAndPowerEvents
  refine ⟨fun s => ⟨securityCommands_off, securityCommands_busy, fun hp hb => ⟨?_, ?_, ?_, ?_, ?_, ?_, ?_⟩⟩, fun s => ?_, fun s => ?_,
    fun s a => execRecoveryLoad_cases a, fun s cap => ?_⟩
  · exact fun _ hs hd hok => execEnrol_enrols hp hb hs hd hok
  · exact fun _ hs hd hok => execEnrol_refused hp hb (by rw [State.secEnrol_open hs hd, hok]; rfl)
  · exact fun _ h => execEnrol_refused hp hb (State.secEnrol_refuses h)
  · exact fun h => execAttest_refused hp hb (State.secAttest_refused h)
  · exact fun h => ⟨fun hok => execAttest_refused hp hb (by rw [State.secAttest_signs h, hok]; rfl), execAttest_reports hp hb h⟩
  · intro lvl hl
    have hallowed := execSetDebug_allowed (lvl := lvl) hp hb
    have hrefused {e : BitVec 6} := execSetDebug_refused (lvl := lvl) hp hb (e := e)
    refine ⟨fun h => hallowed (State.secDebug_free hl h), fun h => hrefused (State.secDebug_refused hl h),
      fun h hd => hallowed (State.secDebug_lower hl h hd), fun h hd => ⟨fun hbad => hrefused (State.secDebug_malformed hl h hd hbad),
        fun hok hshape => ⟨fun hs => hrefused (State.secDebug_unsealed hl h hd hok hshape hs), fun hs hn => ?_, fun hs hn => ?_⟩⟩⟩
    · exact hrefused ((State.secDebug_sealed hl h hd hok hshape hs).trans (if_pos hn))
    · exact hallowed ((State.secDebug_sealed hl h hd hok hshape hs).trans (if_neg (not_not.2 hn)))
  · obtain ⟨h0, hret, h1, h1', h2, h2'⟩ := execPowerRequest_cases hp hb
    exact ⟨execSetDebug_3 hp hb, execRelease_clears hp hb, h0, hret, h1, h1', h2, h2', execPowerRequest_off hp hb⟩
  · exact ⟨rfl, rfl, rfl, rfl, rfl, rfl, rfl, rfl, fun _ => State.mem_powerOff, fun hf _ _ => State.mem_powerOff_of_persistent hf⟩
  · obtain ⟨boot, n, h, up, he, hboot⟩ := s.powerOn_boots
    exact ⟨boot, n, h, up, congrArg Host.Outcome.next he, hboot⟩
  · refine ⟨fun hp => execI3cCapWrite_writes hp cap, fun hp => ?_, fun hp => ?_, fun hp => ?_⟩
    · rw [exec_i3cCapWrite, execI3cCapWrite, hp]
      rfl
    · rw [exec_i3cWake, execI3cWake, State.i3cWake_retained hp]
    · rw [exec_i3cWake, execI3cWake, State.i3cWake_awake hp]

end
end Sys2Proof.Machine
end

section
/-! SUPPORT. The debugger: the command register DBGCMD, and the end of a halt (O46). -/
namespace Sys2Proof.Machine

/-! ### A region that is listed -/

section
variable {s : State} {r : Nat} {x : Region}

theorem SMap.find?_of_look {α : Type} {m : SMap α} {n : Nat} {v : α} (h : m.look n = some v) :
    List.find? (fun x => x.1 == n) m = some (n, v) := by
  induction m with
  | nil => cases h
  | cons y m ih =>
    obtain ⟨a, b⟩ := y
    simp only [SMap.look] at h
    split at h
    · next e => subst e; cases h; simp
    · next hne =>
      split at h
      · cases h
      · simp [Ne.symm hne, ih h]

theorem State.modRegion_listed (hr : s.region? r = some x) (f : Region → Region) :
    s.modRegion r f = { s with regions := s.regions.insert r (f x) } := by
  simp only [State.modRegion, SMap.find?_of_look hr]

theorem State.modRegion_fixed (hr : s.region? r = some x) {f : Region → Region} (hf : f x = x) : s.modRegion r f = s := by
  rw [State.modRegion_listed hr, hf, SMap.insert_listed hr]

end

/-! ### The word of a debugger command (R246) -/

section
variable (op : BitVec 4) (sp : BitVec 3) (t : Nat) (a : BitVec 21)

theorem dbgWord_op : (dbgWord op sp t a).extractLsb' 53 4 = op := by
  unfold dbgWord
  simp (disch := decide) only [BitVec.extractLsb'_append_eq_of_le, BitVec.extractLsb'_append_eq_of_add_le]
  simp

theorem dbgWord_space : (dbgWord op sp t a).extractLsb' 50 3 = sp := by
  unfold dbgWord
  simp (disch := decide) only [BitVec.extractLsb'_append_eq_of_le, BitVec.extractLsb'_append_eq_of_add_le]
  simp

theorem dbgWord_tile : (dbgWord op sp t a).extractLsb' 40 10 = BitVec.ofNat 10 t := by
  unfold dbgWord
  simp (disch := decide) only [BitVec.extractLsb'_append_eq_of_le, BitVec.extractLsb'_append_eq_of_add_le]
  simp

theorem dbgWord_addr : (dbgWord op sp t a).extractLsb' 0 21 = a := by
  unfold dbgWord
  simp (disch := decide) only [BitVec.extractLsb'_append_eq_of_add_le]
  simp

/-- Bit 62, which clears ERR, lies in the zero bits above OP. -/
theorem dbgWord_err : (dbgWord op sp t a).getLsbD 62 = false := by
  simp only [dbgWord, BitVec.getLsbD_append]
  rfl

end

/-! ### Commands of DBGCMD -/

/-- A command done, with what DBGCMD then names. -/
def State.dbgDone (s : State) (r : Nat) (sp : BitVec 3) (t : Nat) (a : BitVec 21) : State :=
  s.modRegion r (fun x => { x with dbgSpace := sp, dbgTile := BitVec.ofNat 10 t, dbgAddr := a })

/-- A command refused. -/
def State.dbgRefused (s : State) (r : Nat) : State := s.modRegion r (fun x => { x with dbgErr := true })

section
variable {s : State} {r : Nat} {x : Region}

/-- What the two answers to a command leave. -/
theorem State.writeDbgcmd_command (hr : s.region? r = some x) {op : BitVec 4} (ho : op ≠ 0) (sp : BitVec 3) (t : Nat) (a : BitVec 21) :
    (s.writeDbgcmd r (dbgWord op sp t a)).1 = match s.dbgCommand r x op sp (BitVec.ofNat 10 t).toNat a.toNat with
      | some s2 => s2.dbgDone r sp t a
      | none => s.dbgRefused r := by
  have hs : s.modRegion r (fun x => { x with dbgErr := x.dbgErr && !(dbgWord op sp t a).getLsbD 62 }) = s :=
    State.modRegion_fixed hr (by rw [dbgWord_err, Bool.not_false, Bool.and_true])
  simp only [State.writeDbgcmd, hs, hr, dbgWord_op, dbgWord_space, dbgWord_tile, dbgWord_addr, beq_false_of_ne ho, Bool.false_eq_true, if_false]
  cases s.dbgCommand r x op sp (BitVec.ofNat 10 t).toNat a.toNat <;> rfl

section
variable {op : BitVec 4} {sp : BitVec 3} {t a : Nat}

/-- What refuses every command: no Control level, the space that is none, or a command that runs. -/
theorem State.dbgCommand_barred (h : s.dbgControl = false ∨ sp = 7 ∨ x.dbgBusy = true) : s.dbgCommand r x op sp t a = none := by
  refine if_pos ?_
  rw [Bool.or_eq_true, Bool.or_eq_true, Bool.not_eq_true', beq_iff_eq, or_assoc]
  exact h

/-- Only a halt acts on a region that is not halted (R246, R248). -/
theorem State.dbgCommand_unhalted (h : x.halt ≠ .halted) (ho : op ≠ 1) : s.dbgCommand r x op sp t a = none := by
  have hne := BitVec.toNat_ne_iff_ne.2 ho
  simp only [State.dbgCommand, beq_false_of_ne h, Bool.not_false, Bool.true_or, if_true]
  split
  · rfl
  · split <;> trivial

theorem Region.dbgBusy_halted (h : x.halt = .halted) : x.dbgBusy = false := by simp [Region.dbgBusy, h]

variable (hc : s.dbgControl = true)
include hc

section
variable (hs : sp ≠ 7)
include hs

theorem State.dbgCommand_allowed (hb : x.dbgBusy = false) : (!s.dbgControl || sp == 7 || x.dbgBusy) = false := by
  rw [hc, beq_false_of_ne hs, hb]
  rfl

theorem State.dbgCommand_halt (hb : x.dbgBusy = false) (hh : x.halt ≠ .halted) (hst : x.st = .running ∨ x.st = .complete) :
    s.dbgCommand r x 1 sp t a = some (s.halt r .none 0xFF) := by
  simp only [State.dbgCommand, State.dbgCommand_allowed hc hs hb, beq_false_of_ne hh, Bool.false_eq_true, if_false]
  refine if_neg ?_
  rcases hst with hst | hst <;> simp [hst]

theorem State.dbgCommand_halt_idle (hst : x.st ≠ .running ∧ x.st ≠ .complete) : s.dbgCommand r x 1 sp t a = none := by
  obtain ⟨hrun, hcom⟩ := hst
  cases hb : x.dbgBusy with
  | true => exact State.dbgCommand_barred (.inr (.inr hb))
  | false =>
    simp only [State.dbgCommand, State.dbgCommand_allowed hc hs hb, beq_false_of_ne hrun, beq_false_of_ne hcom, Bool.false_eq_true, if_false]
    exact if_pos (by simp)

variable (hh : x.halt = .halted)
include hh

theorem State.dbgCommand_halted_halt : s.dbgCommand r x 1 sp t a = none := by
  simp only [State.dbgCommand, State.dbgCommand_allowed hc hs (Region.dbgBusy_halted hh), hh, Bool.false_eq_true, if_false]
  rfl

theorem State.dbgCommand_resume : s.dbgCommand r x 2 sp t a = some (s.modRegion r (fun x => x.goOn .none)) := by
  simp only [State.dbgCommand, State.dbgCommand_allowed hc hs (Region.dbgBusy_halted hh), hh, Bool.false_eq_true, if_false]
  rfl

theorem State.dbgCommand_step : s.dbgCommand r x 3 sp t a = some (s.modRegion r (fun x => x.goOn .stepping)) := by
  simp only [State.dbgCommand, State.dbgCommand_allowed hc hs (Region.dbgBusy_halted hh), hh, Bool.false_eq_true, if_false]
  rfl

theorem State.dbgCommand_read (ht : x.tiles.contains t = true) : s.dbgCommand r x 4 sp t a = (s.dbgPlace sp t a).map (fun p =>
    s.modRegion r (fun x => { x with dbgData := (s.dbgGet t p).1, dbgErr := x.dbgErr || (s.dbgGet t p).2 })) := by
  simp only [State.dbgCommand, State.dbgCommand_allowed hc hs (Region.dbgBusy_halted hh), hh, ht, Bool.false_eq_true, if_false]
  cases s.dbgPlace sp t a <;> rfl

theorem State.dbgCommand_write (ht : x.tiles.contains t = true) :
    s.dbgCommand r x 5 sp t a = (s.dbgPlace sp t a).map (fun p => s.dbgPut t p x.dbgData) := by
  simp only [State.dbgCommand, State.dbgCommand_allowed hc hs (Region.dbgBusy_halted hh), hh, ht, Bool.false_eq_true, if_false]
  rfl

/-- A tile that the region does not hold. -/
theorem State.dbgCommand_outside (ht : x.tiles.contains t = false) : s.dbgCommand r x 4 sp t a = none ∧ s.dbgCommand r x 5 sp t a = none := by
  simp only [State.dbgCommand, State.dbgCommand_allowed hc hs (Region.dbgBusy_halted hh), hh, ht, Bool.false_eq_true, if_false]
  exact ⟨rfl, rfl⟩

end

/-- A read or a write that no place answers to. -/
theorem State.dbgCommand_nowhere (hh : x.halt = .halted) (h : sp = 7 ∨ x.tiles.contains t = false ∨ s.dbgPlace sp t a = none) :
    s.dbgCommand r x 4 sp t a = none ∧ s.dbgCommand r x 5 sp t a = none := by
  by_cases hs : sp = 7
  · exact ⟨State.dbgCommand_barred (.inr (.inl hs)), State.dbgCommand_barred (.inr (.inl hs))⟩
  · cases ht : x.tiles.contains t with
    | false => exact State.dbgCommand_outside hc hs hh ht
    | true =>
      have hp : s.dbgPlace sp t a = none := by
        rcases h with h | h | h
        · exact absurd h hs
        · exact absurd (ht.symm.trans h) (by decide)
        · exact h
      rw [State.dbgCommand_read hc hs hh ht, State.dbgCommand_write hc hs hh ht, hp]
      exact ⟨rfl, rfl⟩

end

/-! ### The debugger's events -/

variable (hr : s.region? r = some x)
include hr

theorem State.writeDbgcmd_done {op : BitVec 4} (ho : op ≠ 0) {sp : BitVec 3} {t : Nat} {a : BitVec 21} {s' : State}
    (h : s.dbgCommand r x op sp (BitVec.ofNat 10 t).toNat a.toNat = some s') :
    (.next (s.writeDbgcmd r (dbgWord op sp t a)).1 : Host.Outcome State Fault Refusal) = .next (s'.dbgDone r sp t a) := by
  rw [State.writeDbgcmd_command hr ho, h]

theorem State.writeDbgcmd_refused {op : BitVec 4} (ho : op ≠ 0) {sp : BitVec 3} {t : Nat} {a : BitVec 21}
    (h : s.dbgCommand r x op sp (BitVec.ofNat 10 t).toNat a.toNat = none) :
    (.next (s.writeDbgcmd r (dbgWord op sp t a)).1 : Host.Outcome State Fault Refusal) = .next (s.dbgRefused r) := by
  rw [State.writeDbgcmd_command hr ho, h]

/-- A halt is complete: its records are written once all that was issued has completed (R245). -/
theorem execHaltComplete_eq : exec (.haltComplete r) s = if x.halt == .halting && s.settled x then
    .next (x.hits.foldl (fun s h => s.debugStop r h) (s.modRegion r (fun x => { x with halt := .halted }))) else .next s := by
  simp only [exec_haltComplete, execHaltComplete, hr]

end

/-- Settles O46: each command of DBGCMD, on a region that is halted, not halted or without Control. -/
theorem debuggerEvents : Obligations.DebuggerEvents := by
  unfold Obligations.DebuggerEvents
  intro s r x hr
  simp only [exec_dbgHalt, execDbgHalt, exec_dbgResume, execDbgResume, exec_dbgStep, execDbgStep, exec_dbgRead, execDbgRead, exec_dbgWrite,
    execDbgWrite]
  have hnum {t : Nat} (ht : t < 1024) : (BitVec.ofNat 10 t).toNat = t := by simpa using ht
  refine ⟨fun hc hh hb hst => ?_, fun hc hh => ⟨?_, ?_, ?_, fun sp t a p hs ht htile hp => ⟨?_, ?_⟩, fun sp t a ht h => ?_⟩, fun h => ?_,
    fun h => ?_, fun hh hset => ?_, fun h => ?_⟩
  · exact State.writeDbgcmd_done hr (by decide) (State.dbgCommand_halt hc (by decide) hb hh hst)
  · exact State.writeDbgcmd_refused hr (by decide) (State.dbgCommand_halted_halt hc (by decide) hh)
  · exact State.writeDbgcmd_done hr (by decide) (State.dbgCommand_resume hc (by decide) hh)
  · exact State.writeDbgcmd_done hr (by decide) (State.dbgCommand_step hc (by decide) hh)
  · exact State.writeDbgcmd_done hr (by decide) (by rw [hnum ht, State.dbgCommand_read hc hs hh htile, hp, Option.map_some])
  · exact State.writeDbgcmd_done hr (by decide) (by rw [hnum ht, State.dbgCommand_write hc hs hh htile, hp, Option.map_some])
  · obtain ⟨hread, hwrite⟩ := State.dbgCommand_nowhere (r := r) hc hh h
    exact ⟨State.writeDbgcmd_refused hr (by decide) (by rwa [hnum ht]), State.writeDbgcmd_refused hr (by decide) (by rwa [hnum ht])⟩
  · have hnone {op : BitVec 4} {sp : BitVec 3} {t a : Nat} (ho : op ≠ 1) : s.dbgCommand r x op sp t a = none := by
      rcases h with hc | hh
      · exact State.dbgCommand_barred (.inl hc)
      · exact State.dbgCommand_unhalted hh ho
    exact ⟨fun sp t a => ⟨State.writeDbgcmd_refused hr (by decide) (hnone (by decide)), State.writeDbgcmd_refused hr (by decide) (hnone (by decide))⟩,
      State.writeDbgcmd_refused hr (by decide) (hnone (by decide)), State.writeDbgcmd_refused hr (by decide) (hnone (by decide))⟩
  · refine State.writeDbgcmd_refused hr (by decide) ?_
    rcases h with hc | hb | hst
    · exact State.dbgCommand_barred (.inl hc)
    · exact State.dbgCommand_barred (.inr (.inr hb))
    · cases hc : s.dbgControl with
      | false => exact State.dbgCommand_barred (.inl hc)
      | true => exact State.dbgCommand_halt_idle hc (by decide) hst
  · rw [execHaltComplete_eq hr, hh, hset]
    rfl
  · rw [execHaltComplete_eq hr]
    refine if_neg ?_
    rw [Bool.and_eq_true, beq_iff_eq]
    rintro ⟨hh, hset⟩
    rcases h with h | h
    · exact h hh
    · exact Bool.false_ne_true (h.symm.trans hset)

end Sys2Proof.Machine
end
